-- ==== Sys2Proof/Word.lean ====
section
/-! DEFINITION. The word types of the device and their plainest arithmetic (R9, R10, R34, R130). -/

namespace Sys2Proof

/-- One byte. -/
abbrev Byte := BitVec 8

/-- A 32-bit register or scalar (R232). -/
abbrev Word := BitVec 32

/-- A tile ID: field in [15:10], row in [9:5], column in [4:0] (R18). -/
abbrev TileId := BitVec 16

/-- One parcel or storage line of 72 bytes, byte i in bits [8i+7:8i] (R34, R9). -/
abbrev Line := BitVec 576

/-- A 16-byte envelope (R130). -/
abbrev Env := BitVec 128

/-- A 64-bit postcard (R155). -/
abbrev Card := BitVec 64

/-- Accumulator value ACC40 (R71). -/
abbrev Acc40 := BitVec 40

end Sys2Proof
end

