-- ==== Sys2Proof/Syntax.lean ====
section
/-! DEFINITION. The commands of the block: one constructor per row of opcode_table.json, with the row's operands.
Tile instructions carry the tile that issues them and the fields of their encoding (R239 to R263). -/

namespace Sys2Proof

/-- A port of a router (R128, R162). -/
inductive Port where
  | loc | north | east | south | west
  deriving DecidableEq, Repr

/-- Bank collision of one cycle (R125, R127): memory, kind and line as TS_CONFLICT_LAST codes them. -/
structure Clash where
  mem : BitVec 2
  kind : BitVec 2
  line : BitVec 16
  deriving DecidableEq, Repr

/-- What the hidden code of a stored line reported in a read (R107, R451). -/
inductive EccEvent where
  | correctedSram
  | correctedSlab
  | uncorrectable (mem : BitVec 2) (line : BitVec 16)
  deriving DecidableEq, Repr

/-- What befalls the accesses of a command and is no function of the program: bank collisions and deferrals of the post
engine (R125), what the hidden codes of the lines it read reported (R107), a slot hazard against an operation whose time in
flight the model does not show (R77), and a residue mismatch in the converter, the ACC40 adders or the finisher (R84). -/
structure Intrusion where
  clashes : List Clash := []
  deferred : Nat := 0
  ecc : List EccEvent := []
  hazard : Bool := false
  residue : Bool := false
  deriving DecidableEq, Repr

/-- The operands of a command whose accesses meet events, and those events. -/
structure Met (α : Type) where
  ops : α
  ev : Intrusion := {}
  deriving DecidableEq, Repr

/-- Fields of the scalar and address layout (R241). -/
structure ScalarOps where
  d : BitVec 5
  a : BitVec 5
  b : BitVec 5
  imm : Bool
  imm32 : Word
  deriving DecidableEq, Repr

/-- Fields of LDW and STW (R242). -/
structure LoadStoreOps where
  d : BitVec 5
  a : BitVec 4
  offset : BitVec 16
  f32 : Bool
  word : BitVec 4
  deriving DecidableEq, Repr

/-- Fields of a conditional branch (R243). -/
structure BranchOps where
  a : BitVec 5
  b : BitVec 5
  target : BitVec 12
  deriving DecidableEq, Repr

/-- Fields of LOOP (R243). -/
structure LoopOps where
  a : BitVec 5
  count : BitVec 12
  stop : BitVec 12
  deriving DecidableEq, Repr

/-- Fields of PASS (R244). -/
structure PassOps where
  aw : BitVec 4
  aa : BitVec 4
  steps : BitVec 12
  dwell : BitVec 3
  slot : BitVec 4
  wfmt : BitVec 4
  view : Bool
  reg : Bool
  nozs : Bool
  tally : Bool
  sc : BitVec 5
  half : Bool
  deriving DecidableEq, Repr

/-- A hardware error at a block end: in the multiplies or column adders (the difference it makes to the column sum),
in a latch's parity or in a residue check (R82 to R84). -/
inductive PaneError where
  | good
  | columns (delta : Int)
  | parity
  | residue
  deriving DecidableEq, Repr

/-- Fields of PRELOAD (R248); VEC is the row's. -/
structure PreloadOps where
  slot : BitVec 4
  n : BitVec 3
  av : BitVec 4
  sf : BitVec 5
  deriving DecidableEq, Repr

/-- Fields of DRAIN (R249); TARGET is the row's. -/
structure DrainOps where
  slot : BitVec 4
  n : BitVec 3
  keep : Bool
  ad : BitVec 4
  st : BitVec 5
  deriving DecidableEq, Repr

/-- Fields of FIN (R250); FOP is the row's. -/
structure FinOps where
  ad : BitVec 4
  ax : BitVec 4
  ay : BitVec 4
  xslot : Bool
  yscal : Bool
  ss : BitVec 5
  count : Byte
  opx : BitVec 23
  deriving DecidableEq, Repr

/-- Fields of POST (R255); OP and SMEM 0b11 of a PULL are the row's. -/
structure PostOps where
  smem : BitVec 2
  dmem : BitVec 2
  as : BitVec 4
  ad : BitVec 4
  tmpl : BitVec 6
  lines : BitVec 12
  reg : Bool
  last : Bool
  byp : BitVec 2
  sp : BitVec 5
  treg : Bool
  st : BitVec 5
  deriving DecidableEq, Repr

/-- Fields of TAKE (R254). -/
structure TakeOps where
  queue : BitVec 4
  ad : BitVec 4
  count : Byte
  ctx : Bool
  reg : Bool
  env : Bool
  se : BitVec 5
  deriving DecidableEq, Repr

/-- Fields of REDUCE (R257). -/
structure ReduceOps where
  as : BitVec 4
  tmpl : BitVec 6
  lines : Byte
  sp : BitVec 5
  deriving DecidableEq, Repr

/-- Fields of CLAIM (R258). -/
structure ClaimOps where
  drain : Bool
  mem : BitVec 2
  ar : BitVec 4
  lines : BitVec 12
  sd : BitVec 5
  deriving DecidableEq, Repr

/-- Fields of WAIT (R259); COND is the row's. -/
structure WaitOps where
  arg : BitVec 4
  n : BitVec 3
  id : Byte
  sd : BitVec 5
  deriving DecidableEq, Repr

/-- Fields of CARD (R260); TYPE is the row's. -/
structure CardOps where
  dclass : BitVec 3
  dest : BitVec 16
  sp : BitVec 5
  barrier : Byte
  deriving DecidableEq, Repr

/-- Fields of FOLIO (R261); FOP is the row's. -/
structure FolioOps where
  af : BitVec 4
  ax : BitVec 4
  ad : BitVec 4
  ss : BitVec 5
  sd : BitVec 5
  layer : BitVec 16
  zero : Bool
  deriving DecidableEq, Repr

/-- Fields of SAMPLE (R263); SOP is the row's. -/
structure SampleOps where
  ad : BitVec 4
  ax : BitVec 4
  ay : BitVec 4
  ss : BitVec 5
  sd : BitVec 5
  count : Byte
  purpose : BitVec 4
  deriving DecidableEq, Repr

/-- A letter as it arrives on a host port: its 32-byte header but for the opcode, its parameters and its train (R331). -/
structure Letter where
  port : Fin 48
  version : BitVec 16 := 1
  id : Word
  session : BitVec 16 := 0
  tenant : BitVec 16 := 1
  flags : BitVec 16 := 0
  paramLen : BitVec 16 := 0
  deadline : Byte := 3
  role : Byte := 0
  trainLines : Word := 0
  reserved : BitVec 48 := 0
  crc : Word
  params : List Byte := []
  train : List Line := []
  deriving DecidableEq, Repr

/-- A letter in flight, named by its port and LETTER_ID (R335). -/
structure LetterKey where
  port : Fin 48
  id : Word
  deriving DecidableEq, Repr

/-- An agent that may access a control register (R538). -/
inductive Agent where
  | postmaster
  | fieldController (f : Fin 64)
  | blockSequencer (b : Fin 1024)
  | linkFirmware (c : Fin 12)
  | hostAdapter (c : Fin 12)
  | powerController (p : Fin 2)
  deriving DecidableEq, Repr

/-- A site tested by a field self-test: row, row group and offset in its 9 sites (R477, R478). -/
structure SiteFail where
  row : Fin 32
  group : Fin 4
  offset : Fin 9
  deriving DecidableEq, Repr

/-- A block whose regulator segments or sensors fail step 1 of a field self-test: the segments, the diode, the ring oscillator (R477). -/
structure BlockFail where
  block : Fin 16
  segments : BitVec 8
  diode : Bool
  ring : Bool
  deriving DecidableEq, Repr

/-- What the steps of a field self-test find (R477). -/
structure TestFinds where
  blocks : List BlockFail
  sites : List SiteFail
  deriving DecidableEq, Repr

/-- Whose wave begins, a session's or that of a tenant's slot, and the nymph's logits for its drafts as they reach the sampler
(R219, R223). -/
structure WaveStart (n : Nat) where
  who : BitVec n
  nymph : List (List Word)
  deriving DecidableEq, Repr

/-- A session whose frames are filled, and its records, by layer and sequence, whose read cannot be corrected or whose tag fails
(R327, R451). -/
structure ResumeEnd where
  session : BitVec 16
  bad : List (BitVec 16 × Word)
  deriving DecidableEq, Repr

/-- A session that its peer holds; whether the transfer failed first and an internal retry succeeded (R323). -/
structure MoveEnd where
  session : BitVec 16
  retried : Bool
  deriving DecidableEq, Repr

/-- A mailbox end: the mailbox of the device manager, or the block mailbox of a field controller (R361). -/
inductive MailEnd where
  | dev (m : Fin 90) (endA : Bool)
  | blk (b : Fin 1024) (endA : Bool)
  deriving DecidableEq, Repr

/-- The command set: the rows of opcode_table.json in their order. -/
inductive Instr where
  -- scalar, address and control instructions (R241 to R243)
  | add (t : TileId) (f : ScalarOps)
  | sub (t : TileId) (f : ScalarOps)
  | mul (t : TileId) (f : ScalarOps)
  | and (t : TileId) (f : ScalarOps)
  | or (t : TileId) (f : ScalarOps)
  | xor (t : TileId) (f : ScalarOps)
  | shl (t : TileId) (f : ScalarOps)
  | shr (t : TileId) (f : ScalarOps)
  | sra (t : TileId) (f : ScalarOps)
  | slt (t : TileId) (f : ScalarOps)
  | sltu (t : TileId) (f : ScalarOps)
  | fadd (t : TileId) (f : ScalarOps)
  | fmul (t : TileId) (f : ScalarOps)
  | flt (t : TileId) (f : ScalarOps)
  | frcp (t : TileId) (f : ScalarOps)
  | ldw (t : TileId) (f : LoadStoreOps) (x : Intrusion)
  | stw (t : TileId) (f : LoadStoreOps) (x : Intrusion)
  | movc (t : TileId) (f : ScalarOps)
  | aset (t : TileId) (f : ScalarOps)
  | ainc (t : TileId) (f : ScalarOps)
  | aget (t : TileId) (f : ScalarOps)
  | beq (t : TileId) (f : BranchOps)
  | bne (t : TileId) (f : BranchOps)
  | blt (t : TileId) (f : BranchOps)
  | bge (t : TileId) (f : BranchOps)
  | jmp (t : TileId) (f : BranchOps)
  | loop (t : TileId) (f : LoopOps)
  | illegalInstruction (t : TileId) (w : BitVec 64)
  -- pane, slots and finisher
  | pass (t : TileId) (f : PassOps) (x : Intrusion)
  | blockEnd (t : TileId) (e : PaneError)
  | preloadZero (t : TileId) (f : Met PreloadOps)
  | preloadVector (t : TileId) (f : Met PreloadOps)
  | drainToF32 (t : TileId) (f : Met DrainOps)
  | drainToA8r (t : TileId) (f : Met DrainOps)
  | drainToA8 (t : TileId) (f : Met DrainOps)
  | finAdd (t : TileId) (f : Met FinOps)
  | finSub (t : TileId) (f : Met FinOps)
  | finMul (t : TileId) (f : Met FinOps)
  | finFma (t : TileId) (f : Met FinOps)
  | finMin (t : TileId) (f : Met FinOps)
  | finMax (t : TileId) (f : Met FinOps)
  | finCmpgt (t : TileId) (f : Met FinOps)
  | finCopy (t : TileId) (f : Met FinOps)
  | finRecip (t : TileId) (f : Met FinOps)
  | finRsqrt (t : TileId) (f : Met FinOps)
  | finExp (t : TileId) (f : Met FinOps)
  | finExpm (t : TileId) (f : Met FinOps)
  | finLookup (t : TileId) (f : Met FinOps)
  | finLoadtbl (t : TileId) (f : Met FinOps)
  | finLanesum (t : TileId) (f : Met FinOps)
  | finSumsq (t : TileId) (f : Met FinOps)
  | finRms (t : TileId) (f : Met FinOps)
  | finRope (t : TileId) (f : Met FinOps)
  | finMaxidx (t : TileId) (f : Met FinOps)
  | finMinidx (t : TileId) (f : Met FinOps)
  | finQuant (t : TileId) (f : Met FinOps)
  | finMask (t : TileId) (f : Met FinOps)
  | finKill (t : TileId) (f : Met FinOps)
  | finClear (t : TileId) (f : Met FinOps)
  -- moving data, waiting and signalling
  | postCopy (t : TileId) (f : PostOps)
  | postSend (t : TileId) (f : PostOps)
  | postPull (t : TileId) (f : PostOps)
  | postCircularRequest (t : TileId) (f : PostOps)
  | descriptorStart (t : TileId) (x : Intrusion)
  | descriptorRetire (t : TileId) (k : Met (Fin 4))
  | take (t : TileId) (f : TakeOps) (x : Intrusion)
  | reduce (t : TileId) (f : ReduceOps)
  | claim (t : TileId) (f : ClaimOps)
  | release (t : TileId) (sr : BitVec 5)
  | waitPigeonhole (t : TileId) (f : WaitOps)
  | waitScoreboard (t : TileId) (f : WaitOps)
  | waitBarrier (t : TileId) (f : WaitOps)
  | waitUserCard (t : TileId) (f : WaitOps)
  | waitDescriptors (t : TileId) (f : WaitOps)
  | waitSlots (t : TileId) (f : WaitOps)
  | cardBarrierArrive (t : TileId) (f : CardOps)
  | cardUser (t : TileId) (f : CardOps)
  | folioList (t : TileId) (f : Met FolioOps)
  | folioAppend (t : TileId) (f : Met FolioOps)
  | folioWeevil (t : TileId) (f : Met FolioOps)
  | folioBound (t : TileId) (f : Met FolioOps)
  | folioCommit (t : TileId) (f : Met FolioOps)
  | sampleSetup (t : TileId) (f : Met SampleOps)
  | sampleGmask (t : TileId) (f : Met SampleOps)
  | samplePenalty (t : TileId) (f : Met SampleOps)
  | sampleTemp (t : TileId) (f : Met SampleOps)
  | sampleUniform (t : TileId) (f : Met SampleOps)
  | sampleDraw (t : TileId) (f : Met SampleOps)
  | sampleAccept (t : TileId) (f : Met SampleOps)
  | sampleResid (t : TileId) (f : Met SampleOps)
  | sampleGstep (t : TileId) (f : Met SampleOps)
  | yield (t : TileId)
  | halt (t : TileId)
  -- the mesh: a router, an input port and a virtual channel
  | unicastFlit (t : TileId) (p : Port) (vc : BitVec 2) (crcBad : Bool)
  | hopCreditReturn (t : TileId) (p : Port) (vc : BitVec 2)
  | boundaryFifoArrival (t : TileId) (p : Port) (vc : BitVec 2)
  | pigeonholeArrival (t : TileId) (p : Port) (vc : BitVec 2)
  | landingArrival (t : TileId) (p : Port) (vc : BitVec 2) (x : Intrusion)
  | creditParcel (t : TileId) (p : Port)
  | groupCredit (t : TileId) (p : Port)
  | reductionPart (t : TileId) (p : Port)
  | multicastFlit (t : TileId) (p : Port)
  | multicastBranchTake (t : TileId) (p : Port) (branch : Port)
  | pullRequest (t : TileId) (p : Port)
  | circularRequest (t : TileId) (p : Port)
  | rimExit (t : TileId) (p : Port) (vc : BitVec 2)
  | rimEntry (t : TileId) (secondary : Bool) (env : Env) (l : Line)
  -- postcards
  | knock (dclass : BitVec 3) (dest : BitVec 16) (reason : Byte)
  | faultNote (cause : BitVec 4) (wave : Byte) (source : BitVec 16)
  | watchdog (t : TileId) (wave : Byte) (cause : BitVec 4)
  | waveOrderHold (t : TileId) (wave : Byte)
  | waveOrderDiscard (t : TileId) (wave : Byte)
  | waveOrderReplay (t : TileId) (wave : Byte)
  | waveOrderResume (t : TileId) (wave : Byte)
  | barrierArrive (f : Fin 64) (id : Byte) (wave : Byte)
  | barrierRelease (t : TileId) (id : Byte) (wave : Byte)
  | user (t : TileId) (payload : Word)
  | fireflySend (t : TileId)
  | firefly (t : TileId) (wave : Byte)
  | postcardHopRetry (f : Fin 64)
  | sleepingBlockCard (b : Fin 1024) (c : Card)
  -- slab refresh
  | slabRefreshWindow (t : TileId) (freeSlots : BitVec 7) (corrected : Fin 3)
  | doubleRefreshEnd (b : Fin 1024)
  -- letters and receipts
  | letterCrcFailure (opcode : BitVec 16) (l : Letter)
  | letterReservedOpcode (opcode : BitVec 16) (l : Letter)
  | letterForward (opcode : BitVec 16) (l : Letter)
  | acceptedReceipt (k : LetterKey)
  | open (l : Letter)
  | append (l : Letter)
  | generate (l : Letter)
  | park (l : Letter)
  | resume (l : Letter)
  | fork (l : Letter)
  | trimSetBudget (l : Letter)
  | trimRestoreDeadLetter (l : Letter)
  | trimSetDeadLetter (l : Letter)
  | close (l : Letter)
  | migrateOut (l : Letter)
  | migrateInPeer (l : Letter)
  | migrateInKeeper (l : Letter)
  | adapt (l : Letter)
  | stageImage (l : Letter)
  | stageImageDiscard (l : Letter)
  | loadPlacement (l : Letter)
  | commitSwap (l : Letter)
  | adapterLoad (l : Letter)
  | lodgePolicy (l : Letter)
  | status (l : Letter)
  | telemetryCurrent (l : Letter)
  | telemetryExperts (l : Letter)
  | telemetryTenants (l : Letter)
  | telemetryThermal (l : Letter)
  | distances (l : Letter)
  | powerCap (l : Letter)
  | setProfile (l : Letter)
  | drainRemove (l : Letter)
  | drainQuiesce (l : Letter)
  | drainServe (l : Letter)
  | fwStage (l : Letter)
  | fwActivate (l : Letter)
  | retireTile (l : Letter)
  | retireSegment (l : Letter)
  | retireField (l : Letter)
  | retireStack (l : Letter)
  | retireChiplet (l : Letter)
  | recalibrateSensors (l : Letter)
  | recalibrateRegulators (l : Letter)
  | breakerRetry (l : Letter)
  | recalibrateLinks (l : Letter)
  | journalRead (l : Letter)
  | diagSelfTest (l : Letter)
  | diagSpareMapEdit (l : Letter)
  | diagReseal (l : Letter)
  | attest (l : Letter)
  | roleOpenInstaller (l : Letter)
  | roleOpenMaker (l : Letter)
  | roleClose (l : Letter)
  | keyEnrolWrappingKey (l : Letter)
  | keyEnrolImageId (l : Letter)
  | tenantKeysEnrol (l : Letter)
  | tenantKeysRotate (l : Letter)
  | tenantKeysRevoke (l : Letter)
  | deadlineExpiry (k : LetterKey)
  -- waves, sessions and their tiers
  -- logits as they reach the sampler (R223): of the nymph before the wave, of the main model at its commit
  | waveAdmission (start : WaveStart 16)
  | fixedSlotBoundary (start : WaveStart 12)
  | waveCommit (wave : Byte) (logits : List (List Word))
  | waveReplay (wave : Byte)
  | frameAllocation (session : BitVec 16) (layer : BitVec 16) (sealing : Bool)
  | folioSealing (t : TileId) (frame : BitVec 16)
  | compactionStep (session : BitVec 16) (layer : BitVec 16)
  | pageScrub (t : TileId) (page : Fin 2016)
  | trailWriteBehind (session : BitVec 16)
  | keeperStream (session : BitVec 16)
  | keeperLagAlarm
  | parkComplete (session : BitVec 16)
  | resumeComplete (resume : ResumeEnd)
  | migrationReceipt (move : MoveEnd)
  | migrationFailure (session : BitVec 16)
  | closeComplete (session : BitVec 16)
  | adapterSwap (session : BitVec 16)
  | tenantReseal (tenant : BitVec 12)
  -- lodging, images and swap
  -- the dispatch note parcel (R206) and the token it is for
  | dispatchNote (stack : Fin 24) (note : Line) (token : Word)
  | lodgingComplete (stack : Fin 24) (stage : Fin 16)
  | lodgingRetry (stack : Fin 24) (stage : Fin 16)
  | gateChunkEnd (image : BitVec 64)
  | swapBuildStart
  | swapBuildComplete
  | swapFlip
  | splitSwapReport (member : BitVec 4)
  -- mailboxes and control registers
  | mbxSend (e : MailEnd) (len : Word)
  | mbxAck (e : MailEnd) (v : Word)
  | letterArrived (c : Fin 12) (buffer : BitVec 16) (port : Byte) (id : Word)
  | receiptReady (c : Fin 12) (buffer : BitVec 16) (port : Byte) (id : Word)
  | letterBufferFreed (c : Fin 12) (buffer : BitVec 16) (port : Byte) (id : Word)
  | bsPorderWake (b : Fin 1024)
  | bsPorderChrysalis (b : Fin 1024)
  | bsPorderDiapause (b : Fin 1024)
  | bsPorderDark (b : Fin 1024)
  | fcClkTargetWrite (f : Fin 64) (v : Word)
  | voltageReached (f : Fin 64)
  | kpTimeLoRead (k : Fin 2) (agent : Agent)
  | csrWrite (agent : Agent) (addr : Word) (v : Word)
  -- block power states
  | gateEntry (b : Fin 1024)
  | gatedWake (b : Fin 1024)
  | chrysalisDelayExpiry (b : Fin 1024)
  | chrysalisEntry (b : Fin 1024)
  | wakeRequest (b : Fin 1024)
  | wakeAdmission (b : Fin 1024)
  | admissionRetry (f : Fin 64)
  | admissionDeferralExpiry (f : Fin 64)
  | rampComplete (b : Fin 1024)
  | diapauseReload (b : Fin 1024)
  | generatorStop (f : Fin 64)
  | drowseCalibration (f : Fin 64)
  -- power delivery
  | railDroop (f : Fin 64) (cycles : BitVec 16) (ended : Bool)
  | droopEventLog (b : Fin 1024)
  | prechargeMate (straps : BitVec 4)
  | prechargeComplete
  | presenceMate
  | presenceOpen
  | inputOutOfRange (vin : BitVec 16)
  | fieldOvercurrent (f : Fin 64)
  | blockShort (b : Fin 1024)
  | segmentCheck (b : Fin 1024) (failed : Byte)
  | phaseFailure (f : Fin 64) (phase : Fin 8)
  | powerControllerTakeover
  | powerMeasure (watts : BitVec 16) (vin : BitVec 16)
  | peakCreditExhausted
  | currentSample (fieldMa : List (Fin 64 × BitVec 32)) (blockMa : List (Fin 1024 × BitVec 16))
  | currentRecord (record : List Line)
  -- cooling and thermal protection
  | sensorSample (b : Fin 1024) (diode ring model : Option Byte)
  | thermalLimitStep (f : Fin 64)
  | sensorSuspect (b : Fin 1024)
  | sensorModelCompare (b : Fin 1024)
  | coolantSample (flowIn flowOut : BitVec 16) (inlet outlet : Option (BitVec 16))
  | meterSuspect
  | outletTermStep
  | flowRecovery
  | flowAlarmClear
  | thermalRecord
  | wearLedgerWrite
  | warmRestart
  -- integrity and repair
  | tileRetirement (t : TileId)
  | fireflySilence (t : TileId)
  | eccStorm (t : TileId)
  | openFolioRecompute (session : BitVec 16)
  | fieldLoss (f : Fin 64)
  | lockstepDisagreement (f : Fin 64)
  | stackRetirementAuto (stack : Fin 24)
  | stackUnreadable (stack : Fin 24)
  | stackCopyComplete (stack : Fin 24)
  | stallWatchdog (t : TileId) (cause : BitVec 4)
  | purgeResumeTimer (wave : Byte)
  -- bring-up, journal and firmware
  | powerOn (straps : BitVec 4) (keeperAGood keeperBGood loopClosed : Bool)
  | coolantVerified
  | rimBringUp
  | ringStart (ring : Fin 4)
  | fieldSelfTest (f : Fin 64) (found : TestFinds) (linkFailed : Bool)
  | bringUpComplete
  | journalAppend (kind : BitVec 16) (key : Word) (body : List Byte)
  | journalCommit
  | journalMount (k : Fin 2) (cut : BitVec 64)
  | journalCompaction
  | historyThrottle
  | fwHealthTimeout (agent : BitVec 3) (inst : BitVec 16)
  -- roles and seal
  | presencePress
  | presenceTimeout (k : LetterKey)
  | roleIdleTimeout (port : Fin 48) (maker : Bool)
  | makerAuthExpiry (port : Fin 48)
  | j7Fit
  | j7Remove
  | sealBreak
  | resealComplete
  | resealTimeout
  | postmasterTakeover
  -- Denor links
  | linkFrameRx (port : Fin 48) (frame : BitVec 20560) (fecFailed : Bool)
  | ack (port : Fin 48) (seq : BitVec 16)
  | nak (port : Fin 48) (seq : BitVec 16)
  | credit (port : Fin 48) (kind : BitVec 4) (slots : BitVec 16)
  | ident (port : Fin 48) (member : BitVec 4) (host : Bool) (keyId : BitVec 48)
  | portRetrain (port : Fin 48) (lanesGood : Byte)
  | portFail (port : Fin 48)
  | portDown (port : Fin 48)
  | receiptHoldExpiry (port : Fin 48)
  | cableInsert (port : Fin 48) (watts : Byte) (lanesGood : Byte) (reversed : Bool) (polarity : Byte)
  | cableRemove (port : Fin 48)
  | linkNote (c : Fin 12) (k : Fin 16) (env : Env) (l : Line)
  | linkParcelDelivery (port : Fin 48) (env : Env) (l : Line)
  -- management port
  | setEndpointId (eid : Byte)
  | getEndpointId
  | getMctpVersionSupport (msgType : Byte)
  | getMessageTypeSupport
  | getTid
  | setTid (tid : Byte)
  | getPldmVersion (pldmType : Byte)
  | getPldmTypes
  | getPldmCommands (pldmType : Byte)
  | getSensorReading (sensor : BitVec 16)
  | getStateSensorReadings (sensor : BitVec 16)
  | getPdrRepositoryInfo
  | getPdr (record : Word)
  | setEventReceiver (receiver : Byte)
  | platformEventMessage
  | queryDeviceIdentifiers
  | getFirmwareParameters
  | requestUpdate
  | passComponentTable (component : BitVec 16)
  | updateComponent (component : BitVec 16)
  | requestFirmwareData (lines : List Line)
  | transferComplete (result : Byte)
  | verifyComplete
  | applyComplete
  | getStatus
  | cancelUpdateComponent
  | cancelUpdate
  | unsupportedPldmCmd (pldmType cmd : Byte)
  | standbyKeeperLoss
  | shutdownComplete (b : Fin 1024)
  | instanceReportedHealthy (agent : BitVec 3) (inst : BitVec 16)
  | fieldControllerRestart (f : Fin 64)
  deriving DecidableEq, Repr

end Sys2Proof
end

