-- ==== Sys2Proof/Machine/State.lean ====
section
/-! DEFINITION. The state of the device as plain data. Every field's default is its reset value; a table lists only the
entries that differ from their reset value, with rising keys (its canonical form). -/

namespace Sys2Proof.Machine

/-- A sparse table: (key, value) pairs, keys strictly rising, no value equal to the table's default. -/
abbrev Tbl (α : Type) := List (Nat × α)

/-- A memory: bytes by byte address; an unlisted byte reads 0x00. -/
abbrev Mem := List Host.Cell

/-! ## Tiles -/

/-- The wave context (R232). -/
structure WaveCtx where
  session : BitVec 16 := 0
  tenant : BitVec 12 := 0
  position : BitVec 24 := 0
  wave : Byte := 0
  replay : Bool := false
  bypass : Bool := false
  deriving DecidableEq, Repr

/-- TS_SEQ_STATUS.STATE (R269). -/
inductive SeqState where
  | halted | running | held | between
  deriving DecidableEq, Repr

/-- One active hardware loop (R232, R243). -/
structure LoopFrame where
  start : BitVec 12
  stop : BitVec 12
  remaining : Nat
  index : Nat
  deriving DecidableEq, Repr

/-- What a tile's sequencer waits for at issue (R238, R466). -/
inductive WaitKind where
  | none | pigeonhole | scoreboard | slots | descriptorQueue | rangeBusy | barrier | userCard | yield | frame
  | entry | descriptors | slotsIdle | card
  deriving DecidableEq, Repr

/-- One accumulator slot (R71, R74). -/
structure Slot where
  isOpen : Bool := false
  factor : Word := 0
  count : Nat := 0
  vals : Tbl Acc40 := []
  deriving DecidableEq, Repr

/-- A range of lines: memory, first line, count (R95). -/
structure LineRange where
  mem : BitVec 2
  first : Nat
  count : Nat
  deriving DecidableEq, Repr

/-- A block end on its way to its slot (R67 to R70, R82): the 64 column integers and weight scales, the tally integer,
the activation scale, whether it is the high pass of a registered pair; and of the PASS it belongs to the slots `base` to
`base + span − 1` and the lines it reads, which stay in use until its last block end retires (R77, R237). -/
structure BlockEnd where
  slot : BitVec 4
  ints : List Int
  tally : Int
  wscales : List Byte
  ascale : Byte
  high : Bool
  base : Nat := 0
  span : Nat := 0
  reads : List LineRange := []
  deriving DecidableEq, Repr

/-- A PASS that has issued while an earlier TAKE still fills activation lines of its later steps (R236): its fields, the lines
AW and AA and the codebook word it issued with, its next step, and its place in the program. -/
structure PassRun where
  f : PassOps
  aw : Nat
  aa : Nat
  book : Word
  step : Nat
  pc : BitVec 12
  word : BitVec 64
  deriving DecidableEq, Repr

/-- A scoreboard entry (R120); `fresh` marks one claimed since the wave entry (R268). -/
structure SbEntry where
  used : Bool := false
  drain : Bool := false
  mem : BitVec 2 := 0
  first : Nat := 0
  lines : Nat := 0
  count : Nat := 0
  fresh : Bool := false
  deriving DecidableEq, Repr

/-- A credit-table entry with the credits it holds now (R111, R281). -/
structure CreditEntry where
  valid : Bool := false
  grp : Bool := false
  allot : Nat := 0
  queue : Byte := 0
  target : BitVec 16 := 0
  held : Nat := 0
  deriving DecidableEq, Repr

/-- What a descriptor does (R255, R257). -/
inductive DescOp where
  | copy | send | pull | circular | reduce
  deriving DecidableEq, Repr

/-- A post-engine descriptor (R117, R255): its ranges as line numbers, its template and the context it issued under;
`pc` and `word` name the instruction, `env` is the envelope of a served pull's reply (R567), `circ` the circular it sends (R154), `done` counts the blocks
already moved and `stalled` marks a counted credit wait. -/
structure Desc where
  op : DescOp
  smem : BitVec 2
  dmem : BitVec 2
  src : Nat
  dst : Nat
  blocks : Nat
  reg : Bool
  last : Bool
  bypass : Bool
  position : BitVec 24
  tmpl : Nat
  ctx : WaveCtx
  pc : BitVec 12 := 0
  word : BitVec 64 := 0
  env : Option Env := none
  circ : Option Nat := none
  done : Nat := 0
  stalled : Bool := false
  deriving DecidableEq, Repr

/-- A pigeonhole entry or a flit: envelope and parcel (R109, R128). -/
structure Flit where
  env : Env
  line : Line
  deriving DecidableEq, Repr

/-- A TAKE that has issued and has not retired (R115, R235, R236, R254): the next line it writes, the blocks left, and the
first line and the blocks it began with. -/
structure TakeRun where
  queue : BitVec 4
  next : Nat
  left : Nat
  reg : Bool
  first : Nat
  count : Nat
  deriving DecidableEq, Repr

/-- A landing entry with its write pointer and the WAVE of its last parcel (R282, R283). -/
structure Landing where
  valid : Bool := false
  ring : Bool := false
  mem : BitVec 2 := 0
  count : Nat := 0
  first : Nat := 0
  ptr : Nat := 0
  lastWave : Option Byte := none
  group : List Line := []
  deriving DecidableEq, Repr

/-- A circular entry (R284) with the wave whose requests are counted, their count, and the requests that wait (R154). -/
structure Circular where
  valid : Bool := false
  readers : Nat := 0
  group : Byte := 0
  lines : Nat := 0
  first : Nat := 0
  active : Option Byte := none
  asked : Nat := 0
  later : List Env := []
  deriving DecidableEq, Repr

/-- A tree-table entry (R144). -/
structure TreeEntry where
  valid : Bool := false
  parent : BitVec 3 := 0
  rootQueue : Byte := 0
  children : BitVec 5 := 0
  treeId : BitVec 16 := 0
  deriving DecidableEq, Repr

/-- A fork-table entry (R150) with the credit count of each branch (R153). -/
structure ForkEntry where
  valid : Bool := false
  up : BitVec 3 := 0
  localQueue : Byte := 0
  out : BitVec 5 := 0
  credits : Tbl Nat := []
  deriving DecidableEq, Repr

/-- An open reduction node: its tree, wave and ordinal, and one part per child (R145). -/
structure Node where
  tree : BitVec 16
  wave : Byte
  ordinal : Nat
  parts : Tbl (Option Flit)
  deriving DecidableEq, Repr

/-- The router of a tile: input buffers and boundary FIFOs by 4·port + VC, credit parcels of the post engine that wait for a
buffer of the local port, by VC, hop credits spent toward each output, parts counted per child, branches that wait for a copy
of the multicast flit at the head of an input, the input and the channel each output served last, receipts taken for a queue
that is full, by queue, held parcels whose fault is reported, the times of each input's retries, and the inputs whose link has already
retired a tile (R129 to R154, R449). -/
structure Router where
  bufs : Tbl (List Flit) := []
  outbox : Tbl (List Flit) := []
  fifos : Tbl (List Flit) := []
  spent : Tbl Nat := []
  trees : Tbl TreeEntry := []
  forks : Tbl ForkEntry := []
  nodes : List Node := []
  parts : List (BitVec 16 × Byte × Nat × Nat) := []
  waiting : Tbl (List Nat) := []
  nodeCounted : Tbl Bool := []
  turns : Tbl Nat := []
  receipts : Tbl (List Flit) := []
  reported : List Flit := []
  linkRetries : Tbl (List (BitVec 64)) := []
  badLinks : List Nat := []
  deriving DecidableEq, Repr

/-- A finisher lookup table (R89). -/
structure FinTable where
  ys : Tbl Word := []
  x0 : Word := 0
  inv : Word := 0
  deriving DecidableEq, Repr

/-- A queued weevil update (R188, R261): frame, position, and the H row vectors of 64 lanes, none for zero mass. -/
structure WeevilUpdate where
  frame : Nat
  position : BitVec 24
  rows : List (List Word)
  deriving DecidableEq, Repr

/-- The sampler state of a session on a tile: settings block line and grammar state (R226, R227, R263). -/
structure SamplerState where
  settings : Line := 0
  grammarState : Nat := 0
  deriving DecidableEq, Repr

/-- A postcard on its way, with its source (R158, R159): a tile, a router, a block's node, a field hub or a mailbox. -/
structure CardRun where
  src : Nat
  card : Card
  deriving DecidableEq, Repr

/-- One tile: sequencer, memories, slots, queues, post engine, router, and the TS_ registers software reads. -/
structure Tile where
  -- sequencer (R232)
  s : Tbl Word := []
  a : Tbl Word := []
  pc : BitVec 12 := 0
  loops : List LoopFrame := []
  ctx : WaveCtx := {}
  begun : Bool := false
  entry : BitVec 12 := 0
  issueq : List (BitVec 64) := []
  seq : SeqState := .halted
  test : Bool := false
  wait : WaitKind := .none
  waitWord : BitVec 64 := 0
  heldWave : Option Byte := none
  -- memories (R94); the weight store by physical line
  imem : Tbl (BitVec 64) := []
  wb : Mem := []
  slab : Mem := []
  ws : Mem := []
  -- pane, slots, finisher (R71, R89)
  slots : Tbl Slot := []
  blockEnds : List BlockEnd := []
  passes : List PassRun := []
  written : BitVec 16 := 0
  tables : Tbl FinTable := []
  -- working-buffer words that KILL made −infinity (R203, R204), by 16·line + word
  killed : List Nat := []
  -- queues and post engine (R109 to R120)
  pigeonholes : Tbl (List Flit) := []
  takes : List TakeRun := []
  credits : Tbl CreditEntry := []
  templates : Tbl Env := []
  landings : Tbl Landing := []
  circulars : Tbl Circular := []
  descq : List Desc := []
  running : List Desc := []
  served : List Desc := []
  sb : Tbl SbEntry := []
  -- router, cards (R144 to R160)
  router : Router := {}
  inbox : List Card := []
  cardHold : List Card := []
  latches : Tbl (Option Byte) := []
  lastFirefly : BitVec 64 := 0
  cardTime : BitVec 64 := 0
  cardsThen : Nat := 0
  purge : List Byte := []
  -- folio unit and sampler (R176, R261, R263)
  owners : Tbl Word := []
  weevils : List WeevilUpdate := []
  shareScores : List (BitVec 16 × Nat × Nat) := []
  sampler : Tbl SamplerState := []
  -- counts of the wave (R457)
  regBlocks : Nat := 0
  maxDwell : Nat := 0
  -- scrubbing (R106)
  scrubGroup : Nat := 0
  -- TS_ registers that are stored (R93, R127, R162, R202, R269, R458)
  seqFault : Word := 0
  lastCause : BitVec 4 := 0
  finFlags : BitVec 3 := 0
  seqWord : BitVec 64 := 0
  overrun : BitVec 16 := 0
  hazards : Word := 0
  tallyTotal : BitVec 16 := 0
  tallyTimes : List (BitVec 64) := []
  facing : BitVec 1 := 0
  bankConflicts : Word := 0
  conflictLast : Word := 0
  steals : BitVec 16 := 0
  double : Bool := false
  memFault : Word := 0
  creditStalls : BitVec 16 := 0
  deferrals : BitVec 11 := 0
  eccSlab : BitVec 16 := 0
  eccSram : BitVec 16 := 0
  netFault : Word := 0
  nodeWaits : BitVec 12 := 0
  mcWaits : BitVec 16 := 0
  sent : BitVec 16 := 0
  ownFault : Word := 0
  ownSession : Word := 0
  overWaves : BitVec 16 := 0
  regCount : BitVec 16 := 0
  -- retirement evidence (R459)
  uncorrTimes : List (BitVec 64) := []
  deriving DecidableEq, Repr

/-! ## Blocks and fields -/

/-- BS_PSTATE.STATE (R404). -/
inductive PState where
  | active | gated | chrysalis | diapause | dark
  deriving DecidableEq, Repr

/-- A block sequencer and its block (R392, R404, R432, R447, R569). -/
structure Block where
  pstate : PState := .dark
  activeSince : BitVec 64 := 0
  step : Nat := 0
  shutTo : PState := .chrysalis
  wakeAsked : Bool := false
  ramping : Bool := false
  reload : Bool := false
  delay : BitVec 16 := 0x32
  gateCycles : BitVec 16 := 0x100
  races : BitVec 16 := 0
  wakes : BitVec 16 := 0
  segFailed : Byte := 0
  tied : Bool := false
  skip : Bool := false
  feeding : Bool := false
  lastMa : BitVec 16 := 0x7D00
  diode : Byte := 0
  ring : Byte := 0
  model : Byte := 0
  diodeRetired : Bool := false
  ringRetired : Bool := false
  suspect : Bool := false
  capped : Bool := false
  hotSamples : Nat := 0
  suspectSamples : Nat := 0
  nodeCards : List Card := []
  nodePurge : List Byte := []
  microLoad : Bool := false
  microWait : Bool := false
  deriving DecidableEq, Repr

/-- A barrier-table entry of a field hub (R286). -/
structure BarrierEntry where
  valid : Bool := false
  id : Byte := 0
  root : BitVec 6 := 0
  expected : Nat := 0
  mask : BitVec 64 := 0
  deriving DecidableEq, Repr

/-- A field controller and what it holds (R19, R160, R387, R403, R416, R431, R436, R443, R545). -/
structure FieldCtl where
  spareMap : Tbl (BitVec 4) := []
  retired : Bool := false
  lost : Bool := false
  lossDone : Bool := false
  selfTested : Bool := false
  railOn : Bool := false
  clkTarget : BitVec 11 := 0x3E8
  boostGrant : Bool := false
  genRunning : Bool := false
  mhz : BitVec 11 := 0
  limit : BitVec 3 := 0
  newMhz : Option (BitVec 11) := none
  trimMhz : Option (BitVec 11) := none
  stretching : Bool := false
  stretch : Word := 0
  stopDelay : BitVec 16 := 0x000A
  admitLimit : BitVec 10 := 0x1F4
  trims : BitVec 12 := 0
  deferrals : BitVec 10 := 0
  pendingWakes : List (Fin 1024) := []
  batch : List (Fin 1024) := []
  measuredMa : Word := 0
  tjmax : Byte := 0
  thermalMhz : BitVec 11 := 0x47E
  throttling : Bool := false
  hopRetries : BitVec 16 := 0
  cardRetries : BitVec 16 := 0
  barriers : Tbl BarrierEntry := []
  arrivals : List (Byte × Byte × Nat) := []
  reports : List (Byte × Byte × List (BitVec 6)) := []
  releases : List (Byte × Byte) := []
  notes : List (BitVec 64 × Card) := []
  lockstepTimes : List (BitVec 64) := []
  restarting : Bool := false
  repairs : List TileId := []
  drowseCalibrations : Nat := 0
  excLow : Option Byte := none
  excPeak : Byte := 0
  bins : Tbl Word := []
  -- its rail on the power board (R430)
  breaker : Bool := false
  retryUsed : Bool := false
  railRetired : Bool := false
  phasesFailed : Byte := 0
  settingMv : BitVec 10 := 0
  deriving DecidableEq, Repr

/-! ## Sessions and letters -/

/-- Session state, by the codes of R303. -/
inductive SessState where
  | free | resident | running | parking | parked | resuming | migrating | suspended | rebuilding | closing
  deriving DecidableEq, Repr

/-- One folio of a session as the Postmaster's records and the trail hold it (R168, R174, R310, R317): its frame, the body
of its trail record, the newest position that record covers plus 1, the key generation and COUNTER it is
sealed under (0: plaintext, R326), the lines a recomputation re-forms after a loss (R461), the session's own scores of a shared folio
while no frame of it stands (R318), and whether it was streamed to the keeper (R321). -/
structure FolioRef where
  layer : BitVec 16
  seqNo : Word
  tile : Option TileId := none
  page : Nat := 0
  pages : Nat := 0
  sealed : Bool := false
  shared : Bool := false
  trail : List Line := []
  trailPos : Nat := 0
  gen : Nat := 0
  counter : BitVec 64 := 0
  lost : List Line := []
  scores : List Line := []
  streamed : Bool := false
  deriving DecidableEq, Repr

/-- A dead-letter folio kept in the stacks, oldest first (R194); `gen` is the key generation it is sealed under, 0 plain, and
`time` when it was written. -/
structure DeadLetter where
  layer : BitVec 16
  body : List Line
  gen : Nat := 0
  counter : BitVec 64 := 0
  streamed : Bool := false
  time : BitVec 64 := 0
  deriving DecidableEq, Repr

/-- A trail record of a kind of its own (R310, R311): a token log, a session state or an adapter instance; its body lines, none
before it is first written, and the key generation and COUNTER it is sealed under. -/
structure TrailRec where
  body : List Line := []
  gen : Nat := 0
  counter : BitVec 64 := 0
  deriving DecidableEq, Repr

/-- A session's adapter instance (R199, R380): the adapter ID, its two W8 copies with the one in use, the binary32 masters,
the optimiser's first and second moments, the updates made so far, and its ADAPTER pages. -/
structure AdapterInst where
  id : Byte
  useB : Bool := false
  w8a : List Line := []
  w8b : List Line := []
  masters : List Line := []
  moments : List Line := []
  steps : Nat := 0
  pages : List (TileId × Nat) := []
  deriving DecidableEq, Repr

/-- A running ADAPT (R200): its span, which ADAPT of the device it is, the positions of the span whose forward wave has committed, the
STATISTICS pages of each layer's root tile (R196), and after the backward pass the loss and the gradients of the factors. -/
structure AdaptRun where
  key : LetterKey
  first : Nat
  last : Nat
  nth : Nat := 0
  done : Nat := 0
  stats : List (BitVec 16 × TileId × Nat) := []
  result : Option (Word × List Word) := none
  deriving DecidableEq, Repr

/-- A session record (R300) with its folios, token log and letter queue (R310, R313, R352); `superseded` are the headers of replaced
records that the keeper has not been told of yet, and `keeperState` is the session state it was last sent (R321). -/
structure Session where
  state : SessState := .free
  prior : SessState := .free
  tenant : BitVec 12 := 0
  family : BitVec 16 := 0
  seed : BitVec 64 := 0
  budget : Nat := 0
  deadOpt : Bool := false
  highest : Option Nat := none
  grammarState : Nat := 0
  lastWave : BitVec 64 := 0
  adapter : Option AdapterInst := none
  tokens : List Word := []
  folios : List FolioRef := []
  dead : List DeadLetter := []
  queue : List LetterKey := []
  closeKey : Option LetterKey := none
  adapt : Option AdaptRun := none
  sealing : List (BitVec 16 × TileId × Nat × Nat) := []
  logRec : TrailRec := {}
  stateRec : TrailRec := {}
  adapterRec : TrailRec := {}
  superseded : List (List Line) := []
  keeperState : List Line := []
  keeperLog : Nat := 0
  rebuildFrom : Option Nat := none
  peer : Option (BitVec 4) := none
  stays : Bool := false
  deriving DecidableEq, Repr, Inhabited

/-- A letter in flight (R335), with what is needed to finish it. -/
structure LetterRec where
  key : LetterKey
  opcode : BitVec 16
  session : BitVec 16
  tenant : BitVec 12
  deadline : Byte
  role : Byte
  stream : Bool
  audit : Bool := false
  acceptedSent : Bool := false
  recovered : Option (BitVec 16) := none
  progressed : Bool := false
  emitted : Nat := 0
  unsent : List Word := []
  params : List Byte := []
  train : List Line := []
  journalWait : Bool := false
  waitSeq : BitVec 64 := 0
  finalStatus : Option (BitVec 16 × List Byte × List Line) := none
  grammarId : BitVec 64 := 0
  noRetry : Bool := false
  deriving DecidableEq, Repr

/-- A receipt (R336): its fields, results and train. -/
structure Receipt where
  port : Fin 48
  letterId : Word
  status : BitVec 16
  final : Bool
  device : BitVec 4
  progress : Word
  retryUs : Word
  opcode : BitVec 16
  session : BitVec 16
  results : List Byte
  train : List Line
  deriving DecidableEq, Repr

/-- Quotas of a tenant (R328, R347). -/
structure Quota where
  maxOpen : Nat := 0
  maxResident : Nat := 0
  minResident : Nat := 0
  maxStackGib : Nat := 0
  maxBudget : Nat := 0
  maxFamily : Nat := 0
  fixedSlots : Bool := false
  deriving DecidableEq, Repr

/-- A tenant's key (R326, R327, R512): current generation, its key, SALT and COUNTER, and an older generation being resealed, with its key and SALT. -/
structure TenantKey where
  gen : Nat := 0
  key : BitVec 256 := 0
  salt : Word := 0
  counter : BitVec 64 := 0
  older : Option (Nat × BitVec 256 × Word) := none
  deriving DecidableEq, Repr

/-- A wave the Postmaster holds until it commits (R455): its inputs and the position of the first; the drafts
it verifies with their distributions (R219, R220); whether it belongs to an ADAPT (R200); in fixed-time slots whether it ran
beyond its slot and the logits whose tokens wait to be released (R329). -/
structure Wave where
  session : BitVec 16
  letter : Option LetterKey
  inputs : List Word
  first : Nat
  drafts : List (Word × List Word) := []
  adapt : Bool := false
  replay : Bool := false
  discarded : Bool := false
  fixedSlot : Bool := false
  late : Bool := false
  result : Option (List (List Word)) := none
  deriving DecidableEq, Repr

/-! ## Images and the placement -/

/-- An image being staged through a gate (R370, R371): its image lines so far (64 bytes each), its running letter, the chunks
held and their plaintext records. -/
structure Staging where
  kind : Byte
  slot : Byte
  lines : List (BitVec 512) := []
  key : Option LetterKey := none
  chunk : Nat := 0
  records : List Line := []
  deriving DecidableEq, Repr

/-- A held image (R372): kind, slot and its plaintext records, with their SHA-512; `lost` marks one that has lost master
lines with a stack (R452, R465). -/
structure Image where
  kind : Byte
  slot : Byte
  records : List Line
  digest : BitVec 512
  lost : Bool := false
  deriving DecidableEq, Repr

/-- A section-directory entry (R277). -/
structure Section where
  kind : BitVec 16
  scope : BitVec 16
  alt : Byte
  offset : Nat
  length : Nat
  deriving DecidableEq, Repr

/-- A stage descriptor (R279) with its tiles and ARGs in list order (R283). -/
structure Stage where
  kind : Byte := 0
  flags : Byte := 0
  layer : BitVec 16 := 0
  regThreshold : BitVec 16 := 64
  regBudget : Nat := 4
  dwellMax : Nat := 1
  cacheFmt : Byte := 0
  topK : Nat := 0
  kdims : Nat := 0
  vdims : Nat := 0
  vShared : Bool := false
  decay : Word := 0x3F7AE148
  cacheTscale : Word := 0
  routeScale : Word := 0
  gateMode : Byte := 0
  heads : Nat := 0
  bypassThreshold : Word := 0
  tiles : List (TileId × Word) := []
  deriving DecidableEq, Repr

/-- A lodging-list entry (R287). -/
structure LodgeEntry where
  expert : BitVec 16
  home : Nat
  cls : Byte
  first : Nat
  lines : Nat
  mask : BitVec 16
  deriving DecidableEq, Repr

/-- The placement in force (R276 to R288). -/
structure Placement where
  imageId : BitVec 64 := 0
  weightsId : BitVec 64 := 0
  profiles : Byte := 0
  draftLimit : Nat := 0
  vocab : Nat := 0
  retiredMask : BitVec 64 := 0
  layers : Nat := 0
  sections : List Section := []
  lines : List Line := []
  stages : List Stage := []
  lodging : List LodgeEntry := []
  alternate : Option (BitVec 6) := none
  deriving DecidableEq, Repr

/-- State of a lodging stage (R213). -/
inductive LodgeState where
  | empty | lodging | lodged
  deriving DecidableEq, Repr

/-- A lodging-table entry (R213): the tokens that wait for a lodging carry the time they came, for WAIT_US (R210). -/
structure LodgeStage where
  st : LodgeState := .empty
  expert : BitVec 16 := 0
  pending : Nat := 0
  waiting : List (Word × BitVec 64) := []
  lastUse : Nat := 0
  pinned : Bool := false
  deriving DecidableEq, Repr

/-- A memory stack and its controller (R214, R464, R547). -/
structure Stack where
  st : BitVec 3 := 0
  stages : Tbl LodgeStage := []
  queue : List (BitVec 16 × Word × BitVec 64) := []
  uses : Nat := 0
  corrLast : BitVec 16 := 0
  highSeconds : Byte := 0
  uncorr : Byte := 0
  rimIn : List Flit := []
  deriving DecidableEq, Repr

/-- Routing record of an expert (R210). -/
structure ExpertCount where
  routed : Word := 0
  lodgings : Word := 0
  waitUs : Word := 0
  deriving DecidableEq, Repr

/-- Swap of a candidate (R375 to R378, R383): its build, the staging pages of a staged swap, the COMMIT_SWAP that waits or
runs, whether admission is closed for it, the image whose copy stands in the free halves, and the members still to report. -/
structure Swap where
  candidate : Option (BitVec 64) := none
  building : Bool := false
  built : Bool := false
  half : Bool := false
  pages : List (TileId × List Nat) := []
  letter : Option LetterKey := none
  flipping : Bool := false
  previous : Option (BitVec 64) := none
  members : List (BitVec 4) := []
  deriving DecidableEq, Repr

/-! ## Mailboxes, links, power, journal, roles, management -/

/-- One end of a mailbox (R361 to R366): staged words, inbound queue, acknowledgement, status, control, the interrupts raised to
its processor, and the SEQ of its next letter message. -/
structure Mbx where
  tx : Tbl Word := []
  inq : List (List (BitVec 64)) := []
  peerAck : Word := 0
  ackMismatch : Bool := false
  refused : Bool := false
  ctrl : BitVec 3 := 1
  interrupts : Nat := 0
  nextSeq : BitVec 16 := 0
  deriving DecidableEq, Repr

/-- Port state (R524, R534). -/
inductive PortState where
  | down | training | up | conflict | failed
  deriving DecidableEq, Repr

/-- A Denor port (R515 to R524, R534). -/
structure LinkPort where
  st : PortState := .down
  width : BitVec 2 := 0
  reversed : Bool := false
  host : Bool := false
  peer : BitVec 4 := 0
  keyId : BitVec 48 := 0
  polarity : Byte := 0
  lanesGood : Byte := 0
  naks : BitVec 16 := 0
  retrains : Byte := 0
  ctrlIgnored : Byte := 0
  rxSeq : BitVec 16 := 0
  nakSent : Option (BitVec 16) := none
  nakRun : Nat := 0
  txSeq : BitVec 16 := 0
  replayBuf : List (BitVec 20560) := []
  replayFrom : Option (BitVec 16) := none
  credit : Tbl Nat := []
  txSlots : List (BitVec 4 × BitVec 704) := []
  line : Option (BitVec 20560) := none
  delivered : List (BitVec 4 × BitVec 704) := []
  acks : List (BitVec 64) := []
  heldReceipts : List Receipt := []
  firmwarePending : Bool := false
  powered : Bool := true
  deriving DecidableEq, Repr

/-- A link chiplet and its host-port adapter (R526, R529). -/
structure Chiplet where
  retired : Bool := false
  notes : List (TileId × BitVec 4 × Byte × TileId) := []
  buffers : List (BitVec 16 × Byte × Word) := []
  outbound : List (Fin 48 × Flit) := []
  rimIn : List Flit := []
  deriving DecidableEq, Repr

/-- A journal record (R481), with whether both keepers have written it. -/
structure JRecord where
  kind : BitVec 16
  seqNo : BitVec 64
  time : BitVec 64
  key : Word
  ckpt : Bool := false
  single : Bool := false
  body : List Byte
  committed : Bool := false
  obsolete : Bool := false
  deriving DecidableEq, Repr

/-- The journal (R480 to R486). -/
structure Journal where
  records : List JRecord := []
  nextSeq : BitVec 64 := 0
  throttled : Bool := false
  withheld : Nat := 0
  mounted : Bool := false
  commitBegin : BitVec 64 := 0
  deriving DecidableEq, Repr

/-- Firmware of an agent class (R487 to R490, R510): the lines of a staging, whether the staged slot is valid, the slot each
instance runs (true: B), the instances still to boot, and those that run the staged slot (`newer`). -/
structure FwAgent where
  staged : List Line := []
  valid : Bool := false
  stagedSvn : BitVec 16 := 0
  minSvn : BitVec 16 := 0
  active : Tbl Bool := []
  digestA : BitVec 512 := 0
  digestB : BitVec 512 := 0
  pendingInst : List Nat := []
  booting : Option Nat := none
  letter : Option LetterKey := none
  onMgmt : Bool := false
  newer : List Nat := []
  deriving DecidableEq, Repr

/-- An open role on a port (R499 to R501): last use, and for the maker its end and SCOPE. -/
structure OpenRole where
  maker : Bool
  lastUse : BitVec 64
  until_ : BitVec 64
  scope : BitVec 16
  deriving DecidableEq, Repr

/-- Coolant readings and alarms (R434 to R441). -/
structure Coolant where
  flowIn : BitVec 16 := 0
  flowOut : BitVec 16 := 0
  inlet : BitVec 16 := 0
  outlet : BitVec 16 := 0
  lowSamples : Nat := 0
  hotInletSamples : Nat := 0
  flowAlarm : Bool := false
  flowStop : Bool := false
  inletAlarm : Bool := false
  meterSuspect : Bool := false
  sensorFailed : Bool := false
  outletActing : Bool := false
  outletTermW : Nat := 20000
  deriving DecidableEq, Repr

/-- Wear ledger times in µs (R444); the cycle bins stand with their fields. -/
structure Wear where
  operatingUs : Nat := 0
  boostUs : Nat := 0
  hotUs : Nat := 0
  deriving DecidableEq, Repr

/-- Firmware update state of the management port (R531, R533). -/
inductive UpdState where
  | idle | learn | ready | download | verify | apply
  deriving DecidableEq, Repr

/-- What PlatformEventMessage reports (R532). -/
inductive PlatformEvent where
  | flowAlarm | flowStop | breaker (f : Nat) | sealBreak | deviceState (v : Byte) | standbyLost
  deriving DecidableEq, Repr

/-- What the management endpoint answers: a body whose content is MCTP's or PLDM's, a value the manual gives, or one of the
refusals R531 and R533 name. -/
inductive MgmtReply where
  | body (bytes : List Byte)
  | value (v : Word)
  | unsupported
  | alreadyInUpdateMode
  deriving DecidableEq, Repr

/-- The management endpoint (R531 to R533). -/
structure Mgmt where
  eid : Byte := 0
  tid : Byte := 0
  receiver : Option Byte := none
  replies : List MgmtReply := []
  events : List PlatformEvent := []
  sentEvents : List (Byte × PlatformEvent) := []
  alert : Bool := false
  upd : UpdState := .idle
  component : Option (BitVec 16) := none
  updLines : List Line := []
  bodies : Nat := 0
  deriving DecidableEq, Repr

/-- Bring-up progress, by the steps of R473 that have completed. -/
structure BringUp where
  step : Nat := 0
  warm : Bool := false
  ringsStarted : Nat := 0
  keepersUp : Bool := false
  warmable : Bool := false
  hardShutdown : Bool := false
  deriving DecidableEq, Repr

/-- The input and the power controllers (R405 to R411, R546). -/
structure Power where
  mainClosed : Bool := false
  precharge : Bool := false
  charged : Bool := false
  presence : Bool := false
  outOfRange : Bool := false
  vin : BitVec 16 := 0
  active : Option (Fin 2) := none
  twinOk : Bool := false
  takeovers : Tbl (BitVec 16) := []
  otherRailsOn : Bool := false
  watts : Nat := 0
  capW : BitVec 16 := 0x5FB4
  sustainedW : BitVec 16 := 0x4E20
  credit : Nat := 10000
  refillTicks : Nat := 0
  currentSeq : Word := 0
  currentRing : List (Word × List Line) := []
  thermalSeq : Word := 0
  thermalRing : List (Word × List Line) := []
  deriving DecidableEq, Repr

/-- A keeper (R502, R543, R548). -/
structure Keeper where
  role : BitVec 2 := 0
  pressed : Bool := false
  presenceLight : BitVec 2 := 0
  statusLight : BitVec 4 := 0
  timeHigh : Tbl (Option Word) := []
  rimIn : List Flit := []
  deriving DecidableEq, Repr

/-- A pending installer ROLE_OPEN (R500). -/
structure RoleWait where
  key : LetterKey
  deriving DecidableEq, Repr

/-- The device manager's and the Postmaster's state. -/
structure Dev where
  time : BitVec 64 := 0
  member : BitVec 4 := 0
  members : BitVec 16 := 0
  standbyLost : Bool := false
  activeKeeper : Fin 2 := 0
  profile : BitVec 2 := 1
  nextProfile : BitVec 2 := 1
  deviceState : Byte := 1
  quiesced : Bool := false
  draining : Bool := false
  drainLetter : Option LetterKey := none
  drainPeers : BitVec 16 := 0
  keeperLagAlarm : Bool := false
  keeperLagMs : Word := 0
  csrErr : Word := 0
  csrAddr : Word := 0
  distGen : BitVec 16 := 0
  published : Bool := false
  keeperTo : Byte := 0xFF
  expressTenant : BitVec 12 := 0
  nextTenant : BitVec 12 := 0
  favoured : BitVec 16 := 0
  slotUs : BitVec 16 := 10
  quotas : Tbl Quota := []
  overruns : Tbl Word := []
  autoParks : Tbl Word := []
  sessions : Tbl Session := []
  families : Tbl (List (BitVec 16)) := []
  letters : List LetterRec := []
  receipts : List Receipt := []
  receiptsOut : Nat := 0
  retries : Nat := 0
  forwarded : List (BitVec 4 × BitVec 16 × Letter) := []
  ownLetters : List (BitVec 4 × BitVec 16 × BitVec 16) := []
  waves : Tbl (Option Wave) := []
  nextWave : Byte := 0
  purged : List Byte := []
  admissionClosed : Bool := false
  wavesHeld : Bool := false
  orders : List (Byte × BitVec 4) := []
  cards : List CardRun := []
  exclusive : Option LetterKey := none
  staging : Tbl (Option Staging) := []
  images : Tbl (Option Image) := []
  adapters : Tbl (BitVec 64) := []
  grammars : Tbl (BitVec 64) := []
  placement : Option Placement := none
  loadFor : Option LetterKey := none
  swap : Swap := {}
  pinned : Tbl (Option Byte) := []
  experts : Tbl ExpertCount := []
  dumps : Tbl Nat := []
  notes : List (BitVec 64) := []
  halts : List TileId := []
  keeperOut : List (BitVec 16 × List Line) := []
  keeperSent : Nat := 0
  migrateOut : List (BitVec 16 × BitVec 4) := []
  arrivals : Nat := 0
  keeperStore : Tbl (Option Session) := []
  tenantKeys : Tbl TenantKey := []
  salts : Nat := 0
  wrapKeys : Tbl (Option (BitVec 256)) := []
  authImages : List (BitVec 64) := []
  roles : Tbl (List OpenRole) := []
  roleWaits : List RoleWait := []
  authSeq : BitVec 64 := 0
  sealState : Byte := 1
  sealBreaks : Word := 0
  sealTime : BitVec 64 := 0
  resealArmed : Bool := false
  resealAt : BitVec 64 := 0
  j7 : Bool := false
  loopClosed : Bool := true
  measures : Nat := 0
  trailLooks : Nat := 0
  lastWave : BitVec 64 := 0
  adapts : Nat := 0
  heldSince : Option (BitVec 64) := none
  reloads : List TileId := []
  drainMigrated : Nat := 0
  drainLeft : Nat := 0
  deriving DecidableEq, Repr

/-- The whole device, and the commands that wait for it, first in, first out. -/
structure State where
  pending : List Instr := []
  tiles : Tbl Tile := []
  blocks : Tbl Block := []
  fieldCtls : Tbl FieldCtl := []
  stackCtls : Tbl Stack := []
  chiplets : Tbl Chiplet := []
  ports : Tbl LinkPort := []
  mailboxes : Tbl Mbx := []
  keepers : Tbl Keeper := []
  fw : Tbl FwAgent := []
  dev : Dev := {}
  power : Power := {}
  coolant : Coolant := {}
  wear : Wear := {}
  journal : Journal := {}
  bring : BringUp := {}
  mgmt : Mgmt := {}
  deriving DecidableEq, Repr

/-- Why the machine would stop. It has no constructor: the manual gives every command an effect, and where it leaves a value
open the command goes on with a free value. -/
inductive Fault
  deriving DecidableEq, Repr

/-- Why the model gives no meaning. -/
inductive Refusal where
  /-- A command without a meaning yet. Safe: nothing is claimed of it. -/
  | notModelled (mnemonic : String)
  deriving DecidableEq, Repr

/-- The device right after reset: no command waits, no power has come yet, and every register holds its reset value. -/
def State.reset : State := {}

end Sys2Proof.Machine
end

