-- ==== Sys2Proof/Machine/Table.lean ====
section
/-! DEFINITION. Sparse tables and memories: reading and writing one entry in the canonical form, reading and writing
lines of 72 bytes, and the byte, word and field helpers every unit uses (R9, R10, R34). -/

namespace Sys2Proof.Machine

/-- The value at key `i`: the listed one, or the table's default `d`. -/
def Tbl.get {α : Type} (d : α) : Tbl α → Nat → α
  | [], _ => d
  | (k, v) :: t, i => if i = k then v else Tbl.get d t i

/-- Enter `v` at key `i`, keeping the keys rising. -/
def Tbl.insert {α : Type} : Tbl α → Nat → α → Tbl α
  | [], i, v => [(i, v)]
  | (k, w) :: t, i, v =>
    if i < k then (i, v) :: (k, w) :: t
    else if i = k then (i, v) :: t
    else (k, w) :: Tbl.insert t i v

/-- Take key `i` out of the list. -/
def Tbl.erase {α : Type} : Tbl α → Nat → Tbl α
  | [], _ => []
  | (k, w) :: t, i => if i = k then Tbl.erase t i else (k, w) :: Tbl.erase t i

/-- Write `v` at key `i`; the default is not listed. -/
def Tbl.set {α : Type} [DecidableEq α] (d : α) (t : Tbl α) (i : Nat) (v : α) : Tbl α :=
  if v = d then Tbl.erase t i else Tbl.insert t i v

/-- The canonical form: keys strictly rising, no value equal to the default. -/
def Tbl.wf {α : Type} [DecidableEq α] (d : α) : Tbl α → Bool
  | [] => true
  | [(_, v)] => decide (v ≠ d)
  | (k, v) :: (k', v') :: t => decide (v ≠ d) && decide (k < k') && Tbl.wf d ((k', v') :: t)

/-- Change one entry. -/
def Tbl.upd {α : Type} [DecidableEq α] (d : α) (t : Tbl α) (i : Nat) (f : α → α) : Tbl α :=
  Tbl.set d t i (f (Tbl.get d t i))

/-- The canonical form of a memory: addresses strictly rising, no byte equal to 0x00, what an unlisted address reads as. -/
abbrev Memory.wf (m : Mem) : Bool := Tbl.wf (0 : Byte) m

/-- One byte of a memory. -/
def Mem.readByte (m : Mem) (a : Nat) : Byte := Tbl.get (0 : Byte) m a

/-- Write one byte of a memory. -/
def Mem.writeByte (m : Mem) (a : Nat) (b : Byte) : Mem := Tbl.set (0 : Byte) m a b

/-- Change every listed value; one that becomes the default leaves the list. -/
def Tbl.mapV {α : Type} [DecidableEq α] (d : α) (f : α → α) (t : Tbl α) : Tbl α :=
  (t.map (fun e => (e.1, f e.2))).filter (fun e => decide (e.2 ≠ d))

/-! ## Lines, words and bytes -/

/-- Byte `i` of a bit string stored little-endian. -/
def byteAt {n : Nat} (x : BitVec n) (i : Nat) : Byte := (x >>> (8 * i)).setWidth 8

/-- Word `j` (32 bits) of a bit string stored little-endian. -/
def wordAt {n : Nat} (x : BitVec n) (j : Nat) : Word := (x >>> (32 * j)).setWidth 32

/-- Bits [lo + w − 1 : lo] as a number (R10). -/
def bitsAt {n : Nat} (x : BitVec n) (lo w : Nat) : Nat := (x.toNat >>> lo) % 2 ^ w

/-- Bits [lo + w − 1 : lo] as a bit string. -/
def fieldAt {n : Nat} (x : BitVec n) (lo w : Nat) : BitVec w := (x >>> lo).setWidth w

/-- `x` with bits [lo + w − 1 : lo] replaced by `v`. -/
def putField {n w : Nat} (x : BitVec n) (lo : Nat) (v : BitVec w) : BitVec n :=
  (x &&& ~~~((BitVec.setWidth n (BitVec.allOnes w)) <<< lo)) ||| ((v.setWidth n) <<< lo)

/-- Bit `i`. -/
def bitAt {n : Nat} (x : BitVec n) (i : Nat) : Bool := x.getLsbD i

/-- A Bool as a bit. -/
def bit (b : Bool) : BitVec 1 := BitVec.ofBool b

/-- A number stored little-endian from bytes. -/
def leNat : List Byte → Nat
  | [] => 0
  | b :: bs => b.toNat + 256 * leNat bs

/-- The low `n` bytes of a number, least significant first (R9). -/
def leBytes : Nat → Nat → List Byte
  | 0, _ => []
  | n + 1, x => BitVec.ofNat 8 x :: leBytes n (x / 256)

/-- The bytes of a bit string of n bytes. -/
def bytesOf {w : Nat} (n : Nat) (x : BitVec w) : List Byte := leBytes n x.toNat

/-- Field of `n` bytes at `off` in a byte string, as a number; bytes beyond the end read 0. -/
def leAt (bs : List Byte) (off n : Nat) : Nat := leNat ((bs.drop off).take n)

/-- A line from its bytes. -/
def lineOfBytes (bs : List Byte) : Line := BitVec.ofNat 576 (leNat bs)

/-- Byte address of line `l`. -/
def lineAddr (l : Nat) : Nat := 72 * l

/-- Read line `l` of a memory, byte by byte. -/
def Mem.readLine (m : Mem) (l : Nat) : Line :=
  lineOfBytes ((List.range 72).map (fun i => Mem.readByte m (lineAddr l + i)))

/-- Write the bytes `bs` from address `a` upward. -/
def Mem.writeBytes (m : Mem) (a : Nat) : List Byte → Mem
  | [] => m
  | b :: bs => Mem.writeBytes (Mem.writeByte m a b) (a + 1) bs

/-- Write line `l` of a memory. -/
def Mem.writeLine (m : Mem) (l : Nat) (x : Line) : Mem := Mem.writeBytes m (lineAddr l) (bytesOf 72 x)

/-- Write consecutive lines from line `l` upward. -/
def Mem.writeLines (m : Mem) (l : Nat) : List Line → Mem
  | [] => m
  | x :: xs => Mem.writeLines (Mem.writeLine m l x) (l + 1) xs

/-- Read `n` consecutive lines from line `l`. -/
def Mem.readLines (m : Mem) (l n : Nat) : List Line := (List.range n).map (fun i => Mem.readLine m (l + i))

/-! ## Saturating and wrapping counts -/

/-- Add `n` to a count that saturates at all ones. -/
def satAdd {w : Nat} (x : BitVec w) (n : Nat) : BitVec w := BitVec.ofNat w (min (x.toNat + n) (2 ^ w - 1))

/-- Entry `i` of a list, or a default. -/
def nth {α : Type} (d : α) (l : List α) (i : Nat) : α := l.getD i d

/-- Replace entry `i` of a list. -/
def setNth {α : Type} : List α → Nat → α → List α
  | [], _, _ => []
  | _ :: xs, 0, v => v :: xs
  | x :: xs, i + 1, v => x :: setNth xs i v

/-- Split a list into runs of `n`, at most `fuel` of them. -/
def chunks {α : Type} (n : Nat) : Nat → List α → List (List α)
  | 0, _ => []
  | fuel + 1, xs => if xs.isEmpty then [] else xs.take n :: chunks n fuel (xs.drop n)

end Sys2Proof.Machine
end

