-- ==== Sys2Proof/Decode.lean ====
section
/-! DEFINITION. The table's command words (it gives none any bits), and the 64-bit words of a tile's instruction memory:
which encodings are legal, the word of an instruction, and the decoder (R239 to R263). -/

namespace Sys2Proof

open Sys2Proof.Machine

/-- The command that a word of the opcode table spells: the table gives no row any bits, so none. -/
def decodeTableWord (_nbits _w : Nat) : Option Instr := none

/-! ## Legal encodings (R240 to R263) -/

/-- IMM with field B not 0 is illegal (R241). -/
def ScalarOps.ok (f : ScalarOps) : Bool := !f.imm || f.b == 0

/-- The layout where operand B is unused: B, IMM and IMM32 are 0 (R241). -/
def ScalarOps.okUnary (f : ScalarOps) : Bool := f.b == 0 && !f.imm && f.imm32 == 0

/-- A 5-bit field that names an address register has its top bit at 0 (R240). -/
def addrOk (r : BitVec 5) : Bool := !r.getLsbD 4

def PassOps.isCache (f : PassOps) : Bool := f.wfmt == 8 || f.wfmt == 9

/-- Legal PASS encodings, but for TALLY = 0, which depends on TEST (R244, R245, R247). -/
def PassOps.ok (f : PassOps) : Bool :=
  f.steps != 0 &&
  (f.wfmt == 1 || f.wfmt == 2 || f.wfmt == 3 || f.wfmt == 4 || f.wfmt == 5 || f.isCache) &&
  (f.isCache || (!f.view && !f.half)) &&
  (f.wfmt == 1 || f.wfmt == 2 || f.wfmt == 3 || f.sc == 0)

/-- FIN encodings by operation (R251 to R253). -/
def FinOps.ok (fop : Nat) (f : FinOps) : Bool :=
  let yv := fop ≤ 6 || fop == 0x10
  let opx := f.opx.toNat
  (!f.xslot || !(fop == 0x0D || fop == 0x17)) &&
  (!f.yscal || yv) &&
  (if fop == 0x0C then decide (opx < 4)
   else if fop == 0x0D then decide (opx < 4) && f.count == 0
   else if fop == 0x0E || fop == 0x0F then decide (opx < 32)
   else if fop == 0x10 then decide (opx ≠ 0) && f.ss != 31
   else if fop == 0x12 || fop == 0x13 then decide (opx < 64) && decide (opx / 2 % 16 < 8)
   else if fop == 0x14 then decide (opx < 3)
   else if fop == 0x17 then decide (opx < 2)
   else decide (opx = 0))

/-- POST fields a COPY does not use are 0, and no memory code is reserved (R255). -/
def PostOps.okCopy (f : PostOps) : Bool :=
  f.smem != 3 && f.dmem != 3 && f.tmpl == 0 && !f.treg && f.st == 0 && !f.reg && !f.last && f.byp == 0 && f.sp == 0

def PostOps.okSend (f : PostOps) : Bool := f.smem != 3 && f.dmem == 0 && f.ad == 0 && f.byp != 3

def PostOps.okPull (f : PostOps) : Bool :=
  (f.smem == 0 || f.smem == 1) && f.dmem == 0 && f.ad == 0 && !f.reg && !f.last && f.byp == 0

/-- The circular request is a PULL with SMEM 0b11 and LINES 0 (R255). -/
def PostOps.okCircular (f : PostOps) : Bool :=
  f.dmem == 0 && f.ad == 0 && !f.reg && !f.last && f.byp == 0 && f.lines == 0

def TakeOps.ok (f : TakeOps) : Bool := !f.env || decide (f.se.toNat ≤ 28)
def ClaimOps.ok (f : ClaimOps) : Bool := f.mem != 3

/-- A pigeonhole WAIT counts 1 to 32 entries (R259). -/
def WaitOps.okPigeonhole (f : WaitOps) : Bool := decide (1 ≤ f.id.toNat) && decide (f.id.toNat ≤ 32)

def CardOps.okArrive (f : CardOps) : Bool := f.dclass == 0 && f.dest == 0
def CardOps.okUser (f : CardOps) : Bool := f.dclass == 0 || f.dclass == 3

/-- PURPOSE is UNIFORM's alone; DRAW and ACCEPT read the registers after SS (R240, R263). -/
def SampleOps.ok (sop : Nat) (f : SampleOps) : Bool :=
  (if sop == 4 then decide (f.purpose.toNat < 4) else f.purpose == 0) &&
  (if sop == 5 then f.ss != 31 else if sop == 6 then decide (f.ss.toNat < 30) else true)

/-- The static legality of a tile instruction's fields; commands of other kinds have no encoding. -/
def Instr.encodingOk : Instr → Bool
  | .add _ f => f.ok
  | .sub _ f => f.ok
  | .mul _ f => f.ok
  | .and _ f => f.ok
  | .or _ f => f.ok
  | .xor _ f => f.ok
  | .shl _ f => f.ok
  | .shr _ f => f.ok
  | .sra _ f => f.ok
  | .slt _ f => f.ok
  | .sltu _ f => f.ok
  | .fadd _ f => f.ok
  | .fmul _ f => f.ok
  | .flt _ f => f.ok
  | .frcp _ f => f.okUnary
  | .ldw _ f _ => !f.f32
  | .stw _ _ _ => true
  | .movc _ f => f.imm && f.a == 0 && f.b == 0 && decide (f.imm32.toNat < 7)
  | .aset _ f => f.ok && addrOk f.d
  | .ainc _ f => f.ok && f.a == 0 && addrOk f.d
  | .aget _ f => f.okUnary && addrOk f.a
  | .beq _ _ => true
  | .bne _ _ => true
  | .blt _ _ => true
  | .bge _ _ => true
  | .jmp _ f => f.a == 0 && f.b == 0
  | .loop _ _ => true
  | .pass _ f _ => f.ok
  | .preloadZero _ _ => true
  | .preloadVector _ _ => true
  | .drainToF32 _ _ => true
  | .drainToA8r _ _ => true
  | .drainToA8 _ _ => true
  | .finAdd _ f => f.ops.ok 0x00
  | .finSub _ f => f.ops.ok 0x01
  | .finMul _ f => f.ops.ok 0x02
  | .finFma _ f => f.ops.ok 0x03
  | .finMin _ f => f.ops.ok 0x04
  | .finMax _ f => f.ops.ok 0x05
  | .finCmpgt _ f => f.ops.ok 0x06
  | .finCopy _ f => f.ops.ok 0x07
  | .finRecip _ f => f.ops.ok 0x08
  | .finRsqrt _ f => f.ops.ok 0x09
  | .finExp _ f => f.ops.ok 0x0A
  | .finExpm _ f => f.ops.ok 0x0B
  | .finLookup _ f => f.ops.ok 0x0C
  | .finLoadtbl _ f => f.ops.ok 0x0D
  | .finLanesum _ f => f.ops.ok 0x0E
  | .finSumsq _ f => f.ops.ok 0x0F
  | .finRms _ f => f.ops.ok 0x10
  | .finRope _ f => f.ops.ok 0x11
  | .finMaxidx _ f => f.ops.ok 0x12
  | .finMinidx _ f => f.ops.ok 0x13
  | .finQuant _ f => f.ops.ok 0x14
  | .finMask _ f => f.ops.ok 0x15
  | .finKill _ f => f.ops.ok 0x16
  | .finClear _ f => f.ops.ok 0x17
  | .postCopy _ f => f.okCopy
  | .postSend _ f => f.okSend
  | .postPull _ f => f.okPull
  | .postCircularRequest _ f => f.okCircular
  | .take _ f _ => f.ok
  | .reduce _ _ => true
  | .claim _ f => f.ok
  | .release _ _ => true
  | .waitPigeonhole _ f => f.okPigeonhole
  | .waitScoreboard _ _ => true
  | .waitBarrier _ _ => true
  | .waitUserCard _ _ => true
  | .waitDescriptors _ _ => true
  | .waitSlots _ _ => true
  | .cardBarrierArrive _ f => f.okArrive
  | .cardUser _ f => f.okUser
  | .folioList _ _ => true
  | .folioAppend _ _ => true
  | .folioWeevil _ _ => true
  | .folioBound _ _ => true
  | .folioCommit _ _ => true
  | .sampleSetup _ f => f.ops.ok 0
  | .sampleGmask _ f => f.ops.ok 1
  | .samplePenalty _ f => f.ops.ok 2
  | .sampleTemp _ f => f.ops.ok 3
  | .sampleUniform _ f => f.ops.ok 4
  | .sampleDraw _ f => f.ops.ok 5
  | .sampleAccept _ f => f.ops.ok 6
  | .sampleResid _ f => f.ops.ok 7
  | .sampleGstep _ f => f.ops.ok 8
  | _ => true

/-! ## Words of tile instructions (R239) -/

/-- A word from its opcode and the value of its bits [55:0]. -/
def opWord (op body : Nat) : BitVec 64 := BitVec.ofNat 64 (op * 2 ^ 56 + body)

def ScalarOps.body (f : ScalarOps) : Nat :=
  f.d.toNat * 2 ^ 51 + f.a.toNat * 2 ^ 46 + f.b.toNat * 2 ^ 41 + f.imm.toNat * 2 ^ 40 + f.imm32.toNat

def LoadStoreOps.body (f : LoadStoreOps) : Nat :=
  f.d.toNat * 2 ^ 51 + f.a.toNat * 2 ^ 47 + f.offset.toNat * 2 ^ 16 + f.f32.toNat * 2 ^ 8 + f.word.toNat

def BranchOps.body (f : BranchOps) : Nat := f.a.toNat * 2 ^ 51 + f.b.toNat * 2 ^ 46 + f.target.toNat

def LoopOps.body (f : LoopOps) : Nat := f.a.toNat * 2 ^ 51 + f.count.toNat * 2 ^ 32 + f.stop.toNat

def PassOps.body (f : PassOps) : Nat :=
  f.aw.toNat * 2 ^ 52 + f.aa.toNat * 2 ^ 48 + f.steps.toNat * 2 ^ 36 + f.dwell.toNat * 2 ^ 33 + f.slot.toNat * 2 ^ 29 +
  f.wfmt.toNat * 2 ^ 25 + f.view.toNat * 2 ^ 24 + f.reg.toNat * 2 ^ 23 + f.nozs.toNat * 2 ^ 22 + f.tally.toNat * 2 ^ 21 +
  f.sc.toNat * 2 ^ 16 + f.half.toNat * 2 ^ 15

def PreloadOps.body (vec : Nat) (f : PreloadOps) : Nat :=
  f.slot.toNat * 2 ^ 52 + f.n.toNat * 2 ^ 49 + vec * 2 ^ 48 + f.av.toNat * 2 ^ 44 + f.sf.toNat * 2 ^ 39

def DrainOps.body (target : Nat) (f : DrainOps) : Nat :=
  f.slot.toNat * 2 ^ 52 + f.n.toNat * 2 ^ 49 + target * 2 ^ 47 + f.keep.toNat * 2 ^ 46 + f.ad.toNat * 2 ^ 42 +
  f.st.toNat * 2 ^ 37

def FinOps.body (fop : Nat) (f : FinOps) : Nat :=
  fop * 2 ^ 50 + f.ad.toNat * 2 ^ 46 + f.ax.toNat * 2 ^ 42 + f.ay.toNat * 2 ^ 38 + f.xslot.toNat * 2 ^ 37 +
  f.yscal.toNat * 2 ^ 36 + f.ss.toNat * 2 ^ 31 + f.count.toNat * 2 ^ 23 + f.opx.toNat

def PostOps.body (op smem : Nat) (f : PostOps) : Nat :=
  op * 2 ^ 54 + smem * 2 ^ 52 + f.dmem.toNat * 2 ^ 50 + f.as.toNat * 2 ^ 46 + f.ad.toNat * 2 ^ 42 + f.tmpl.toNat * 2 ^ 36 +
  f.lines.toNat * 2 ^ 24 + f.reg.toNat * 2 ^ 23 + f.last.toNat * 2 ^ 22 + f.byp.toNat * 2 ^ 20 + f.sp.toNat * 2 ^ 15 +
  f.treg.toNat * 2 ^ 14 + f.st.toNat * 2 ^ 9

def TakeOps.body (f : TakeOps) : Nat :=
  f.queue.toNat * 2 ^ 52 + f.ad.toNat * 2 ^ 48 + f.count.toNat * 2 ^ 40 + f.ctx.toNat * 2 ^ 39 + f.reg.toNat * 2 ^ 38 +
  f.env.toNat * 2 ^ 37 + f.se.toNat * 2 ^ 32

def ReduceOps.body (f : ReduceOps) : Nat :=
  f.as.toNat * 2 ^ 52 + f.tmpl.toNat * 2 ^ 46 + f.lines.toNat * 2 ^ 38 + f.sp.toNat * 2 ^ 33

def ClaimOps.body (f : ClaimOps) : Nat :=
  f.drain.toNat * 2 ^ 55 + f.mem.toNat * 2 ^ 53 + f.ar.toNat * 2 ^ 49 + f.lines.toNat * 2 ^ 37 + f.sd.toNat * 2 ^ 32

def WaitOps.body (cond : Nat) (f : WaitOps) : Nat :=
  cond * 2 ^ 53 + f.arg.toNat * 2 ^ 49 + f.n.toNat * 2 ^ 46 + f.id.toNat * 2 ^ 38 + f.sd.toNat * 2 ^ 33

def CardOps.body (typ : Nat) (f : CardOps) : Nat :=
  typ * 2 ^ 52 + f.dclass.toNat * 2 ^ 49 + f.dest.toNat * 2 ^ 33 + f.sp.toNat * 2 ^ 28 + f.barrier.toNat * 2 ^ 20

def FolioOps.body (fop : Nat) (f : FolioOps) : Nat :=
  fop * 2 ^ 52 + f.af.toNat * 2 ^ 48 + f.ax.toNat * 2 ^ 44 + f.ad.toNat * 2 ^ 40 + f.ss.toNat * 2 ^ 35 + f.sd.toNat * 2 ^ 30 +
  f.layer.toNat * 2 ^ 14 + f.zero.toNat * 2 ^ 13

def SampleOps.body (sop : Nat) (f : SampleOps) : Nat :=
  sop * 2 ^ 52 + f.ad.toNat * 2 ^ 48 + f.ax.toNat * 2 ^ 44 + f.ay.toNat * 2 ^ 40 + f.ss.toNat * 2 ^ 35 + f.sd.toNat * 2 ^ 30 +
  f.count.toNat * 2 ^ 22 + f.purpose.toNat * 2 ^ 18

/-- The instruction word of a tile instruction (R239); 0 for every other command. -/
def Instr.word : Instr → BitVec 64
  | .add _ f => opWord 0x01 f.body
  | .sub _ f => opWord 0x02 f.body
  | .mul _ f => opWord 0x03 f.body
  | .and _ f => opWord 0x04 f.body
  | .or _ f => opWord 0x05 f.body
  | .xor _ f => opWord 0x06 f.body
  | .shl _ f => opWord 0x07 f.body
  | .shr _ f => opWord 0x08 f.body
  | .sra _ f => opWord 0x09 f.body
  | .slt _ f => opWord 0x0A f.body
  | .sltu _ f => opWord 0x0B f.body
  | .fadd _ f => opWord 0x0C f.body
  | .fmul _ f => opWord 0x0D f.body
  | .flt _ f => opWord 0x0E f.body
  | .frcp _ f => opWord 0x0F f.body
  | .ldw _ f _ => opWord 0x10 f.body
  | .stw _ f _ => opWord 0x11 f.body
  | .movc _ f => opWord 0x12 f.body
  | .aset _ f => opWord 0x18 f.body
  | .ainc _ f => opWord 0x19 f.body
  | .aget _ f => opWord 0x1A f.body
  | .beq _ f => opWord 0x20 f.body
  | .bne _ f => opWord 0x21 f.body
  | .blt _ f => opWord 0x22 f.body
  | .bge _ f => opWord 0x23 f.body
  | .jmp _ f => opWord 0x24 f.body
  | .loop _ f => opWord 0x25 f.body
  | .illegalInstruction _ w => w
  | .pass _ f _ => opWord 0x30 f.body
  | .preloadZero _ f => opWord 0x31 (f.ops.body 0)
  | .preloadVector _ f => opWord 0x31 (f.ops.body 1)
  | .drainToF32 _ f => opWord 0x32 (f.ops.body 0)
  | .drainToA8r _ f => opWord 0x32 (f.ops.body 1)
  | .drainToA8 _ f => opWord 0x32 (f.ops.body 2)
  | .finAdd _ f => opWord 0x38 (f.ops.body 0x00)
  | .finSub _ f => opWord 0x38 (f.ops.body 0x01)
  | .finMul _ f => opWord 0x38 (f.ops.body 0x02)
  | .finFma _ f => opWord 0x38 (f.ops.body 0x03)
  | .finMin _ f => opWord 0x38 (f.ops.body 0x04)
  | .finMax _ f => opWord 0x38 (f.ops.body 0x05)
  | .finCmpgt _ f => opWord 0x38 (f.ops.body 0x06)
  | .finCopy _ f => opWord 0x38 (f.ops.body 0x07)
  | .finRecip _ f => opWord 0x38 (f.ops.body 0x08)
  | .finRsqrt _ f => opWord 0x38 (f.ops.body 0x09)
  | .finExp _ f => opWord 0x38 (f.ops.body 0x0A)
  | .finExpm _ f => opWord 0x38 (f.ops.body 0x0B)
  | .finLookup _ f => opWord 0x38 (f.ops.body 0x0C)
  | .finLoadtbl _ f => opWord 0x38 (f.ops.body 0x0D)
  | .finLanesum _ f => opWord 0x38 (f.ops.body 0x0E)
  | .finSumsq _ f => opWord 0x38 (f.ops.body 0x0F)
  | .finRms _ f => opWord 0x38 (f.ops.body 0x10)
  | .finRope _ f => opWord 0x38 (f.ops.body 0x11)
  | .finMaxidx _ f => opWord 0x38 (f.ops.body 0x12)
  | .finMinidx _ f => opWord 0x38 (f.ops.body 0x13)
  | .finQuant _ f => opWord 0x38 (f.ops.body 0x14)
  | .finMask _ f => opWord 0x38 (f.ops.body 0x15)
  | .finKill _ f => opWord 0x38 (f.ops.body 0x16)
  | .finClear _ f => opWord 0x38 (f.ops.body 0x17)
  | .postCopy _ f => opWord 0x40 (f.body 0 f.smem.toNat)
  | .postSend _ f => opWord 0x40 (f.body 1 f.smem.toNat)
  | .postPull _ f => opWord 0x40 (f.body 2 f.smem.toNat)
  | .postCircularRequest _ f => opWord 0x40 (f.body 2 3)
  | .take _ f _ => opWord 0x41 f.body
  | .reduce _ f => opWord 0x42 f.body
  | .claim _ f => opWord 0x44 f.body
  | .release _ r => opWord 0x45 (r.toNat * 2 ^ 51)
  | .waitPigeonhole _ f => opWord 0x48 (f.body 0)
  | .waitScoreboard _ f => opWord 0x48 (f.body 1)
  | .waitBarrier _ f => opWord 0x48 (f.body 2)
  | .waitUserCard _ f => opWord 0x48 (f.body 3)
  | .waitDescriptors _ f => opWord 0x48 (f.body 4)
  | .waitSlots _ f => opWord 0x48 (f.body 5)
  | .cardBarrierArrive _ f => opWord 0x49 (f.body 5)
  | .cardUser _ f => opWord 0x49 (f.body 8)
  | .folioList _ f => opWord 0x50 (f.ops.body 0)
  | .folioAppend _ f => opWord 0x50 (f.ops.body 1)
  | .folioWeevil _ f => opWord 0x50 (f.ops.body 2)
  | .folioBound _ f => opWord 0x50 (f.ops.body 3)
  | .folioCommit _ f => opWord 0x50 (f.ops.body 4)
  | .sampleSetup _ f => opWord 0x58 (f.ops.body 0)
  | .sampleGmask _ f => opWord 0x58 (f.ops.body 1)
  | .samplePenalty _ f => opWord 0x58 (f.ops.body 2)
  | .sampleTemp _ f => opWord 0x58 (f.ops.body 3)
  | .sampleUniform _ f => opWord 0x58 (f.ops.body 4)
  | .sampleDraw _ f => opWord 0x58 (f.ops.body 5)
  | .sampleAccept _ f => opWord 0x58 (f.ops.body 6)
  | .sampleResid _ f => opWord 0x58 (f.ops.body 7)
  | .sampleGstep _ f => opWord 0x58 (f.ops.body 8)
  | .yield _ => opWord 0xF0 0
  | .halt _ => opWord 0xFF 0
  | _ => 0

/-! ## The decoder (R239, R240) -/

def scalarFields (w : BitVec 64) : ScalarOps :=
  ⟨fieldAt w 51 5, fieldAt w 46 5, fieldAt w 41 5, bitAt w 40, fieldAt w 0 32⟩
def loadStoreFields (w : BitVec 64) : LoadStoreOps :=
  ⟨fieldAt w 51 5, fieldAt w 47 4, fieldAt w 16 16, bitAt w 8, fieldAt w 0 4⟩
def branchFields (w : BitVec 64) : BranchOps := ⟨fieldAt w 51 5, fieldAt w 46 5, fieldAt w 0 12⟩
def loopFields (w : BitVec 64) : LoopOps := ⟨fieldAt w 51 5, fieldAt w 32 12, fieldAt w 0 12⟩
def passFields (w : BitVec 64) : PassOps :=
  ⟨fieldAt w 52 4, fieldAt w 48 4, fieldAt w 36 12, fieldAt w 33 3, fieldAt w 29 4, fieldAt w 25 4, bitAt w 24, bitAt w 23,
   bitAt w 22, bitAt w 21, fieldAt w 16 5, bitAt w 15⟩
def preloadFields (w : BitVec 64) : PreloadOps := ⟨fieldAt w 52 4, fieldAt w 49 3, fieldAt w 44 4, fieldAt w 39 5⟩
def drainFields (w : BitVec 64) : DrainOps :=
  ⟨fieldAt w 52 4, fieldAt w 49 3, bitAt w 46, fieldAt w 42 4, fieldAt w 37 5⟩
def finFields (w : BitVec 64) : FinOps :=
  ⟨fieldAt w 46 4, fieldAt w 42 4, fieldAt w 38 4, bitAt w 37, bitAt w 36, fieldAt w 31 5, fieldAt w 23 8, fieldAt w 0 23⟩
def postFields (w : BitVec 64) : PostOps :=
  ⟨fieldAt w 52 2, fieldAt w 50 2, fieldAt w 46 4, fieldAt w 42 4, fieldAt w 36 6, fieldAt w 24 12, bitAt w 23, bitAt w 22,
   fieldAt w 20 2, fieldAt w 15 5, bitAt w 14, fieldAt w 9 5⟩
def takeFields (w : BitVec 64) : TakeOps :=
  ⟨fieldAt w 52 4, fieldAt w 48 4, fieldAt w 40 8, bitAt w 39, bitAt w 38, bitAt w 37, fieldAt w 32 5⟩
def reduceFields (w : BitVec 64) : ReduceOps := ⟨fieldAt w 52 4, fieldAt w 46 6, fieldAt w 38 8, fieldAt w 33 5⟩
def claimFields (w : BitVec 64) : ClaimOps :=
  ⟨bitAt w 55, fieldAt w 53 2, fieldAt w 49 4, fieldAt w 37 12, fieldAt w 32 5⟩
def waitFields (w : BitVec 64) : WaitOps := ⟨fieldAt w 49 4, fieldAt w 46 3, fieldAt w 38 8, fieldAt w 33 5⟩
def cardFields (w : BitVec 64) : CardOps := ⟨fieldAt w 49 3, fieldAt w 33 16, fieldAt w 28 5, fieldAt w 20 8⟩
def folioFields (w : BitVec 64) : FolioOps :=
  ⟨fieldAt w 48 4, fieldAt w 44 4, fieldAt w 40 4, fieldAt w 35 5, fieldAt w 30 5, fieldAt w 14 16, bitAt w 13⟩
def sampleFields (w : BitVec 64) : SampleOps :=
  ⟨fieldAt w 48 4, fieldAt w 44 4, fieldAt w 40 4, fieldAt w 35 5, fieldAt w 30 5, fieldAt w 22 8, fieldAt w 18 4⟩

/-- The instruction an opcode and its fields name, before its legality (R239). -/
def decodeRaw (t : TileId) (w : BitVec 64) : Option Instr :=
  match bitsAt w 56 8 with
  | 0x01 => some (.add t (scalarFields w))
  | 0x02 => some (.sub t (scalarFields w))
  | 0x03 => some (.mul t (scalarFields w))
  | 0x04 => some (.and t (scalarFields w))
  | 0x05 => some (.or t (scalarFields w))
  | 0x06 => some (.xor t (scalarFields w))
  | 0x07 => some (.shl t (scalarFields w))
  | 0x08 => some (.shr t (scalarFields w))
  | 0x09 => some (.sra t (scalarFields w))
  | 0x0A => some (.slt t (scalarFields w))
  | 0x0B => some (.sltu t (scalarFields w))
  | 0x0C => some (.fadd t (scalarFields w))
  | 0x0D => some (.fmul t (scalarFields w))
  | 0x0E => some (.flt t (scalarFields w))
  | 0x0F => some (.frcp t (scalarFields w))
  | 0x10 => some (.ldw t (loadStoreFields w) {})
  | 0x11 => some (.stw t (loadStoreFields w) {})
  | 0x12 => some (.movc t (scalarFields w))
  | 0x18 => some (.aset t (scalarFields w))
  | 0x19 => some (.ainc t (scalarFields w))
  | 0x1A => some (.aget t (scalarFields w))
  | 0x20 => some (.beq t (branchFields w))
  | 0x21 => some (.bne t (branchFields w))
  | 0x22 => some (.blt t (branchFields w))
  | 0x23 => some (.bge t (branchFields w))
  | 0x24 => some (.jmp t (branchFields w))
  | 0x25 => some (.loop t (loopFields w))
  | 0x30 => some (.pass t (passFields w) {})
  | 0x31 => some (if bitAt w 48 then .preloadVector t ⟨preloadFields w, {}⟩ else .preloadZero t ⟨preloadFields w, {}⟩)
  | 0x32 =>
    match bitsAt w 47 2 with
    | 0 => some (.drainToF32 t ⟨drainFields w, {}⟩)
    | 1 => some (.drainToA8r t ⟨drainFields w, {}⟩)
    | 2 => some (.drainToA8 t ⟨drainFields w, {}⟩)
    | _ => none
  | 0x38 =>
    let f := finFields w
    match bitsAt w 50 6 with
    | 0x00 => some (.finAdd t ⟨f, {}⟩)
    | 0x01 => some (.finSub t ⟨f, {}⟩)
    | 0x02 => some (.finMul t ⟨f, {}⟩)
    | 0x03 => some (.finFma t ⟨f, {}⟩)
    | 0x04 => some (.finMin t ⟨f, {}⟩)
    | 0x05 => some (.finMax t ⟨f, {}⟩)
    | 0x06 => some (.finCmpgt t ⟨f, {}⟩)
    | 0x07 => some (.finCopy t ⟨f, {}⟩)
    | 0x08 => some (.finRecip t ⟨f, {}⟩)
    | 0x09 => some (.finRsqrt t ⟨f, {}⟩)
    | 0x0A => some (.finExp t ⟨f, {}⟩)
    | 0x0B => some (.finExpm t ⟨f, {}⟩)
    | 0x0C => some (.finLookup t ⟨f, {}⟩)
    | 0x0D => some (.finLoadtbl t ⟨f, {}⟩)
    | 0x0E => some (.finLanesum t ⟨f, {}⟩)
    | 0x0F => some (.finSumsq t ⟨f, {}⟩)
    | 0x10 => some (.finRms t ⟨f, {}⟩)
    | 0x11 => some (.finRope t ⟨f, {}⟩)
    | 0x12 => some (.finMaxidx t ⟨f, {}⟩)
    | 0x13 => some (.finMinidx t ⟨f, {}⟩)
    | 0x14 => some (.finQuant t ⟨f, {}⟩)
    | 0x15 => some (.finMask t ⟨f, {}⟩)
    | 0x16 => some (.finKill t ⟨f, {}⟩)
    | 0x17 => some (.finClear t ⟨f, {}⟩)
    | _ => none
  | 0x40 =>
    let f := postFields w
    match bitsAt w 54 2 with
    | 0 => some (.postCopy t f)
    | 1 => some (.postSend t f)
    | 2 => some (if f.smem = 3 then .postCircularRequest t f else .postPull t f)
    | _ => none
  | 0x41 => some (.take t (takeFields w) {})
  | 0x42 => some (.reduce t (reduceFields w))
  | 0x44 => some (.claim t (claimFields w))
  | 0x45 => some (.release t (fieldAt w 51 5))
  | 0x48 =>
    let f := waitFields w
    match bitsAt w 53 3 with
    | 0 => some (.waitPigeonhole t f)
    | 1 => some (.waitScoreboard t f)
    | 2 => some (.waitBarrier t f)
    | 3 => some (.waitUserCard t f)
    | 4 => some (.waitDescriptors t f)
    | 5 => some (.waitSlots t f)
    | _ => none
  | 0x49 =>
    match bitsAt w 52 4 with
    | 5 => some (.cardBarrierArrive t (cardFields w))
    | 8 => some (.cardUser t (cardFields w))
    | _ => none
  | 0x50 =>
    let f := folioFields w
    match bitsAt w 52 4 with
    | 0 => some (.folioList t ⟨f, {}⟩)
    | 1 => some (.folioAppend t ⟨f, {}⟩)
    | 2 => some (.folioWeevil t ⟨f, {}⟩)
    | 3 => some (.folioBound t ⟨f, {}⟩)
    | 4 => some (.folioCommit t ⟨f, {}⟩)
    | _ => none
  | 0x58 =>
    let f := sampleFields w
    match bitsAt w 52 4 with
    | 0 => some (.sampleSetup t ⟨f, {}⟩)
    | 1 => some (.sampleGmask t ⟨f, {}⟩)
    | 2 => some (.samplePenalty t ⟨f, {}⟩)
    | 3 => some (.sampleTemp t ⟨f, {}⟩)
    | 4 => some (.sampleUniform t ⟨f, {}⟩)
    | 5 => some (.sampleDraw t ⟨f, {}⟩)
    | 6 => some (.sampleAccept t ⟨f, {}⟩)
    | 7 => some (.sampleResid t ⟨f, {}⟩)
    | 8 => some (.sampleGstep t ⟨f, {}⟩)
    | _ => none
  | 0xF0 => some (.yield t)
  | 0xFF => some (.halt t)
  | _ => none

/-- The decoder of instruction memory: none where the word is illegal by itself, a bit its encoding does not define
included (R240); the checks that need the tile's state are the meanings'. -/
def decodeTile (t : TileId) (w : BitVec 64) : Option Instr :=
  match decodeRaw t w with
  | none => none
  | some i => if i.encodingOk && i.word == w then some i else none

end Sys2Proof
end

