-- ==== Sys2Proof/Machine/Crc.lean ====
section
/-! DEFINITION. The check codes: CRC-16 of parcels and flits (R37, R38, R448), CRC-8 of postcards (R155), CRC-32C of
letters, receipts and journal records (R333, R481), CRC-64 of Denor frames (R517). -/

namespace Sys2Proof.Machine

/-- One bit of a CRC of width `w`, most significant bit first. -/
def crcBit (w poly c : Nat) : Nat :=
  if c.testBit (w - 1) then (c * 2 % 2 ^ w) ^^^ poly else c * 2 % 2 ^ w

/-- `n` bits. -/
def crcBits (w poly : Nat) : Nat → Nat → Nat
  | 0, c => c
  | n + 1, c => crcBits w poly n (crcBit w poly c)

/-- A CRC over bytes, each most significant bit first, not reflected. -/
def crcBytes (w poly : Nat) : Nat → List Byte → Nat
  | c, [] => c
  | c, b :: bs => crcBytes w poly (crcBits w poly 8 (c ^^^ (b.toNat <<< (w - 8)))) bs

/-- One bit of a reflected CRC, with the polynomial reversed. -/
def crcBitR (rpoly c : Nat) : Nat := if c.testBit 0 then (c >>> 1) ^^^ rpoly else c >>> 1

/-- `n` bits of a reflected CRC. -/
def crcBitsR (rpoly : Nat) : Nat → Nat → Nat
  | 0, c => c
  | n + 1, c => crcBitsR rpoly n (crcBitR rpoly c)

/-- A reflected CRC over bytes. -/
def crcBytesR (rpoly : Nat) : Nat → List Byte → Nat
  | c, [] => c
  | c, b :: bs => crcBytesR rpoly (crcBitsR rpoly 8 (c ^^^ b.toNat)) bs

/-- CRC-16, polynomial 0x8BB7, initial 0, no reflection, no final XOR (R37). -/
def crc16 (bs : List Byte) : BitVec 16 := BitVec.ofNat 16 (crcBytes 16 0x8BB7 0 bs)

/-- CRC-8, polynomial 0x07, initial 0 (R155). -/
def crc8 (bs : List Byte) : Byte := BitVec.ofNat 8 (crcBytes 8 0x07 0 bs)

/-- CRC-32C, reflected, initial and final XOR all ones (R333); 0x82F6_3B78 is 0x1EDC_6F41 reversed. -/
def crc32c (bs : List Byte) : Word := BitVec.ofNat 32 (crcBytesR 0x82F63B78 0xFFFFFFFF bs ^^^ 0xFFFFFFFF)

/-- CRC-64, reflected, initial and final XOR all ones (R517); 0xC96C_5795_D787_0F42 is 0x42F0_E1EB_A9EA_3693 reversed. -/
def crc64 (bs : List Byte) : BitVec 64 :=
  BitVec.ofNat 64 (crcBytesR 0xC96C5795D7870F42 0xFFFFFFFFFFFFFFFF bs ^^^ 0xFFFFFFFFFFFFFFFF)

/-- The CRC a line should carry: over payload bytes 0 to 63, then sidecar bytes 0 to 5 (R38). -/
def lineCrc (l : Line) : BitVec 16 := crc16 (bytesOf 70 l)

/-- The line with its CRC written, least significant byte in sidecar byte 6 (R34, R38). -/
def withCrc (l : Line) : Line := putField l 560 (lineCrc l)

/-- The CRC of the line is right (R38). -/
def crcGood (l : Line) : Bool := fieldAt l 560 16 == lineCrc l

end Sys2Proof.Machine
end

