-- ==== Sys2Proof/Config.lean ====
section
/-! DEFINITION. The free values: what the manual leaves open, as constants without a body. Nothing in Lean can prove a
value of one; each is named in the assumption log. -/

namespace Sys2Proof

/-- Candidate for the finisher's reciprocal, used where it lies within the bound of R88. -/
opaque Config.recip : Word → Word

/-- Candidate for the finisher's reciprocal square root, used where it lies within the bound of R88. -/
opaque Config.rsqrt : Word → Word

/-- Candidate for exp(x − m), m = +0 for the plain exponential, used where it lies within the bound of R88. -/
opaque Config.exp : Word → Word → Word

/-- Candidates for cos θ and sin θ at a phase, each as mantissa and power of two, used within the bound of R91. -/
opaque Config.cosSin : Word → (Int × Int) × (Int × Int)

/-- SHA-512 of a byte string (R367, R510, R513); the algorithm is a standard's, not this manual's. -/
opaque Config.sha512 : List Byte → BitVec 512

/-- AES-256-GCM opening under a key, IV, AAD, ciphertext and tag: the plaintext, and whether the tag matches (R326, R369). -/
opaque Config.gcmOpen : BitVec 256 → BitVec 96 → List Byte → List Byte → BitVec 128 → List Byte × Bool

/-- The members over which the placement of an IMAGE_ID is split, without this one: no field of the image names them (R382). -/
opaque Config.splitMembers : BitVec 64 → List (BitVec 4)

/-- A member of a split holds its own candidate at the n-th question (R383); that is the member's state, not this device's. -/
opaque Config.memberReady : Nat → BitVec 4 → Bool

/-- AES-256-GCM sealing under a key, IV, AAD and plaintext: the ciphertext and the tag (R326). -/
opaque Config.gcmSeal : BitVec 256 → BitVec 96 → List Byte → List Byte → List Byte × BitVec 128

/-- RSA-OAEP opening of a 512-byte block under the private key with this KEY_ID (R368, R511). -/
opaque Config.oaepOpen : BitVec 256 → List Byte → Option (List Byte)

/-- RSASSA-PSS verification of a signature over a message under a root: 0 firmware, 1 maker authorisation (R508, R509). -/
opaque Config.verify : Nat → List Byte → List Byte → Bool

/-- The signature of keeper k's identity key over a message (R513). -/
opaque Config.sign : Nat → List Byte → List Byte

/-- KEY_ID of keeper k's identity key (R367, R508); a part's own value. -/
opaque Config.identityKeyId : Nat → BitVec 256

/-- The identity certificate of keeper k (R508, R513); a part's own value. -/
opaque Config.certificate : Nat → List Byte

/-- KEY_ID of an enrolled private key given as the DER bytes (R367, R511). -/
opaque Config.keyIdOf : List Byte → BitVec 256

/-- Draw n of the keeper's DRBG for a tenant key's SALT (R512). -/
opaque Config.salt : Nat → Word

/-- RETRY_US of the n-th receipt that carries one: "the expected end" of an activity (R336, R352, R305, R475). -/
opaque Config.retryUs : Nat → Word

/-- The n-th reply or request body on the management port whose content is MCTP's or PLDM's, not this manual's (R531). -/
opaque Config.mgmtBody : Nat → List Byte

/-- The n-th value of a measurement the manual leaves to the part: thermal calibration θ, offsets, reports (R438, R492, R348). -/
opaque Config.measured : Nat → Word

/-- The n-th arriving session's WEIGHTS_ID and cache layouts are those of the placement in force (R324); the manual lays
out no record that names them. -/
opaque Config.arrivalFits : Nat → Bool

/-- "Highest committed position" of a session that has committed none (R341). -/
opaque Config.noPosition : Word

/-- The record of a tenant in TELEMETRY stream 3, of its overruns and automatic parkings; no layout is given (R345). -/
opaque Config.tenantRecord : BitVec 12 → Word → Word → List Byte

/-- Power of a block in CHRYSALIS, in W: R399 compares a cap with it, and the manual gives no figure for one block. -/
opaque Config.restWatts : Nat → Nat

/-- How far the write-behind point of a trail stands behind the newest committed position at the n-th look, where the
manual promises only a bound (R314). -/
opaque Config.trailLag : Nat → Nat

/-- First token ID of the range of a tile that no sampler stage lists (R263 names the range only for one that is listed). -/
opaque Config.tokenBase : TileId → Nat

/-- Weevil score of a restored position where no position of the layer is eligible (R195 takes the largest of them). -/
opaque Config.restoredWeevil : Word

/-- Sheet scale of the n-th repacked sheet that no legal scale can hold (R193 names none). -/
opaque Config.repackScale : Nat → Byte

end Sys2Proof
end

