-- ==== Sys2Proof/Machine/Float.lean ====
section
/-! DEFINITION. Exact dyadic numbers, binary32 (R57, R87), E4M3 scales (R40) and ACC40 (R71, R72): every operation is
computed exactly and rounded once. -/

namespace Sys2Proof.Machine

/-- The exact number m × 2^e. -/
structure Dy where
  m : Int
  e : Int
  deriving DecidableEq, Repr

/-- 2^n for a power that may be negative is not an integer; this is 2^n for n ≥ 0 and 1 below. -/
def pow2 (n : Int) : Int := ((2 ^ n.toNat : Nat) : Int)

/-- The mantissa of `a` over the power `e ≤ a.e`. -/
def Dy.over (a : Dy) (e : Int) : Int := a.m * pow2 (a.e - e)

def Dy.zero : Dy := ⟨0, 0⟩
def Dy.ofInt (n : Int) : Dy := ⟨n, 0⟩
def Dy.neg (a : Dy) : Dy := ⟨-a.m, a.e⟩
def Dy.abs (a : Dy) : Dy := ⟨(a.m.natAbs : Int), a.e⟩
def Dy.add (a b : Dy) : Dy := let e := min a.e b.e; ⟨a.over e + b.over e, e⟩
def Dy.sub (a b : Dy) : Dy := a.add b.neg
def Dy.mul (a b : Dy) : Dy := ⟨a.m * b.m, a.e + b.e⟩
def Dy.le (a b : Dy) : Bool := let e := min a.e b.e; decide (a.over e ≤ b.over e)
def Dy.lt (a b : Dy) : Bool := let e := min a.e b.e; decide (a.over e < b.over e)
def Dy.isZero (a : Dy) : Bool := a.m == 0
def Dy.scale (a : Dy) (k : Int) : Dy := ⟨a.m, a.e + k⟩

/-- The number of bits of a natural number. -/
def bitLen (n : Nat) : Nat := if n = 0 then 0 else Nat.log2 n + 1

/-- How a magnitude is rounded. -/
inductive Rnd where
  | nearestEven | down | up
  deriving DecidableEq, Repr

/-- Divide a magnitude by 2^k with one rounding. -/
def shiftRound (r : Rnd) (a k : Nat) : Nat :=
  let q := a >>> k
  let rem := a - (q <<< k)
  match r with
  | .down => q
  | .up => if rem = 0 then q else q + 1
  | .nearestEven =>
    let half := 2 ^ k
    if 2 * rem > half then q + 1
    else if 2 * rem = half then (if q % 2 = 1 then q + 1 else q)
    else q

/-- Integer quotient n / d of magnitudes, rounded half to even (d > 0). -/
def divRoundNE (n d : Nat) : Nat :=
  let q := n / d
  let rem := n - q * d
  if 2 * rem > d then q + 1 else if 2 * rem = d then (if q % 2 = 1 then q + 1 else q) else q

/-- Integer quotient of a signed number by a positive one, rounded half to even (R54). -/
def divRoundInt (n : Int) (d : Nat) : Int :=
  if n < 0 then -((divRoundNE n.natAbs d : Nat) : Int) else ((divRoundNE n.natAbs d : Nat) : Int)

/-- a / b rounded half to even to an integer, for b > 0 (R54, R172). -/
def Dy.divRound (a b : Dy) : Int :=
  let e := min a.e b.e
  divRoundInt (a.over e) (b.over e).natAbs

/-! ## binary32 -/

/-- The one quiet NaN output (R87). -/
def qNaN : Word := 0x7FC00000
def f32Inf (neg : Bool) : Word := if neg then 0xFF800000 else 0x7F800000
def f32Zero (neg : Bool) : Word := if neg then 0x80000000 else 0
def f32One : Word := 0x3F800000
def negInf : Word := 0xFF800000

def f32Neg (x : Word) : Bool := bitAt x 31
def f32Exp (x : Word) : Nat := bitsAt x 23 8
def f32Frac (x : Word) : Nat := bitsAt x 0 23
def isNaN (x : Word) : Bool := f32Exp x == 255 && f32Frac x != 0
def isInf (x : Word) : Bool := f32Exp x == 255 && f32Frac x == 0
def isFinite (x : Word) : Bool := f32Exp x != 255
def isZeroF (x : Word) : Bool := f32Exp x == 0 && f32Frac x == 0
def isNormal (x : Word) : Bool := f32Exp x != 255 && f32Exp x != 0
/-- Positive, finite and normal, as a tensor scale and F must be (R41, R73). -/
def posNormal (x : Word) : Bool := isNormal x && !f32Neg x
def f32Abs (x : Word) : Word := x &&& 0x7FFFFFFF
def f32Negate (x : Word) : Word := x ^^^ 0x80000000

/-- The exact value of a finite binary32 number. -/
def f32Val (x : Word) : Dy :=
  let mag : Nat := if f32Exp x = 0 then f32Frac x else 2 ^ 23 + f32Frac x
  let e : Int := if f32Exp x = 0 then -149 else (f32Exp x : Int) - 150
  ⟨if f32Neg x then -(mag : Int) else (mag : Int), e⟩

/-- One unit in the last place of a finite binary32 number's binade. -/
def f32Ulp (x : Word) : Dy := ⟨1, (max (f32Exp x) 1 : Nat) - 150⟩

/-- Round the magnitude a × 2^e to binary32 with gradual underflow; overflow gives infinity (R87). -/
def roundMag (r : Rnd) (neg : Bool) (a : Nat) (e : Int) : Word :=
  if a = 0 then f32Zero neg else
  let q : Int := max (e + (bitLen a : Int) - 24) (-149)
  let mant := if q ≤ e then a <<< (e - q).toNat else shiftRound r a (q - e).toNat
  let (mant, q) := if mant = 2 ^ 24 then (2 ^ 23, q + 1) else (mant, q)
  if mant < 2 ^ 23 then BitVec.ofNat 32 mant ||| f32Zero neg
  else
    let ef : Int := q + 150
    if ef ≥ 255 then f32Inf neg
    else BitVec.ofNat 32 (ef.toNat * 2 ^ 23 + (mant - 2 ^ 23)) ||| f32Zero neg

/-- Round an exact number to binary32, nearest-even; an exact zero gives +0. -/
def roundF32 (d : Dy) : Word := roundMag .nearestEven (d.m < 0) d.m.natAbs d.e

/-- Round toward +infinity (R186). -/
def roundUpF32 (d : Dy) : Word := roundMag (if d.m < 0 then .down else .up) (d.m < 0) d.m.natAbs d.e

/-- Round n / d × 2^e (d > 0) to binary32, nearest-even. -/
def roundRat (n : Int) (d : Nat) (e : Int) : Word :=
  let k := 64 + bitLen d
  let num := n.natAbs * 2 ^ k
  let q := num / d
  let sticky := if q * d = num then 0 else 1
  roundMag .nearestEven (n < 0) (2 * q + sticky) (e - k - 1)

/-- The order of non-NaN binary32 numbers as integers; both zeros give 0. -/
def f32Key (x : Word) : Int :=
  let mag : Int := bitsAt x 0 31
  if f32Neg x then -mag else mag

/-- x < y as binary32; false when either is NaN (R241, R252). -/
def fltB (x y : Word) : Bool := !isNaN x && !isNaN y && decide (f32Key x < f32Key y)

/-- x + y (R87). -/
def fadd (x y : Word) : Word :=
  if isNaN x || isNaN y then qNaN
  else if isInf x then (if isInf y && f32Neg x != f32Neg y then qNaN else x)
  else if isInf y then y
  else
    let d := (f32Val x).add (f32Val y)
    if d.isZero then f32Zero (f32Neg x && f32Neg y) else roundF32 d

def fsub (x y : Word) : Word := if isNaN y then qNaN else fadd x (f32Negate y)

/-- x × y (R87). -/
def fmul (x y : Word) : Word :=
  let neg := f32Neg x != f32Neg y
  if isNaN x || isNaN y then qNaN
  else if isInf x || isInf y then (if isZeroF x || isZeroF y then qNaN else f32Inf neg)
  else
    let d := (f32Val x).mul (f32Val y)
    if d.isZero then f32Zero neg else roundF32 d

/-- x × y + z with one rounding (R252). -/
def ffma (x y z : Word) : Word :=
  let neg := f32Neg x != f32Neg y
  if isNaN x || isNaN y || isNaN z then qNaN
  else if isInf x || isInf y then
    (if isZeroF x || isZeroF y then qNaN
     else if isInf z && f32Neg z != neg then qNaN else f32Inf neg)
  else if isInf z then z
  else
    let p := (f32Val x).mul (f32Val y)
    let d := p.add (f32Val z)
    if d.isZero then f32Zero (if p.isZero then neg && f32Neg z else false)
    else roundF32 d

/-- Minimum of IEEE 754-2019 with −0 below +0; a NaN operand gives the quiet NaN (R252). -/
def fmin (x y : Word) : Word :=
  if isNaN x || isNaN y then qNaN
  else if f32Key x < f32Key y then x
  else if f32Key y < f32Key x then y
  else if f32Neg x then x else y

def fmax (x y : Word) : Word :=
  if isNaN x || isNaN y then qNaN
  else if f32Key x < f32Key y then y
  else if f32Key y < f32Key x then x
  else if f32Neg x then y else x

/-- x as binary32 divided by a positive whole number, rounded once (R88, RMS). -/
def fdivNat (x : Word) (n : Nat) : Word :=
  if isNaN x then qNaN else if isInf x then x
  else if isZeroF x then x
  else roundRat (f32Val x).m n (f32Val x).e

/-- A whole number as binary32, rounded once. -/
def f32OfInt (n : Int) : Word := roundF32 (Dy.ofInt n)

/-! ## Reciprocal, reciprocal square root, exponential, cosine and sine: values within the manual's bounds -/

/-- |r × x − 1| ≤ ulp(r) × x for x > 0: r lies within 1 ulp of 1/x. -/
def recipOk (r x : Word) : Bool :=
  isFinite r && !f32Neg r &&
  let rv := f32Val r
  let xv := f32Val x
  ((rv.mul xv).sub (Dy.ofInt 1)).abs.le ((f32Ulp r).mul xv)

/-- 1/x cut to 24 bits, for x > 0. -/
def recipCut (x : Word) : Word :=
  let v := f32Val x
  let k := 64 + bitLen v.m.natAbs
  roundMag .down false (2 ^ k / v.m.natAbs) (-(k : Int) - v.e)

/-- The reciprocal (R88): within 1 ulp, with the stated results at zeros and infinities. -/
def frecip (x : Word) : Word :=
  if isNaN x then qNaN
  else if isZeroF x then f32Inf (f32Neg x)
  else if isInf x then f32Zero (f32Neg x)
  else
    let ax := f32Abs x
    let c := f32Abs (Config.recip x)
    let r := if recipOk c ax then c else recipCut ax
    if f32Neg x then r ||| 0x80000000 else r

/-- r lies within 1 ulp of x^(−1/2), for x > 0: (r − u)² x ≤ 1 (or r ≤ u) and 1 ≤ (r + u)² x. -/
def rsqrtOk (r x : Word) : Bool :=
  isFinite r && !f32Neg r &&
  let rv := f32Val r
  let u := f32Ulp r
  let lo := rv.sub u
  let hi := rv.add u
  let xv := f32Val x
  (decide (lo.m ≤ 0) || ((lo.mul lo).mul xv).le (Dy.ofInt 1)) && (Dy.ofInt 1).le ((hi.mul hi).mul xv)

/-- x^(−1/2) cut to 24 bits, for x > 0. -/
def rsqrtCut (x : Word) : Word :=
  let v := f32Val x
  let (m, e) : Nat × Int := if v.e % 2 = 0 then (v.m.natAbs, v.e) else (2 * v.m.natAbs, v.e - 1)
  let k := 64 + bitLen m
  roundMag .down false (Nat.sqrt (2 ^ (2 * k) / m)) (-(k : Int) - e / 2)

/-- The reciprocal square root (R88). -/
def frsqrt (x : Word) : Word :=
  if isNaN x then qNaN
  else if isZeroF x then f32Inf (f32Neg x)
  else if f32Neg x then qNaN
  else if isInf x then 0
  else
    let c := Config.rsqrt x
    if rsqrtOk c x then c else rsqrtCut x

/-- Fraction bits of the fixed-point enclosures below. -/
def encBits : Nat := 200

/-- Σ y^k / k! in fixed point: `n` terms more, from term `t` number `k`. -/
def expSeries (y : Int) : Nat → Nat → Int → Int → Int
  | 0, _, _, acc => acc
  | n + 1, k, t, acc =>
    let t' := t * y / (2 ^ encBits : Nat) / ((k + 1 : Nat) : Int)
    expSeries y n (k + 1) t' (acc + t')

/-- Square an enclosure `n` times. -/
def encSquare : Nat → Int × Int → Int × Int
  | 0, p => p
  | n + 1, (lo, hi) => encSquare n (lo * lo / (2 ^ encBits : Nat), hi * hi / (2 ^ encBits : Nat) + 1)

/-- Bounds of e^t in units of 2^−200, for |t| below 128: the argument is divided by 2^8 and the result squared 8 times. -/
def expEnclosure (t : Dy) : Int × Int :=
  let y : Int := (t.m * pow2 (t.e + encBits - 8)) / pow2 (-(t.e + encBits - 8))
  let one : Int := (2 ^ encBits : Nat)
  let s := expSeries y 48 0 one one
  let s' := expSeries (y + 1) 48 0 one one
  encSquare 8 (s - 256, s' + 256)

/-- A candidate lies within 2 ulp of e^t. -/
def expOk (c : Word) (p : Int × Int) : Bool :=
  !isNaN c && !f32Neg c &&
  if isInf c then decide (p.2 ≥ (2 ^ (encBits + 128) : Nat) - (2 ^ (encBits + 105) : Nat))
  else
    let u := (f32Ulp c).scale 1
    let v := f32Val c
    (Dy.sub ⟨p.1, -(encBits : Int)⟩ u).le v && v.le (Dy.add ⟨p.2, -(encBits : Int)⟩ u)

/-- exp(x − m), the subtraction exact (R88): +infinity from 88.72284, +0 below half the smallest subnormal. -/
def fexpm (x m : Word) : Word :=
  if isNaN x || isNaN m then qNaN
  else if isInf x then
    (if isInf m && f32Neg x == f32Neg m then qNaN else if f32Neg x then 0 else f32Inf false)
  else if isInf m then (if f32Neg m then f32Inf false else 0)
  else
    let t := (f32Val x).sub (f32Val m)
    if (Dy.ofInt 8872284).le (t.mul (Dy.ofInt 100000)) then f32Inf false
    else if t.lt (Dy.ofInt (-104)) then 0
    else
      let p := expEnclosure t
      if Dy.lt ⟨p.2, -(encBits : Int)⟩ ⟨1, -150⟩ then 0
      else
        let c := Config.exp x m
        if expOk c p then c else roundMag .down false p.1.natAbs (-(encBits : Int))

def fexp (x : Word) : Word := fexpm x 0

/-- π in units of 2^−200, cut. -/
def piFix : Int := 5048344754617993871973410141242436836214643421488662971535368

/-- Σ of a cosine (k even) or sine (k odd) series in fixed point: `n` terms more, from term `t` number `k`. -/
def trigSeries (y : Int) : Nat → Nat → Int → Int → Int
  | 0, _, _, acc => acc
  | n + 1, k, t, acc =>
    let t' := -(t * y / (2 ^ encBits : Nat) / ((k + 1 : Nat) : Int) * y / (2 ^ encBits : Nat) / ((k + 2 : Nat) : Int))
    trigSeries y n (k + 2) t' (acc + t')

/-- cos θ and sin θ of θ = 2π φ / 2^32, in units of 2^−200, with an error below 2^−180. -/
def cosSinFix (phase : Word) : Int × Int :=
  let y : Int := piFix * (phase.toNat : Int) / (2 ^ 31 : Nat)
  let one : Int := (2 ^ encBits : Nat)
  (trigSeries y 40 0 one one, trigSeries y 40 1 y y)

/-- A candidate lies within 2^−22 − 2^−180 of a fixed-point value, so within 2^−22 of the exact one (R91). -/
def trigOk (c : Dy) (v : Int) : Bool :=
  (c.sub ⟨v, -(encBits : Int)⟩).abs.le ((Dy.mk 1 (-22)).sub ⟨1, -180⟩)

/-- cos θ and sin θ as the finisher forms them (R91). -/
def fcosSin (phase : Word) : Dy × Dy :=
  let v := cosSinFix phase
  let c := Config.cosSin phase
  let cc : Dy := ⟨c.1.1, c.1.2⟩
  let cs : Dy := ⟨c.2.1, c.2.2⟩
  (if trigOk cc v.1 then cc else ⟨v.1, -(encBits : Int)⟩, if trigOk cs v.2 then cs else ⟨v.2, -(encBits : Int)⟩)

/-! ## E4M3 block scales (R40) -/

/-- The value of a legal scale byte. -/
def e4m3Val (s : Byte) : Dy :=
  let e := bitsAt s 3 4
  let m := bitsAt s 0 3
  if e = 0 then ⟨(m : Int), -9⟩ else ⟨((8 + m : Nat) : Int), (e : Int) - 10⟩

/-- 0x00 to 0x7E are legal (R40). -/
def e4m3Legal (s : Byte) : Bool := decide (s.toNat ≤ 0x7E)

/-- The smallest legal scale whose value × den ≥ num, from code `c` upward; none above 448. -/
def scaleFrom (num den : Dy) : Nat → Nat → Option Byte
  | 0, _ => none
  | n + 1, c =>
    if num.le ((e4m3Val (BitVec.ofNat 8 c)).mul den) then some (BitVec.ofNat 8 c) else scaleFrom num den n (c + 1)

/-- The smallest legal E4M3 value at or above num/den, 0x01 when below 2^−9 (R54); none when above 448. -/
def smallestScale (num den : Dy) : Option Byte := scaleFrom num den 126 1

/-! ## ACC40 (R71, R72) -/

def accNeg (a : Acc40) : Bool := bitAt a 39
def accExp (a : Acc40) : Nat := bitsAt a 31 8
def accFrac (a : Acc40) : Nat := bitsAt a 0 31
def accIsInf (a : Acc40) : Bool := accExp a == 255
def accIsZero (a : Acc40) : Bool := accExp a == 0

/-- The exact value of a finite ACC40 number. -/
def accVal (a : Acc40) : Dy :=
  if accIsZero a then Dy.zero
  else
    let mag : Nat := 2 ^ 31 + accFrac a
    ⟨if accNeg a then -(mag : Int) else (mag : Int), (accExp a : Int) - 158⟩

def accInf (neg : Bool) : Acc40 := if neg then 0xFF80000000 else 0x7F80000000

/-- Round to 32 significant bits, nearest-even, with an unbounded exponent; then flush below 2^−126 to +0 and overflow to
infinity; the flag says that it overflowed (R72). -/
def accRound (d : Dy) : Acc40 × Bool :=
  let a := d.m.natAbs
  if a = 0 then (0, false) else
  let q : Int := d.e + (bitLen a : Int) - 32
  let mant := if q ≤ d.e then a <<< (d.e - q).toNat else shiftRound .nearestEven a (q - d.e).toNat
  let (mant, q) := if mant = 2 ^ 32 then (2 ^ 31, q + 1) else (mant, q)
  let ef : Int := q + 158
  let sign : Acc40 := if d.m < 0 then 0x8000000000 else 0
  if ef < 1 then (0, false)
  else if ef > 254 then (accInf (d.m < 0), true)
  else (BitVec.ofNat 40 (ef.toNat * 2 ^ 31 + (mant - 2 ^ 31)) ||| sign, false)

/-- Add the exact term P to a slot value with a single rounding (R72). A value that is infinite already stays as it is, and the
flag is not set again: the spec gives the range tests for a rounded sum only (DESIGN CHOICE, log entry 143). -/
def accAdd (a : Acc40) (p : Dy) : Acc40 × Bool :=
  if accIsInf a then (a, false) else accRound ((accVal a).add p)

/-- A finite preload element; a subnormal becomes +0 (R74), and so does −0: the spec does not give the sign of a zero that
converts exactly (DESIGN CHOICE, log entry 142). -/
def accOfF32 (x : Word) : Acc40 := if isNormal x then (accRound (f32Val x)).1 else 0

/-- v × F rounded once to binary32; the flag says that a finite product overflowed (R75). -/
def accDrain (a : Acc40) (f : Word) : Word × Bool :=
  if accIsInf a then (f32Inf (accNeg a), false)
  else
    let r := roundF32 ((accVal a).mul (f32Val f))
    (r, isInf r)

end Sys2Proof.Machine
end

