-- ==== Sys2Proof/Machine/Formats.lean ====
section
/-! DEFINITION. Parcels, format codes, code packing, the content check and the quantiser (R34 to R62). -/

namespace Sys2Proof.Machine

/-! ## Fields of a parcel (R34, R35) -/

def Line.scale (l : Line) (q : Nat) : Byte := byteAt l (64 + q)
def Line.fmt (l : Line) : Byte := byteAt l 68
def Line.flags (l : Line) : Byte := byteAt l 69
def Line.isSealed (l : Line) : Bool := bitAt (Line.flags l) 1
def Line.isLow (l : Line) : Bool := bitAt (Line.flags l) 0

def fmtW1 : Byte := 0x01
def fmtW2 : Byte := 0x02
def fmtW2S : Byte := 0x03
def fmtW4 : Byte := 0x04
def fmtW8 : Byte := 0x05
def fmtA8 : Byte := 0x06
def fmtA16 : Byte := 0x07
def fmtKV4 : Byte := 0x08
def fmtKV8 : Byte := 0x09
def fmtF32 : Byte := 0x0A
def fmtIDX : Byte := 0x0B
def fmtU32 : Byte := 0x0C
def fmtBYTES : Byte := 0x0D

/-- Build a parcel from payload bytes, four scale bytes, a format code and the flags, with its CRC (R34, R38). -/
def mkParcel (payload : List Byte) (scales : List Byte) (fmt flags : Byte) : Line :=
  let pad (n : Nat) (xs : List Byte) : List Byte := (xs ++ List.replicate n 0).take n
  withCrc (lineOfBytes (pad 64 payload ++ pad 4 scales ++ [fmt, flags]))

/-- A parcel of 16 words (R57, R59). -/
def mkWords (fmt : Byte) (ws : List Word) : Line := mkParcel (ws.flatMap (bytesOf 4)) [] fmt 0

/-- The 16 words of a payload. -/
def Line.words (l : Line) : List Word := (List.range 16).map (wordAt l)

/-- An IDX parcel of up to 8 pairs (R58). -/
def mkPairs (ps : List (Word × Word)) : Line := mkWords fmtIDX (ps.flatMap (fun p => [p.1, p.2]))

/-- The 8 pairs of an IDX parcel. -/
def Line.pairs (l : Line) : List (Word × Word) := (List.range 8).map (fun p => (wordAt l (2 * p), wordAt l (2 * p + 1)))

/-! ## Checks on consumption (R60) -/

/-- What a consuming unit finds wrong with a parcel: the CRC first, then the content classes in R60's order. -/
inductive ParcelFault where
  | crc | format | scale | malformed
  deriving DecidableEq, Repr

/-- A scale byte that is legal in a used position (R40). -/
def scaleLegal (b : Byte) : Bool := e4m3Legal b

/-- Scale-byte positions a format uses (R42). -/
def usedScales (fmt : Byte) : List Nat :=
  if fmt = fmtW1 ∨ fmt = fmtW2 ∨ fmt = fmtW2S then [0, 1, 2, 3]
  else if fmt = fmtW4 ∨ fmt = fmtKV4 then [0, 2]
  else if fmt = fmtW8 ∨ fmt = fmtA8 ∨ fmt = fmtA16 ∨ fmt = fmtKV8 then [0]
  else []

/-- Bytes of quarter q of a payload. -/
def quarterBits (l : Line) (q : Nat) : BitVec 128 := fieldAt l (128 * q) 128

/-- Pattern index of group g of a W2S block (R48). -/
def w2sPattern (b : BitVec 128) (g : Nat) : Nat := bitsAt b (7 * g) 3

/-- A W2S block of a quarter is well made: no reserved pattern, pad bytes 0, or its scale is 0x00 (R60). -/
def w2sBlockOk (l : Line) (q : Nat) : Bool :=
  Line.scale l q == 0 ||
  ((List.range 16).all (fun g => decide (w2sPattern (quarterBits l q) g < 6)) && bitsAt (quarterBits l q) 112 16 == 0)

/-- The content check of one parcel against the accepted codes, where the position of an A16 half is right (R60). -/
def contentCheck (accept : List Byte) (l : Line) : Option ParcelFault :=
  let used := usedScales (Line.fmt l)
  if !accept.contains (Line.fmt l) then some .format
  else if Line.isSealed l then some .format
  else if Line.isLow l && Line.fmt l != fmtA16 then some .format
  else if !(used.all (fun q => scaleLegal (Line.scale l q))) then some .scale
  else if !((List.range 4).all (fun q => used.contains q || Line.scale l q == 0)) then some .scale
  else if bitsAt (Line.flags l) 2 6 != 0 then some .malformed
  else if Line.fmt l == fmtW2S && !((List.range 4).all (w2sBlockOk l)) then some .malformed
  else none

/-- Both steps of the check (R60): the CRC, then the content. -/
def parcelCheck (accept : List Byte) (l : Line) : Option ParcelFault :=
  if !crcGood l then some .crc else contentCheck accept l

/-- The first fault over several parcels in line order: the spec orders the faults of one parcel only (DESIGN CHOICE, log
entry 140). -/
def checkAll (accept : List Byte) : List Line → Option ParcelFault
  | [] => none
  | l :: ls => (parcelCheck accept l).orElse (fun _ => checkAll accept ls)

/-- One activation block read by a unit: 64 codes in one pass, or high and low passes (R51, R53). -/
inductive ActBlock where
  | a8 (scale : Byte) (codes : List Int)
  | pair (scale : Byte) (high low : List Int)
  deriving DecidableEq, Repr

/-- A code as a signed byte. -/
def int8 (b : Byte) : Int := b.toInt

/-- The 64 payload bytes as signed codes. -/
def Line.signed (l : Line) : List Int := (List.range 64).map (fun i => int8 (byteAt l i))

/-- The 64 payload bytes as unsigned codes. -/
def Line.unsigned (l : Line) : List Int := (List.range 64).map (fun i => ((byteAt l i).toNat : Int))

/-- Read the activation block at `l` (R53, R245): `next` is the line after it, given only where pairs are allowed. -/
def actBlock (l : Line) (next : Option Line) : Except ParcelFault ActBlock :=
  if !crcGood l then .error .crc
  else if Line.fmt l = fmtA16 then
    match next with
    | none => .error .format
    | some m =>
      if !crcGood m then .error .crc
      else if Line.isLow l || Line.fmt m != fmtA16 || !Line.isLow m || Line.scale l 0 != Line.scale m 0 then .error .format
      else
        match contentCheck [fmtA16] l, contentCheck [fmtA16] m with
        | none, none => .ok (.pair (Line.scale l 0) (Line.signed l) (Line.unsigned m))
        | some .format, _ => .error .format
        | _, some .format => .error .format
        | some .scale, _ => .error .scale
        | _, some .scale => .error .scale
        | _, _ => .error .malformed
  else
    match contentCheck [fmtA8] l with
    | none => .ok (.a8 (Line.scale l 0) (Line.signed l))
    | some f => .error f

def ActBlock.scale : ActBlock → Byte
  | .a8 s _ => s
  | .pair s _ _ => s

/-! ## Weight and cache blocks (R43 to R49) -/

/-- Level of code k under a codebook word (R46). -/
def codeLevel (book : Word) (k : Nat) : Int := (fieldAt book (4 * k) 4).toInt

/-- The codebook word is legal for a format: in W1, bits [15:8] must be 0 (R46, R60). -/
def codebookOk (fmt : Byte) (book : Word) : Bool := if fmt = fmtW1 then bitsAt book 8 8 == 0 else true

/-- Kept positions of a W2S pattern (R49). -/
def keptPositions : Nat → Nat × Nat
  | 0 => (0, 1)
  | 1 => (0, 2)
  | 2 => (0, 3)
  | 3 => (1, 2)
  | 4 => (1, 3)
  | _ => (2, 3)

/-- The four levels of a W2S group (R48). -/
def w2sGroup (book : Word) (b : BitVec 128) (g : Nat) : List Int :=
  let p := keptPositions (w2sPattern b g)
  let lo := codeLevel book (bitsAt b (7 * g + 3) 2)
  let hi := codeLevel book (bitsAt b (7 * g + 5) 2)
  (List.range 4).map (fun i => if i = p.1 then lo else if i = p.2 then hi else 0)

/-- One block of a column: its scale byte and its 64 levels (all 0 when the scale byte is 0x00). -/
structure WBlock where
  scale : Byte
  levels : List Int
  deriving DecidableEq, Repr

/-- A block with its levels cleared when it is a zero block (R40, R69). -/
def mkWBlock (s : Byte) (levels : List Int) : WBlock := ⟨s, if s = 0 then List.replicate 64 0 else levels⟩

/-- The blocks one line holds, in column order; each column carries its block rows in order (R42, R43, R64). -/
def lineBlocks (fmt : Byte) (book : Word) (l : Line) : List (List WBlock) :=
  if fmt = fmtW1 then
    (List.range 4).map (fun q => (List.range 2).map (fun h =>
      mkWBlock (Line.scale l q) ((List.range 64).map (fun i => codeLevel book (bitsAt l (128 * q + 64 * h + i) 1)))))
  else if fmt = fmtW2 then
    (List.range 4).map (fun q =>
      [mkWBlock (Line.scale l q) ((List.range 64).map (fun i => codeLevel book (bitsAt l (128 * q + 2 * i) 2)))])
  else if fmt = fmtW2S then
    (List.range 4).map (fun q =>
      [mkWBlock (Line.scale l q) ((List.range 16).flatMap (w2sGroup book (quarterBits l q)))])
  else if fmt = fmtW4 ∨ fmt = fmtKV4 then
    (List.range 2).map (fun b =>
      [mkWBlock (Line.scale l (2 * b)) ((List.range 64).map (fun i => (fieldAt l (256 * b + 4 * i) 4).toInt))])
  else [[mkWBlock (Line.scale l 0) (Line.signed l)]]

/-- Lines per weight step (R64). -/
def stepLines (fmt : Byte) : Nat :=
  if fmt = fmtW1 ∨ fmt = fmtW2 ∨ fmt = fmtW2S then 16 else if fmt = fmtW4 ∨ fmt = fmtKV4 then 32 else 64

/-- Block rows per weight step (R64). -/
def stepRows (fmt : Byte) : Nat := if fmt = fmtW1 then 2 else 1

/-- The 64 columns of a weight step from its lines. -/
def stepColumns (fmt : Byte) (book : Word) (ls : List Line) : List (List WBlock) := ls.flatMap (lineBlocks fmt book)

/-- Row r of the columns: one block per column. -/
def blockRow (cols : List (List WBlock)) (r : Nat) : List WBlock := cols.map (fun c => nth ⟨0, []⟩ c r)

/-- Block integer Σ a_k × w_k (R67). -/
def dot : List Int → List Int → Int
  | a :: as, w :: ws => a * w + dot as ws
  | _, _ => 0

/-- Sum of integers. -/
def sumInt : List Int → Int
  | [] => 0
  | x :: xs => x + sumInt xs

/-- Row sums of the tally adder: for each k, the levels summed over the columns (R81). -/
def tallyRow (cols : List WBlock) : List Int :=
  (List.range 64).map (fun k => sumInt (cols.map (fun c => nth 0 c.levels k)))

/-! ## The quantiser (R54) -/

/-- Faults of the quantiser (R54). -/
inductive QuantFault where
  | illegalScale | nonFinite | scaleRange
  deriving DecidableEq, Repr

/-- The quantiser's targets. -/
inductive QTarget where
  | a8r | a8 | kv8 | kv4
  deriving DecidableEq, Repr

/-- A quantised block: its scale, its 64 codes, and whether it became A16. -/
structure QBlock where
  scale : Byte
  codes : List Int
  reg : Bool
  deriving DecidableEq, Repr

/-- Largest of the magnitudes. -/
def amaxF : List Word → Word
  | [] => 0
  | x :: xs => let m := amaxF xs; if fltB m (f32Abs x) then f32Abs x else m

/-- Insert into a rising list. -/
def insertSorted (x : Nat) : List Nat → List Nat
  | [] => [x]
  | y :: ys => if x ≤ y then x :: y :: ys else y :: insertSorted x ys

/-- Sort rising. -/
def sortNat : List Nat → List Nat
  | [] => []
  | x :: xs => insertSorted x (sortNat xs)

/-- The 32nd smallest magnitude of 64 values; magnitudes order as their bit patterns. -/
def medianF (xs : List Word) : Word :=
  BitVec.ofNat 32 (nth 0 (sortNat (xs.map (fun x => (f32Abs x).toNat))) 31)

/-- Largest code magnitude Q of a target (R54). -/
def quantMax (t : QTarget) (reg : Bool) : Nat :=
  match t with
  | .kv4 => 7
  | _ => if reg then 32767 else 127

/-- The block is registered: amax above threshold times the 32nd smallest magnitude, or that magnitude is 0 (R54). -/
def registers (t : QTarget) (threshold : Nat) (xs : List Word) : Bool :=
  t == .a8r && threshold != 0 &&
  (isZeroF (medianF xs) || Dy.lt ((Dy.ofInt threshold).mul (f32Val (medianF xs))) (f32Val (amaxF xs)))

/-- The quantiser (R54): every comparison and division exact before any rounding. -/
def quantise (t : QTarget) (threshold : Nat) (T : Word) (xs : List Word) : Except QuantFault QBlock :=
  if !posNormal T then .error .illegalScale
  else if !(xs.all isFinite) then .error .nonFinite
  else if isZeroF (amaxF xs) then .ok ⟨0, List.replicate 64 0, false⟩
  else
    let reg := registers t threshold xs
    let den := (Dy.ofInt (quantMax t reg)).mul (f32Val T)
    match smallestScale (f32Val (amaxF xs)) den with
    | none => .error .scaleRange
    | some s => .ok ⟨s, xs.map (fun x => (f32Val x).divRound ((e4m3Val s).mul (f32Val T))), reg⟩

/-- A code as a byte. -/
def codeByte (c : Int) : Byte := BitVec.ofInt 8 c

/-- The parcels of a quantised A8 or W8 block: one, or the high and low parcels of a registered pair (R51). -/
def quantParcels (fmt : Byte) (b : QBlock) : List Line :=
  if b.reg then
    [mkParcel (b.codes.map (fun c => codeByte (c / 256))) [b.scale] fmtA16 0,
     mkParcel (b.codes.map (fun c => codeByte (c % 256))) [b.scale] fmtA16 1]
  else [mkParcel (b.codes.map codeByte) [b.scale] fmt 0]

/-- Decode a quantised value: code × scale × T, rounded once to binary32 (R39). -/
def decodeValue (code : Int) (s : Byte) (T : Word) : Word := roundF32 (((Dy.ofInt code).mul (e4m3Val s)).mul (f32Val T))

end Sys2Proof.Machine
end

