-- ==== Sys2Proof/Machine/Flags.lean ====
section
/-! DEFINITION. Fault, flag and count registers of a tile: how each is recorded (R87, R93, R97, R126, R127, R162, R202,
R269, R542). -/

namespace Sys2Proof.Machine

/-- What stops a tile's instruction, descriptor or arrival. -/
inductive TileFault where
  /-- A fault of TS_SEQ_FAULT alone, with its CAUSE and UNIT (R269). -/
  | seq (cause unit : BitVec 4)
  /-- A memory fault (R97, R114, R123) found by a unit, with TS_MEM_FAULT's fields. -/
  | mem (cause : BitVec 4) (m : BitVec 2) (line : BitVec 16) (unit : BitVec 4)
  /-- An envelope or network fault (R132, R140, R145, R148, R151, R567), with TS_NET_FAULT's fields. -/
  | net (cause : BitVec 4) (port : BitVec 3) (ident : BitVec 16) (unit : BitVec 4)
  /-- An ownership fault (R178), with TS_OWN_FAULT's and TS_OWN_SESSION's fields. -/
  | own (cause : BitVec 4) (tenant : BitVec 12) (page : BitVec 11) (access entry : BitVec 16) (unit : BitVec 4)
  /-- A compute fault (R83, R84). -/
  | compute
  /-- A parcel whose CRC fails at a consumer (R451). -/
  | crc
  deriving DecidableEq, Repr

def unitSequencer : BitVec 4 := 0
def unitPane : BitVec 4 := 1
def unitConverter : BitVec 4 := 2
def unitFinisher : BitVec 4 := 3
def unitPost : BitVec 4 := 4
def unitTake : BitVec 4 := 5
def unitFolio : BitVec 4 := 6
def unitSampler : BitVec 4 := 7

/-- CAUSE of FAULT_NOTE for a fault (R453). -/
def TileFault.noteCause : TileFault → BitVec 4
  | .seq _ _ => 1
  | .mem c _ _ _ => if c = 6 then 4 else 1
  | .net _ _ _ _ => 1
  | .own _ _ _ _ _ _ => 5
  | .compute => 2
  | .crc => 3

/-- The fault a parcel's content or CRC raises at a unit (R60, R61, R266). -/
def parcelFault (unit : BitVec 4) : ParcelFault → TileFault
  | .crc => .crc
  | .format => .seq 0x4 unit
  | .scale => .seq 0x5 unit
  | .malformed => .seq 0x6 unit

/-- The fault the quantiser raises (R56). -/
def quantFault (unit : BitVec 4) : QuantFault → TileFault
  | .illegalScale => .seq 0x5 unit
  | .nonFinite => .seq 0x7 unit
  | .scaleRange => .seq 0x8 unit

/-- TS_SEQ_FAULT's CAUSE and UNIT for a fault (R269); none for compute and CRC events, which it does not record. -/
def TileFault.seqCode : TileFault → Option (BitVec 4 × BitVec 4)
  | .seq c u => some (c, u)
  | .mem _ _ _ u => some (0x9, u)
  | .net _ _ _ u => some (0xA, u)
  | .own _ _ _ _ _ u => some (0xB, u)
  | .compute => none
  | .crc => none

/-- A fault register keeps the first fault until its VALID bit is cleared (R542). -/
def keepFirst (reg new : Word) : Word := if bitAt reg 31 then reg else new

/-- Word of TS_SEQ_FAULT. -/
def seqFaultWord (c u : BitVec 4) (pc : BitVec 12) : Word :=
  BitVec.ofNat 32 (2 ^ 31 + c.toNat * 2 ^ 24 + u.toNat * 2 ^ 20 + pc.toNat)

/-- Word of TS_MEM_FAULT. -/
def memFaultWord (c : BitVec 4) (m : BitVec 2) (line : BitVec 16) : Word :=
  BitVec.ofNat 32 (2 ^ 31 + c.toNat * 2 ^ 24 + m.toNat * 2 ^ 22 + line.toNat)

/-- Word of TS_NET_FAULT. -/
def netFaultWord (c : BitVec 4) (port : BitVec 3) (ident : BitVec 16) : Word :=
  BitVec.ofNat 32 (2 ^ 31 + c.toNat * 2 ^ 24 + port.toNat * 2 ^ 21 + ident.toNat)

/-- Word of TS_OWN_FAULT. -/
def ownFaultWord (c : BitVec 4) (tenant : BitVec 12) (page : BitVec 11) : Word :=
  BitVec.ofNat 32 (2 ^ 31 + c.toNat * 2 ^ 24 + tenant.toNat * 2 ^ 12 + page.toNat)

/-- Times in the 1,000 ms before `now`, counted on 1 ms ticks of the drowse clock (R93). -/
def inTicks (now : BitVec 64) (ts : List (BitVec 64)) : List (BitVec 64) :=
  ts.filter (fun x => decide (now.toNat / 1000 < x.toNat / 1000 + 1000))

/-- Times within `span` µs before `now`. -/
def inWindow (now : BitVec 64) (span : Nat) (ts : List (BitVec 64)) : List (BitVec 64) :=
  ts.filter (fun x => decide (now.toNat < x.toNat + span))

/-- Record a fault in the tile's registers (R266, R269, R542): the sequencer's for instruction `w` at `pc`, and the
unit's own; a compute fault is counted at time `now` (R93). `lastCause` keeps the newest CAUSE for the letter's status (R298). -/
def recordFault (f : TileFault) (pc : BitVec 12) (w : BitVec 64) (now : BitVec 64) (t : Tile) : Tile :=
  let t1 := match f.seqCode with
    | some (c, u) =>
      if bitAt t.seqFault 31 then { t with lastCause := c }
      else { t with lastCause := c, seqFault := seqFaultWord c u pc, seqWord := w }
    | none => t
  match f with
  | .mem c m l _ =>
    { t1 with memFault := keepFirst t1.memFault (memFaultWord c m l),
              uncorrTimes := if c = 6 then now :: inWindow now 1000000 t1.uncorrTimes else t1.uncorrTimes }
  | .net c p i _ => { t1 with netFault := keepFirst t1.netFault (netFaultWord c p i) }
  | .own c n p a e _ =>
    if bitAt t1.ownFault 31 then t1
    else { t1 with ownFault := ownFaultWord c n p, ownSession := BitVec.ofNat 32 (a.toNat * 65536 + e.toNat) }
  | .compute => { t1 with tallyTotal := satAdd t1.tallyTotal 1, tallyTimes := now :: inTicks now t1.tallyTimes }
  | .seq _ _ => t1
  | .crc => t1

/-! ## Finisher flags (R87, R269) -/

def flagOverflow : BitVec 3 := 1
def flagInvalid : BitVec 3 := 2
def flagNonfinite : BitVec 3 := 4

/-- Flags of one lane: a non-finite input, NaN from non-NaN inputs, and, where `ovf`, infinity from finite inputs. -/
def laneFlags (ovf : Bool) (ins : List Word) (out : Word) : BitVec 3 :=
  (if ins.any (fun x => !isFinite x) then flagNonfinite else 0) |||
  (if isNaN out && !(ins.any isNaN) then flagInvalid else 0) |||
  (if ovf && isInf out && ins.all isFinite then flagOverflow else 0)

/-- The one quiet NaN in place of any NaN (R87). -/
def quietNaN (x : Word) : Word := if isNaN x then qNaN else x

/-- Union of flags. -/
def orFlags : List (BitVec 3) → BitVec 3
  | [] => 0
  | f :: fs => f ||| orFlags fs

/-- Set sticky flags. -/
def Tile.addFlags (t : Tile) (f : BitVec 3) : Tile := { t with finFlags := t.finFlags ||| f }

/-! ## Events of an access that the program does not determine (R107, R125, R126) -/

/-- Count a bank conflict and keep the most recent one. -/
def countClash (c : Clash) (t : Tile) : Tile :=
  { t with bankConflicts := satAdd t.bankConflicts 1,
           conflictLast := BitVec.ofNat 32 (c.mem.toNat * 2 ^ 30 + c.kind.toNat * 2 ^ 28 + c.line.toNat) }

/-- Count a corrected read (R107). -/
def countEcc (e : EccEvent) (t : Tile) : Tile :=
  match e with
  | .correctedSram => { t with eccSram := satAdd t.eccSram 1 }
  | .correctedSlab => { t with eccSlab := satAdd t.eccSlab 1 }
  | .uncorrectable _ _ => t

/-- The counts an intrusion leaves (R77, R107, R125). -/
def intrude (i : Intrusion) (t : Tile) : Tile :=
  let x := i.clashes.foldl (fun y c => countClash c y) t
  let y := i.ecc.foldl (fun z e => countEcc e z) x
  { y with deferrals := satAdd y.deferrals i.deferred,
           hazards := if i.hazard then satAdd y.hazards 1 else y.hazards }

/-- The first uncorrectable read among the events of an access. -/
def lostRead (unit : BitVec 4) : List EccEvent → Option TileFault
  | [] => none
  | .uncorrectable m l :: _ => some (.mem 6 m l unit)
  | _ :: es => lostRead unit es

/-- What stops the access at a unit: an uncorrectable read (R107, R451), or in the converter and the finisher a residue
mismatch (R84). -/
def intrusionStops (i : Intrusion) (unit : BitVec 4) : Option TileFault :=
  match lostRead unit i.ecc with
  | some e => some e
  | none => if i.residue && (unit == unitConverter || unit == unitFinisher) then some .compute else none

/-- The events of a command without a slot operand: no slot hazard (R77). -/
def noSlots (i : Intrusion) : Intrusion := { i with hazard := false }

end Sys2Proof.Machine
end

