-- ==== Sys2Proof/Machine/FinMath.lean ====
section
/-! DEFINITION. The finisher's arithmetic: lane sums, max and min with index, lookup tables, rotary embedding (R85 to
R91). -/

namespace Sys2Proof.Machine

/-- One level of the pairwise tree: lanes 2i and 2i + 1 (R90). -/
def sumPairs : List Word → List Word
  | a :: b :: xs => fadd a b :: sumPairs xs
  | xs => xs

/-- The lane sum of 64 lanes: six levels (R90). -/
def laneSum (v : List Word) : Word :=
  nth 0 (sumPairs (sumPairs (sumPairs (sumPairs (sumPairs (sumPairs v)))))) 0

/-- Max- or min-with-index of two pairs, by the rules of R85 in their order. -/
def pickPair (mini : Bool) (a b : Word × Word) : Word × Word :=
  if isNaN a.1 && isNaN b.1 then (qNaN, 0xFFFFFFFF)
  else if isNaN a.1 then b
  else if isNaN b.1 then a
  else if f32Key a.1 ≠ f32Key b.1 then (if (decide (f32Key a.1 < f32Key b.1)) == mini then a else b)
  else if a.2 ≠ b.2 then (if a.2.toNat < b.2.toNat then a else b)
  else if a.1.toNat ≤ b.1.toNat then a else b

/-- The winner of a list of pairs. -/
def pickAll (mini : Bool) : List (Word × Word) → Word × Word
  | [] => (qNaN, 0xFFFFFFFF)
  | [p] => p
  | p :: ps => pickPair mini p (pickAll mini ps)

/-- u = (x − x0) × s, evaluated exactly and rounded once; infinities by IEEE 754 (R87, R89). -/
def lookupIndex (x x0 s : Word) : Word :=
  if isFinite x && isFinite x0 && isFinite s then
    let d := ((f32Val x).sub (f32Val x0)).mul (f32Val s)
    if d.isZero then 0 else roundF32 d
  else fmul (fsub x x0) s

/-- y_i + f × (y_(i+1) − y_i), evaluated exactly and rounded once; infinities and NaN by IEEE 754 (R87, R89). -/
def interpolate (a b : Word) (fr : Dy) : Word :=
  if isFinite a && isFinite b then
    let d := (f32Val a).add (fr.mul ((f32Val b).sub (f32Val a)))
    if d.isZero then 0 else roundF32 d
  else fadd a (fmul (roundF32 fr) (fsub b a))

/-- Lookup with interpolation in a table (R89). -/
def lookupTable (t : FinTable) (x : Word) : Word :=
  let u := lookupIndex x t.x0 t.inv
  let y (i : Nat) : Word := Tbl.get 0 t.ys i
  if isNaN x || isNaN u then qNaN
  else if fltB u 0 then quietNaN (y 0)
  else if !(fltB u 0x447FC000) then quietNaN (y 1023)
  else
    let v := f32Val u
    let i : Nat := (if v.e ≥ 0 then v.m * pow2 v.e else v.m / pow2 (-v.e)).toNat
    let r := interpolate (y i) (y (i + 1)) (v.sub (Dy.ofInt i))
    if isNaN r then qNaN else r

/-- The phase (position × ω) mod 2^32, exactly (R91). -/
def ropePhase (position : Nat) (w : Word) : Word := BitVec.ofNat 32 (position * w.toNat)

/-- p × a + q × b for finite a and b, rounded once; otherwise by IEEE 754 on the rounded factors (R87, R91). -/
def mulAdd2 (p : Word) (a : Dy) (q : Word) (b : Dy) : Word :=
  if isFinite p && isFinite q then
    let d := ((f32Val p).mul a).add ((f32Val q).mul b)
    if d.isZero then 0 else roundF32 d
  else fadd (fmul p (roundF32 a)) (fmul q (roundF32 b))

/-- One rotated pair (R91). -/
def ropePair (position : Nat) (w x y : Word) : Word × Word :=
  let cs := fcosSin (ropePhase position w)
  (mulAdd2 x cs.1 y cs.2.neg, mulAdd2 x cs.2 y cs.1)

/-- Rotate the 32 pairs of a vector (R91). -/
def ropeVec (position : Nat) : List Word → List Word → List Word
  | w :: ws, x :: y :: v => let r := ropePair position w x y; r.1 :: r.2 :: ropeVec position ws v
  | _, _ => []

/-- x × y × rsqrt(q/L + ε), each step correctly rounded (R88). -/
def rmsFactor (q eps : Word) (l : Nat) : Word := frsqrt (fadd (fdivNat q l) eps)

def rmsLane (x y r : Word) : Word := fmul (fmul x y) r

/-- CMPGT: 1.0 where x > y (R252). -/
def fcmpgt (x y : Word) : Word := if fltB y x then f32One else 0

/-- Combine words lane by lane. -/
def zipWords (f : Word → Word → Word) : List Word → List Word → List Word
  | x :: xs, y :: ys => f x y :: zipWords f xs ys
  | _, _ => []

end Sys2Proof.Machine
end

