-- ==== Sys2Proof/Machine/Geometry.lean ====
section
/-! DEFINITION. Coordinates, blocks, spare maps, rim attachment and the distance record (R17 to R32, R566). -/

namespace Sys2Proof.Machine

/-- Fields of a tile ID (R18). -/
def tileField (t : TileId) : Nat := bitsAt t 10 6
def tileYIn (t : TileId) : Nat := bitsAt t 5 5
def tileXIn (t : TileId) : Nat := bitsAt t 0 5

/-- Logical coordinates (R17, R18). -/
def tileX (t : TileId) : Nat := 32 * (tileField t % 8) + tileXIn t
def tileY (t : TileId) : Nat := 32 * (tileField t / 8) + tileYIn t

/-- The tile ID at logical (X, Y) (R17, R18). -/
def tileAt (x y : Nat) : TileId :=
  BitVec.ofNat 16 ((8 * (y / 32 % 8) + x / 32 % 8) * 1024 + y % 32 * 32 + x % 32)

/-- Block of a tile as 16f + b (R17). -/
def tileBlock (t : TileId) : Nat := 16 * tileField t + (4 * (tileYIn t / 8) + tileXIn t / 8)

/-- Tiles of a block 16f + b, in tile-ID order. -/
def blockTiles (b : Nat) : List TileId :=
  (List.range 8).flatMap (fun r => (List.range 8).map (fun c =>
    BitVec.ofNat 16 (b / 16 * 1024 + (8 * (b % 16 / 4) + r) * 32 + 8 * (b % 4) + c)))

/-- Tiles of a field. -/
def fieldTiles (f : Nat) : List TileId := (List.range 1024).map (fun i => BitVec.ofNat 16 (f * 1024 + i))

/-- Index of a tile's row group in its field's spare map (R19). -/
def spareIndex (t : TileId) : Nat := 4 * tileYIn t + tileXIn t / 8

/-- Physical column under a map code (R20). -/
def physColumn (t : TileId) (code : BitVec 4) : Nat :=
  let g := tileXIn t / 8
  let j := tileXIn t % 8
  9 * g + j + (if code.toNat ≤ 7 ∧ code.toNat ≤ j then 1 else 0)

/-- Spare-map code of a row group; unlisted entries are intact (R19). -/
def spareCode (m : Tbl (BitVec 4)) (k : Nat) : BitVec 4 := Tbl.get (0xF : BitVec 4) m k

/-! ## The rim (R24, R25, R566) -/

/-- What an outward port attaches. -/
inductive RimDie where
  | stack (s : Nat)
  | chiplet (c : Nat)
  | keeper (k : Nat)
  | idle
  deriving DecidableEq, Repr

/-- Die at offset d of edge e (0 north, 1 east, 2 south, 3 west) (R24, R25). -/
def rimDie (e d : Nat) : RimDie :=
  if d < 96 then .stack (6 * e + d / 32)
  else if d < 112 then .chiplet (3 * e)
  else if d < 128 then (if e = 0 then .keeper 0 else if e = 2 then .keeper 1 else .idle)
  else if d < 144 then .chiplet (3 * e + 1)
  else if d < 160 then .chiplet (3 * e + 2)
  else .stack (6 * e + 3 + (d - 160) / 32)

/-- Edges and offsets of a tile (R24): (edge, offset) for each edge it lies on. -/
def edgeOffsets (t : TileId) : List (Nat × Nat) :=
  (if tileY t = 0 then [(0, tileX t)] else []) ++ (if tileX t = 255 then [(1, tileY t)] else []) ++
  (if tileY t = 255 then [(2, 255 - tileX t)] else []) ++ (if tileX t = 0 then [(3, 255 - tileY t)] else [])

/-- The primary outward port: at a corner the edge where the offset is 0, elsewhere the only one (R566). -/
def primaryPort (t : TileId) : Option (Nat × Nat) :=
  match edgeOffsets t with
  | [] => none
  | [p] => some p
  | p :: q :: _ => if p.2 = 0 then some p else some q

/-- The secondary outward port of a corner tile (R566). -/
def secondaryPort (t : TileId) : Option (Nat × Nat) :=
  match edgeOffsets t with
  | p :: q :: _ => if p.2 = 0 then some q else some p
  | _ => none

/-- Edge tile at offset d of edge e (R24). -/
def edgeTile (e d : Nat) : TileId :=
  if e = 0 then tileAt d 0 else if e = 1 then tileAt 255 d else if e = 2 then tileAt (255 - d) 255 else tileAt 0 (255 - d)

/-- The 32 tiles that face a stack (R24). -/
def stackTiles (s : Nat) : List TileId :=
  let n := s % 6
  let base := if n < 3 then 32 * n else 160 + 32 * (n - 3)
  (List.range 32).map (fun i => edgeTile (s / 6) (base + i))

/-- The 16 tiles that face a link chiplet (R24). -/
def chipletTiles (c : Nat) : List TileId :=
  let n := c % 3
  let base := if n = 0 then 96 else if n = 1 then 128 else 144
  (List.range 16).map (fun i => edgeTile (c / 3) (base + i))

/-- Fields that a stack's edge tiles lie in; the blocks that face it are theirs on that edge. -/
def blocksFacing (s : Nat) : List Nat := ((stackTiles s).map tileBlock).dedup

/-! ## The distance table (R27 to R32) -/

/-- Sites without an active tile passed between logical X a and X b (a < b) of one row, by the spare codes of its row
groups: the site passed inside a row group's nine sites that holds no tile (R32). -/
def sitesPassed (code : Nat → BitVec 4) (a b : Nat) : Nat :=
  ((List.range 32).map (fun g =>
    let hole : Nat := if (code g).toNat ≤ 7 then (code g).toNat else 8
    let x0 := 8 * g
    -- the hole lies before the tile at position `hole` of the group, or after position 7
    if decide (a < x0 + hole) && decide (x0 + hole ≤ b) then 1 else 0)).sum

/-- Hops, boundaries and passed sites of the X-then-Y route from t to u, by the codes of t's row. -/
def routeCost (code : Nat → BitVec 4) (t u : TileId) : Nat × Nat × Nat :=
  let (xa, ya, xb, yb) := (tileX t, tileY t, tileX u, tileY u)
  let hops := (max xa xb - min xa xb) + (max ya yb - min ya yb)
  let bounds := (max (xa / 32) (xb / 32) - min (xa / 32) (xb / 32)) + (max (ya / 32) (yb / 32) - min (ya / 32) (yb / 32))
  (hops, bounds, sitesPassed code (min xa xb) (max xa xb))

/-- Nominal latency of a route in cycles (R32, R139). -/
def routeNs (c : Nat × Nat × Nat) : Nat := 2 * c.1 + 4 * c.2.1 + c.2.2

/-- A distance entry (R29). -/
def distEntry (hops ns : Nat) : Word := BitVec.ofNat 32 (ns % 65536 * 65536 + hops % 65536)

/-- The edge tile of a list nearest by the route's hops, first listed on a tie. -/
def nearest (t : TileId) : List TileId → Option TileId
  | [] => none
  | u :: us =>
    match nearest t us with
    | none => some u
    | some v =>
      let d (w : TileId) : Nat := (max (tileX t) (tileX w) - min (tileX t) (tileX w)) +
        (max (tileY t) (tileY w) - min (tileY t) (tileY w))
      if d u ≤ d v then some u else some v

/-- Entry toward a rim die: the route to the nearest attached edge tile, then the rim crossing (R31, R32). -/
def rimEntryWord (code : Nat → BitVec 4) (t : TileId) (us : List TileId) : Word :=
  match nearest t us with
  | none => 0xFFFFFFFF
  | some u => let c := routeCost code t u; distEntry (c.1 + 1) (routeNs c + 8)

/-- Entry toward the neighbouring field in a direction (0 north, 1 east, 2 south, 3 west) (R31). -/
def boundaryWord (code : Nat → BitVec 4) (t : TileId) (dir : Nat) : Word :=
  let fx := tileX t / 32
  let fy := tileY t / 32
  let target : Option TileId :=
    if dir = 0 then (if fy = 0 then none else some (tileAt (tileX t) (32 * fy - 1)))
    else if dir = 1 then (if fx = 7 then none else some (tileAt (32 * fx + 32) (tileY t)))
    else if dir = 2 then (if fy = 7 then none else some (tileAt (tileX t) (32 * fy + 32)))
    else (if fx = 0 then none else some (tileAt (32 * fx - 1) (tileY t)))
  match target with
  | none => 0xFFFFFFFF
  | some u => let c := routeCost code t u; distEntry c.1 (routeNs c)

/-- Flags byte of a record (R30). -/
def distFlags (t : TileId) (code : BitVec 4) : Nat :=
  (if tileY t < 8 then 1 else 0) + (if tileX t > 247 then 2 else 0) + (if tileY t > 247 then 4 else 0) +
  (if tileX t < 8 then 8 else 0) + (if code.toNat ≤ 7 ∧ code.toNat ≤ tileXIn t % 8 then 16 else 0)

/-- The 168-byte record of a tile (R28): `map` gives each field's spare map, the Booleans say which stacks and chiplets
are retired. -/
def distRecord (gen : BitVec 16) (map : Nat → Tbl (BitVec 4)) (noStack noChip : Nat → Bool) (t : TileId) : List Byte :=
  let code (g : Nat) : BitVec 4 := spareCode (map (8 * (tileY t / 32) + g / 4)) (4 * tileYIn t + g % 4)
  let own := spareCode (map (tileField t)) (spareIndex t)
  leBytes 2 t.toNat ++ leBytes 1 (distFlags t own) ++ leBytes 1 (physColumn t own) ++ leBytes 2 gen.toNat ++ leBytes 2 0 ++
  (List.range 24).flatMap (fun s => leBytes 4 (if noStack s then 0xFFFFFFFF else rimEntryWord code t (stackTiles s)).toNat) ++
  (List.range 12).flatMap (fun c => leBytes 4 (if noChip c then 0xFFFFFFFF else rimEntryWord code t (chipletTiles c)).toNat) ++
  (List.range 4).flatMap (fun d => leBytes 4 (boundaryWord code t d).toNat)

end Sys2Proof.Machine
end

