-- ==== Sys2Proof/Machine/Ops.lean ====
section
/-! DEFINITION. Named operations over the device: reaching a unit, tile registers and memories, ranges, the scoreboard,
postcards, taking a tile's fault as one shared operation (R267), discarding a wave (R268), and the issue of one
instruction (R232 to R243, R568). -/

namespace Sys2Proof.Machine

/-! ## Reaching a unit -/

def State.tile (s : State) (t : TileId) : Tile := Tbl.get {} s.tiles t.toNat
def State.putTile (s : State) (t : TileId) (x : Tile) : State := { s with tiles := Tbl.set {} s.tiles t.toNat x }
def State.updTile (s : State) (t : TileId) (f : Tile → Tile) : State := s.putTile t (f (s.tile t))
def State.block (s : State) (b : Nat) : Block := Tbl.get {} s.blocks b
def State.putBlock (s : State) (b : Nat) (x : Block) : State := { s with blocks := Tbl.set {} s.blocks b x }
def State.updBlock (s : State) (b : Nat) (f : Block → Block) : State := s.putBlock b (f (s.block b))
def State.field (s : State) (f : Nat) : FieldCtl := Tbl.get {} s.fieldCtls f
def State.putField (s : State) (f : Nat) (x : FieldCtl) : State := { s with fieldCtls := Tbl.set {} s.fieldCtls f x }
def State.updField (s : State) (f : Nat) (g : FieldCtl → FieldCtl) : State := s.putField f (g (s.field f))
def State.stk (s : State) (n : Nat) : Stack := Tbl.get {} s.stackCtls n
def State.putStk (s : State) (n : Nat) (x : Stack) : State := { s with stackCtls := Tbl.set {} s.stackCtls n x }
def State.updStk (s : State) (n : Nat) (f : Stack → Stack) : State := s.putStk n (f (s.stk n))
def State.chiplet (s : State) (c : Nat) : Chiplet := Tbl.get {} s.chiplets c
def State.putChiplet (s : State) (c : Nat) (x : Chiplet) : State := { s with chiplets := Tbl.set {} s.chiplets c x }
def State.updChiplet (s : State) (c : Nat) (f : Chiplet → Chiplet) : State := s.putChiplet c (f (s.chiplet c))
def State.port (s : State) (p : Nat) : LinkPort := Tbl.get {} s.ports p
def State.putPort (s : State) (p : Nat) (x : LinkPort) : State := { s with ports := Tbl.set {} s.ports p x }
def State.updPort (s : State) (p : Nat) (f : LinkPort → LinkPort) : State := s.putPort p (f (s.port p))
def State.keeper (s : State) (k : Nat) : Keeper := Tbl.get {} s.keepers k
def State.updKeeper (s : State) (k : Nat) (f : Keeper → Keeper) : State :=
  { s with keepers := Tbl.set {} s.keepers k (f (s.keeper k)) }
def State.session (s : State) (n : Nat) : Session := Tbl.get {} s.dev.sessions n
def State.updDev (s : State) (f : Dev → Dev) : State := { s with dev := f s.dev }
def State.putSession (s : State) (n : Nat) (x : Session) : State :=
  s.updDev (fun d => { d with sessions := Tbl.set {} d.sessions n x })
def State.updSession (s : State) (n : Nat) (f : Session → Session) : State := s.putSession n (f (s.session n))

/-! ## Registers and memories of a tile -/

/-- s0 reads as 0 (R232). -/
def Tile.sreg (t : Tile) (r : BitVec 5) : Word := if r = 0 then 0 else Tbl.get 0 t.s r.toNat

/-- s0 ignores writes (R232). -/
def Tile.setS (t : Tile) (r : BitVec 5) (v : Word) : Tile := if r = 0 then t else { t with s := Tbl.set 0 t.s r.toNat v }

/-- a0 reads as 0 (R232). -/
def Tile.areg (t : Tile) (r : BitVec 4) : Word := if r = 0 then 0 else Tbl.get 0 t.a r.toNat

/-- a0 ignores writes (R232). -/
def Tile.setA (t : Tile) (r : BitVec 4) (v : Word) : Tile := if r = 0 then t else { t with a := Tbl.set 0 t.a r.toNat v }

def memWb : BitVec 2 := 0
def memSlab : BitVec 2 := 1
def memWs : BitVec 2 := 2

/-- Physical line of a weight-store address (R100). -/
def Tile.wsLine (t : Tile) (l : Nat) : Nat := l ^^^ (t.facing.toNat * 0x2000)

/-- Read one line; weight-store addresses are facing-relative (R100). -/
def Tile.readLine (t : Tile) (m : BitVec 2) (l : Nat) : Line :=
  if m = memWb then Mem.readLine t.wb l else if m = memSlab then Mem.readLine t.slab l else Mem.readLine t.ws (t.wsLine l)

/-- Write one line; a working-buffer line that is written holds no killed word any more. -/
def Tile.writeLine (t : Tile) (m : BitVec 2) (l : Nat) (x : Line) : Tile :=
  if m = memWb then { t with wb := Mem.writeLine t.wb l x, killed := t.killed.filter (fun k => k / 16 != l) }
  else if m = memSlab then { t with slab := Mem.writeLine t.slab l x }
  else { t with ws := Mem.writeLine t.ws (t.wsLine l) x }

/-- Read `n` lines from line `l`. -/
def Tile.readLines (t : Tile) (m : BitVec 2) (l n : Nat) : List Line := (List.range n).map (fun i => t.readLine m (l + i))

/-- Write lines from line `l` upward. -/
def Tile.writeLines (t : Tile) (m : BitVec 2) (l : Nat) : List Line → Tile
  | [] => t
  | x :: xs => Tile.writeLines (t.writeLine m l x) m (l + 1) xs

/-- Lines of a memory (R94, R95). -/
def memLines (m : BitVec 2) : Nat := if m = memWb then 4096 else if m = memSlab then 65536 else 16384

/-- First allocatable line beyond the slab's allocatable part (R95). -/
def slabReserve : Nat := 0xFC00

/-- What is wrong with a range, in R97's order, with the line TS_MEM_FAULT records. -/
def rangeFault (r : LineRange) : Option (BitVec 4 × Nat) :=
  if r.first + r.count > memLines r.mem then some (1, max r.first (memLines r.mem))
  else if r.mem = memSlab ∧ r.first + r.count > slabReserve then some (2, max r.first slabReserve)
  else if r.mem = memWs ∧ (r.first % 8 ≠ 0 ∨ r.count % 8 ≠ 0) then some (3, r.first)
  else none

/-- The memory fault of the first bad range (R97). LINE holds the line's low 16 bits: the spec gives the field no wider one
(DESIGN CHOICE, log entry 137). -/
def rangesFault (unit : BitVec 4) : List LineRange → Option TileFault
  | [] => none
  | r :: rs =>
    match rangeFault r with
    | some (c, l) => some (.mem c r.mem (BitVec.ofNat 16 l) unit)
    | none => rangesFault unit rs

/-- Two ranges share a line. -/
def LineRange.overlaps (a b : LineRange) : Bool :=
  a.mem == b.mem && decide (a.first < b.first + b.count) && decide (b.first < a.first + a.count)

/-! ## Lines of a PASS (R64, R245) -/

/-- Tokens of a pass (R66). -/
def dwellOf (f : PassOps) : Nat := f.dwell.toNat + 1

/-- Format byte of WFMT. -/
def passFmt (f : PassOps) : Byte := f.wfmt.setWidth 8

/-- Lines of the whole weight or cache operand. -/
def operandLines (f : PassOps) : Nat :=
  f.steps.toNat * stepLines (passFmt f) - (if f.half then stepLines (passFmt f) / 2 else 0)

/-- Activation lines of one step (R245). -/
def stepActs (f : PassOps) : Nat := stepRows (passFmt f) * dwellOf f * (if f.reg then 2 else 1)

/-- Ranges a pass reads: its weight or cache operand and its activations. -/
def rangesOf (f : PassOps) (aw aa : Nat) : List LineRange :=
  [⟨if f.isCache then memSlab else memWs, aw, operandLines f⟩, ⟨memWb, aa, f.steps.toNat * stepActs f⟩]

/-- Activation lines a waiting PASS has still to read (R236). -/
def passLines (p : PassRun) : LineRange :=
  ⟨memWb, p.aa + p.step * stepActs p.f, (p.f.steps.toNat - p.step) * stepActs p.f⟩

/-- Every line a waiting PASS reads. -/
def passReads (p : PassRun) : List LineRange := rangesOf p.f p.aw p.aa

/-! ## The scoreboard (R120 to R124) -/

def SbEntry.range (e : SbEntry) : LineRange := ⟨e.mem, e.first, e.lines⟩

/-- An access waits: it reads under an unsatisfied FILL or writes under an unsatisfied DRAIN (R121). -/
def Tile.sbBlocks (t : Tile) (reads writes : List LineRange) : Bool :=
  (List.range 16).any (fun e =>
    let x := Tbl.get {} t.sb e
    x.used && (if x.drain then writes.any (fun r => r.overlaps x.range) else reads.any (fun r => r.overlaps x.range)))

/-- Lines an issued TAKE still has to write. -/
def takeRange (r : TakeRun) : LineRange := ⟨memWb, r.next, r.left * (if r.reg then 2 else 1)⟩

/-- Every line a TAKE writes, until it retires (R237). -/
def takeWhole (r : TakeRun) : LineRange := ⟨memWb, r.first, r.count * (if r.reg then 2 else 1)⟩

/-- An access overlaps lines that an issued TAKE still has to write (R236). -/
def Tile.takeBlocks (t : Tile) (rs : List LineRange) : Bool :=
  t.takes.any (fun k => rs.any (fun r => r.overlaps (takeRange k)))

/-- A write overlaps working-buffer lines that an issued PASS has still to read (R236). -/
def Tile.passBlocks (t : Tile) (writes : List LineRange) : Bool :=
  t.passes.any (fun p => writes.any (fun r => r.overlaps (passLines p)))

/-- A compute-side access waits: the scoreboard, an earlier TAKE still filling its lines, or an earlier PASS still to read
lines it writes (R121, R236). -/
def Tile.lineBlocks (t : Tile) (reads writes : List LineRange) : Bool :=
  t.sbBlocks reads writes || t.takeBlocks (reads ++ writes) || t.passBlocks writes

/-- A descriptor waits at issue: an earlier TAKE that has not retired writes a line of its source or destination, or a PASS
that has not retired reads a line of its destination (R237). -/
def Tile.unretired (t : Tile) (src dst : List LineRange) : Bool :=
  t.takes.any (fun k => (src ++ dst).any (fun r => r.overlaps (takeWhole k))) ||
  t.blockEnds.any (fun b => dst.any (fun r => b.reads.any r.overlaps)) ||
  t.passes.any (fun p => dst.any (fun r => (passReads p).any r.overlaps))

/-- Descriptors in the queue: those that wait and those that run (R117, R127, R272). -/
def Tile.queued (t : Tile) : Nat := t.descq.length + t.running.length

/-- The descriptor queue has no room for one more (R117, R272). -/
def Tile.queueFull (t : Tile) : Bool := decide (t.queued ≥ 16)

/-- The post engine wrote (drain false) or read (drain true) one line: matching entries count it, and a satisfied entry
frees itself (R120). A line written or read a second time counts again: the spec counts lines as they are written or read and
keeps no mark of each (DESIGN CHOICE, log entry 138). -/
def sbCountEntry (drain : Bool) (m : BitVec 2) (l : Nat) (x : SbEntry) : SbEntry :=
  if x.used && x.drain == drain && (LineRange.mk m l 1).overlaps x.range then
    if x.count + 1 ≥ x.lines then {} else { x with count := x.count + 1 }
  else x

def Tile.sbCount (t : Tile) (drain : Bool) (m : BitVec 2) (l : Nat) : Tile :=
  { t with sb := (List.range 16).foldl (fun sb e => Tbl.set {} sb e (sbCountEntry drain m l (Tbl.get {} sb e))) t.sb }

/-- Lowest free scoreboard entry (R258). -/
def Tile.sbFree (t : Tile) : Option Nat := (List.range 16).find? (fun e => !(Tbl.get ({} : SbEntry) t.sb e).used)

/-! ## Slots (R71, R77) -/

def Tile.slot (t : Tile) (n : Nat) : Slot := Tbl.get {} t.slots n
def Tile.putSlot (t : Tile) (n : Nat) (x : Slot) : Tile := { t with slots := Tbl.set {} t.slots n x }

/-- Slots [a, a + j) and [n, n + k) share one. -/
def slotsMeet (a j n k : Nat) : Bool := decide (a < n + k) && decide (n < a + j)

/-- A PASS in flight names a slot of [n, n + k): a block end of it is on its way, or it has still steps to take (R77, R259). -/
def Tile.slotBusy (t : Tile) (n k : Nat) : Bool :=
  t.blockEnds.any (fun b => slotsMeet b.base b.span n k || slotsMeet b.slot.toNat 1 n k) ||
  t.passes.any (fun p => slotsMeet p.f.slot.toNat (p.f.dwell.toNat + 1) n k)

/-- Mark slots as written in the wave (R83). -/
def Tile.markWritten (t : Tile) (n k : Nat) : Tile :=
  { t with written := t.written ||| BitVec.ofNat 16 ((2 ^ k - 1) * 2 ^ n) }

/-- Close every slot written in the wave (R83, R268). -/
def Tile.closeWritten (t : Tile) : Tile :=
  { t with
    slots := (List.range 16).foldl (fun m n =>
      if bitAt t.written n then Tbl.set {} m n {} else m) t.slots
    written := 0 }

/-! ## Postcards (R155, R156, R159) -/

/-- A postcard with its CRC-8 over bytes 1 to 7 (R155). -/
def mkCard (payload : Word) (typ : BitVec 4) (dclass : BitVec 3) (dest : BitVec 16) : Card :=
  let c : Card := BitVec.ofNat 64 (payload.toNat * 2 ^ 32 + typ.toNat * 2 ^ 28 + dclass.toNat * 2 ^ 25 + dest.toNat * 2 ^ 8)
  c ||| (crc8 ((bytesOf 8 c).drop 1)).setWidth 64

def Card.payload (c : Card) : Word := fieldAt c 32 32
def Card.typ (c : Card) : BitVec 4 := fieldAt c 28 4
def Card.dclass (c : Card) : BitVec 3 := fieldAt c 25 3
def Card.dest (c : Card) : BitVec 16 := fieldAt c 8 16
def Card.good (c : Card) : Bool := fieldAt c 0 8 == crc8 ((bytesOf 8 c).drop 1)

def cardKnock : BitVec 4 := 0x1
def cardFault : BitVec 4 := 0x2
def cardWatchdog : BitVec 4 := 0x3
def cardOrder : BitVec 4 := 0x4
def cardArrive : BitVec 4 := 0x5
def cardRelease : BitVec 4 := 0x6
def cardFirefly : BitVec 4 := 0x7
def cardUserType : BitVec 4 := 0x8

/-- Enter a card into an inbox of a depth; a full inbox holds it in the stage before (R159). -/
def enterInbox (depth : Nat) (inbox hold : List Card) (c : Card) : List Card × List Card :=
  if inbox.length < depth ∧ hold = [] then (inbox ++ [c], hold) else (inbox, hold ++ [c])

/-- The block takes arrivals: ACTIVE, or GATED and not on its way down (R392, R398). -/
def Block.awake (b : Block) : Bool := b.pstate == .active || (b.pstate == .gated && b.step == 0)

/-- Sources of cards: tiles, routers, block nodes, field hubs, the mailboxes. -/
def srcTile (t : TileId) : Nat := t.toNat
def srcRouter (t : TileId) : Nat := 0x10000 + t.toNat
def srcNode (b : Nat) : Nat := 0x20000 + b
def srcHub (f : Nat) : Nat := 0x30000 + f
def srcMailbox : Nat := 0x40000

/-- A card leaves its sender into the postcard network; its arrival is a command of its own (R155, R158). -/
def sendCard (src : Nat) (c : Card) (s : State) : State := s.updDev (fun d => { d with cards := d.cards ++ [⟨src, c⟩] })

/-- KNOCK, FAULT_NOTE, WATCHDOG and WAVE_ORDER cards have a lane of their own (R156, R158). -/
def Card.urgent (c : Card) : Bool := decide (1 ≤ (Card.typ c).toNat) && decide ((Card.typ c).toNat ≤ 4)

/-- Two cards from one source to one destination on one lane keep their order (R159). -/
def sameLane (a b : CardRun) : Bool :=
  a.src == b.src && Card.dclass a.card == Card.dclass b.card && Card.dest a.card == Card.dest b.card &&
  Card.urgent a.card == Card.urgent b.card

/-- Take card `c` out of those on their way: the first that no earlier card of its lane precedes. -/
def dropCard (c : Card) : List CardRun → List CardRun → List CardRun
  | _, [] => []
  | seen, r :: rs => if r.card == c && !seen.any (sameLane r) then rs else r :: dropCard c (r :: seen) rs

/-- Card `c` may arrive: it is on its way with no earlier card of its lane before it, or it comes from a sender outside the
model (R159). -/
def cardDue (c : Card) (s : State) : Bool :=
  s.dev.cards.all (fun r => r.card != c) || decide ((dropCard c [] s.dev.cards).length < s.dev.cards.length)

/-- The card that arrives is no longer in the network (R159). -/
def cardArrives (c : Card) (s : State) : State := s.updDev (fun d => { d with cards := dropCard c [] d.cards })

/-- A tile sends a card: it leaves and SENT counts it (R162). -/
def tileSends (t : TileId) (c : Card) (s : State) : State :=
  sendCard (srcTile t) c (s.updTile t (fun x => { x with sent := x.sent + 1 }))

/-- Ordinary cards the tile has sent at time `now`. -/
def Tile.cardsAt (x : Tile) (now : BitVec 64) : Nat := if x.cardTime = now then x.cardsThen else 0

/-- The block node takes one ordinary card of a tile in any 200 ns, so five in a microsecond (R158). -/
def Tile.cardRoom (x : Tile) (now : BitVec 64) : Bool := decide (x.cardsAt now < 5)

/-- A tile sends an ordinary card at time `now` (R158). -/
def tileSendsOrdinary (t : TileId) (c : Card) (s : State) : State :=
  tileSends t c (s.updTile t (fun x => { x with cardTime := s.dev.time, cardsThen := x.cardsAt s.dev.time + 1 }))

/-- The KNOCK card to an agent with a reason (R156). -/
def knockCard (dclass : BitVec 3) (dest : BitVec 16) (reason : Byte) : Card :=
  mkCard (reason.setWidth 32) cardKnock dclass dest

/-- A FAULT_NOTE to the Postmaster (R453). -/
def faultNoteCard (cause : BitVec 4) (wave : Byte) (source : BitVec 16) : Card :=
  mkCard (BitVec.ofNat 32 (cause.toNat * 2 ^ 28 + wave.toNat * 2 ^ 16 + source.toNat)) cardFault 4 0

/-- The field hub's copy of a fault note at the field controller, with the time it came; the retirement counts of R459 look back
1 s (R453). -/
def copyNote (f : Nat) (c : Card) (s : State) : State :=
  s.updField f (fun x => { x with notes := x.notes.filter (fun e => decide (s.dev.time.toNat < e.1.toNat + 1000000)) ++ [(s.dev.time, c)] })

/-- A tile sends a FAULT_NOTE, and the field hub on its path copies it to the field controller (R453). -/
def sendFaultNote (cause : BitVec 4) (wave : Byte) (t : TileId) (s : State) : State :=
  copyNote (tileField t) (faultNoteCard cause wave t) (tileSends t (faultNoteCard cause wave t) s)

/-! ## Taking a tile's fault, and discarding a wave -/

/-- WAVE of the affected wave, 0 when the tile has begun none (R453). -/
def Tile.noteWave (t : Tile) : Byte := if t.begun then t.ctx.wave else 0

/-- Taking a fault of the instruction at `pc` with word `w` for a WAVE (R267): the fault is recorded, issue stops with STATE held
(a halted sequencer stays halted, R265), a compute fault closes the slots written in the wave (R83), and FAULT_NOTE goes
out. -/
def takeFaultFor (wave : Byte) (t : TileId) (f : TileFault) (pc : BitVec 12) (w : BitVec 64) (s : State) : State :=
  let x := s.tile t
  let x1 := recordFault f pc w s.dev.time x
  let x2 := if f = .compute then { x1.closeWritten with blockEnds := [], passes := [] } else x1
  sendFaultNote f.noteCause wave t (s.putTile t { x2 with seq := if x.seq = .halted then .halted else .held, wait := .none })

/-- Taking a fault of the tile's own wave. -/
def takeFaultAt (t : TileId) (f : TileFault) (pc : BitVec 12) (w : BitVec 64) (s : State) : State :=
  takeFaultFor (s.tile t).noteWave t f pc w s

/-- Taking a fault of the instruction at the tile's PC. -/
def takeFault (t : TileId) (f : TileFault) (w : BitVec 64) (s : State) : State := takeFaultAt t f (s.tile t).pc w s

/-- The steps of R268 on one tile: close the slots written in the wave, release the scoreboard entries claimed since the
wave entry, cancel descriptors that have not started, discard queued weevil updates, set PC to the wave entry with an
empty issue queue (R568), and set every landing pointer to FIRST (R283). A reply that this tile owes to another wave stays
queued (DEDUCED: the order names one wave, log entry 146). -/
def discardWave (x : Tile) : Tile :=
  { x.closeWritten with
    blockEnds := []
    passes := []
    killed := []
    sb := x.sb.filter (fun e => !e.2.fresh)
    descq := x.descq.filter (fun d => d.env.isSome && d.ctx.wave != x.ctx.wave)
    takes := []
    weevils := []
    pc := x.entry
    loops := []
    issueq := []
    wait := .none
    landings := Tbl.mapV {} (fun (e : Landing) => { e with ptr := 0, group := [] }) x.landings
    seq := .between
    begun := false
    heldWave := none }

/-! ## Issue -/

/-- Where issue goes after the instruction at `pc` (R243, R568): a loop's END returns while iterations remain. -/
def nextPc : List LoopFrame → BitVec 12 → BitVec 12 × List LoopFrame
  | [], pc => (pc + 1, [])
  | f :: fs, pc =>
    if pc = f.stop then
      if f.remaining > 1 then (f.start, { f with remaining := f.remaining - 1, index := f.index + 1 } :: fs)
      else nextPc fs pc
    else (pc + 1, f :: fs)

/-- A taken branch ends the loops whose body does not hold the target (R243). -/
def endLoops (target : BitVec 12) : List LoopFrame → List LoopFrame
  | [] => []
  | f :: fs =>
    if f.start.toNat ≤ target.toNat ∧ target.toNat ≤ f.stop.toNat then f :: fs else endLoops target fs

/-- Instructions fetched ahead of issue, at most `n`, in fetch order (R568). -/
def fetchAhead (imem : Tbl (BitVec 64)) : Nat → BitVec 12 → List LoopFrame → List (BitVec 64)
  | 0, _, _ => []
  | n + 1, pc, loops =>
    let w := Tbl.get (0 : BitVec 64) imem pc.toNat
    if bitsAt w 56 8 = 0x25 then
      let count := bitsAt w 32 12
      if count = 0 then [w]
      else w :: fetchAhead imem n (pc + 1) (⟨pc + 1, fieldAt w 0 12, count, 0⟩ :: loops)
    else
      let r := nextPc loops pc
      w :: fetchAhead imem n r.1 r.2

/-- The tile issues: its block runs and its sequencer is neither halted nor held (R238, R265, R267). -/
def State.issues (s : State) (t : TileId) : Bool :=
  (s.block (tileBlock t)).pstate == .active &&
  ((s.tile t).seq == .running || (s.tile t).seq == .between)

/-- The instruction of word `w` may issue: an instruction that waits at issue holds back every instruction behind it (R235). -/
def Tile.mayIssue (t : Tile) (w : BitVec 64) : Bool := t.wait == .none || t.waitWord == w

/-- What an instruction does at issue. -/
inductive Attempt where
  /-- It executes; issue goes on with the next instruction. -/
  | done (t : Tile)
  /-- It executes and branches. -/
  | goto (t : Tile) (target : BitVec 12)
  /-- It waits at issue (R238). -/
  | wait (t : Tile) (k : WaitKind)
  /-- It does not issue or complete (R267); `t` carries counts and flags made before. -/
  | fault (t : Tile) (f : TileFault)
  deriving DecidableEq, Repr

/-- The tile after an instruction executed, PC and loops moved on (R243, R568). -/
def Tile.advance (t : Tile) : Tile :=
  let r := nextPc t.loops t.pc
  { t with pc := r.1, loops := r.2, wait := .none, issueq := fetchAhead t.imem 8 r.1 r.2 }

/-- The tile after a taken branch: the issue queue is empty (R568). -/
def Tile.branchTo (t : Tile) (target : BitVec 12) : Tile :=
  { t with pc := target, loops := endLoops target t.loops, wait := .none, issueq := [] }

/-- The tile with its issue queue filled as far as fetch runs ahead of the instruction that stays at issue (R568). -/
def Tile.fetch (t : Tile) : Tile := { t with issueq := fetchAhead t.imem 8 t.pc t.loops }

/-- Issue one instruction of word `w` on tile `t`: nothing happens on a tile that does not issue, or where another
instruction waits at issue (R235). -/
def issue (t : TileId) (w : BitVec 64) (f : Tile → Attempt) (s : State) : State :=
  if s.issues t && (s.tile t).mayIssue w then
    match f (s.tile t) with
    | .done x => s.putTile t x.advance
    | .goto x p => s.putTile t (x.branchTo p)
    | .wait x k => s.putTile t { x.fetch with wait := k, waitWord := w }
    | .fault x e => takeFault t e w (s.putTile t x.fetch)
  else s

/-- The illegal-instruction fault (R240, R266). -/
def illegal (t : Tile) : Attempt := .fault t (.seq 0x1 unitSequencer)

/-- Out-of-range fault of a unit (R266). -/
def outOfRange (t : Tile) (unit : BitVec 4) : Attempt := .fault t (.seq 0x2 unit)

/-- An access of unit `unit` goes on, with the events that befall it counted, unless one of them stops it (R84, R107, R125). -/
def accessing (i : Intrusion) (unit : BitVec 4) (x : Tile) (op : Tile → Attempt) : Attempt :=
  match intrusionStops i unit with
  | some e => .fault (intrude i x) e
  | none => op (intrude i x)

/-- Wait for a slot, counting the hazard once (R77). -/
def slotWait (t : Tile) : Attempt :=
  .wait (if t.wait = .slots then t else { t with hazards := satAdd t.hazards 1 }) .slots

/-! ## Stages of the placement (R279, R283) -/

/-- The stages a tile belongs to, in descriptor order. -/
def State.stagesOf (s : State) (t : TileId) : List Stage :=
  match s.dev.placement with
  | none => []
  | some p => p.stages.filter (fun g => g.tiles.any (fun e => e.1 == t))

/-- The registration threshold that governs a tile's quantiser (R55): its first stage's, 64 by default. -/
def State.regThreshold (s : State) (t : TileId) : Nat :=
  match s.stagesOf t with
  | [] => 64
  | g :: _ => g.regThreshold.toNat

/-- The attention stage of a layer that a tile belongs to (R261). -/
def State.attentionStage (s : State) (t : TileId) (layer : BitVec 16) : Option Stage :=
  (s.stagesOf t).find? (fun g => g.kind == 2 && g.layer == layer)

/-! ## Ownership of slab pages (R176 to R178) -/

/-- Who makes a slab access. -/
inductive Access where
  | sessionRead (session : BitVec 16) (tenant : BitVec 12)
  | sessionWrite (session : BitVec 16) (tenant : BitVec 12)
  | placement (tenant : BitVec 12)
  deriving DecidableEq, Repr

/-- The ownership entry of a page. -/
def Tile.owner (t : Tile) (page : Nat) : Word := Tbl.get 0 t.owners page

def ownState (e : Word) : Nat := bitsAt e 28 4
def ownTenant (e : Word) : BitVec 12 := fieldAt e 16 12
def ownEntry (e : Word) : BitVec 16 := fieldAt e 0 16

/-- CAUSE of an access to a page with entry `e`, 0 when it passes (R178, R202); `family` is the session's family ID. A session
write to a shared page of another family or tenant is a mismatch, 0x1, before it is a write to a shared page, 0x2: the spec
orders neither (DESIGN CHOICE, log entry 139). -/
def ownCause (a : Access) (family : BitVec 16) (e : Word) : BitVec 4 :=
  let st := ownState e
  if st > 8 then 5
  else match a with
  | .placement _ => if st = 0 then 0 else 4
  | .sessionRead n m =>
    if st = 1 ∨ st = 2 ∨ st = 5 ∨ st = 6 then (if ownEntry e = n ∧ ownTenant e = m then 0 else 1)
    else if st = 3 ∨ st = 4 then (if ownEntry e = family ∧ ownTenant e = m then 0 else 1)
    else 3
  | .sessionWrite n m =>
    if st = 1 ∨ st = 2 ∨ st = 5 ∨ st = 6 then (if ownEntry e = n ∧ ownTenant e = m then 0 else 1)
    else if st = 3 ∨ st = 4 then (if ownEntry e = family ∧ ownTenant e = m then 2 else 1)
    else 3

/-- The first page of [p, p + n) that fails (R178). -/
def ownScan (a : Access) (family : BitVec 16) (t : Tile) (unit : BitVec 4) : Nat → Nat → Option TileFault
  | _, 0 => none
  | p, n + 1 =>
    let e := t.owner p
    let c := ownCause a family e
    if c = 0 then ownScan a family t unit (p + 1) n
    else
      let (n', m') : BitVec 16 × BitVec 12 := match a with
        | .sessionRead n m => (n, m)
        | .sessionWrite n m => (n, m)
        | .placement m => (0, m)
      some (.own c m' (BitVec.ofNat 11 p) n' (ownEntry e) unit)

/-- The ownership check of a slab range: every page it touches (R178). -/
def ownCheck (a : Access) (family : BitVec 16) (t : Tile) (unit : BitVec 4) (first count : Nat) : Option TileFault :=
  if count = 0 then none else ownScan a family t unit (first / 32) ((first + count - 1) / 32 - first / 32 + 1)

/-- Family ID of a session (R300, R317). -/
def State.familyOf (s : State) (n : BitVec 16) : BitVec 16 := (s.session n.toNat).family

end Sys2Proof.Machine
end

