-- ==== Sys2Proof/Machine/Operands.lean ====
section
/-! DEFINITION. Operand forms of tile instructions: scalar operands, line operands, vectors of four F32 lines, slot
operands, and the shape every tile instruction is issued in (R238, R241, R242, R251). -/

namespace Sys2Proof.Machine

/-- The outcomes of this device's steps. -/
abbrev Out := Host.Outcome State Fault Refusal

/-- Issue tile instruction `i`: an illegal encoding faults (R240), otherwise `f` says what it does. -/
def tileExec (i : Instr) (t : TileId) (f : Tile → Attempt) (s : State) : Out :=
  .next (issue t i.word (fun x => if i.encodingOk then f x else illegal x) s)

/-! ## Scalar operands (R241) -/

/-- Operand B: IMM32 or s[B]. -/
def opB (f : ScalarOps) (t : Tile) : Word := if f.imm then f.imm32 else t.sreg f.b

/-- A 5-bit address-register field with its top bit at 0. -/
def areg4 (r : BitVec 5) : BitVec 4 := r.setWidth 4

/-- The scalar form s[D] = op s[A] B. -/
def scalarOp (op : Word → Word → Word) (f : ScalarOps) (x : Tile) : Attempt :=
  .done (x.setS f.d (op (x.sreg f.a) (opB f x)))

/-- A truth value as a register value. -/
def boolWord (b : Bool) : Word := if b then 1 else 0

/-! ## Line operands -/

/-- The first line an address register names. -/
def Tile.line (t : Tile) (r : BitVec 4) : Nat := (t.areg r).toNat

/-- The working-buffer line a[A] + OFFSET (R242). -/
def lineOf (f : LoadStoreOps) (t : Tile) : Nat := (t.areg f.a + f.offset.signExtend 32).toNat

/-- A working-buffer range. -/
def wbRange (first count : Nat) : LineRange := ⟨memWb, first, count⟩

/-! ## Vectors (R251) -/

/-- The words of four lines, checked against the accepted codes. -/
def readWords (accept : List Byte) (t : Tile) (l n : Nat) : Except ParcelFault (List Word) :=
  let ls := t.readLines memWb l n
  match checkAll accept ls with
  | some e => .error e
  | none => .ok (ls.flatMap Line.words)

/-- Vector of four F32 lines. -/
def readVec (t : Tile) (l : Nat) : Except ParcelFault (List Word) := readWords [fmtF32] t l 4

/-- Lines of a vector as F32 parcels. -/
def vecLines (ws : List Word) : List Line := (chunks 16 (ws.length + 1) ws).map (mkWords fmtF32)

/-- One slot's 64 values under R75, with whether a product overflowed. -/
def drainValues (x : Slot) : List (Word × Bool) := (List.range 64).map (fun i => accDrain (Tbl.get 0 x.vals i) x.factor)

/-- The flag a slot read leaves (R75). -/
def drainFlags (vs : List (Word × Bool)) : BitVec 3 := if vs.any (fun v => v.2) then flagOverflow else 0

/-- X operand of FIN: vector c from lines or from slot AX + c (R251), with the flags a slot read sets. -/
def finX (f : FinOps) (t : Tile) (c : Nat) : Except TileFault (List Word × BitVec 3) :=
  if f.xslot then
    let vs := drainValues (t.slot (f.ax.toNat + c))
    .ok (vs.map Prod.fst, drainFlags vs)
  else
    match readVec t (t.line f.ax + 4 * c) with
    | .ok ws => .ok (ws, 0)
    | .error e => .error (parcelFault unitFinisher e)

/-- Y operand of FIN: vector c from lines, or s[SS] broadcast (R250). -/
def finY (f : FinOps) (t : Tile) (c : Nat) : Except TileFault (List Word) :=
  if f.yscal then .ok (List.replicate 64 (t.sreg f.ss))
  else
    match readVec t (t.line f.ay + 4 * c) with
    | .ok ws => .ok ws
    | .error e => .error (parcelFault unitFinisher e)

/-- Vectors of one FIN. -/
def vectors (f : FinOps) : Nat := f.count.toNat + 1

/-- Run `g` over vectors from `c` upward, stopping at the first fault. -/
def overVectors {α : Type} (g : Nat → Except TileFault α) : Nat → Nat → Except TileFault (List α)
  | _, 0 => .ok []
  | c, n + 1 =>
    match g c with
    | .error e => .error e
    | .ok a =>
      match overVectors g (c + 1) n with
      | .error e => .error e
      | .ok as => .ok (a :: as)

end Sys2Proof.Machine
end

