-- ==== Sys2Proof/Machine/Sample.lean ====
section
/-! DEFINITION. The sampler's instructions, the settings block, grammars and the seeded generator (R223 to R230, R263). -/

namespace Sys2Proof.Machine

/-! ## Philox4x32-10 (R230) -/

/-- One round: counter words and key words. -/
def philoxRound (k0 k1 : Word) (c : Word × Word × Word × Word) : Word × Word × Word × Word :=
  let p0 : BitVec 64 := BitVec.ofNat 64 (0xD2511F53 * c.1.toNat)
  let p1 : BitVec 64 := BitVec.ofNat 64 (0xCD9E8D57 * c.2.2.1.toNat)
  (fieldAt p1 32 32 ^^^ c.2.1 ^^^ k0, fieldAt p1 0 32, fieldAt p0 32 32 ^^^ c.2.2.2 ^^^ k1, fieldAt p0 0 32)

/-- The rounds, the key bumped before every round but the first. -/
def philoxRounds : Nat → Word → Word → Word × Word × Word × Word → Word × Word × Word × Word
  | 0, _, _, c => c
  | n + 1, k0, k1, c => philoxRounds n (k0 + 0x9E3779B9) (k1 + 0xBB67AE85) (philoxRound k0 k1 c)

/-- Output word w0 of a draw. -/
def philoxW0 (seed : BitVec 64) (position : BitVec 24) (purpose : Word) : Word :=
  (philoxRounds 10 (fieldAt seed 0 32) (fieldAt seed 32 32) (position.setWidth 32, purpose, 0, 0)).1

/-- u = (w0 >> 8) × 2^−24 as binary32, exactly. -/
def uniformF32 (seed : BitVec 64) (position : BitVec 24) (purpose : Word) : Word :=
  roundF32 ⟨((philoxW0 seed position purpose).toNat / 256 : Nat), -24⟩

/-! ## Held images and the placement's lines -/

/-- The held image of an ID. -/
def State.image (s : State) (id : BitVec 64) : Option Image := Tbl.get none s.dev.images id.toNat

/-- A held image whose master lines all stand in the stacks (R452). -/
def State.intact (s : State) (id : BitVec 64) : Option Image := (s.image id).filter (fun g => !g.lost)

/-- The weights image of a placement, when it and the placement's own image can be read: what a reload needs (R452). -/
def State.master (s : State) (p : Placement) : Option Image := if (s.intact p.imageId).isSome then s.intact p.weightsId else none

/-- Line of a held image; an absent line is all zero. -/
def Image.line (g : Image) (l : Nat) : Line := nth 0 g.records l

/-- The grammar table installed under an ID (R225, R381). -/
def State.grammar (s : State) (id : Byte) : Option Image :=
  if id = 0 then none else s.image (Tbl.get 0 s.dev.grammars id.toNat)

/-- The grammar a session's running GENERATE uses: the table it began with (R381). -/
def State.sessionGrammar (s : State) (n : BitVec 16) (id : Byte) : Option Image :=
  match (s.session n.toNat).queue with
  | [] => s.grammar id
  | k :: _ =>
    match s.dev.letters.find? (fun r => r.key == k) with
    | some r => if id = 0 then none else if r.grammarId = 0 then s.grammar id else s.image r.grammarId
    | none => s.grammar id

/-- States of a grammar and its start state (R225). -/
def grammarStates (g : Image) : Nat := bitsAt (g.line 0) 16 16
def grammarStart (g : Image) : Nat := bitsAt (g.line 0) 64 16

/-- Transition of state `st` on byte `b`: the next state, or none on DEAD. -/
def grammarNext (g : Image) (st : Nat) (b : Byte) : Option Nat :=
  let e := 256 * st + b.toNat
  let w : BitVec 16 := fieldAt (g.line (1 + e / 32)) (16 * (e % 32)) 16
  if bitAt w 15 then none else some (bitsAt w 0 12)

/-- Token t is allowed in state `st` of a grammar over a vocabulary (R225). -/
def grammarAllows (g : Image) (vocab st t : Nat) : Bool :=
  decide (t < vocab) && bitAt (g.line (8 * grammarStates g + 1 + st * ((vocab + 511) / 512) + t / 512)) (t % 512)

/-- Walk bytes; none when the walk reaches DEAD. -/
def grammarWalk (g : Image) : Nat → List Byte → Option Nat
  | st, [] => some st
  | st, b :: bs =>
    match grammarNext g st b with
    | none => none
    | some st' => grammarWalk g st' bs

/-- The base section of a kind and scope. -/
def Placement.sectionOf (p : Placement) (kind scope : Nat) : Option Section :=
  p.sections.find? (fun e => e.alt == 0xFF && e.kind.toNat == kind && e.scope.toNat == scope)

/-- Byte k of a section's payload. -/
def Placement.sectionByte (p : Placement) (e : Section) (k : Nat) : Byte :=
  if k / 64 < e.length then byteAt (nth 0 p.lines (e.offset + k / 64)) (k % 64) else 0

/-- The byte string of a token (R288). -/
def tokenBytes (p : Placement) (t : Nat) : List Byte :=
  match p.sectionOf 0x15 0xFFFF with
  | none => []
  | some e =>
    let w := leNat ((List.range 4).map (fun i => p.sectionByte e (4 * t + i)))
    (List.range (w / 2 ^ 26)).map (fun i => p.sectionByte e (4 * p.vocab + w % 2 ^ 26 + i))

/-- Walk a token's bytes through a grammar (R226). -/
def State.walkToken (s : State) (g : Image) (st t : Nat) : Option Nat :=
  match s.dev.placement with
  | none => some st
  | some p => grammarWalk g st (tokenBytes p t)

/-! ## The settings block (R227) -/

/-- Its fields, from the 32 bytes of a line or of GENERATE's parameters. -/
structure Settings where
  temp : Word
  topK : Nat
  depth : Nat
  grammar : Byte
  topP : Word
  minP : Word
  penalty : Word
  window : Nat
  spare : Nat
  deriving DecidableEq, Repr

def readSettings (b : List Byte) : Settings :=
  ⟨BitVec.ofNat 32 (leAt b 0 4), leAt b 4 2, leAt b 6 1, BitVec.ofNat 8 (leAt b 7 1), BitVec.ofNat 32 (leAt b 8 4),
    BitVec.ofNat 32 (leAt b 12 4), BitVec.ofNat 32 (leAt b 16 4), leAt b 20 2, leAt b 22 10⟩

/-- a ≤ x ≤ b on finite values. -/
def betweenF (a x b : Word) : Bool := isFinite x && decide (f32Key a ≤ f32Key x) && decide (f32Key x ≤ f32Key b)

/-- The draft limit: 8 in Express, else the placement's (R218, R325). -/
def State.draftLimit (s : State) : Nat :=
  if s.dev.profile = 2 then 8 else match s.dev.placement with | some p => p.draftLimit | none => 0

/-- The legal values of R227. -/
def State.settingsOk (s : State) (x : Settings) : Bool :=
  (isZeroF x.temp || betweenF 0x3C23D70A x.temp 0x42C80000) && decide (x.topK ≤ 64) &&
  decide (x.depth ≤ min 8 s.draftLimit) && (x.grammar == 0 || (s.grammar x.grammar).isSome) &&
  betweenF 1 x.topP f32One && (x.topP == f32One || decide (1 ≤ x.topK)) &&
  betweenF 0 (if isZeroF x.minP then 0 else x.minP) 0x3F7FFFFF && betweenF f32One x.penalty 0x40000000 &&
  decide (x.window ≤ 4096) && x.spare == 0

/-! ## SAMPLE (R263) -/

/-- The sampler state of the context's session. -/
def Tile.samplerOf (x : Tile) : SamplerState := Tbl.get {} x.sampler x.ctx.session.toNat

def Tile.setSampler (x : Tile) (v : SamplerState) : Tile :=
  { x with sampler := Tbl.set {} x.sampler x.ctx.session.toNat v }

def Tile.settings (x : Tile) : Settings := readSettings (bytesOf 32 (x.samplerOf.settings.setWidth 256))

/-- First token ID of the tile's range (R283). -/
def State.tokenBase (s : State) (t : TileId) : Nat :=
  match (s.stagesOf t).find? (fun g => g.kind == 7) with
  | some g => (match g.tiles.find? (fun e => e.1 == t) with | some e => e.2.toNat | none => 0)
  | none => Config.tokenBase t

/-- Vectors of a SAMPLE. -/
def sampleLines (f : SampleOps) : Nat := 4 * (f.count.toNat + 1)

/-- Run a SAMPLE that reads and writes whole ranges of the working buffer: ranges, guards, the events of its accesses, then
`op`. -/
def sampleRanges (i : Intrusion) (x : Tile) (reads writes : List LineRange) (op : Tile → Attempt) : Attempt :=
  match rangesFault unitSampler (reads ++ writes) with
  | some e => .fault x e
  | none => if x.lineBlocks reads writes then .wait x .scoreboard else accessing (noSlots i) unitSampler x op

/-- Logits at a line: F32 parcels, and no NaN (R223). -/
def readLogits (x : Tile) (l n : Nat) : Except TileFault (List Word) :=
  match readWords [fmtF32] x l n with
  | .error e => .error (parcelFault unitSampler e)
  | .ok ws => if ws.any isNaN then .error (.seq 0x7 unitSampler) else .ok ws

/-- SETUP. The settings line is accepted as U32 or BYTES: the spec names no format code for it (DESIGN CHOICE, log entry 147). -/
def setupOp (i : Intrusion) (s : State) (f : SampleOps) (x : Tile) : Attempt :=
  let l := x.line f.ax
  sampleRanges i x [wbRange l 1] [] (fun x =>
    let p := x.readLine memWb l
    match parcelCheck [fmtU32, fmtBYTES] p with
    | some e => .fault x (parcelFault unitSampler e)
    | none =>
      let g := readSettings (bytesOf 32 (p.setWidth 256))
      if !s.settingsOk g then .fault x (.seq 0x6 unitSampler)
      else .done (x.setSampler ⟨p, match s.sessionGrammar x.ctx.session g.grammar with | some t => grammarStart t | none => 0⟩))

def execSampleSetup (t : TileId) (f : Met SampleOps) (s : State) : Out := tileExec (.sampleSetup t f) t (setupOp f.ev s f.ops) s

/-- Change the logits at AX in place. -/
def mapLogits (i : Intrusion) (f : SampleOps) (x : Tile) (more : List LineRange) (g : List Word → Except TileFault (List Word)) :
    Attempt :=
  let l := x.line f.ax
  let r := wbRange l (sampleLines f)
  sampleRanges i x (r :: more) [r] (fun x =>
    match readLogits x l (sampleLines f) with
    | .error e => .fault x e
    | .ok ws =>
      match g ws with
      | .error e => .fault x e
      | .ok vs => .done (x.writeLines memWb l (vecLines vs)))

/-- GMASK: tokens the grammar does not allow become −infinity (R228, step 2). -/
def gmaskOp (i : Intrusion) (s : State) (t : TileId) (f : SampleOps) (x : Tile) : Attempt :=
  mapLogits i f x [] (fun ws =>
    match s.sessionGrammar x.ctx.session x.settings.grammar, s.dev.placement with
    | some g, some p => .ok (ws.zipIdx.map (fun e =>
        if grammarAllows g p.vocab x.samplerOf.grammarState (s.tokenBase t + e.2) then e.1 else negInf))
    | _, _ => .ok ws)

def execSampleGmask (t : TileId) (f : Met SampleOps) (s : State) : Out := tileExec (.sampleGmask t f) t (gmaskOp f.ev s t f.ops) s

/-- Quotient of two finite positive values, rounded once; an infinite dividend stays. -/
def fdivPos (x y : Word) : Word :=
  if isInf x || isZeroF y then f32Inf false
  else
    let a := f32Val x
    let b := f32Val y
    roundRat a.m b.m.toNat (a.e - b.e)

/-- One logit under the penalty (R228, step 3). -/
def penalise (pen x : Word) : Word := if fltB 0 x then fdivPos x pen else fmul x pen

/-- PENALTY: each distinct token of the history once. -/
def penaltyOp (i : Intrusion) (s : State) (t : TileId) (f : SampleOps) (x : Tile) : Attempt :=
  let n := (x.sreg f.ss).toNat
  let h := wbRange (x.line f.ay) ((n + 15) / 16)
  mapLogits i f x [h] (fun ws =>
    match readWords [fmtU32] x (x.line f.ay) ((n + 15) / 16) with
    | .error e => .error (parcelFault unitSampler e)
    | .ok ids =>
      .ok (ws.zipIdx.map (fun e =>
        if (ids.take n).any (fun i => i.toNat == s.tokenBase t + e.2) then penalise x.settings.penalty e.1 else e.1)))

def execSamplePenalty (t : TileId) (f : Met SampleOps) (s : State) : Out := tileExec (.samplePenalty t f) t (penaltyOp f.ev s t f.ops) s

/-- The one-hot distribution on the max-with-index winner of some logits; no token is chosen when every logit is −infinity
(R222, R228, step 4). -/
def oneHot (ws : List Word) : List Word :=
  let w := pickAll false (ws.zipIdx.map (fun e => (e.1, BitVec.ofNat 32 e.2)))
  ws.zipIdx.map (fun e => if w.1 != negInf && w.2.toNat == e.2 then f32One else 0)

/-- TEMP: logits times reciprocal(TEMP); with TEMP = 0 the distribution of the tile's vectors is one-hot on their winner (R228,
step 4; log entry 148). -/
def tempOp (i : Intrusion) (f : SampleOps) (x : Tile) : Attempt :=
  mapLogits i f x [] (fun ws =>
    if isZeroF x.settings.temp then .ok (oneHot ws) else .ok (ws.map (fun l => fmul l (frecip x.settings.temp))))

def execSampleTemp (t : TileId) (f : Met SampleOps) (s : State) : Out := tileExec (.sampleTemp t f) t (tempOp f.ev f.ops) s

/-- UNIFORM. -/
def uniformOp (i : Intrusion) (s : State) (f : SampleOps) (x : Tile) : Attempt :=
  accessing (noSlots i) unitSampler x (fun y => .done (y.setS f.sd
    (uniformF32 (s.session x.ctx.session.toNat).seed (x.ctx.position + (x.sreg f.ss).setWidth 24) (f.purpose.setWidth 32))))

def execSampleUniform (t : TileId) (f : Met SampleOps) (s : State) : Out := tileExec (.sampleUniform t f) t (uniformOp f.ev s f.ops) s

/-- First local index whose running sum exceeds a threshold. -/
def drawIndex (thr : Word) : Word → Nat → List Word → Option Nat
  | _, _, [] => none
  | c, i, v :: vs => let c' := fadd c v; if fltB thr c' then some i else drawIndex thr c' (i + 1) vs

/-- DRAW. -/
def drawOp (i : Intrusion) (s : State) (t : TileId) (f : SampleOps) (x : Tile) : Attempt :=
  let l := x.line f.ax
  sampleRanges i x [wbRange l (sampleLines f)] [] (fun x =>
    match readWords [fmtF32] x l (sampleLines f) with
    | .error e => .fault x (parcelFault unitSampler e)
    | .ok ws =>
      .done (x.setS f.sd (match drawIndex (x.sreg f.ss) (x.sreg (f.ss + 1)) 0 ws with
        | some i => BitVec.ofNat 32 (s.tokenBase t + i)
        | none => 0xFFFFFFFF)))

def execSampleDraw (t : TileId) (f : Met SampleOps) (s : State) : Out := tileExec (.sampleDraw t f) t (drawOp f.ev s t f.ops) s

/-- u × q < p, exactly on finite values (R220). -/
def acceptTest (u q p : Word) : Bool :=
  if isFinite u && isFinite q && isFinite p then Dy.lt ((f32Val u).mul (f32Val q)) (f32Val p) else fltB (fmul u q) p

/-- ACCEPT. -/
def acceptOp (i : Intrusion) (f : SampleOps) (x : Tile) : Attempt :=
  accessing (noSlots i) unitSampler x (fun y =>
    .done (y.setS f.sd (boolWord (acceptTest (x.sreg f.ss) (x.sreg (f.ss + 1)) (x.sreg (f.ss + 2))))))

def execSampleAccept (t : TileId) (f : Met SampleOps) (s : State) : Out := tileExec (.sampleAccept t f) t (acceptOp f.ev f.ops) s

/-- RESID: max(0, p − q). -/
def residOp (i : Intrusion) (f : SampleOps) (x : Tile) : Attempt :=
  let n := sampleLines f
  sampleRanges i x [wbRange (x.line f.ax) n, wbRange (x.line f.ay) n] [wbRange (x.line f.ad) n] (fun x =>
    match readWords [fmtF32] x (x.line f.ax) n, readWords [fmtF32] x (x.line f.ay) n with
    | .ok ps, .ok qs => .done (x.writeLines memWb (x.line f.ad) (vecLines (zipWords (fun p q => fmax 0 (fsub p q)) ps qs)))
    | .error e, _ => .fault x (parcelFault unitSampler e)
    | _, .error e => .fault x (parcelFault unitSampler e))

def execSampleResid (t : TileId) (f : Met SampleOps) (s : State) : Out := tileExec (.sampleResid t f) t (residOp f.ev f.ops) s

/-- GSTEP: on DEAD the state stays at its last good value (R226). -/
def gstepOp (i : Intrusion) (s : State) (f : SampleOps) (x : Tile) : Attempt :=
  accessing (noSlots i) unitSampler x (fun x =>
    match s.sessionGrammar x.ctx.session x.settings.grammar with
    | none => .done (x.setS f.sd 1)
    | some g =>
      match s.walkToken g x.samplerOf.grammarState (x.sreg f.ss).toNat with
      | some st => .done ((x.setSampler { x.samplerOf with grammarState := st }).setS f.sd 1)
      | none => .done (x.setS f.sd 0))

def execSampleGstep (t : TileId) (f : Met SampleOps) (s : State) : Out := tileExec (.sampleGstep t f) t (gstepOp f.ev s f.ops) s

end Sys2Proof.Machine
end

