-- ==== Sys2Proof/Machine/Envelope.lean ====
section
/-! DEFINITION. Envelopes and flits, router ports and buffers, hop and end-to-end credits, and delivery into a tile's
pigeonholes and landings (R109 to R112, R128 to R136, R152, R153, R283, R455). -/

namespace Sys2Proof.Machine

/-! ## The envelope (R130 to R133) -/

def envDest (e : Env) : TileId := fieldAt e 0 16
def envQueue (e : Env) : Byte := fieldAt e 16 8
def envKind (e : Env) : Nat := bitsAt e 24 4
def envVc (e : Env) : Nat := bitsAt e 28 2
def envSession (e : Env) : BitVec 16 := fieldAt e 32 16
def envTenant (e : Env) : BitVec 12 := fieldAt e 48 12
def envLast (e : Env) : Bool := bitAt e 60
def envRegistered (e : Env) : Bool := bitAt e 61
def envReplay (e : Env) : Bool := bitAt e 62
def envBypass (e : Env) : Bool := bitAt e 63
def envPosition (e : Env) : BitVec 24 := fieldAt e 64 24
def envWave (e : Env) : Byte := fieldAt e 88 8
def envSource (e : Env) : TileId := fieldAt e 96 16
def envGroup (e : Env) : BitVec 16 := fieldAt e 112 16

def setDest (e : Env) (d : TileId) : Env := putField e 0 d
def setQueue (e : Env) (q : Byte) : Env := putField e 16 q
def setSource (e : Env) (d : TileId) : Env := putField e 96 d

/-- Virtual channel of a KIND (R131). -/
def kindVc (k : Nat) : Nat := if k = 1 ∨ k = 2 ∨ k = 3 then 1 else if k = 4 then 2 else if k = 5 ∨ k = 6 ∨ k = 9 then 3 else 0

/-- A template the post engine refuses (R132): reserved KIND, multicast group above 255, reserved bits set. -/
def templateBad (e : Env) : Bool :=
  decide (envKind e ≥ 0xA) || (envKind e == 4 && bitsAt e 120 8 != 0) || bitsAt e 30 2 != 0

/-- The envelope of a send (R118, R255, R256): the template, with SESSION and TENANT of the wave when its SESSION is 0, the
wave's sequence, position and replay flag, and the flags POST gives. -/
def buildEnv (tmpl : Env) (c : WaveCtx) (position : BitVec 24) (bypass registered last : Bool) (src : TileId) : Env :=
  let e := if envSession tmpl = 0 then putField (putField tmpl 32 c.session) 48 c.tenant else tmpl
  let e := putField e 28 (BitVec.ofNat 2 (kindVc (envKind e)))
  let e := putField (putField (putField (putField e 60 (bit last)) 61 (bit registered)) 62 (bit c.replay)) 63 (bit bypass)
  putField (putField (putField e 64 position) 88 c.wave) 96 src

/-- The envelope of a credit parcel to the tile that regains the credit (R112, R133). -/
def creditEnv (src dst : TileId) (q : Byte) (group : BitVec 16) (wave : Byte) : Env :=
  BitVec.ofNat 128 (dst.toNat + q.toNat * 2 ^ 16 + 5 * 2 ^ 24 + 3 * 2 ^ 28 + wave.toNat * 2 ^ 88 + src.toNat * 2 ^ 96 +
    group.toNat * 2 ^ 112)

/-! ## Ports, buffers and hop credits (R128, R129, R134) -/

def portNo : Port → Nat
  | .loc => 0
  | .north => 1
  | .east => 2
  | .south => 3
  | .west => 4

/-- Port of an encoded field: 0 local, 1 north, 2 east, 3 south, 4 west (R144, R150). -/
def portOf : Nat → Option Port
  | 0 => some .loc
  | 1 => some .north
  | 2 => some .east
  | 3 => some .south
  | 4 => some .west
  | _ => none

def portCode (p : Port) : BitVec 3 := BitVec.ofNat 3 (portNo p)

def opposite : Port → Port
  | .loc => .loc
  | .north => .south
  | .east => .west
  | .south => .north
  | .west => .east

/-- The tile beyond a port; none off the array. -/
def neighbour (t : TileId) (p : Port) : Option TileId :=
  match p with
  | .loc => some t
  | .north => if tileY t = 0 then none else some (tileAt (tileX t) (tileY t - 1))
  | .east => if tileX t = 255 then none else some (tileAt (tileX t + 1) (tileY t))
  | .south => if tileY t = 255 then none else some (tileAt (tileX t) (tileY t + 1))
  | .west => if tileX t = 0 then none else some (tileAt (tileX t - 1) (tileY t))

/-- Key of an input port and virtual channel. -/
def bufKey (p : Port) (vc : Nat) : Nat := 4 * portNo p + vc

def Tile.buf (x : Tile) (p : Port) (vc : Nat) : List Flit := Tbl.get [] x.router.bufs (bufKey p vc)
def Tile.setBuf (x : Tile) (p : Port) (vc : Nat) (l : List Flit) : Tile :=
  { x with router := { x.router with bufs := Tbl.set [] x.router.bufs (bufKey p vc) l } }
def Tile.fifo (x : Tile) (p : Port) (vc : Nat) : List Flit := Tbl.get [] x.router.fifos (bufKey p vc)
def Tile.setFifo (x : Tile) (p : Port) (vc : Nat) (l : List Flit) : Tile :=
  { x with router := { x.router with fifos := Tbl.set [] x.router.fifos (bufKey p vc) l } }
def Tile.spentOn (x : Tile) (p : Port) (vc : Nat) : Nat := Tbl.get 0 x.router.spent (bufKey p vc)
def Tile.setSpent (x : Tile) (p : Port) (vc : Nat) (n : Nat) : Tile :=
  { x with router := { x.router with spent := Tbl.set 0 x.router.spent (bufKey p vc) n } }

/-- Hop credits of a link per virtual channel: 8, and 16 across a field boundary (R134). -/
def hopCredits (t u : TileId) : Nat := if tileField t = tileField u then 8 else 16

/-- The sending router holds a hop credit toward a port (R129), and across a field boundary the FIFO has one of its 8 entries
free (R134). -/
def hasCredit (t : TileId) (p : Port) (vc : Nat) (s : State) : Bool :=
  match neighbour t p with
  | none => false
  | some u => decide ((s.tile t).spentOn p vc < hopCredits t u) &&
      (tileField t == tileField u || decide (((s.tile u).fifo (opposite p) vc).length < 8))

/-- A flit crosses a link: a hop credit is spent, and the flit enters the neighbour's input buffer, or its boundary FIFO
when the link crosses a field boundary (R129, R141). -/
def hopFlit (t : TileId) (p : Port) (vc : Nat) (f : Flit) (s : State) : State :=
  match neighbour t p with
  | none => s
  | some u =>
    let s := s.updTile t (fun x => x.setSpent p vc (x.spentOn p vc + 1))
    if tileField t = tileField u then s.updTile u (fun x => x.setBuf (opposite p) vc (x.buf (opposite p) vc ++ [f]))
    else
      let s := s.updTile u (fun x => x.setFifo (opposite p) vc (x.fifo (opposite p) vc ++ [f]))
      if (s.field (tileField u)).genRunning then s
      else sendCard (srcRouter u) (knockCard 2 (BitVec.ofNat 16 (tileField u)) 0x03) s

/-- Flits that wait at the post engine for a buffer of the local port (R134). -/
def Tile.outbox (x : Tile) (vc : Nat) : List Flit := Tbl.get [] x.router.outbox vc
def Tile.setOutbox (x : Tile) (vc : Nat) (l : List Flit) : Tile :=
  { x with router := { x.router with outbox := Tbl.set [] x.router.outbox vc l } }

/-- The post engine hands a flit to its own router's local port; while the 8 buffers of its channel are full it waits (R134). -/
def Tile.inject (x : Tile) (f : Flit) : Tile :=
  let vc := envVc f.env
  if (x.buf .loc vc).length < 8 ∧ x.outbox vc = [] then x.setBuf .loc vc (x.buf .loc vc ++ [f])
  else x.setOutbox vc (x.outbox vc ++ [f])

/-- A buffer of the local port has come free: the oldest waiting flit takes it. -/
def Tile.refill (x : Tile) (vc : Nat) : Tile :=
  match x.outbox vc with
  | [] => x
  | f :: fs => if (x.buf .loc vc).length < 8 then (x.setBuf .loc vc (x.buf .loc vc ++ [f])).setOutbox vc fs else x

/-- Take the flit at the head of an input away; its hop credit waits to return, and a freed local buffer is filled again. -/
def popBuf (t : TileId) (p : Port) (vc : Nat) (s : State) : State :=
  s.updTile t (fun x =>
    let y := x.setBuf p vc ((x.buf p vc).drop 1)
    if p = .loc then y.refill vc else y)

/-! ## End-to-end credits (R111, R112, R153) -/

/-- The credit-table entry of a (tile, queue) pair. -/
def creditIndex (x : Tile) (dst : TileId) (q : Byte) : Option Nat :=
  (List.range 64).find? (fun i => let e := Tbl.get ({} : CreditEntry) x.credits i; e.valid && !e.grp && e.target == dst && e.queue == q)

/-- The credit-table entry of a multicast group. -/
def groupIndex (x : Tile) (g : BitVec 16) : Option Nat :=
  (List.range 64).find? (fun i => let e := Tbl.get ({} : CreditEntry) x.credits i; e.valid && e.grp && e.target == g)

/-- Add `n` credits to an entry. -/
def gainCredit (i n : Nat) (x : Tile) : Tile :=
  { x with credits := Tbl.upd {} x.credits i (fun e => { e with held := e.held + n }) }

/-- Spend `n` credits of an entry. -/
def spendCredit (i n : Nat) (x : Tile) : Tile :=
  { x with credits := Tbl.upd {} x.credits i (fun e => { e with held := e.held - n }) }

/-- The credit an entry's freeing returns: none for a tree's result, a group credit into the tile's own router for a
multicast, otherwise a credit parcel to the SOURCE (R112, R153). -/
def returnCredit (t : TileId) (f : Flit) (x : Tile) : Tile :=
  let k := envKind f.env
  if k = 1 ∨ k = 2 ∨ k = 3 then x
  else if k = 4 then x.inject ⟨creditEnv t t (envQueue f.env) (envGroup f.env) (envWave f.env), 0⟩
  else x.inject ⟨creditEnv t (envSource f.env) (envQueue f.env) 0 (envWave f.env), 0⟩

/-! ## Pigeonholes (R109, R110) -/

def Tile.hole (x : Tile) (q : Nat) : List Flit := Tbl.get [] x.pigeonholes q
def Tile.setHole (x : Tile) (q : Nat) (l : List Flit) : Tile := { x with pigeonholes := Tbl.set [] x.pigeonholes q l }

/-- High parcel of a registered pair. -/
def isHigh (f : Flit) : Bool := envRegistered f.env && Line.fmt f.line == fmtA16 && !Line.isLow f.line

/-- Low parcel of a registered pair. -/
def isLowHalf (f : Flit) : Bool := envRegistered f.env && Line.fmt f.line == fmtA16 && Line.isLow f.line

/-- `g` is the low parcel that belongs behind the high parcel `f`. -/
def pairs (f g : Flit) : Bool := isHigh f && isLowHalf g && envSource f.env == envSource g.env

/-- High parcels whose reserved entry still waits for the low one (R110). -/
def openPairs : List Flit → Nat
  | [] => 0
  | [f] => if isHigh f then 1 else 0
  | f :: g :: l => (if isHigh f && !pairs f g then 1 else 0) + openPairs (g :: l)

/-- The low parcel takes the reserved entry behind its high parcel (R110). -/
def insertLow (g : Flit) : List Flit → Option (List Flit)
  | [] => none
  | [f] => if pairs f g then some [f, g] else none
  | f :: h :: l =>
    if pairs f g && !pairs f h then some (f :: g :: h :: l)
    else (insertLow g (h :: l)).map (fun r => f :: r)

/-- Enter a parcel into a queue: a low parcel into its reserved entry, a high parcel with two entries free, any other with
one (R109, R110); none when the queue is full. -/
def enterHole (f : Flit) (l : List Flit) : Option (List Flit) :=
  match (if isLowHalf f then insertLow f l else none) with
  | some r => some r
  | none =>
    if l.length + openPairs l + (if isHigh f then 2 else 1) ≤ 32 then some (l ++ [f]) else none

/-! ## Issued TAKEs (R115, R254) -/

/-- Blocks the head of a queue gives a TAKE now: one entry, or under REG an A16 high entry with the entry behind it (R254);
none while the low parcel of a registered pair is missing (R110). -/
def headBlock (reg : Bool) : List Flit → Option (List Flit × List Flit)
  | [] => none
  | f :: l =>
    if Line.fmt f.line == fmtA16 && !Line.isLow f.line && (reg || isHigh f) then
      match l with
      | [] => none
      | g :: l' => if isHigh f && !pairs f g then none else if reg then some ([f, g], l') else some ([f], l)
    else some ([f], l)

/-- Parcels of VC 3 that wait for room in a queue (R135). -/
def Tile.receiptsFor (x : Tile) (q : Nat) : List Flit := Tbl.get [] x.router.receipts q
def Tile.setReceipts (x : Tile) (q : Nat) (l : List Flit) : Tile :=
  { x with router := { x.router with receipts := Tbl.set [] x.router.receipts q l } }

/-- The oldest waiting VC 3 parcel enters its queue when an entry is free. -/
def fillHole (x : Tile) (q : Nat) : Tile :=
  match x.receiptsFor q with
  | [] => x
  | f :: fs => match enterHole f (x.hole q) with
    | none => x
    | some l => (x.setHole q l).setReceipts q fs

/-- Run one issued TAKE as far as its queue goes: entries are written and their credits return (R112, R254). -/
def runTake (t : TileId) : Nat → TakeRun → Tile → TakeRun × Tile
  | 0, r, x => (r, x)
  | n + 1, r, x =>
    if r.left = 0 then (r, x)
    else match headBlock r.reg (x.hole r.queue.toNat) with
    | none => (r, x)
    | some (fs, rest) =>
      let x1 := fillHole (x.setHole r.queue.toNat rest) r.queue.toNat
      let x2 := x1.writeLines memWb r.next (fs.map Flit.line)
      let x3 := fs.foldl (fun y f => returnCredit t f y) x2
      runTake t n { r with next := r.next + (if r.reg then 2 else 1), left := r.left - 1 } x3

/-- Run every issued TAKE as far as its queue goes. They retire in issue order: one that has written its last entry stays
until the earlier ones are done (R235). -/
def runTakes (t : TileId) (x : Tile) : Tile :=
  let q := x.takes.foldl (fun (acc : List TakeRun × Tile) r =>
    let p := runTake t 64 r acc.2
    (acc.1 ++ [p.1], p.2)) ([], x)
  { q.2 with takes := q.1.dropWhile (fun r => r.left == 0) }

/-! ## Delivery (R133, R283, R450, R451, R455) -/

/-- Raise the network or arrival fault of a held parcel for its WAVE (R179, R298, R453): a parcel that stays held reports once. -/
def takeNetFault (t : TileId) (f : TileFault) (p : Flit) (s : State) : State :=
  if (s.tile t).router.reported.contains p then s
  else takeFaultFor (envWave p.env) t f (s.tile t).pc 0
    (s.updTile t (fun x => { x with router := { x.router with reported := x.router.reported ++ [p] } }))

/-- What became of a parcel at its destination. -/
inductive Delivered where
  /-- It left the network (written, or removed under the purge). -/
  | taken (s : State)
  /-- It waits where it is. -/
  | held (s : State)
  deriving DecidableEq, Repr

/-- A parcel waits at the router of a sleeping block: a KNOCK to the block sequencer (R143). -/
def knockBlock (t : TileId) (s : State) : State :=
  sendCard (srcRouter t) (knockCard 1 (BitVec.ofNat 16 (tileBlock t)) 0x02) s

/-- A WAVE that the tile, or its block's node while it sleeps, purges (R455, R569). -/
def purges (t : TileId) (w : Byte) (s : State) : Bool :=
  (s.tile t).purge.contains w ||
  (!(s.block (tileBlock t)).awake && (s.block (tileBlock t)).nodePurge.contains w)

/-- A parcel whose CRC fails on writing an arrival: it is not used, and FAULT_NOTE cause 0x3 goes out (R450, R451). -/
def badArrival (t : TileId) (f : Flit) (s : State) : State :=
  sendFaultNote 3 (envWave f.env) t (s.updTile t (fun x => if envQueue f.env < 16 then returnCredit t f x else x))

/-- Deliver to a pigeonhole (R110): purge, then the parcel's CRC, then an entry; a full queue holds the parcel, but a parcel of
VC 3, which the router takes without condition and keeps for the queue (R135). -/
def deliverHole (t : TileId) (f : Flit) (s : State) : Delivered :=
  let q := (envQueue f.env).toNat
  if purges t (envWave f.env) s then .taken (s.updTile t (returnCredit t f))
  else if !(s.block (tileBlock t)).awake then
    .held (knockBlock t s)
  else if !crcGood f.line then .taken (badArrival t f s)
  else match enterHole f ((s.tile t).hole q) with
  | none => if envVc f.env = 3 then .taken (s.updTile t (fun x => x.setReceipts q (x.receiptsFor q ++ [f]))) else .held s
  | some l => .taken (s.updTile t (fun x => runTakes t (x.setHole q l)))

/-- Family ID of the session a landing access carries. -/
def landingAccess (f : Flit) : Access :=
  if envKind f.env = 7 ∨ envKind f.env = 8 then .sessionWrite (envSession f.env) (envTenant f.env) else .placement (envTenant f.env)

/-- Write one line through a landing, or keep it until its weight-store group is complete (R283), counting FILLs (R120). -/
def landLine (n : Nat) (e : Landing) (f : Flit) (x : Tile) : Tile :=
  let l := e.first + e.ptr
  let e1 := { e with ptr := e.ptr + 1, lastWave := some (envWave f.env) }
  if e.mem = memWs then
    let g := e.group ++ [f.line]
    if g.length < 8 then { x with landings := Tbl.set {} x.landings n { e1 with group := g } }
    else
      let y := x.writeLines memWs (l - 7) g
      let y := (List.range 8).foldl (fun y i => y.sbCount false memWs (l - 7 + i)) y
      { y with landings := Tbl.set {} y.landings n { e1 with group := [] } }
  else
    let y := (x.writeLine e.mem l f.line).sbCount false e.mem l
    { y with landings := Tbl.set {} y.landings n e1 }

/-- Deliver through a landing (R283): the pointer starts again at FIRST when WAVE changes; a write beyond the last line
wraps under RING and otherwise is held with an out-of-range fault; a slab write is checked for ownership (R177, R178). -/
def deliverLanding (t : TileId) (f : Flit) (i : Intrusion) (s : State) : Delivered :=
  let n := (envQueue f.env).toNat - 16
  if purges t (envWave f.env) s then .taken s
  else if !(s.block (tileBlock t)).awake then
    .held (knockBlock t s)
  else if !crcGood f.line then .taken (badArrival t f s)
  else
    let x := s.tile t
    let e0 := Tbl.get ({} : Landing) x.landings n
    let e1 := match e0.lastWave with
      | some w => if w = envWave f.env then e0 else { e0 with ptr := 0, group := [] }
      | none => e0
    let e := if e1.ring && e1.ptr ≥ e1.count then { e1 with ptr := 0 } else e1
    let port := BitVec.ofNat 16 (envQueue f.env).toNat
    if !e.valid then .held (takeNetFault t (.mem 5 3 port unitPost) f s)
    else if e.ptr ≥ e.count then .held (takeNetFault t (.mem 1 e.mem (BitVec.ofNat 16 (e.first + e.ptr)) unitPost) f s)
    else match (if e.mem = memWs then none else rangesFault unitPost [⟨e.mem, e.first + e.ptr, 1⟩]) with
    | some o => .held (takeNetFault t o f s)
    | none =>
      match (if e.mem = memSlab then
          ownCheck (landingAccess f) (s.familyOf (envSession f.env)) x unitPost (e.first + e.ptr) 1 else none) with
      | some o => .held (takeNetFault t o f s)
      | none =>
        match intrusionStops i unitPost with
        | some o => .held (takeNetFault t o f (s.updTile t (intrude (noSlots i))))
        | none => .taken (s.updTile t (fun y => landLine n e f (intrude (noSlots i) y)))

/-- Deliver a parcel to a queue code of its own tile (R133). -/
def deliverLocal (t : TileId) (f : Flit) (s : State) : Delivered :=
  if envQueue f.env < 16 then deliverHole t f s
  else if envQueue f.env < 32 then deliverLanding t f {} s
  else .held (takeNetFault t (.mem 5 3 (BitVec.ofNat 16 (envQueue f.env).toNat) unitPost) f s)

/-! ## Circulars (R154) -/

/-- The multicast of a circular's range to its group. -/
def circularDesc (t : TileId) (n : Nat) (c : Circular) (e : Env) : Desc :=
  { op := .send, smem := memWb, dmem := 0, src := c.first, dst := 0, blocks := c.lines, reg := false, last := true,
    bypass := envBypass e, position := envPosition e, tmpl := 0, circ := some n,
    ctx := ⟨envSession e, envTenant e, envPosition e, envWave e, envReplay e, envBypass e⟩,
    env := some (setSource (putField (putField e 24 (0x24 : BitVec 6)) 112 (c.group.setWidth 16)) t) }

/-- Count a request of the wave being counted; at N the range is queued once. A request of a later wave waits, and so does
one that would complete the count while the descriptor queue is full (R117, R154). -/
def askCircular (t : TileId) (n : Nat) (e : Env) (x : Tile) : Tile :=
  let c := Tbl.get ({} : Circular) x.circulars n
  let last := decide (c.asked + 1 ≥ c.readers)
  if c.asked ≥ c.readers ∨ (c.active ≠ none ∧ c.active ≠ some (envWave e)) ∨ (last && x.queueFull) = true then
    { x with circulars := Tbl.set {} x.circulars n { c with later := c.later ++ [e] } }
  else
    let y := { x with circulars := Tbl.set {} x.circulars n { c with active := some (envWave e), asked := c.asked + 1 } }
    if last then { y with descq := y.descq ++ [circularDesc t n c e] } else y

/-- Ask again for the requests that wait, in their order. -/
def recount (t : TileId) (n : Nat) (x : Tile) : Tile :=
  let c := Tbl.get ({} : Circular) x.circulars n
  c.later.foldl (fun y e => askCircular t n e y) { x with circulars := Tbl.set {} x.circulars n { c with later := [] } }

/-- A served pull's reply enters the descriptor queue while it has a place (R117, R567). -/
def admitServed (x : Tile) : Tile :=
  match x.served with
  | [] => x
  | d :: ds => if x.queueFull then x else { x with descq := x.descq ++ [d], served := ds }

/-- A place in the descriptor queue, or a circular's count, has come free: waiting replies enter, and the requests of every
circular are asked again. -/
def recountAll (t : TileId) (x : Tile) : Tile := (List.range 16).foldl (fun y n => recount t n y) (admitServed x)

/-- The multicast of a circular has started: the requests of later waves are counted (R154). -/
def startCircular (t : TileId) (n : Nat) (x : Tile) : Tile :=
  let c := Tbl.get ({} : Circular) x.circulars n
  recount t n { x with circulars := Tbl.set {} x.circulars n { c with active := none, asked := 0 } }

/-- R455, steps 1 to 3 on one tile: the purge mask, the parcels of the WAVE in pigeonholes and landings with their credits
returned, and the router's open nodes of it. -/
def purgeWave (t : TileId) (w : Byte) (x : Tile) : Tile :=
  let gone := x.pigeonholes.flatMap (fun p => p.2.filter (fun f => envWave f.env == w))
  let x1 := { x with
    purge := if x.purge.contains w then x.purge else x.purge ++ [w]
    circulars := Tbl.mapV {} (fun (c : Circular) =>
      let d := { c with later := c.later.filter (fun e => envWave e != w) }
      if c.active = some w then { d with active := none, asked := 0 } else d) x.circulars
    pigeonholes := (List.range 16).foldl (fun m q =>
      Tbl.set [] m q ((Tbl.get [] m q).filter (fun f => envWave f.env != w))) x.pigeonholes
    served := x.served.filter (fun d => d.ctx.wave != w)
    router := { x.router with
      receipts := (List.range 16).foldl (fun m q => Tbl.set [] m q ((Tbl.get [] m q).filter (fun f => envWave f.env != w)))
        x.router.receipts
      reported := x.router.reported.filter (fun f => envWave f.env != w)
      nodes := x.router.nodes.filter (fun n => n.wave != w)
      parts := x.router.parts.filter (fun p => p.2.1 != w) } }
  recountAll t (gone.foldl (fun y f => returnCredit t f y) x1)

end Sys2Proof.Machine
end

