-- ==== Sys2Proof/Machine/Frames.lean ====
section
/-! DEFINITION. Folio frames: their layout in a slab, reading and writing one, sheets, the digest, appending a position,
sealing and repacking (R163 to R173, R193). -/

namespace Sys2Proof.Machine

/-! ## Layout (R164, R165, R168, R170) -/

/-- Dimensions of the sheets that cover `n` dimensions (R165). -/
def sheetWidths (n : Nat) : List Nat := List.replicate (n / 64) 64 ++ (if n % 64 = 0 then [] else [32])

/-- Lines of a sheet (R165). -/
def sheetLines (fmt : Byte) (d : Nat) : Nat := if fmt = fmtKV4 then d / 2 else d

/-- Digest bytes (R170). -/
def digestBytes (fmt : Byte) (kd : Nat) : Nat := if fmt = fmtKV4 then kd else 2 * kd

/-- Header lines with a digest of a format (R168). -/
def headerLines (fmt : Byte) (kd : Nat) : Nat := 9 + (digestBytes fmt kd + 63) / 64

/-- A sheet: its scale and the codes of its dimensions, each across slots 0 to 63 (R165, R166). -/
structure Sheet where
  scale : Byte
  codes : List (List Int)
  deriving DecidableEq, Repr

/-- A folio as its frame holds it (R169). -/
structure Frame where
  session : BitVec 16
  tenant : BitVec 12
  layer : BitVec 16
  fmt : Byte
  isSealed : Bool
  dead : Bool
  valid : BitVec 64
  kd : Nat
  vd : Nat
  vShared : Bool
  seqNo : Word
  tscale : Word
  pos : List Word
  weevils : List Word
  digest : List Byte
  sheets : List Sheet
  deriving DecidableEq, Repr

/-- Widths of a frame's sheets: keys first, then values unless they are shared (R165). -/
def layoutWidths (kd vd : Nat) (vShared : Bool) : List Nat := sheetWidths kd ++ (if vShared then [] else sheetWidths vd)

/-- Lines of a frame before its padding (R168). -/
def frameLineCount (hfmt fmt : Byte) (kd vd : Nat) (vShared : Bool) : Nat :=
  headerLines hfmt kd + ((layoutWidths kd vd vShared).map (sheetLines fmt)).sum

/-- Pages of a frame (R168). -/
def framePages (hfmt fmt : Byte) (kd vd : Nat) (vShared : Bool) : Nat := (frameLineCount hfmt fmt kd vd vShared + 31) / 32

/-- Slot s holds a position. -/
def Frame.has (f : Frame) (i : Nat) : Bool := bitAt f.valid i

/-- All 64 slots are valid. -/
def Frame.full (f : Frame) : Bool := f.valid == BitVec.allOnes 64

/-- The valid slots in order. -/
def Frame.slots (f : Frame) : List Nat := (List.range 64).filter f.has

/-- Positions of the valid slots. -/
def Frame.positions (f : Frame) : List Nat := f.slots.map (fun i => (nth 0 f.pos i).toNat)

/-- The key sheets. -/
def Frame.keySheets (f : Frame) : List Sheet := f.sheets.take (sheetWidths f.kd).length

/-! ## Lines of a frame (R165, R169) -/

/-- Pack two int4 codes. -/
def nibbles (a b : Int) : Byte := BitVec.ofNat 8 ((BitVec.ofInt 4 a).toNat + 16 * (BitVec.ofInt 4 b).toNat)

/-- Payload bytes of one KV4 block. -/
def packNibbles : List Int → List Byte
  | a :: b :: l => nibbles a b :: packNibbles l
  | _ => []

/-- Lines of a KV4 sheet: two dimensions a line. -/
def kv4Lines (sc : Byte) : List (List Int) → List Line
  | a :: b :: l => mkParcel (packNibbles a ++ packNibbles b) [sc, 0, sc, 0] fmtKV4 0 :: kv4Lines sc l
  | _ => []

/-- Lines of a sheet (R165, R166). -/
def linesOfSheet (fmt : Byte) (h : Sheet) : List Line :=
  if fmt = fmtKV4 then kv4Lines h.scale h.codes else h.codes.map (fun cs => mkParcel (cs.map codeByte) [h.scale] fmtKV8 0)

/-- Header bytes (R169). -/
def frameHeader (f : Frame) : List Byte :=
  bytesOf 2 f.session ++ bytesOf 2 f.tenant ++ bytesOf 2 f.layer ++
  [f.fmt, BitVec.ofNat 8 (f.isSealed.toNat + 2 * f.dead.toNat)] ++ bytesOf 8 f.valid ++ leBytes 2 f.kd ++
  leBytes 2 (f.vd + 0x8000 * f.vShared.toNat) ++ bytesOf 4 f.seqNo ++ bytesOf 4 f.tscale

/-- Every line of a frame but the padding; `hfmt` is the format whose digest the header has room for. -/
def frameLines (hfmt : Byte) (f : Frame) : List Line :=
  mkParcel (frameHeader f) [] fmtU32 0 ::
  ((chunks 16 5 f.pos).map (mkWords fmtU32) ++ (chunks 16 5 f.weevils).map (mkWords fmtF32) ++
    (List.range (headerLines hfmt f.kd - 9)).map (fun i => mkParcel ((f.digest.drop (64 * i)).take 64) [] fmtBYTES 0) ++
    f.sheets.flatMap (linesOfSheet f.fmt))

/-- The lines with the padding of the last page: all-zero parcels (R168). -/
def framePadded (hfmt : Byte) (f : Frame) : List Line :=
  let ls := frameLines hfmt f
  ls ++ List.replicate (32 * ((ls.length + 31) / 32) - ls.length) 0

/-- Write a frame at a line of the slab. -/
def Tile.writeFrame (t : Tile) (first : Nat) (hfmt : Byte) (f : Frame) : Tile := t.writeLines memSlab first (framePadded hfmt f)

/-- Format whose digest the header of a frame has room for (R168, R170). -/
def digestFormat (g : Stage) (fmt : Byte) (isSealed : Bool) : Byte := if isSealed then fmt else g.cacheFmt

/-- Read the sheets from line `l`. -/
def readSheets (t : Tile) (fmt : Byte) : Nat → List Nat → Except ParcelFault (List Sheet)
  | _, [] => .ok []
  | l, d :: ds =>
    let ls := t.readLines memSlab l (sheetLines fmt d)
    match checkAll [fmt] ls with
    | some e => .error e
    | none =>
      match readSheets t fmt (l + sheetLines fmt d) ds with
      | .error e => .error e
      | .ok hs => .ok (⟨match ls with | x :: _ => Line.scale x 0 | [] => 0,
          if fmt = fmtKV4 then
            ls.flatMap (fun l => (List.range 2).map (fun b => (List.range 64).map (fun i => (fieldAt l (256 * b + 4 * i) 4).toInt)))
          else ls.map Line.signed⟩ :: hs)

/-- Read the frame whose first line is `l`, every line checked as it is read (R60, R169). -/
def readFrame (g : Stage) (t : Tile) (l : Nat) : Except ParcelFault Frame :=
  let h := t.readLine memSlab l
  match (checkAll [fmtU32] (t.readLines memSlab l 5)).orElse (fun _ => checkAll [fmtF32] (t.readLines memSlab (l + 5) 4)) with
  | some e => .error e
  | none =>
    let fmt := byteAt h 6
    let isSealed := bitsAt h 56 1 == 1
    let kd := bitsAt h 128 16
    let n := headerLines (digestFormat g fmt isSealed) kd
    let vd := bitsAt h 144 15
    let vs := bitAt h 159
    let dl := t.readLines memSlab (l + 9) (n - 9)
    match checkAll [fmtBYTES] dl with
    | some e => .error e
    | none =>
      match readSheets t fmt (l + n) (layoutWidths kd vd vs) with
      | .error e => .error e
      | .ok hs =>
        .ok { session := fieldAt h 0 16, tenant := fieldAt h 16 12, layer := fieldAt h 32 16, fmt := fmt, isSealed := isSealed,
              dead := bitAt h 57, valid := fieldAt h 64 64, kd := kd, vd := vd, vShared := vs, seqNo := wordAt h 5,
              tscale := wordAt h 6, pos := (t.readLines memSlab (l + 1) 4).flatMap Line.words,
              weevils := (t.readLines memSlab (l + 5) 4).flatMap Line.words,
              digest := (dl.flatMap (fun x => (bytesOf 72 x).take 64)).take (digestBytes fmt kd), sheets := hs }

/-- The fields of a frame that its header lines 0 to 4 hold, checked as they are read (R60, R169): the sheets are left out. -/
def readHead (t : Tile) (l : Nat) : Except ParcelFault Frame :=
  let h := t.readLine memSlab l
  match checkAll [fmtU32] (t.readLines memSlab l 5) with
  | some e => .error e
  | none => .ok { session := fieldAt h 0 16, tenant := fieldAt h 16 12, layer := fieldAt h 32 16, fmt := byteAt h 6,
                  isSealed := bitsAt h 56 1 == 1, dead := bitAt h 57, valid := fieldAt h 64 64, kd := bitsAt h 128 16,
                  vd := bitsAt h 144 15, vShared := bitAt h 159, seqNo := wordAt h 5, tscale := wordAt h 6,
                  pos := (t.readLines memSlab (l + 1) 4).flatMap Line.words, weevils := [], digest := [], sheets := [] }

/-- A frame's first page: FOLIO_HEAD of the session, or SHARED_HEAD of its family (R176). -/
def isHead (session : BitVec 16) (tenant : BitVec 12) (family : BitVec 16) (e : Word) : Bool :=
  ownTenant e == tenant && ((ownState e == 1 && ownEntry e == session) || (ownState e == 3 && ownEntry e == family))

/-- First lines of the tile's frames of a session and layer, dead-letter frames left out. -/
def Tile.framesAt (t : Tile) (session : BitVec 16) (tenant : BitVec 12) (family layer : BitVec 16) : List Nat :=
  (t.owners.filter (fun p => isHead session tenant family p.2 &&
    bitsAt (t.readLine memSlab (32 * p.1)) 32 16 == layer.toNat && !bitAt (t.readLine memSlab (32 * p.1)) 57)).map (fun p => 32 * p.1)

/-- An empty open folio of a stage (R171). -/
def newFrame (g : Stage) (session : BitVec 16) (tenant : BitVec 12) (seqNo : Word) : Frame :=
  { session := session, tenant := tenant, layer := g.layer, fmt := fmtKV8, isSealed := false, dead := false, valid := 0,
    kd := g.kdims, vd := g.vdims, vShared := g.vShared, seqNo := seqNo, tscale := g.cacheTscale,
    pos := List.replicate 64 0, weevils := List.replicate 64 0, digest := [],
    sheets := (layoutWidths g.kdims g.vdims g.vShared).map (fun d => ⟨0, List.replicate d (List.replicate 64 0)⟩) }

/-! ## The digest (R170) -/

/-- Smallest and largest code of one dimension over the valid slots. -/
def codeRange (f : Frame) (cs : List Int) : Int × Int :=
  match f.slots.map (nth 0 cs) with
  | [] => (0, 0)
  | c :: l => (l.foldl min c, l.foldl max c)

/-- Ranges of every key dimension. -/
def keyRanges (f : Frame) : List (Int × Int) := (f.keySheets.flatMap Sheet.codes).map (codeRange f)

/-- The digest bytes of a frame. -/
def buildDigest (f : Frame) : List Byte :=
  (keyRanges f).flatMap (fun r => if f.fmt = fmtKV4 then [nibbles r.1 r.2] else [codeByte r.1, codeByte r.2])

/-- Ranges a digest holds. -/
def digestRanges (fmt : Byte) (bs : List Byte) : List (Int × Int) :=
  if fmt = fmtKV4 then bs.map (fun b => ((fieldAt b 0 4).toInt, (fieldAt b 4 4).toInt))
  else (chunks 2 (bs.length + 1) bs).map (fun p => (int8 (nth 0 p 0), int8 (nth 0 p 1)))

/-! ## Appending (R172) -/

/-- Round codes to a new sheet scale: c × s / s', half to even. -/
def rescale (s s' : Byte) (cs : List Int) : List Int :=
  cs.map (fun c => ((Dy.ofInt c).mul (e4m3Val s)).divRound (e4m3Val s'))

/-- The sheet after slot `i` takes the values `xs`, one per dimension (R172). -/
def appendSheet (T : Word) (i : Nat) (h : Sheet) (xs : List Word) : Except QuantFault Sheet :=
  if !posNormal T then .error .illegalScale
  else if !(xs.all isFinite) then .error .nonFinite
  else
    let den := (Dy.ofInt 127).mul (f32Val T)
    let am := f32Val (amaxF xs)
    match smallestScale am den with
    | none => .error .scaleRange
    | some s =>
      let sc := if i = 0 then s else if Dy.lt ((e4m3Val h.scale).mul den) am then s else h.scale
      let old := if i = 0 ∨ sc = h.scale then h.codes else h.codes.map (rescale h.scale sc)
      .ok ⟨sc, (old.zip xs).map (fun p => setNth p.1 i ((f32Val p.2).divRound ((e4m3Val sc).mul (f32Val T))))⟩

/-- Every sheet takes its values. -/
def appendSheets (T : Word) (i : Nat) : List Sheet → List Word → Except QuantFault (List Sheet)
  | [], _ => .ok []
  | h :: hs, xs =>
    match appendSheet T i h (xs.take h.codes.length) with
    | .error e => .error e
    | .ok h' =>
      match appendSheets T i hs (xs.drop h.codes.length) with
      | .error e => .error e
      | .ok hs' => .ok (h' :: hs')

/-- The lowest invalid slot (R171). -/
def Frame.freeSlot (f : Frame) : Option Nat := (List.range 64).find? (fun i => !f.has i)

/-- Append a position (R171, R172): it enters with weevil score 0. -/
def appendFrame (f : Frame) (i position : Nat) (xs : List Word) : Except QuantFault Frame :=
  match appendSheets f.tscale i f.sheets xs with
  | .error e => .error e
  | .ok hs => .ok { f with
      valid := f.valid ||| ((1 : BitVec 64) <<< i)
      pos := setNth f.pos i (BitVec.ofNat 32 position)
      weevils := setNth f.weevils i 0
      sheets := hs }

/-- Invalidate the slots that `gone` selects: VALID cleared, codes, position and weevil 0 (R166, R169, R221). -/
def clearSlots (f : Frame) (gone : Nat → Bool) : Frame :=
  let out (i : Nat) : Bool := f.has i && gone i
  { f with
    valid := (List.range 64).foldl (fun v i => if out i then v &&& ~~~((1 : BitVec 64) <<< i) else v) f.valid
    pos := f.pos.zipIdx.map (fun p => if out p.2 then 0 else p.1)
    weevils := f.weevils.zipIdx.map (fun p => if out p.2 then 0 else p.1)
    sheets := f.sheets.map (fun h => { h with codes := h.codes.map (fun cs =>
      cs.zipIdx.map (fun p => if out p.2 then 0 else p.1)) }) }

/-- Invalidate the positions above `last` (R221). -/
def dropBeyond (f : Frame) (last : Int) : Frame := clearSlots f (fun i => decide (((nth 0 f.pos i).toNat : Int) > last))

/-! ## Sealing (R173) -/

/-- Largest code magnitude of a sheet. -/
def Sheet.cmax (h : Sheet) : Nat := (h.codes.flatMap (fun cs => cs.map Int.natAbs)).foldl max 0

/-- The KV4 form of a KV8 sheet; none when no legal scale holds it. -/
def sheetToKV4 (h : Sheet) : Option Sheet :=
  (smallestScale ((Dy.ofInt h.cmax).mul (e4m3Val h.scale)) (Dy.ofInt 7)).map (fun s4 => ⟨s4, h.codes.map (rescale h.scale s4)⟩)

/-- The sealed folio: KV4 where the stage seals in KV4 and every sheet has a legal scale, otherwise KV8, with its digest. -/
def sealFrame (g : Stage) (f : Frame) : Frame :=
  let k : Frame :=
    if g.cacheFmt = fmtKV4 ∧ f.sheets.all (fun h => (sheetToKV4 h).isSome) then
      { f with fmt := fmtKV4, sheets := f.sheets.filterMap sheetToKV4 }
    else f
  { k with isSealed := true, digest := buildDigest k }

/-! ## Repacking (R193, R195) -/

/-- One position taken out of a frame: position, weevil, and per sheet its codes with their scale. -/
structure Entry where
  pos : Word
  weevil : Word
  sheets : List (Byte × List Int)
  deriving DecidableEq, Repr

/-- The valid positions of a frame. -/
def Frame.entries (f : Frame) : List Entry :=
  f.slots.map (fun i => ⟨nth 0 f.pos i, nth 0 f.weevils i, f.sheets.map (fun h => (h.scale, h.codes.map (fun cs => nth 0 cs i)))⟩)

/-- Larger of two exact values. -/
def Dy.max (a b : Dy) : Dy := if Dy.lt a b then b else a

/-- One sheet of repacked entries: the smallest legal scale at or above amax / (Q × T), codes rounded half to even. Where
no legal scale is large enough the manual names none: `free` stands for it. -/
def repackSheet (fmt free : Byte) (d : Nat) (cols : List (Byte × List Int)) : Sheet :=
  let q : Int := if fmt = fmtKV4 then 7 else 127
  let am := cols.foldl (fun m (c : Byte × List Int) => c.2.foldl (fun m x => m.max ((Dy.ofInt (x.natAbs : Int)).mul (e4m3Val c.1))) m) Dy.zero
  let sc := (smallestScale am (Dy.ofInt q)).getD free
  ⟨sc, (List.range d).map (fun k => ((cols.map (fun (c : Byte × List Int) => ((Dy.ofInt (nth 0 c.2 k)).mul (e4m3Val c.1)).divRound (e4m3Val sc))) ++
      List.replicate 64 0).take 64)⟩

/-- Fill a frame with entries in order (R193). -/
def repackFrame (free : Byte) (f : Frame) (es : List Entry) : Frame :=
  let n := es.length
  let k : Frame := { f with
    valid := BitVec.ofNat 64 (2 ^ n - 1)
    pos := ((es.map Entry.pos) ++ List.replicate 64 0).take 64
    weevils := ((es.map Entry.weevil) ++ List.replicate 64 0).take 64
    sheets := (layoutWidths f.kd f.vd f.vShared).zipIdx.map (fun p =>
      repackSheet f.fmt free p.1 (es.map (fun e => nth (0, []) e.sheets p.2))) }
  { k with digest := if k.isSealed then buildDigest k else [] }

end Sys2Proof.Machine
end

