-- ==== Sys2Proof/Machine/Folio.lean ====
section
/-! DEFINITION. The folio unit's instructions: LIST, APPEND, WEEVIL, BOUND and COMMIT (R171, R172, R175, R185 to R190,
R221, R261, R262, R318). -/

namespace Sys2Proof.Machine

/-! ## A session's frames of a layer -/

/-- First lines of a tile's frames of the context session and a layer. -/
def State.localFrames (s : State) (t : TileId) (c : WaveCtx) (layer : BitVec 16) : List Nat :=
  (s.tile t).framesAt c.session c.tenant (s.familyOf c.session) layer

/-- The slab line of a session's own scores of the shared frame at line `l`, in one of its STATISTICS pages (R318). -/
def Tile.shareLine (x : Tile) (session : BitVec 16) (l : Nat) : Option Nat :=
  (x.shareScores.find? (fun e => e.1 == session && e.2.1 == l)).map (fun e => e.2.2)

/-- A frame with the scores that count for a session: its own scores for a shared frame (R318). -/
def State.frameOf (s : State) (g : Stage) (t : TileId) (session : BitVec 16) (l : Nat) : Except ParcelFault Frame :=
  match readFrame g (s.tile t) l with
  | .error e => .error e
  | .ok f =>
    if ownState ((s.tile t).owner (l / 32)) = 3 then
      match (s.tile t).shareLine session l with
      | some k => .ok { f with weevils := ((s.tile t).readLines memSlab k 4).flatMap Line.words }
      | none => .ok f
    else .ok f

/-- Every readable frame of a session in a stage's layer, with its tile and first line, in the stage's tile order. -/
def State.stageFrames (s : State) (g : Stage) (c : WaveCtx) : List (TileId × Nat × Frame) :=
  g.tiles.flatMap (fun e => (s.localFrames e.1 c g.layer).filterMap (fun l =>
    match s.frameOf g e.1 c.session l with
    | .ok f => some (e.1, l, f)
    | .error _ => none))

/-- The readable headers of a session's frames in a stage's layer, with tile and first line, in the stage's tile order. -/
def State.stageHeads (s : State) (g : Stage) (c : WaveCtx) : List (TileId × Nat × Frame) :=
  g.tiles.flatMap (fun e => (s.localFrames e.1 c g.layer).filterMap (fun l =>
    match readHead (s.tile e.1) l with
    | .ok f => some (e.1, l, f)
    | .error _ => none))

/-- Retained positions of a session in a layer (R189). -/
def State.retained (s : State) (g : Stage) (c : WaveCtx) : List Nat := (s.stageHeads g c).flatMap (fun e => e.2.2.positions)

/-- A position is protected (R190): among the first 64, the 1,024 newest retained, or the span of a running ADAPT. -/
def protectedPos (retained : List Nat) (adapt : Option AdaptRun) (p : Nat) : Bool :=
  decide (p < 64) || decide (retained.countP (fun r => decide (p < r)) < 1024) ||
  (match adapt with | some a => decide (a.first ≤ p) && decide (p ≤ a.last) | none => false)

/-- Frames in ascending sequence, open ones last (R261). -/
def insertFrame (e : Nat × Frame) : List (Nat × Frame) → List (Nat × Frame)
  | [] => [e]
  | x :: xs =>
    if (!x.2.isSealed && e.2.isSealed) || (x.2.isSealed == e.2.isSealed && decide (e.2.seqNo.toNat < x.2.seqNo.toNat)) then e :: x :: xs
    else x :: insertFrame e xs

def sortFrames : List (Nat × Frame) → List (Nat × Frame)
  | [] => []
  | e :: es => insertFrame e (sortFrames es)

/-- Read several frames, or the first parcel fault. -/
def State.readFrames (s : State) (g : Stage) (t : TileId) (session : BitVec 16) : List Nat → Except ParcelFault (List (Nat × Frame))
  | [] => .ok []
  | l :: ls =>
    match s.frameOf g t session l with
    | .error e => .error e
    | .ok f =>
      match s.readFrames g t session ls with
      | .error e => .error e
      | .ok r => .ok ((l, f) :: r)

/-- Read the headers of several frames, or the first parcel fault. -/
def readHeads (x : Tile) : List Nat → Except ParcelFault (List (Nat × Frame))
  | [] => .ok []
  | l :: ls =>
    match readHead x l with
    | .error e => .error e
    | .ok f =>
      match readHeads x ls with
      | .error e => .error e
      | .ok r => .ok ((l, f) :: r)

/-- Lines of the frame at `l`: its own where `l` is a head of the session and layer, else the line alone. -/
def State.frameExtent (s : State) (g : Stage) (t : TileId) (l : Nat) : Nat :=
  let h := (s.tile t).readLine memSlab l
  if l % 32 = 0 ∧ (ownState ((s.tile t).owner (l / 32)) = 1 ∨ ownState ((s.tile t).owner (l / 32)) = 3) ∧ bitsAt h 32 16 = g.layer.toNat then
    32 * framePages (digestFormat g (byteAt h 6) (bitAt h 56)) (byteAt h 6) (bitsAt h 128 16) (bitsAt h 144 15) (bitAt h 159)
  else 1

/-- The lines of a frame. -/
def State.frameRange (s : State) (g : Stage) (t : TileId) (l : Nat) : LineRange := ⟨memSlab, l, s.frameExtent g t l⟩

/-- The first ownership fault of several slab ranges (R178). -/
def ownChecks (a : Access) (family : BitVec 16) (x : Tile) : List LineRange → Option TileFault
  | [] => none
  | r :: rs => (ownCheck a family x unitFolio r.first r.count).orElse (fun _ => ownChecks a family x rs)

/-- The wave's session reads or writes. -/
def readsAs (x : Tile) : Access := .sessionRead x.ctx.session x.ctx.tenant
def writesAs (x : Tile) : Access := .sessionWrite x.ctx.session x.ctx.tenant

/-- Run a FOLIO operation with the stage of its LAYER (R261). -/
def withStage (s : State) (t : TileId) (f : FolioOps) (x : Tile) (op : Stage → Attempt) : Attempt :=
  match s.attentionStage t f.layer with
  | none => outOfRange x unitFolio
  | some g => op g

/-! ## LIST -/

/-- The record of one frame (R261). -/
def listRecord (retained : List Nat) (adapt : Option AdaptRun) (e : Nat × Frame) : List Line :=
  let anchor := !e.2.isSealed || e.2.positions.any (protectedPos retained adapt)
  mkWords fmtU32 [BitVec.ofNat 32 e.1, BitVec.ofNat 32 (anchor.toNat + 2 * (!e.2.isSealed).toNat), wordAt e.2.valid 0,
    wordAt e.2.valid 1, e.2.seqNo] :: (chunks 16 5 e.2.pos).map (mkWords fmtU32)

/-- LIST reads the header lines 0 to 4 of each local frame. -/
def listOp (s : State) (t : TileId) (f : FolioOps) (i : Intrusion) (x : Tile) : Attempt :=
  withStage s t f x (fun g =>
    let ls := s.localFrames t x.ctx f.layer
    let src := ls.map (fun l => (⟨memSlab, l, 5⟩ : LineRange))
    let dst := wbRange (x.line f.ad) (5 * ls.length)
    match ownChecks (readsAs x) (s.familyOf x.ctx.session) x src with
    | some e => .fault x e
    | none =>
      match rangesFault unitFolio [dst] with
      | some e => .fault x e
      | none =>
        if x.lineBlocks src [dst] then .wait x .scoreboard
        else accessing (noSlots i) unitFolio x (fun y =>
          match readHeads y ls with
          | .error e => .fault y (parcelFault unitFolio e)
          | .ok fs => .done ((y.writeLines memWb (y.line f.ad) ((sortFrames fs).flatMap
              (listRecord (s.retained g x.ctx) (s.session x.ctx.session.toNat).adapt))).setS f.sd (BitVec.ofNat 32 fs.length))))

def execFolioList (t : TileId) (f : Met FolioOps) (s : State) : Out :=
  tileExec (.folioList t f) t (listOp s t f.ops f.ev) s

/-! ## APPEND -/

/-- Position a FOLIO or SAMPLE names. -/
def posOf (r : BitVec 5) (x : Tile) : Nat := (x.ctx.position + (x.sreg r).setWidth 24).toNat

/-- Write an open frame after an append or a commit: the digest lines of an open frame hold 0. -/
def storeFrame (g : Stage) (l : Nat) (f : Frame) (x : Tile) : Tile := x.writeFrame l (digestFormat g f.fmt f.isSealed) f

/-- Lines of the binary32 values APPEND takes. -/
def appendLines (g : Stage) : Nat := (g.kdims + if g.vShared then 0 else g.vdims) / 16

/-- APPEND on the holder, whose open frame begins at line `l`. -/
def appendHere (s : State) (t : TileId) (g : Stage) (f : FolioOps) (i : Intrusion) (all : List Nat) (l : Nat) (x : Tile) : Attempt :=
  let p := posOf f.ss x
  let n := appendLines g
  let src := wbRange (x.line f.ax) n
  let frame := s.frameRange g t l
  match ownChecks (writesAs x) (s.familyOf x.ctx.session) x [frame] with
  | some e => .fault x e
  | none =>
    match rangesFault unitFolio [src] with
    | some e => .fault x e
    | none =>
      if all.any (fun q => decide (p ≤ q)) then outOfRange x unitFolio
      else if x.lineBlocks [src, frame] [frame] then .wait x .scoreboard
      else accessing (noSlots i) unitFolio x (fun y =>
        match s.frameOf g t x.ctx.session l, readWords [fmtF32] y (y.line f.ax) n with
        | .error e, _ => .fault y (parcelFault unitFolio e)
        | _, .error e => .fault y (parcelFault unitFolio e)
        | .ok fr, .ok xs =>
          match fr.freeSlot with
          | none => .wait x .frame
          | some k =>
            match appendFrame fr k p xs with
            | .error e => .fault y (quantFault unitFolio e)
            | .ok fr' => .done ((storeFrame g l fr' y).setS f.sd 1))

/-- APPEND: the tile's own headers are read first, so that an unreadable open frame faults on the tile that holds it. -/
def appendOp (s : State) (t : TileId) (f : FolioOps) (i : Intrusion) (x : Tile) : Attempt :=
  withStage s t f x (fun g =>
    let all := s.stageHeads g x.ctx
    match readHeads x (s.localFrames t x.ctx f.layer) with
    | .error e => .fault x (parcelFault unitFolio e)
    | .ok _ =>
      match all.find? (fun e => !e.2.2.isSealed && !e.2.2.full) with
      | some e =>
        if e.1 = t then appendHere s t g f i (all.flatMap (fun e => e.2.2.positions)) e.2.1 x
        else accessing (noSlots i) unitFolio x (fun y => .done (y.setS f.sd 0))
      | none =>
        -- the open folio is full, or none stands yet: every tile waits, but one that comes after the holder's append
        if all.any (fun e => e.1 != t && e.2.2.positions.contains (posOf f.ss x)) then
          accessing (noSlots i) unitFolio x (fun y => .done (y.setS f.sd 0))
        else .wait x .frame)

def execFolioAppend (t : TileId) (f : Met FolioOps) (s : State) : Out :=
  tileExec (.folioAppend t f) t (appendOp s t f.ops f.ev) s

/-! ## WEEVIL, BOUND and COMMIT -/

/-- The checks of frame AF in R261's order: the pages it touches, then that it is a frame of the session and layer. -/
def withFrame (s : State) (t : TileId) (f : FolioOps) (x : Tile) (op : Stage → Nat → Attempt) : Attempt :=
  withStage s t f x (fun g =>
    let l := x.line f.af
    match rangesFault unitFolio [s.frameRange g t l] with
    | some e => .fault x e
    | none =>
      match ownChecks (readsAs x) (s.familyOf x.ctx.session) x [s.frameRange g t l] with
      | some e => .fault x e
      | none => if !(s.localFrames t x.ctx f.layer).contains l then outOfRange x unitFolio else op g l)

/-- WEEVIL: queue an update; ZERO reads nothing. -/
def weevilOp (s : State) (t : TileId) (f : FolioOps) (i : Intrusion) (x : Tile) : Attempt :=
  withFrame s t f x (fun g l =>
    let p := BitVec.ofNat 24 (posOf f.ss x)
    if f.zero then accessing (noSlots i) unitFolio x (fun y => .done { y with weevils := y.weevils ++ [⟨l, p, []⟩] })
    else
      let src := wbRange (x.line f.ax) (4 * g.heads)
      match rangesFault unitFolio [src] with
      | some e => .fault x e
      | none =>
        if x.lineBlocks [src] [] then .wait x .scoreboard
        else accessing (noSlots i) unitFolio x (fun y =>
          match readWords [fmtF32] y (y.line f.ax) (4 * g.heads) with
          | .error e => .fault y (parcelFault unitFolio e)
          | .ok ws => .done { y with weevils := y.weevils ++ [⟨l, p, chunks 64 (g.heads + 1) ws⟩] }))

def execFolioWeevil (t : TileId) (f : Met FolioOps) (s : State) : Out :=
  tileExec (.folioWeevil t f) t (weevilOp s t f.ops f.ev) s

/-- Lines of `n` query blocks from line `l`: one an A8 block, two a registered pair (R52, R53; log entry 149). -/
def queryLines (x : Tile) : Nat → Nat → Nat
  | _, 0 => 0
  | l, n + 1 =>
    let v := x.readLine memWb l
    let k := if Line.fmt v == fmtA16 && !Line.isLow v then 2 else 1
    k + queryLines x (l + k) n

/-- Read `n` query blocks from line `l`, one a key sheet; a registered pair stands for its 16-bit codes (R51 to R53). -/
def queryBlocks (x : Tile) : Nat → Nat → Except ParcelFault (List (Byte × List Int))
  | _, 0 => .ok []
  | l, n + 1 =>
    let v := x.readLine memWb l
    let pair := Line.fmt v == fmtA16 && !Line.isLow v
    match actBlock v (if pair then some (x.readLine memWb (l + 1)) else none) with
    | .error e => .error e
    | .ok b =>
      match queryBlocks x (l + if pair then 2 else 1) n with
      | .error e => .error e
      | .ok r => .ok ((match b with
          | .a8 sc cs => (sc, cs)
          | .pair sc hi lo => (sc, (hi.zip lo).map (fun p => 256 * p.1 + p.2))) :: r)

/-- I_j: the larger product of each dimension, summed (R186). -/
def boundSum : List Int → List (Int × Int) → Int
  | a :: as, r :: rs => max (a * r.2) (a * r.1) + boundSum as rs
  | _, _ => 0

/-- The sum over key sheets of I_j × σ_q × σ_j, exactly. -/
def boundTotal : List (Byte × List Int) → List Sheet → List (Int × Int) → Dy
  | q :: qs, h :: hs, rs =>
    (((Dy.ofInt (boundSum q.2 (rs.take h.codes.length))).mul (e4m3Val q.1)).mul (e4m3Val h.scale)).add
      (boundTotal qs hs (rs.drop h.codes.length))
  | _, _, _ => Dy.zero

/-- The bound B of R186: −infinity for a frame with no valid slot. -/
def boundValue (F : Word) (qs : List (Byte × List Int)) (fr : Frame) : Word :=
  if fr.valid = 0 then negInf
  else
    let d := (f32Val F).mul (boundTotal qs fr.keySheets (if fr.isSealed then digestRanges fr.fmt fr.digest else keyRanges fr))
    if d.isZero then 0 else roundUpF32 d

def boundOp (s : State) (t : TileId) (f : FolioOps) (i : Intrusion) (x : Tile) : Attempt :=
  withFrame s t f x (fun g l =>
    let n := (sheetWidths g.kdims).length
    let src := wbRange (x.line f.ax) (queryLines x (x.line f.ax) n)
    match rangesFault unitFolio [src] with
    | some e => .fault x e
    | none =>
      if x.lineBlocks [src, s.frameRange g t l] [] then .wait x .scoreboard
      else if !posNormal (x.sreg f.ss) then .fault x (.seq 0x5 unitFolio)
      else accessing (noSlots i) unitFolio x (fun y =>
        match s.frameOf g t x.ctx.session l, queryBlocks y (y.line f.ax) n with
        | .error e, _ => .fault y (parcelFault unitFolio e)
        | _, .error e => .fault y (parcelFault unitFolio e)
        | .ok fr, .ok qs => .done (y.setS f.sd (boundValue (x.sreg f.ss) qs fr))))

def execFolioBound (t : TileId) (f : Met FolioOps) (s : State) : Out :=
  tileExec (.folioBound t f) t (boundOp s t f.ops f.ev) s

/-- One weevil score after a committed token's update (R188): the head masses summed in head order, times 1/H rounded. -/
def weevilStep (lam : Word) (heads : Nat) (rows : List (List Word)) (i : Nat) (w : Word) : Word :=
  let sum := match rows with
    | [] => 0
    | r :: rs => rs.foldl (fun a q => fadd a (nth 0 q i)) (nth 0 r i)
  ffma lam w (fmul sum (fdivNat f32One heads))

/-- Apply one update to a frame's valid slots. -/
def applyWeevil (g : Stage) (u : WeevilUpdate) (f : Frame) : Frame :=
  { f with weevils := f.weevils.zipIdx.map (fun p => if f.has p.2 then weevilStep g.decay g.heads u.rows p.2 p.1 else p.1) }

/-- Updates in position order. -/
def insertUpdate (u : WeevilUpdate) : List WeevilUpdate → List WeevilUpdate
  | [] => [u]
  | v :: vs => if u.position.toNat < v.position.toNat then u :: v :: vs else v :: insertUpdate u vs

def sortUpdates : List WeevilUpdate → List WeevilUpdate
  | [] => []
  | u :: us => insertUpdate u (sortUpdates us)

/-- Store a session's scores of a shared frame in its STATISTICS lines (R318). -/
def storeShare (session : BitVec 16) (l : Nat) (ws : List Word) (x : Tile) : Tile :=
  match x.shareLine session l with
  | some k => x.writeLines memSlab k (vecLines ws)
  | none => x

/-- COMMIT of one frame (R188, R221): its updates up to `last`, then its slots beyond `keep`. A shared frame is never
written. -/
def commitFrame (g : Stage) (session : BitVec 16) (last keep : Int) (us : List WeevilUpdate) (e : Nat × Frame) (x : Tile) : Tile :=
  let mine := us.filter (fun u => u.frame == e.1 && decide ((u.position.toNat : Int) ≤ last))
  let f1 := mine.foldl (fun f u => applyWeevil g u f) e.2
  if ownState (x.owner (e.1 / 32)) = 3 then storeShare session e.1 f1.weevils x
  else
    let f2 := dropBeyond f1 keep
    if f2 = e.2 then x else storeFrame g e.1 f2 x

/-- The ownership fault of a COMMIT (R178): it reads every frame, and writes those that are not shared. -/
def commitOwns (s : State) (g : Stage) (t : TileId) (x : Tile) (ls : List Nat) : Option TileFault :=
  let fam := s.familyOf x.ctx.session
  (ownChecks (readsAs x) fam x (ls.map (s.frameRange g t))).orElse (fun _ =>
    ownChecks (writesAs x) fam x ((ls.filter (fun l => ownState (x.owner (l / 32)) != 3)).map (s.frameRange g t)))

/-- COMMIT: the slots that go are those of the wave's input positions beyond the last emitted one less one (R221). -/
def commitOp (s : State) (t : TileId) (f : FolioOps) (i : Intrusion) (x : Tile) : Attempt :=
  withStage s t f x (fun g =>
    let ls := s.localFrames t x.ctx f.layer
    let fs := ls.map (s.frameRange g t)
    match commitOwns s g t x ls with
    | some e => .fault x e
    | none =>
      if x.lineBlocks fs fs then .wait x .scoreboard
      else accessing (noSlots i) unitFolio x (fun z =>
        match s.readFrames g t x.ctx.session ls with
        | .error e => .fault z (parcelFault unitFolio e)
        | .ok fs =>
          let last : Int := (x.sreg f.ss).toNat - 1
          let us := sortUpdates (z.weevils.filter (fun u => ls.contains u.frame))
          let y := fs.foldl (fun y e => commitFrame g x.ctx.session last (max last (x.ctx.position.toNat - 1)) us e y) z
          .done { y with weevils := z.weevils.filter (fun u => !ls.contains u.frame) }))

def execFolioCommit (t : TileId) (f : Met FolioOps) (s : State) : Out :=
  tileExec (.folioCommit t f) t (commitOp s t f.ops f.ev) s

end Sys2Proof.Machine
end

