-- ==== Sys2Proof/Machine/Manager.lean ====
section
/-! DEFINITION. The Postmaster's shared operations: journal records, receipts and the end of a letter, wave orders, the
discard and replay of a wave, cache slots taken back, and page ownership (R174, R176, R180, R221, R298, R336, R337, R351, R453 to R456, R481, R483). -/

namespace Sys2Proof.Machine

/-! ## The journal (R481, R483, R486) -/

def kindConfig : BitVec 16 := 0x0001
def kindCalibration : BitVec 16 := 0x0002
def kindSpareMap : BitVec 16 := 0x0003
def kindRetirement : BitVec 16 := 0x0004
def kindWear : BitVec 16 := 0x0005
def kindFirmware : BitVec 16 := 0x0006
def kindKeys : BitVec 16 := 0x0007
def kindSeal : BitVec 16 := 0x0008
def kindAudit : BitVec 16 := 0x0009
def kindFault : BitVec 16 := 0x000A
def kindDump : BitVec 16 := 0x000B
def kindPower : BitVec 16 := 0x000C
def kindCheckpoint : BitVec 16 := 0x000D
def kindCommit : BitVec 16 := 0x000E
def kindShutdown : BitVec 16 := 0x000F

/-- Append a record; a throttled journal counts queue dumps and power events instead (R486). -/
def journalAdd (kind : BitVec 16) (key : Word) (body : List Byte) (s : State) : State :=
  let j := s.journal
  if j.throttled && (kind == kindDump || kind == kindPower) then { s with journal := { j with withheld := j.withheld + 1 } }
  else { s with journal := { j with
      records := j.records ++ [⟨kind, j.nextSeq, s.dev.time, key, false, s.dev.standbyLost, body, false, false⟩]
      nextSeq := j.nextSeq + 1 } }

/-- KEY of a retirement record: the unit's code and its index (DESIGN CHOICE, log entry 164). Codes: 1 tile, 2 segment, 3 field, 4 stack,
5 chiplet, 6 sensor. -/
def retireKey (unit i : Nat) : Word := BitVec.ofNat 32 (65536 * unit + i)

/-! ## Platform events and the device state (R346, R532) -/

/-- An event for the registered receiver, with SMB_ALERT_N asserted (R560); without one there is nobody to send it to. -/
def raiseEvent (e : PlatformEvent) (s : State) : State :=
  if s.mgmt.receiver.isSome then { s with mgmt := { s.mgmt with events := s.mgmt.events ++ [e], alert := true } } else s

/-- DEVICE_STATE takes a value; a change is a platform event. -/
def setDeviceState (v : Byte) (s : State) : State :=
  if s.dev.deviceState = v then s else raiseEvent (.deviceState v) (s.updDev (fun d => { d with deviceState := v }))

/-! ## Letters and receipts (R335 to R337, R351) -/

def stDone : BitVec 16 := 0x0000
def stAccepted : BitVec 16 := 0x0001
def stReplayed : BitVec 16 := 0x0501
def stRepaired : BitVec 16 := 0x0502
def stRetried : BitVec 16 := 0x0503

/-- The letter in flight of a key. -/
def State.letter (s : State) (k : LetterKey) : Option LetterRec := s.dev.letters.find? (fun r => r.key == k)

/-- Change a letter in flight. -/
def State.updLetter (s : State) (k : LetterKey) (f : LetterRec → LetterRec) : State :=
  s.updDev (fun d => { d with letters := d.letters.map (fun r => if r.key = k then f r else r) })

/-- A receipt goes out on its port, or waits there while a host port is not UP (R527). -/
def sendReceipt (r : Receipt) (s : State) : State :=
  if (s.port r.port.val).host && (s.port r.port.val).st != .up then
    s.updPort r.port.val (fun p => { p with heldReceipts := p.heldReceipts ++ [r] })
  else s.updDev (fun d => { d with receipts := d.receipts ++ [r] })

/-! ### Streams of a port (R336, R339, R518, R525) -/

/-- The bytes of a run of lines. -/
def parcelBytes (ls : List Line) : List Byte := ls.flatMap (bytesOf 72)

/-- A receipt as it stands on a port: header, results and train. -/
def receiptBytes (r : Receipt) : List Byte :=
  let h := bytesOf 4 r.letterId ++ bytesOf 2 r.status ++ [BitVec.ofNat 8 r.final.toNat, r.device.setWidth 8] ++ bytesOf 4 r.progress ++
    leBytes 4 r.results.length ++ leBytes 4 r.train.length ++ bytesOf 4 r.retryUs ++ bytesOf 2 r.opcode ++ bytesOf 2 r.session
  h ++ bytesOf 4 (crc32c (h ++ r.results)) ++ r.results ++ parcelBytes r.train

/-- A stream cut into slots of 88 bytes, the last padded with 0. -/
def slotsOf (kind : BitVec 4) (bs : List Byte) : List (BitVec 4 × BitVec 704) :=
  (chunks 88 (bs.length + 1) bs).map (fun c => (kind, BitVec.ofNat 704 (leNat c)))

/-- The lowest-numbered UP port that satisfies a test. -/
def State.upPort (s : State) (f : LinkPort → Bool) : Option Nat :=
  (List.range 48).find? (fun p => (s.port p).st == .up && f (s.port p))

/-- The lowest-numbered UP port toward a member. -/
def State.portToward (s : State) (m : BitVec 4) : Option Nat := s.upPort (fun x => !x.host && x.peer == m)

/-- Slots wait at a port for a frame. -/
def queueSlots (p : Nat) (q : List (BitVec 4 × BitVec 704)) (s : State) : State :=
  s.updPort p (fun x => { x with txSlots := x.txSlots ++ q })

/-- A stream toward a member, over the direct link. -/
def sendToward (m : BitVec 4) (q : List (BitVec 4 × BitVec 704)) (s : State) : State :=
  match s.portToward m with
  | some p => queueSlots p q s
  | none => s

/-- RETRY_US of a status: the expected end for class 0x04xx, 0 otherwise (R336). -/
def retryFor (status : BitVec 16) (s : State) : Word × State :=
  if bitsAt status 8 8 = 4 then (Config.retryUs s.dev.retries, s.updDev (fun d => { d with retries := d.retries + 1 })) else (0, s)

/-- A receipt of a letter in flight; APPEND defines no PROGRESS (R336). -/
def receiptOf (s : State) (r : LetterRec) (status : BitVec 16) (final : Bool) (retry : Word) (results : List Byte)
    (train : List Line) : Receipt :=
  ⟨r.key.port, r.key.id, status, final, s.dev.member, if r.opcode = 0x0102 then 0 else BitVec.ofNat 32 r.emitted, retry, r.opcode, r.session, results, train⟩

/-- A completed letter carries the first recovered event that touched it (R351). -/
def finalStatus (r : LetterRec) (status : BitVec 16) : BitVec 16 :=
  if status = stDone then r.recovered.getD stDone else status

/-- Send the final receipt of a letter and forget the letter (R337). -/
def sendFinal (k : LetterKey) (status : BitVec 16) (results : List Byte) (train : List Line) (s : State) : State :=
  match s.letter k with
  | none => s
  | some r =>
    let st := finalStatus r status
    let p := retryFor st s
    (sendReceipt (receiptOf p.2 r st true (if r.noRetry then 0 else p.1) results train) p.2).updDev (fun d => { d with
      letters := d.letters.filter (fun x => x.key != k)
      exclusive := if d.exclusive = some k then none else d.exclusive
      sessions := Tbl.mapV {} (fun (x : Session) => { x with queue := x.queue.filter (fun q => q != k) }) d.sessions })

/-- Body of the audit record of a letter (R507). -/
def auditBody (op status : BitVec 16) (role : Byte) (port : Nat) (session tenant : BitVec 16) (id : Word) (member : BitVec 4)
    (reason : Byte) : List Byte :=
  bytesOf 2 op ++ bytesOf 2 status ++ [role, BitVec.ofNat 8 port] ++ bytesOf 2 session ++ bytesOf 2 tenant ++ bytesOf 4 id ++
    [member.setWidth 8, reason]

/-- A record that a letter journals: its final receipt waits for the commit (R483). -/
def journalFor (k : LetterKey) (kind : BitVec 16) (key : Word) (body : List Byte) (s : State) : State :=
  journalAdd kind key body (s.updLetter k (fun r => { r with journalWait := true, waitSeq := s.journal.nextSeq }))

/-- The audit record of a letter that R507 audits. -/
def auditLetter (r : LetterRec) (status : BitVec 16) (s : State) : State :=
  if r.audit then
    journalFor r.key kindAudit 0 (auditBody r.opcode status r.role r.key.port.val r.session (r.tenant.setWidth 16) r.key.id s.dev.member 0) s
  else s

/-- A record that a letter waits for is not committed yet. -/
def State.waitsCommit (s : State) (k : LetterKey) : Bool :=
  match s.letter k with
  | some r => r.journalWait && s.journal.records.any (fun j => !j.committed && !j.obsolete && decide (j.seqNo.toNat ≤ r.waitSeq.toNat))
  | none => false

/-- End a letter, once: at once, or, where a record of it is not committed yet, when the record is (R337, R483, R507). -/
def finishLetter (k : LetterKey) (status : BitVec 16) (results : List Byte) (train : List Line) (s : State) : State :=
  match s.letter k with
  | none => s
  | some r =>
    if r.finalStatus.isSome then s
    else
      let s1 := auditLetter r (finalStatus r status) s
      if s1.waitsCommit k then s1.updLetter k (fun x => { x with finalStatus := some (status, results, train) })
      else sendFinal k status results train s1

/-- A recovered event touches a letter; the first one stays (R351). -/
def touchLetter (k : LetterKey) (status : BitVec 16) (s : State) : State :=
  s.updLetter k (fun r => { r with recovered := r.recovered.orElse (fun _ => some status) })

/-! ## Pages (R174, R176, R180) -/

/-- An ownership entry. -/
def ownWord (state : Nat) (tenant : BitVec 12) (entry : BitVec 16) : Word :=
  BitVec.ofNat 32 (state * 2 ^ 28 + tenant.toNat * 2 ^ 16 + entry.toNat)

/-- Pool pages of a tile. -/
def Tile.poolPages (x : Tile) : Nat := x.owners.countP (fun e => ownState e.2 == 7)

/-- First page of the lowest run of `n` pool pages. -/
def Tile.freeRun (x : Tile) (n : Nat) : Option Nat :=
  (List.range 2016).find? (fun p => decide (p + n ≤ 2016) && (List.range n).all (fun i => ownState (x.owner (p + i)) == 7))

/-- Write the entries of `n` pages. -/
def Tile.setOwners (x : Tile) (p n : Nat) (f : Nat → Word) : Tile :=
  { x with owners := (List.range n).foldl (fun o i => Tbl.set (0 : Word) o (p + i) (f i)) x.owners }

/-- The entries of a frame: a head page, then body pages. -/
def headBody (head : Nat) (tenant : BitVec 12) (entry : BitVec 16) (i : Nat) : Word :=
  ownWord (if i = 0 then head else head + 1) tenant entry

/-- Hand pages to scrubbing. -/
def Tile.release (x : Tile) (p n : Nat) : Tile := x.setOwners p n (fun _ => ownWord 8 0 0)

/-! ## ADAPT (R196, R200, R201) -/

/-- Pages of STATISTICS with row statistics of a running ADAPT go to scrubbing: those without scores of shared folios (R196). -/
def Tile.dropStats (tenant : BitVec 12) (session : BitVec 16) (x : Tile) : Tile :=
  (x.owners.filter (fun e => e.2 == ownWord 5 tenant session &&
    !x.shareScores.any (fun c => c.1 == session && c.2.2 / 32 == e.1))).foldl (fun x e => x.release e.1 1) x

/-- The run of an ADAPT is over: its span is no longer protected, and its row statistics are gone (R200, R201). -/
def clearAdapt (n : Nat) (s : State) : State :=
  let s1 := s.updSession n (fun x => { x with adapt := none })
  { s1 with tiles := Tbl.mapV {} (Tile.dropStats (s.session n).tenant (BitVec.ofNat 16 n)) s1.tiles }

/-! ## Waves (R454, R455) -/

def orderHold : BitVec 4 := 1
def orderDiscard : BitVec 4 := 2
def orderReplay : BitVec 4 := 3
def orderResume : BitVec 4 := 4

/-- A wave the Postmaster holds. -/
def State.wave (s : State) (w : Byte) : Option Wave := Tbl.get none s.dev.waves w.toNat

/-- Put a wave, or none; the time of the last end is kept (R399). -/
def State.setWave (s : State) (w : Byte) (v : Option Wave) : State :=
  s.updDev (fun d => { d with waves := Tbl.set none d.waves w.toNat v, lastWave := if v = none then d.time else d.lastWave })

/-- A WAVE_ORDER goes to every field of the placement (R454); a discard or replay enters the purge masks (R455). -/
def orderWave (w : Byte) (o : BitVec 4) (s : State) : State :=
  s.updDev (fun d => { d with
    orders := d.orders ++ [(w, o)]
    purged := if o = orderDiscard ∨ o = orderReplay then (if d.purged.contains w then d.purged else d.purged ++ [w]) else d.purged })

/-- Waves of a session that are still in flight. -/
def State.wavesOf (s : State) (session : BitVec 16) : List Wave :=
  (s.dev.waves.filterMap (fun e => e.2)).filter (fun w => w.session == session && !w.discarded)

/-- The letter at the head of a session's queue has issued waves and has not ended (R304). -/
def State.letterRuns (s : State) (x : Session) : Bool :=
  match x.queue with
  | [] => false
  | k :: _ => match s.letter k with | some r => r.progressed && r.finalStatus == none && (r.opcode == 0x0102 || r.opcode == 0x0103) | none => false

/-- An ADAPT of the session has issued its first wave and has passes left to run (R200, R304). -/
def State.adaptRuns (s : State) (x : Session) : Bool :=
  match x.adapt with
  | some a => a.result.isNone && (match s.letter a.key with | some r => r.progressed | none => false)
  | none => false

/-- A session is RESIDENT again when the last wave of every running letter has committed (R304). -/
def restSession (session : BitVec 16) (s : State) : State :=
  let x := s.session session.toNat
  let busy := s.dev.waves.any (fun e => match e.2 with | some w => w.session == session | none => false)
  if x.state = .running && !busy && !s.letterRuns x && !s.adaptRuns x then s.putSession session.toNat { x with state := .resident } else s

/-- Invalidate a session's slots beyond position `last` in every attention stage (R221). -/
def invalidateSlots (session : BitVec 16) (last : Int) (s : State) : State :=
  match s.dev.placement with
  | none => s
  | some p =>
    (p.stages.filter (fun g => g.kind == 2)).foldl (fun s g =>
      (s.stageFrames g { session := session, tenant := (s.session session.toNat).tenant }).foldl (fun s e =>
        s.updTile e.1 (commitFrame g session last last [] (e.2.1, e.2.2))) s) s

/-- The slots of a wave's input positions are taken back before it ends or is reissued; an ADAPT wave has written none (R200). -/
def takeBack (v : Wave) (s : State) : State := if v.adapt then s else invalidateSlots v.session ((v.first : Int) - 1) s

/-- A wave ends without a commit and is not replayed (R298): discarded on every tile, its slots invalidated, its fault
journalled, its letter ended. -/
def endWave (w : Byte) (status : BitVec 16) (body : List Byte) (s : State) : State :=
  match s.wave w with
  | none => s
  | some v =>
    let s1 := takeBack v ((orderWave w orderDiscard s).setWave w none)
    let s2 := journalAdd kindFault (v.session.setWidth 32) body s1
    let s3 := match v.letter with
      | some k => finishLetter k status [] [] s2
      | none => s2
    restSession v.session (if v.adapt then clearAdapt v.session.toNat s3 else s3)

/-- A wave is discarded and waits for its replay (R455, R456). -/
def replayWave (w : Byte) (s : State) : State :=
  match s.wave w with
  | none => s
  | some v =>
    let s1 := (orderWave w orderReplay s).setWave w (some { v with discarded := true })
    match v.letter with
    | some k => touchLetter k stReplayed s1
    | none => s1

/-- Discard every uncommitted wave for a repair; each is reissued with REPLAY after it (R460, R463). -/
def discardAll (s : State) : State :=
  s.dev.waves.foldl (fun s e => match e.2 with
    | some v => if v.discarded then s else (orderWave (BitVec.ofNat 8 e.1) orderDiscard s).setWave (BitVec.ofNat 8 e.1) (some { v with discarded := true })
    | none => s) s

/-! ## Waking blocks (R393, R397, R401, R402) -/

/-- A wake asked of a block that is not ACTIVE. -/
def askWake (b : Nat) (s : State) : State :=
  if (s.block b).pstate = .active ∨ (s.block b).pstate = .dark then s else s.updBlock b (fun x => { x with wakeAsked := true })

/-- Work a field controller orders on a tile: done when its block is awake, else the block is woken first (R401). -/
def onTile (t : TileId) (f : State → State) (s : State) : State :=
  if (s.block (tileBlock t)).awake then askWake (tileBlock t) (f s) else askWake (tileBlock t) s

/-- Work ordered on many tiles wakes every block of theirs that sleeps (R401). -/
def wakeTiles (ts : List TileId) (s : State) : State := ((ts.map tileBlock).dedup).foldl (fun s b => askWake b s) s

end Sys2Proof.Machine
end

