-- ==== Sys2Proof/Machine/Post.lean ====
section
/-! DEFINITION. Moving data, waiting and signalling: POST, REDUCE, the post engine's start and retirement of a descriptor,
TAKE, CLAIM, RELEASE, WAIT, CARD, YIELD and HALT (R112 to R123, R233, R254 to R260, R264, R265, R457, R567). -/

namespace Sys2Proof.Machine

/-! ## POST and REDUCE (R117, R237, R255 to R257) -/

/-- Put a descriptor in the queue: wait while it is full, or while an earlier instruction that has not retired writes a line of
its source, or reads or writes a line of its destination (R117, R237). -/
def enqueue (d : Desc) (src dst : List LineRange) (x : Tile) : Attempt :=
  match rangesFault unitPost (src ++ dst) with
  | some e => .fault x e
  | none =>
    if x.unretired src dst then .wait x .rangeBusy
    else if x.queueFull then .wait x .descriptorQueue
    else .done { x with descq := x.descq ++ [d] }

/-- Lines or blocks of a POST. -/
def postLines (f : PostOps) : Nat := f.lines.toNat + 1

/-- Template index: TMPL, or s[ST] (R255); none above 63. -/
def templateNo (f : PostOps) (x : Tile) : Option Nat :=
  let n := if f.treg then (x.sreg f.st).toNat else f.tmpl.toNat
  if n > 63 then none else some n

/-- BYPASS of a send (R255). -/
def bypassOf (f : PostOps) (x : Tile) : Bool := if f.byp = 1 then true else if f.byp = 2 then false else x.ctx.bypass

/-- POSITION of a send: the context's plus s[SP] (R255). -/
def positionOf (sp : BitVec 5) (x : Tile) : BitVec 24 := x.ctx.position + (x.sreg sp).setWidth 24

def copyDesc (f : PostOps) (w : BitVec 64) (x : Tile) : Desc :=
  { op := .copy, smem := f.smem, dmem := f.dmem, src := x.line f.as, dst := x.line f.ad, blocks := postLines f, reg := false,
    last := false, bypass := false, position := 0, tmpl := 0, ctx := x.ctx, pc := x.pc, word := w }

def sendDesc (f : PostOps) (op : DescOp) (n : Nat) (w : BitVec 64) (x : Tile) : Desc :=
  { op := op, smem := f.smem, dmem := 0, src := x.line f.as, dst := 0, blocks := postLines f, reg := f.reg, last := f.last,
    bypass := bypassOf f x, position := positionOf f.sp x, tmpl := n, ctx := x.ctx, pc := x.pc, word := w }

def execPostCopy (t : TileId) (f : PostOps) (s : State) : Out :=
  tileExec (.postCopy t f) t (fun x =>
    enqueue (copyDesc f (Instr.postCopy t f).word x) [⟨f.smem, x.line f.as, postLines f⟩] [⟨f.dmem, x.line f.ad, postLines f⟩] x) s

def execPostSend (t : TileId) (f : PostOps) (s : State) : Out :=
  tileExec (.postSend t f) t (fun x =>
    match templateNo f x with
    | none => outOfRange x unitPost
    | some n =>
      enqueue (sendDesc f .send n (Instr.postSend t f).word x)
        [⟨f.smem, x.line f.as, postLines f * (if f.reg then 2 else 1)⟩] [] x) s

def execPostPull (t : TileId) (f : PostOps) (s : State) : Out :=
  tileExec (.postPull t f) t (fun x =>
    match templateNo f x with
    | none => outOfRange x unitPost
    | some n => enqueue (sendDesc f .pull n (Instr.postPull t f).word x) [] [] x) s

def execPostCircularRequest (t : TileId) (f : PostOps) (s : State) : Out :=
  tileExec (.postCircularRequest t f) t (fun x =>
    match templateNo f x with
    | none => outOfRange x unitPost
    | some n => enqueue (sendDesc f .circular n (Instr.postCircularRequest t f).word x) [] [] x) s

/-- REDUCE: lines of the working buffer into the tree of the template's GROUP; a template of another KIND is illegal (R257). -/
def execReduce (t : TileId) (f : ReduceOps) (s : State) : Out :=
  tileExec (.reduce t f) t (fun x =>
    let k := envKind (Tbl.get 0 x.templates f.tmpl.toNat)
    let n := f.lines.toNat + 1
    if k = 0 ∨ k > 3 then illegal x
    else enqueue { op := .reduce, smem := memWb, dmem := 0, src := x.line f.as, dst := 0, blocks := n, reg := false,
                   last := false, bypass := x.ctx.bypass, position := positionOf f.sp x, tmpl := f.tmpl.toNat, ctx := x.ctx,
                   pc := x.pc, word := (Instr.reduce t f).word } [wbRange (x.line f.as) n] [] x) s

/-! ## Starting a descriptor (R112 to R114, R117, R121, R132, R178, R567) -/

/-- The template of a descriptor: a served pull's own envelope, or the table's (R118). -/
def descTemplate (d : Desc) (x : Tile) : Env :=
  match d.env with
  | some e => e
  | none => Tbl.get 0 x.templates d.tmpl

/-- Range a descriptor reads. -/
def descSource (d : Desc) : List LineRange :=
  match d.op with
  | .pull => []
  | .circular => []
  | _ => [⟨d.smem, d.src, d.blocks * (if d.reg then 2 else 1)⟩]

/-- Range a descriptor writes on its own tile. -/
def descDest (d : Desc) : List LineRange := if d.op = .copy then [⟨d.dmem, d.dst, d.blocks⟩] else []

/-- The envelope fault of a descriptor (R114, R132, R567): a bad template; a destination that is not in the placement. -/
def descEnvFault (d : Desc) (x : Tile) : Option TileFault :=
  if d.op = .copy ∨ d.env ≠ none then none
  else
    let e := descTemplate d x
    let q := envQueue e
    let notPlaced : Option TileFault := some (.mem 5 3 (BitVec.ofNat 16 q.toNat) unitPost)
    if templateBad e then some (.net 1 0 (BitVec.ofNat 16 d.tmpl) unitPost)
    else if d.op = .pull ∨ d.op = .circular then
      if 16 ≤ q.toNat ∧ q.toNat < 32 ∧ (Tbl.get ({} : Landing) x.landings (q.toNat - 16)).valid then none else notPlaced
    else if d.op = .send ∧ envKind e ≠ 4 then
      if 32 ≤ q.toNat ∧ q ≠ 0xF0 ∧ q ≠ 0xF1 then notPlaced
      else if q.toNat < 16 ∧ (creditIndex x (envDest e) q).isNone then notPlaced
      else none
    else none

/-- Ownership of the slab a descriptor touches: a session access under KIND 0x7 or 0x8, else a placement access (R177). -/
def descOwnFault (family : BitVec 16) (d : Desc) (x : Tile) : Option TileFault :=
  let k := envKind (descTemplate d x)
  let a : Access := if d.op = .send ∧ (k = 7 ∨ k = 8) then .sessionRead d.ctx.session d.ctx.tenant else .placement d.ctx.tenant
  let src := match descSource d with
    | r :: _ => if r.mem = memSlab then ownCheck a family x unitPost r.first r.count else none
    | [] => none
  match src with
  | some e => some e
  | none => if d.op = .copy ∧ d.dmem = memSlab then ownCheck (.placement d.ctx.tenant) family x unitPost d.dst d.blocks else none

/-- The credit-table entry a descriptor spends from: none where hop credits alone govern (R112, R153). A multicast whose group
has no entry goes under hop credits alone: the spec gives no other rule for it (DESIGN CHOICE, log entry 144). -/
def descCredit (d : Desc) (x : Tile) : Option Nat :=
  let e := descTemplate d x
  if d.op ≠ .send ∨ d.env ≠ none then none
  else if envKind e = 4 then groupIndex x (envGroup e)
  else if envQueue e < 16 then creditIndex x (envDest e) (envQueue e)
  else none

/-- Block i of a descriptor is a registered pair: REG and an A16 high parcel (R255). -/
def blockIsPair (d : Desc) (x : Tile) (i : Nat) : Bool :=
  let l := x.readLine d.smem (d.src + 2 * i)
  d.reg && Line.fmt l == fmtA16 && !Line.isLow l

/-- The descriptor holds the credits its next block needs (R112). -/
def creditReady (d : Desc) (x : Tile) : Bool :=
  match descCredit d x with
  | none => true
  | some i => decide ((Tbl.get ({} : CreditEntry) x.credits i).held ≥ (if blockIsPair d x d.done then 2 else 1))

/-- Count a credit wait once (R113): each wait of a descriptor, from the block it holds up to the block that goes, counts one
(DESIGN CHOICE, log entry 52). -/
def countStall (d : Desc) (x : Tile) : Desc × Tile :=
  if d.stalled then (d, x) else ({ d with stalled := true }, { x with creditStalls := satAdd x.creditStalls 1 })

/-- The post engine works: it goes on after a fault only with descriptors that have started (R267). -/
def State.postRuns (s : State) (t : TileId) : Bool :=
  (s.block (tileBlock t)).pstate == .active &&
  !((s.tile t).seq == .held && (s.tile t).heldWave == none)

/-- DESCRIPTOR_START: the head of the queue starts, waits, or faults. -/
def execDescriptorStart (t : TileId) (i : Intrusion) (s : State) : Out :=
  let x := s.tile t
  match x.descq with
  | [] => .next s
  | d :: rest =>
    if !s.postRuns t || decide (x.running.length ≥ 4) then .next s
    else match descEnvFault d x with
    | some e => .next (takeFaultAt t e d.pc d.word s)
    | none => match rangesFault unitPost (descSource d ++ descDest d) with
    | some e => .next (takeFaultAt t e d.pc d.word s)
    | none => match descOwnFault (s.familyOf d.ctx.session) d x with
    | some e => .next (takeFaultAt t e d.pc d.word s)
    | none =>
      if x.sbBlocks (descSource d) (descDest d) then .next s
      else if !creditReady d x then
        let r := countStall d x
        .next (s.putTile t { r.2 with descq := r.1 :: rest })
      else
        let y := intrude (noSlots i) x
        match intrusionStops i unitPost with
        | some e => .next (takeFaultAt t e d.pc d.word (s.putTile t y))
        | none =>
          let z : Tile := { y with descq := rest, running := y.running ++ [{ d with stalled := false }] }
          .next (s.putTile t (match d.circ with | some n => startCircular t n z | none => z))

/-! ## Running and retiring a descriptor (R117, R120, R255, R567) -/

/-- One step of a running descriptor. -/
inductive DescStep where
  | moved (d : Desc) (x : Tile)
  | stuck (d : Desc) (x : Tile)
  deriving DecidableEq, Repr

/-- The envelope of a descriptor's parcel. -/
def descEnv (t : TileId) (d : Desc) (x : Tile) (registered last : Bool) : Env :=
  match d.env with
  | some e => putField e 60 (bit last)
  | none => buildEnv (descTemplate d x) d.ctx d.position d.bypass registered last t

/-- Payload of a pull request (R567). -/
def pullPayload (d : Desc) (x : Tile) : Line :=
  let q := envQueue (descTemplate d x)
  if d.op = .circular then mkWords fmtU32 [BitVec.ofNat 32 (2 + q.toNat * 65536), BitVec.ofNat 32 d.src, 0]
  else mkWords fmtU32 [BitVec.ofNat 32 (1 + d.smem.toNat * 256 + q.toNat * 65536), BitVec.ofNat 32 d.src,
    BitVec.ofNat 32 (d.blocks - 1)]

/-- The request's envelope: KIND 0x9 on VC 3, LAST 0 (R255, R567). -/
def pullEnv (t : TileId) (d : Desc) (x : Tile) : Env :=
  putField (putField (descEnv t d x false false) 24 (9 : BitVec 4)) 28 (3 : BitVec 2)

/-- The router's local input has room for n more flits (R134). -/
def localRoom (x : Tile) (vc n : Nat) : Bool := decide ((x.buf .loc vc).length + n ≤ 8)

/-- Move one block of a running descriptor: a copied line, or a line or pair handed to the router (R112, R120, R255). -/
def stepDesc (t : TileId) (d : Desc) (x : Tile) : DescStep :=
  match d.op with
  | .copy =>
    let v := x.readLine d.smem (d.src + d.done)
    let y := (x.sbCount true d.smem (d.src + d.done)).writeLine d.dmem (d.dst + d.done) v
    .moved { d with done := d.done + 1 } (y.sbCount false d.dmem (d.dst + d.done))
  | .pull =>
    if localRoom x 3 1 then .moved { d with done := d.blocks } (x.inject ⟨pullEnv t d x, pullPayload d x⟩) else .stuck d x
  | .circular =>
    if localRoom x 3 1 then .moved { d with done := d.blocks } (x.inject ⟨pullEnv t d x, pullPayload d x⟩) else .stuck d x
  | _ =>
    let pair := blockIsPair d x d.done
    let l := d.src + (if d.reg then 2 else 1) * d.done
    let last := d.last && d.done + 1 == d.blocks
    let vc := kindVc (envKind (descTemplate d x))
    if !creditReady d x then let r := countStall d x; .stuck r.1 r.2
    else if !localRoom x vc (if pair then 2 else 1) then .stuck d x
    else
      let y := match descCredit d x with | some i => spendCredit i (if pair then 2 else 1) x | none => x
      let y1 := (y.inject ⟨descEnv t d x pair (last && !pair), x.readLine d.smem l⟩).sbCount true d.smem l
      let y2 := if pair then (y1.inject ⟨descEnv t d x true last, x.readLine d.smem (l + 1)⟩).sbCount true d.smem (l + 1)
        else y1
      .moved { d with done := d.done + 1, stalled := false } y2

/-- Run a descriptor as far as credits and buffers go. -/
def runDesc (t : TileId) : Nat → Desc → Tile → Desc × Tile
  | 0, d, x => (d, x)
  | n + 1, d, x =>
    if d.done ≥ d.blocks then (d, x)
    else match stepDesc t d x with
    | .moved d' x' => runDesc t n d' x'
    | .stuck d' x' => (d', x')

/-- Change an expert's counts. -/
def countExpert (expert : BitVec 16) (f : ExpertCount → ExpertCount) (s : State) : State :=
  s.updDev (fun d => { d with experts := Tbl.upd {} d.experts expert.toNat f })

/-- The expert a dispatch note names: layer × 256 + index (R206, R210). -/
def noteExpert (l : Line) : BitVec 16 := BitVec.ofNat 16 (256 * bitsAt (wordAt l 0) 16 16 + bitsAt (wordAt l 0) 8 8)

/-- A line is a dispatch note of a layer: a U32 parcel with k of 1 to 8, a rank below k, and words 2 to 15 zero (R206). -/
def isNote (layer : BitVec 16) (l : Line) : Bool :=
  let k := bitsAt (wordAt l 0) 4 4
  Line.fmt l == fmtU32 && decide (1 ≤ k) && decide (k ≤ 8) && decide (bitsAt (wordAt l 0) 0 4 < k) &&
  fieldAt (wordAt l 0) 16 16 == layer && ((Line.words l).drop 2).all (· == 0)

/-- Dispatch notes among the blocks that a router-stage tile's send has handed on: parcels of KIND 0x0 (R206). -/
def notesSent (s : State) (t : TileId) (d : Desc) (upto : Nat) (x : Tile) : List (BitVec 16) :=
  match (s.stagesOf t).find? (fun g => g.kind == 3) with
  | none => []
  | some g =>
    if d.op ≠ .send ∨ d.reg ∨ envKind (descTemplate d x) ≠ 0 then []
    else (((List.range (upto - d.done)).map (fun i => x.readLine d.smem (d.src + d.done + i))).filter (isNote g.layer)).map noteExpert

/-- A router stage counts the tokens it routes to each expert (R210). -/
def countNotes (es : List (BitVec 16)) (s : State) : State := es.foldl (fun s e => countExpert e (fun c => { c with routed := c.routed + 1 }) s) s

/-- DESCRIPTOR_RETIRE: running descriptor k moves its lines; it retires when its last line is written or handed on. A read
that cannot be corrected ends it with its fault (R107). -/
def execDescriptorRetire (t : TileId) (k : Met (Fin 4)) (s : State) : Out :=
  if (s.block (tileBlock t)).pstate != .active then .next s
  else match (s.tile t).running[k.ops.val]? with
  | none => .next s
  | some d =>
    let x := intrude (noSlots k.ev) (s.tile t)
    match intrusionStops k.ev unitPost with
    | some e => .next (takeFaultAt t e d.pc d.word (s.putTile t { x with running := x.running.eraseIdx k.ops.val }))
    | none =>
      let r := runDesc t 4097 d x
      .next (countNotes (notesSent s t d r.1.done x) (s.putTile t (
        if r.1.done ≥ r.1.blocks then recountAll t { r.2 with running := x.running.eraseIdx k.ops.val }
        else { r.2 with running := setNth x.running k.ops.val r.1 })))

/-! ## TAKE (R112, R115, R233, R254) -/

/-- The wave context an envelope gives (R233). -/
def envCtx (e : Env) : WaveCtx :=
  ⟨envSession e, envTenant e, envPosition e, envWave e, envReplay e, envBypass e⟩

/-- Begin a wave, or go on in it, under the first entry's envelope (R233). -/
def loadCtx (e : Env) (x : Tile) : Tile :=
  let y := { x with ctx := envCtx e, seq := .running }
  if x.begun then y
  else { y with begun := true, entry := x.pc, written := 0,
                sb := Tbl.mapV {} (fun (e : SbEntry) => { e with fresh := false }) x.sb }

/-- s[SE] to s[SE + 3] take the envelope, bytes 0 to 3 first (R254). -/
def loadEnv (r : BitVec 5) (e : Env) (x : Tile) : Tile :=
  (((x.setS r (wordAt e 0)).setS (r + 1) (wordAt e 1)).setS (r + 2) (wordAt e 2)).setS (r + 3) (wordAt e 3)

/-- The TAKE that issues. -/
def takeRun (f : TakeOps) (x : Tile) : TakeRun :=
  ⟨f.queue, x.line f.ad, f.count.toNat + 1, f.reg, x.line f.ad, f.count.toNat + 1⟩

/-- TAKE issues when its queue holds an entry and no earlier TAKE of the queue, nor of its lines, is unretired. -/
def takeOp (t : TileId) (f : TakeOps) (i : Intrusion) (x : Tile) : Attempt :=
  let r := takeRun f x
  match rangesFault unitTake [takeRange r] with
  | some e => .fault x e
  | none =>
    match x.hole f.queue.toNat with
    | [] => .wait x .pigeonhole
    | h :: _ =>
      if x.lineBlocks [] [takeRange r] || x.takes.any (fun k => k.queue == f.queue) then .wait x .scoreboard
      else accessing (noSlots i) unitTake x (fun y =>
        let y1 := if f.ctx then loadCtx h.env y else y
        let y2 := if f.env then loadEnv f.se h.env y1 else y1
        .done (runTakes t { y2 with takes := y2.takes ++ [r] }))

def execTake (t : TileId) (f : TakeOps) (i : Intrusion) (s : State) : Out := tileExec (.take t f i) t (takeOp t f i) s

/-! ## CLAIM and RELEASE (R120, R123, R258) -/

/-- CLAIM (R258). A range that breaks R95, R96 or R99 faults before a full scoreboard does, and the overflow records the claim's
memory and first line: the spec gives neither (DESIGN CHOICE, log entry 145). -/
def execClaim (t : TileId) (f : ClaimOps) (s : State) : Out :=
  tileExec (.claim t f) t (fun x =>
    let l := (x.areg f.ar).toNat
    let n := f.lines.toNat + 1
    match rangesFault unitSequencer [⟨f.mem, l, n⟩] with
    | some e => .fault x e
    | none =>
      match x.sbFree with
      | none => .fault x (.mem 4 f.mem (BitVec.ofNat 16 l) unitSequencer)
      | some e =>
        .done ({ x with sb := Tbl.set {} x.sb e ⟨true, f.drain, f.mem, l, n, 0, true⟩ }.setS f.sd (BitVec.ofNat 32 e))) s

def execRelease (t : TileId) (sr : BitVec 5) (s : State) : Out :=
  tileExec (.release t sr) t (fun x =>
    let e := (x.sreg sr).toNat
    if e > 15 then outOfRange x unitSequencer else .done { x with sb := Tbl.set {} x.sb e {} }) s

/-! ## WAIT (R259) -/

/-- Go on when a condition holds, else wait. -/
def waitFor (c : Bool) (k : WaitKind) (x : Tile) : Attempt := if c then .done x else .wait x k

/-- A barrier ID of the field's barrier table (R160, R286). -/
def State.barrierIndex (s : State) (f : Nat) (id : Byte) : Option Nat :=
  (List.range 16).find? (fun i => let e := Tbl.get ({} : BarrierEntry) (s.field f).barriers i; e.valid && e.id == id)

def execWaitPigeonhole (t : TileId) (f : WaitOps) (s : State) : Out :=
  -- an entry kept for a low parcel that has not arrived is not held (DESIGN CHOICE, log entry 136)
  tileExec (.waitPigeonhole t f) t (fun x =>
    waitFor (decide ((x.hole f.arg.toNat).length ≥ f.id.toNat)) .pigeonhole x) s

def execWaitScoreboard (t : TileId) (f : WaitOps) (s : State) : Out :=
  tileExec (.waitScoreboard t f) t (fun x =>
    waitFor (!(Tbl.get ({} : SbEntry) x.sb f.arg.toNat).used) .entry x) s

def execWaitBarrier (t : TileId) (f : WaitOps) (s : State) : Out :=
  tileExec (.waitBarrier t f) t (fun x =>
    match s.barrierIndex (tileField t) f.id with
    | none => outOfRange x unitSequencer
    | some n => waitFor (Tbl.get none x.latches n == some x.ctx.wave) .barrier x) s

/-- A USER card has arrived; its payload goes to s[SD], and a held card takes its place in the inbox (R159). -/
def execWaitUserCard (t : TileId) (f : WaitOps) (s : State) : Out :=
  tileExec (.waitUserCard t f) t (fun x =>
    match x.inbox with
    | [] => .wait x .userCard
    | c :: cs =>
      .done ({ x with inbox := cs ++ x.cardHold.take 1, cardHold := x.cardHold.drop 1 }.setS f.sd (Card.payload c))) s

def execWaitDescriptors (t : TileId) (f : WaitOps) (s : State) : Out :=
  tileExec (.waitDescriptors t f) t (fun x => waitFor (x.descq.isEmpty && x.running.isEmpty) .descriptors x) s

def execWaitSlots (t : TileId) (f : WaitOps) (s : State) : Out :=
  tileExec (.waitSlots t f) t (fun x => waitFor (!x.slotBusy f.arg.toNat (f.n.toNat + 1)) .slotsIdle x) s

/-! ## CARD (R156, R158, R260) -/

/-- Execute an instruction that also sends a card when it completes; it waits while the block's node takes no card of the tile
(R158, R238). -/
def cardExec (i : Instr) (t : TileId) (ok : Tile → Bool) (card : Tile → Card) (s : State) : Out :=
  if s.issues t && (s.tile t).mayIssue i.word && i.encodingOk && ok (s.tile t) && (s.tile t).cardRoom s.dev.time then
    .next (tileSendsOrdinary t (card (s.tile t)) (s.putTile t (s.tile t).advance))
  else tileExec i t (fun x => if ok x then .wait x .card else outOfRange x unitSequencer) s

/-- BARRIER_ARRIVE to the field hub; a barrier with no entry is out of range and sends nothing (R260). -/
def execCardBarrierArrive (t : TileId) (f : CardOps) (s : State) : Out :=
  cardExec (.cardBarrierArrive t f) t (fun _ => (s.barrierIndex (tileField t) f.barrier).isSome)
    (fun x => mkCard (BitVec.ofNat 32 (f.barrier.toNat + 256 * x.ctx.wave.toNat)) cardArrive 2 (BitVec.ofNat 16 (tileField t))) s

def execCardUser (t : TileId) (f : CardOps) (s : State) : Out :=
  cardExec (.cardUser t f) t (fun _ => true) (fun x => mkCard (x.sreg f.sp) cardUserType f.dclass f.dest) s

/-! ## YIELD and HALT (R264, R265, R457) -/

/-- The registered budget of a tile's wave: REG_BUDGET times the largest dwell (R279, R457). -/
def State.regBudget (s : State) (t : TileId) : Nat :=
  match s.stagesOf t with
  | [] => 4
  | g :: _ => g.regBudget

def execYield (t : TileId) (s : State) : Out :=
  tileExec (.yield t) t (fun x =>
    if x.queued ≠ 0 then .wait x .yield
    else
      let above := x.regBlocks > s.regBudget t * x.maxDwell
      .done { x with
        seq := .between
        begun := false
        overWaves := if above then satAdd x.overWaves 1 else x.overWaves
        regBlocks := 0
        maxDwell := 0 }) s

/-- HALT: the sequencer stops until a placement load starts it again; PC is the next instruction, which nothing fetches
(R232, R265). -/
def haltOp (x : Tile) : Attempt :=
  .goto { x with seq := .halted, loops := (nextPc x.loops x.pc).2 } (nextPc x.loops x.pc).1

/-- The tile halts, and its field controller reports the halt to the Postmaster (R265). -/
def execHalt (t : TileId) (s : State) : Out :=
  if s.issues t && (s.tile t).mayIssue (Instr.halt t).word then
    .next ((issue t (Instr.halt t).word haltOp s).updDev (fun d => { d with halts := d.halts ++ [t] }))
  else .next s

end Sys2Proof.Machine
end

