-- ==== Sys2Proof/Machine/Cards.lean ====
section
/-! DEFINITION. Postcards as they arrive: knocks, fault notes, watchdog cards, wave orders, barriers, user cards, fireflies,
and the cards of a sleeping block (R156, R159 to R161, R179, R268, R298, R390, R393, R451 to R455, R466, R467, R569). -/

namespace Sys2Proof.Machine

/-! ## Knocks (R156, R390, R393) -/

/-- A knock to a field controller starts the generator at its last setting while the rail is on (R390). -/
def startGenerator (f : Nat) (s : State) : State :=
  s.updField f (fun x => if x.railOn && !x.genRunning then { x with genRunning := true } else x)

/-- Reasons of a knock (R156). -/
def knockReason (r : Byte) : Bool := r != 0 && decide (r.toNat ≤ 5)

/-- What a knock does at its receiver; a reserved reason does nothing, and a mailbox knock wakes a processor only. -/
def agentKnock (dclass : BitVec 3) (dest : BitVec 16) (reason : Byte) (s : State) : State :=
  if !knockReason reason then s
  else if dclass = 1 ∧ dest.toNat < 1024 then (if reason = 1 then s else askWake dest.toNat s)
  else if dclass = 2 ∧ dest.toNat < 64 then startGenerator dest.toNat s
  else s

/-! ## Wave orders on a tile (R268, R454, R455, R283) -/

/-- A tile holds a wave. -/
def Tile.holdsWave (x : Tile) (w : Byte) : Bool := x.begun && x.ctx.wave == w

/-- HOLD: issue stops before the next instruction of the wave. -/
def holdTile (w : Byte) (x : Tile) : Tile :=
  if x.holdsWave w && x.seq == .running then { x with seq := .held, heldWave := some w } else x

/-- DISCARD and REPLAY: R268 where the tile holds the wave, then the purge of R455; every such order sets the landing
pointers to FIRST (R283). -/
def discardTile (t : TileId) (w : Byte) (x : Tile) : Tile :=
  let y := if x.holdsWave w then { discardWave x with seq := if x.seq = .halted then .halted else .between }
    else { x with landings := Tbl.mapV {} (fun (e : Landing) => { e with ptr := 0, group := [] }) x.landings }
  purgeWave t w y

/-- RESUME: issue goes on after a HOLD; on a tile that holds no such wave the number leaves the purge mask. -/
def resumeTile (w : Byte) (x : Tile) : Tile :=
  if x.holdsWave w then (if x.heldWave = some w then { x with seq := .running, heldWave := none } else x)
  else { x with purge := x.purge.filter (fun p => p != w) }

/-- An order on a tile. -/
def orderTile (t : TileId) (w : Byte) (o : BitVec 4) (x : Tile) : Tile :=
  if o = orderHold then holdTile w x
  else if o = orderDiscard ∨ o = orderReplay then discardTile t w x
  else if o = orderResume then resumeTile w x
  else x

/-- The WAVE_ORDER postcard to every tile of a field (R454). -/
def orderCard (f : Nat) (w : Byte) (o : BitVec 4) : Card :=
  mkCard (BitVec.ofNat 32 (w.toNat + 256 * o.toNat)) cardOrder 3 (BitVec.ofNat 16 f)

/-! ## Cards at a tile or at its block's node (R569) -/

/-- A root hub has released a barrier to a field in a wave (R160). -/
def State.released (s : State) (f : Nat) (id w : Byte) : Bool := (s.field f).releases.contains (id, w)

/-- A latched release (R160). -/
def latchRelease (t : TileId) (id : Byte) (w : Byte) (s : State) : State :=
  match s.barrierIndex (tileField t) id with
  | none => s
  | some n => s.updTile t (fun x => { x with latches := Tbl.set none x.latches n (some w) })

/-- A card acts on a tile whose block is awake. -/
def deliverCard (t : TileId) (c : Card) (s : State) : State :=
  let p := Card.payload c
  if Card.typ c = cardOrder then s.updTile t (orderTile t (fieldAt p 0 8) (fieldAt p 8 4))
  else if Card.typ c = cardRelease then latchRelease t (fieldAt p 0 8) (fieldAt p 8 8) s
  else if Card.typ c = cardUserType then
    s.updTile t (fun x => let r := enterInbox 8 x.inbox x.cardHold c; { x with inbox := r.1, cardHold := r.2 })
  else s

/-- Tiles of a block that a card names: one tile, or all of them for a field's card. -/
def cardTiles (b : Nat) (c : Card) : List TileId :=
  if Card.dclass c = 0 then (if tileBlock (Card.dest c) = b then [Card.dest c] else [])
  else if Card.dclass c = 3 ∧ (Card.dest c).toNat = b / 16 then blockTiles b
  else []

/-- A card that a tile's block takes: a KNOCK, WAVE_ORDER, BARRIER_RELEASE or USER card whose reason or order is none of the reserved
codes (R12, R393, R569). -/
def blockTakes (c : Card) : Bool :=
  if Card.typ c = cardKnock then knockReason (fieldAt (Card.payload c) 0 8)
  else if Card.typ c = cardOrder then decide (1 ≤ bitsAt (Card.payload c) 8 4) && decide (bitsAt (Card.payload c) 8 4 ≤ 4)
  else Card.typ c == cardRelease || Card.typ c == cardUserType

/-- A card for tiles of a block: awake, it acts at once and a GATED block is woken; asleep, the node keeps it, keeps the
purge mask for its tiles, and every card but a WAVE_ORDER wakes the block with a KNOCK of reason 0x05 (R569). -/
def blockCard (b : Nat) (c : Card) (s : State) : State :=
  let ts := cardTiles b c
  let x := s.block b
  if ts = [] || !blockTakes c then s
  else if x.pstate = .active then ts.foldl (fun s t => deliverCard t c s) s
  else if x.awake then askWake b (ts.foldl (fun s t => deliverCard t c s) s)
  else if x.pstate = .dark then s
  else
    let w : Byte := fieldAt (Card.payload c) 0 8
    let o : BitVec 4 := fieldAt (Card.payload c) 8 4
    let keep (y : Block) : Block := { y with nodeCards := y.nodeCards ++ [c] }
    if Card.typ c = cardOrder then
      s.updBlock b (fun y => { keep y with nodePurge :=
        if o = orderDiscard ∨ o = orderReplay then (if y.nodePurge.contains w then y.nodePurge else y.nodePurge ++ [w])
        else if o = orderResume then y.nodePurge.filter (fun p => p != w) else y.nodePurge })
    else sendCard (srcNode b) (knockCard 1 (BitVec.ofNat 16 b) 0x05) (s.updBlock b keep)

/-- A card for one tile, wherever its block stands. -/
def tileCard (t : TileId) (c : Card) (s : State) : State :=
  let x := s.block (tileBlock t)
  if !blockTakes c then s
  else if x.pstate = .active then deliverCard t c s
  else if x.awake then askWake (tileBlock t) (deliverCard t c s)
  else if Card.dclass c = 3 ∧ x.nodeCards.contains c then s
  else blockCard (tileBlock t) c s

/-- SLEEPING_BLOCK_CARD: a release is taken only as a root hub sent it (R160), and a card in its turn on its lane (R159). -/
def execSleepingBlockCard (b : Fin 1024) (c : Card) (s : State) : Out :=
  if (s.block b.val).pstate = .active ∨ !Card.good c ∨ !cardDue c s ∨
    (Card.typ c = cardRelease ∧ !s.released (b.val / 16) (fieldAt (Card.payload c) 0 8) (fieldAt (Card.payload c) 8 8)) then .next s
  else .next (blockCard b.val c (cardArrives c s))

/-- KNOCK: to an agent, or to a tile, where it wakes a sleeping block; a card comes in its turn on its lane (R159). -/
def execKnock (dclass : BitVec 3) (dest : BitVec 16) (reason : Byte) (s : State) : Out :=
  if !cardDue (knockCard dclass dest reason) s then .next s
  else
  let s1 := cardArrives (knockCard dclass dest reason) s
  .next (if dclass = 0 then tileCard dest (knockCard dclass dest reason) s1 else agentKnock dclass dest reason s1)

/-! ## WAVE_ORDER rows -/

def execWaveOrderHold (t : TileId) (w : Byte) (s : State) : Out := .next (tileCard t (orderCard (tileField t) w orderHold) s)
def execWaveOrderDiscard (t : TileId) (w : Byte) (s : State) : Out := .next (tileCard t (orderCard (tileField t) w orderDiscard) s)
def execWaveOrderReplay (t : TileId) (w : Byte) (s : State) : Out := .next (tileCard t (orderCard (tileField t) w orderReplay) s)
def execWaveOrderResume (t : TileId) (w : Byte) (s : State) : Out := .next (tileCard t (orderCard (tileField t) w orderResume) s)

/-! ## Fault notes at the Postmaster (R179, R298, R451, R453) -/

/-- Bytes of the journal record of a fault note: the payload and the tile's fault registers. -/
def noteBody (cause : BitVec 4) (w : Byte) (source : BitVec 16) (s : State) : List Byte :=
  let x := s.tile source
  bytesOf 4 (Card.payload (faultNoteCard cause w source)) ++ bytesOf 4 x.seqFault ++ bytesOf 8 x.seqWord ++ bytesOf 4 x.memFault ++
    bytesOf 4 x.netFault ++ bytesOf 4 x.ownFault ++ bytesOf 4 x.ownSession

/-- The session of a placement mistake's wave keeps its commits; the letter ends with the CAUSE of the tile's newest fault, which
the fault register holds where it was clear (R298, R351; log entry 97). -/
def mistakeStatus (source : BitVec 16) (s : State) : BitVec 16 := 0x0110 + (s.tile source).lastCause.setWidth 16

/-- A session named by an ownership fault stops (R179, R304). -/
def suspend (n : BitVec 16) (s : State) : State :=
  let x := s.session n.toNat
  if x.state = .running ∨ x.state = .resident then s.putSession n.toNat { x with state := .suspended } else s

/-- The session that an ownership fault names: its wave's, or TS_OWN_SESSION's where no such wave is held (R179). -/
def accusedSession (w : Byte) (source : BitVec 16) (s : State) : BitVec 16 :=
  match s.wave w with
  | some v => v.session
  | none => fieldAt (s.tile source).ownSession 16 16

/-- The Postmaster takes a fault note (R179, R298, R451, R456): a mistake ends its wave; an ownership fault also suspends
its session; a compute, CRC or uncorrectable fault replays the wave; the causes of a tile's retirement are journalled. -/
def takeNote (cause : BitVec 4) (w : Byte) (source : BitVec 16) (s : State) : State :=
  let body := noteBody cause w source s
  let s1 := s.updDev (fun d => { d with notes := d.time :: inWindow d.time 1000 d.notes })
  if cause = 1 then endWave w (mistakeStatus source s1) body s1
  else if cause = 5 then suspend (accusedSession w source s1) (endWave w 0x0207 body s1)
  else if cause = 2 ∨ cause = 3 ∨ cause = 4 then replayWave w (journalAdd kindFault (source.setWidth 32) body s1)
  else if cause = 6 ∨ cause = 7 ∨ cause = 8 then journalAdd kindFault (source.setWidth 32) body s1
  else s

/-! ## The watchdog (R466, R467) -/

/-- The WATCHDOG card of a tile (R466). -/
def watchdogCard (t : TileId) (w : Byte) (cause : BitVec 4) : Card :=
  mkCard (BitVec.ofNat 32 (t.toNat + w.toNat * 2 ^ 16 + cause.toNat * 2 ^ 24)) cardWatchdog 2 (BitVec.ofNat 16 (tileField t))

/-- TS_SEQ_STATUS (R269). -/
def seqStatusWord (x : Tile) : Word :=
  let st := match x.seq with | .halted => 0 | .running => 1 | .held => 2 | .between => 3
  BitVec.ofNat 32 (st * 2 ^ 30 + x.test.toNat * 2 ^ 29 + x.issueq.length * 2 ^ 12 + x.pc.toNat)

/-- A word from bit positions and values. -/
def csrPack (fs : List (Nat × Nat)) : Word := BitVec.ofNat 32 (fs.map (fun f => f.2 * 2 ^ f.1)).sum

/-- The bits of indexes below `n` that pass a test, as a number. -/
def maskOf (n : Nat) (p : Nat → Bool) : Nat := (((List.range n).filter p).map (2 ^ ·)).sum

/-- Bits of indexes below 16 that pass a test. -/
def mask16 (p : Nat → Bool) : Nat := maskOf 16 p

/-- Tile registers (R93, R127, R162, R202, R269, R458). TS_PH_LEVEL counts the parcels a queue holds; the entry kept for a low
parcel that has not arrived counts no parcel (DESIGN CHOICE, log entry 136). -/
def tsWord (x : Tile) (o : Nat) (now : BitVec 64) : Word :=
  let sb (p : SbEntry → Bool) := mask16 (fun e => p (Tbl.get {} x.sb e))
  if o = 0x10 then x.seqFault
  else if o = 0x11 then x.finFlags.setWidth 32
  else if o = 0x12 then fieldAt x.seqWord 0 32
  else if o = 0x13 then fieldAt x.seqWord 32 32
  else if o = 0x14 then seqStatusWord x
  else if o = 0x20 then csrPack [(16, x.overrun.toNat), (0, mask16 (fun n => (x.slot n).isOpen))]
  else if o = 0x21 then x.hazards
  else if o = 0x22 then csrPack [(16, min 255 (inTicks now x.tallyTimes).length), (0, x.tallyTotal.toNat)]
  else if o = 0x30 then x.facing.setWidth 32
  else if o = 0x31 then x.bankConflicts
  else if o = 0x32 then x.conflictLast
  else if o = 0x33 then csrPack [(16, x.steals.toNat), (0, x.double.toNat)]
  else if o = 0x34 then csrPack [(16, sb (fun e => e.used && e.drain)), (0, sb SbEntry.used)]
  else if o = 0x35 then x.memFault
  else if o = 0x36 then csrPack [(16, x.creditStalls.toNat), (5, x.deferrals.toNat), (0, x.queued)]
  else if o = 0x37 then csrPack [(16, x.eccSlab.toNat), (0, x.eccSram.toNat)]
  else if o ≤ 0x3B then csrPack ((List.range 4).map (fun i => (8 * i, (x.hole (4 * (o - 0x38) + i)).length)))
  else if o = 0x40 then x.netFault
  else if o = 0x41 then csrPack [(28, x.router.nodes.length), (16, x.nodeWaits.toNat), (0, x.mcWaits.toNat)]
  else if o = 0x42 then csrPack [(16, x.sent.toNat), (0, x.inbox.length)]
  else if o = 0x50 then x.ownFault
  else if o = 0x51 then x.ownSession
  else csrPack [(16, x.overWaves.toNat), (0, x.regCount.toNat)]

/-- A tile's queue dump (R467): its registers by offset, the issue-queue words, the credit counts and the open tree nodes. -/
def dumpBody (x : Tile) : List Byte :=
  let r (o : Nat) : List Byte := bytesOf 4 (tsWord x o 0)
  r 0x14 ++ x.issueq.flatMap (bytesOf 8) ++ [0x34, 0x38, 0x39, 0x3A, 0x3B, 0x36].flatMap r ++
  (List.range 64).flatMap (fun i => leBytes 1 (Tbl.get ({} : CreditEntry) x.credits i).held) ++
  r 0x41 ++ x.router.nodes.flatMap (fun n => bytesOf 2 n.tree ++ [n.wave] ++ leBytes 2 n.ordinal)

/-! ## Barriers (R160, R286) -/

/-- The BARRIER_ARRIVE card of a tile of a field. -/
def arriveCard (id : Byte) (w : Byte) (f : Nat) : Card :=
  mkCard (BitVec.ofNat 32 (id.toNat + 256 * w.toNat)) cardArrive 2 (BitVec.ofNat 16 f)

/-- The entry of a barrier in a field's table. -/
def State.barrier (s : State) (f : Nat) (id : Byte) : Option BarrierEntry :=
  (s.barrierIndex f id).map (fun n => Tbl.get {} (s.field f).barriers n)

/-- Fields that must report to the root: those that take part and expect arrivals. -/
def reporters (s : State) (id : Byte) (mask : BitVec 64) : List (BitVec 6) :=
  ((List.range 64).filter (fun f => bitAt mask f && (match s.barrier f id with | some e => decide (e.expected > 0) | none => false))).map
    (BitVec.ofNat 6)

/-- The root hub has a report; with every report it sends the barrier's release to every tile of each field that takes part: the
field holds it for the BARRIER_RELEASE rows of its tiles. -/
def rootReport (root : Nat) (id w : Byte) (mask : BitVec 64) (f : Nat) (s : State) : State :=
  let x := s.field root
  let old := match x.reports.find? (fun r => r.1 == id && r.2.1 == w) with | some r => r.2.2 | none => []
  let got := if old.contains (BitVec.ofNat 6 f) then old else old ++ [BitVec.ofNat 6 f]
  let rest := x.reports.filter (fun r => !(r.1 == id && r.2.1 == w))
  if (reporters s id mask).all (fun g => got.contains g) then
    (List.range 64).foldl (fun s g => if bitAt mask g then
        s.updField g (fun y => { y with releases := y.releases ++ [(id, w)] }) else s)
      (s.putField root { x with reports := rest })
  else s.putField root { x with reports := rest ++ [(id, w, got)] }

/-- BARRIER_ARRIVE at a field hub: counted by ID and WAVE; the complete count goes to the root hub. The first arrival of a count
ends what an older barrier of that ID and WAVE released. -/
def countArrival (f : Nat) (id w : Byte) (s : State) : State :=
  match s.barrier f id with
  | none => s
  | some e =>
    let x := s.field f
    let old := x.arrivals.find? (fun a => a.1 == id && a.2.1 == w)
    let n := (match old with | some a => a.2.2 | none => 0) + 1
    let y : FieldCtl := if old.isNone then { x with releases := x.releases.filter (fun r => r != (id, w)) } else x
    let rest := x.arrivals.filter (fun a => !(a.1 == id && a.2.1 == w))
    if n ≥ e.expected then rootReport e.root.toNat id w e.mask f (s.putField f { y with arrivals := rest })
    else s.putField f { y with arrivals := rest ++ [(id, w, n)] }

def execBarrierArrive (f : Fin 64) (id : Byte) (w : Byte) (s : State) : Out :=
  if !cardDue (arriveCard id w f.val) s then .next s
  else .next (countArrival f.val id w (cardArrives (arriveCard id w f.val) s))

/-- The BARRIER_RELEASE card to a field's tiles. -/
def releaseCard (id : Byte) (w : Byte) (f : Nat) : Card :=
  mkCard (BitVec.ofNat 32 (id.toNat + 256 * w.toNat)) cardRelease 3 (BitVec.ofNat 16 f)

/-- BARRIER_RELEASE: a release that the root hub has sent to the tile's field (R160). -/
def execBarrierRelease (t : TileId) (id : Byte) (w : Byte) (s : State) : Out :=
  .next (if s.released (tileField t) id w then tileCard t (releaseCard id w (tileField t)) s else s)

/-! ## User cards, fireflies and hop retries (R156, R159, R161) -/

def userCard (t : TileId) (payload : Word) : Card := mkCard payload cardUserType 0 t

def execUser (t : TileId) (payload : Word) (s : State) : Out :=
  .next (if cardDue (userCard t payload) s then tileCard t (userCard t payload) (cardArrives (userCard t payload) s) else s)

/-- The FIREFLY card of a tile: its ID and the WAVE of the last wave begun. -/
def fireflyCard (t : TileId) (w : Byte) : Card :=
  mkCard (BitVec.ofNat 32 (t.toNat + w.toNat * 2 ^ 16)) cardFirefly 2 (BitVec.ofNat 16 (tileField t))

/-- FIREFLY_SEND: only a tile of an ACTIVE block; the card takes its place among the tile's ordinary ones (R158). -/
def execFireflySend (t : TileId) (s : State) : Out :=
  if (s.block (tileBlock t)).pstate = .active then .next (tileSendsOrdinary t (fireflyCard t (s.tile t).ctx.wave) s) else .next s

/-- FIREFLY: the field controller notes when it heard the tile. -/
def execFirefly (t : TileId) (w : Byte) (s : State) : Out :=
  if !cardDue (fireflyCard t w) s then .next s
  else .next ((cardArrives (fireflyCard t w) s).updTile t (fun x => { x with lastFirefly := s.dev.time }))

def execPostcardHopRetry (f : Fin 64) (s : State) : Out :=
  .next (s.updField f.val (fun x => { x with cardRetries := satAdd x.cardRetries 1 }))

end Sys2Proof.Machine
end

