-- ==== Sys2Proof/Machine/PowerStates.lean ====
section
/-! DEFINITION. Clocks and block power states: the field clock, gating, entry into CHRYSALIS and DIAPAUSE, wakes and their
admission, the generator (R116, R385 to R404, R409, R414, R416 to R418, R541, R569). -/

namespace Sys2Proof.Machine

/-! ## The field clock (R387, R388, R403) -/

/-- Highest legal step not above a target, 200 MHz below 200 (R403). -/
def legalMhz (n : Nat) : Nat := if n < 200 then 200 else min 1150 (n / 25 * 25)

/-- Operating point of a frequency in mV (R388). -/
def operatingMv (mhz : Nat) : Nat := if mhz ≤ 400 then 550 else if mhz ≤ 700 then 600 else if mhz ≤ 900 then 650 else if mhz ≤ 1000 then 700 else 800

/-- The lowest of the limits, with its code: target, thermal, wake-admission trim, boost not granted; a trim shows its code also where
it equals another limit (R387, R403, R418). -/
def clockLimit (x : FieldCtl) : Nat × BitVec 3 :=
  let pick (a b : Nat × BitVec 3) : Nat × BitVec 3 := if b.1 < a.1 then b else a
  let t := (legalMhz x.clkTarget.toNat, (0 : BitVec 3))
  let a := pick t (legalMhz x.thermalMhz.toNat, 1)
  let b := match x.trimMhz with | some m => if m.toNat ≤ a.1 then (m.toNat, 2) else a | none => a
  if x.boostGrant then b else pick b (1000, 3)

/-- Set the generator (R388): a rise waits for the blocks' voltage where the rail stands below the new operating point; a
fall switches at once, and the rail falls after it, but not for a wake-admission trim (R409). -/
def setClock (x : FieldCtl) : FieldCtl :=
  let l := clockLimit x
  let f : BitVec 11 := BitVec.ofNat 11 l.1
  if f.toNat > x.mhz.toNat ∧ operatingMv l.1 > x.settingMv.toNat then
    { x with newMhz := some f, settingMv := BitVec.ofNat 10 (operatingMv l.1) }
  else
    { x with mhz := f, limit := l.2, newMhz := none
             settingMv := if x.trimMhz = none then BitVec.ofNat 10 (operatingMv l.1) else x.settingMv }

/-- Boost may be granted: the Express profile, peak credit left, and a tenth of the operating hours above those spent in boost (R7,
R325, R387, R425). -/
def State.mayBoost (s : State) : Bool :=
  s.dev.profile == 2 && decide (0 < s.power.credit) && decide (10 * s.wear.boostUs < s.wear.operatingUs)

/-- A new target or grant (R387). A grant that R425 does not allow is not taken (DEDUCED, log entry 152). -/
def writeClkTarget (f : Nat) (v : Word) (s : State) : State :=
  s.updField f (fun x => setClock { x with clkTarget := fieldAt v 0 11, boostGrant := bitAt v 16 && s.mayBoost })

def execFcClkTargetWrite (f : Fin 64) (v : Word) (s : State) : Out := .next (writeClkTarget f.val v s)

/-- VOLTAGE_REACHED: every block reports its voltage, and the generator switches. -/
def execVoltageReached (f : Fin 64) (s : State) : Out :=
  .next (s.updField f.val (fun x => match x.newMhz with
    | some m => { x with mhz := m, limit := (clockLimit x).2, newMhz := none }
    | none => x))

/-- DROWSE_CALIBRATION (R386). -/
def execDrowseCalibration (f : Fin 64) (s : State) : Out :=
  .next (s.updField f.val (fun x => { x with drowseCalibrations := x.drowseCalibrations + 1 }))

/-! ## Idle blocks (R116, R393, R394) -/

/-- A wait that counts as idle: an empty pigeonhole, a WAIT or a YIELD (R393). -/
def WaitKind.idle : WaitKind → Bool
  | .pigeonhole => true
  | .barrier => true
  | .userCard => true
  | .yield => true
  | .entry => true
  | .descriptors => true
  | .slotsIdle => true
  | _ => false

/-- Post engine of a tile idle. -/
def Tile.postIdle (x : Tile) : Bool := x.descq == [] && x.running == [] && x.served == [] && x.router.outbox == []

/-- A tile is idle: it waits so, or its sequencer is stopped, with nothing in flight (R393). -/
def Tile.idle (x : Tile) : Bool :=
  (x.wait.idle || x.seq == .halted || x.seq == .held) && x.blockEnds == [] && x.passes == [] && x.takes == [] && x.postIdle

def State.blockIdle (s : State) (b : Nat) : Bool := (blockTiles b).all (fun t => (s.tile t).idle)

/-- R116: every pigeonhole empty and every post engine idle. -/
def State.blockEmpty (s : State) (b : Nat) : Bool := (blockTiles b).all (fun t => (s.tile t).pigeonholes == [] && (s.tile t).postIdle)

/-- A sequencer held by a fault keeps its block out of CHRYSALIS (R394). -/
def State.faultHeld (s : State) (b : Nat) : Bool := (blockTiles b).any (fun t => (s.tile t).seq == .held && (s.tile t).heldWave == none)

/-- GATE_ENTRY; microcode that waited for it is loaded (R488). -/
def execGateEntry (b : Fin 1024) (s : State) : Out :=
  let x := s.block b.val
  if x.pstate = .active ∧ x.gateCycles ≠ 0 ∧ !x.wakeAsked ∧ s.blockIdle b.val then
    .next (s.updBlock b.val (fun x => { x with pstate := .gated, step := 0, microLoad := x.microLoad || x.microWait, microWait := false }))
  else .next s

/-- A GATED block that is not on its way down is ACTIVE again (R393). -/
def wakeGated (b : Nat) (s : State) : State :=
  let x := s.block b
  if x.pstate = .gated ∧ x.step = 0 ∧ !x.microLoad then s.putBlock b { x with pstate := .active, activeSince := s.dev.time, wakeAsked := false } else s

def execGatedWake (b : Fin 1024) (s : State) : Out := .next (wakeGated b.val s)

/-- The conditions of R394 and R414 for entry into CHRYSALIS. -/
def State.mayChrysalis (s : State) (b : Nat) : Bool :=
  let x := s.block b
  x.pstate == .gated && x.step == 0 && !x.wakeAsked && !x.tied && !x.feeding && s.blockEmpty b && !s.faultHeld b

/-- Start the shutdown at step 1 (R396). -/
def startShutdown (b : Nat) (into : PState) (s : State) : State := s.updBlock b (fun x => { x with step := 1, shutTo := into })

/-- CHRYSALIS_DELAY_EXPIRY: a delay of 0 disables it. -/
def execChrysalisDelayExpiry (b : Fin 1024) (s : State) : Out :=
  if (s.block b.val).delay ≠ 0 ∧ s.mayChrysalis b.val then .next (startShutdown b.val .chrysalis s) else .next s

/-- A shutdown is in progress. -/
def Block.closing (x : Block) : Bool := !x.ramping && x.step != 0 && (x.pstate == .gated || x.pstate == .chrysalis)

/-- CHRYSALIS_ENTRY: the next of the five steps (R396). -/
def execChrysalisEntry (b : Fin 1024) (s : State) : Out :=
  let x := s.block b.val
  if x.closing && decide (x.step < 5) then .next (s.putBlock b.val { x with step := x.step + 1 }) else .next s

/-- What DIAPAUSE leaves of a tile: its slab with the ownership table, and the powered router (R392, R399, R541). -/
def sleepTile (x : Tile) : Tile :=
  { slab := x.slab, owners := x.owners, shareScores := x.shareScores, router := x.router, scrubGroup := x.scrubGroup }

/-- Change every tile of a block. -/
def updTiles (ts : List TileId) (f : Tile → Tile) (s : State) : State := ts.foldl (fun s t => s.updTile t f) s

/-- The retained state a block keeps once it has reached a state (R392). -/
def settleBlock (b : Nat) (into : PState) (s : State) : State :=
  let s1 := s.updBlock b (fun x => { x with pstate := into, step := 0 })
  if into = .diapause then updTiles (blockTiles b) sleepTile s1 else s1

/-- A wake waits for its admission (R416, R417). -/
def pendWake (b : Fin 1024) (s : State) : State :=
  s.updField (b.val / 16) (fun x => if x.pendingWakes.contains b then x else { x with pendingWakes := x.pendingWakes ++ [b] })

/-- SHUTDOWN_COMPLETE: the end of step 5. -/
def execShutdownComplete (b : Fin 1024) (s : State) : Out :=
  let x := s.block b.val
  if x.closing && x.step == 5 then
    let s1 := settleBlock b.val x.shutTo s
    .next (if x.wakeAsked then pendWake b s1 else s1)
  else .next s

/-- WAKE_REQUEST (R398). -/
def wakeRequest (b : Fin 1024) (s : State) : State :=
  let x := s.block b.val
  if x.ramping then s
  else if x.closing then
    let s1 := s.putBlock b.val { x with races := satAdd x.races 1 }
    if x.step ≤ 2 then
      if x.pstate = .gated then s1.updBlock b.val (fun y => { y with pstate := .active, activeSince := s.dev.time, step := 0, wakeAsked := false })
      else pendWake b (s1.updBlock b.val (fun y => { y with step := 0 }))
    else pendWake b (settleBlock b.val x.shutTo s1)
  else match x.pstate with
  | .gated => wakeGated b.val s
  | .chrysalis => pendWake b s
  | .diapause => pendWake b s
  | _ => s

def execWakeRequest (b : Fin 1024) (s : State) : Out := .next (wakeRequest b s)

/-! ## Admission (R416 to R418) -/

/-- The admission limit in A: FC_ADMIT.LIMIT, at most the rail's rating (R410, R416, R431). -/
def admitLimitA (x : FieldCtl) : Nat := min x.admitLimit.toNat (if x.phasesFailed = 0 then 500 else 437)

/-- Recorded currents of blocks, in mA. -/
def sumMa (s : State) (bs : List Nat) : Nat := (bs.map (fun b => (s.block b).lastMa.toNat)).sum

/-- Blocks of a field in ramp. -/
def rampingBlocks (s : State) (f : Nat) : List Nat := ((List.range 16).map (16 * f + ·)).filter (fun b => (s.block b).ramping)

/-- The measured current plus 1.25 times the recorded currents of the wakes in ramp and of `more` is within the limit. -/
def admitFits (s : State) (f : Nat) (more : List Nat) : Bool :=
  let x := s.field f
  decide (4 * x.measuredMa.toNat + 5 * sumMa s (rampingBlocks s f ++ more) ≤ 4000 * admitLimitA x)

/-- Smallest of a list of blocks. -/
def lowest : List (Fin 1024) → Option (Fin 1024)
  | [] => none
  | b :: bs => match lowest bs with | none => some b | some c => some (if b.val ≤ c.val then b else c)

/-- Admit a wake: its ramp starts, and a stopped generator starts with it (R397). -/
def takeWake (b : Fin 1024) (s : State) : State :=
  let s1 := s.updField (b.val / 16) (fun x => { x with pendingWakes := x.pendingWakes.erase b })
  startGenerator (b.val / 16) (s1.updBlock b.val (fun x => { x with ramping := true, step := 1, wakes := satAdd x.wakes 1 }))

/-- WAKE_ADMISSION: the lowest pending wake is admitted when it fits, and deferred otherwise. -/
def execWakeAdmission (b : Fin 1024) (s : State) : Out :=
  let f := b.val / 16
  let x := s.field f
  if x.restarting ∨ (s.block b.val).microLoad ∨ !x.pendingWakes.contains b then .next s
  else if lowest x.pendingWakes = some b ∧ admitFits s f [b.val] then .next (takeWake b s)
  else .next (s.putField f { x with deferrals := satAdd x.deferrals 1 })

/-- Admit in ascending index until the next does not fit. -/
def admitRun (f : Nat) : Nat → State → State
  | 0, s => s
  | n + 1, s =>
    match lowest ((s.field f).pendingWakes.filter (fun b => !(s.block b.val).microLoad)) with
    | none => s
    | some b => if admitFits s f [b.val] then admitRun f n (takeWake b s) else s

def execAdmissionRetry (f : Fin 64) (s : State) : Out :=
  if (s.field f.val).restarting then .next s else .next (admitRun f.val 16 s)

/-- The condition of R418 at frequency `g` for the batch `bs`: 0.2 I + 0.8 I g / f + P ≤ LIMIT. -/
def trimFits (s : State) (f : Nat) (bs : List Nat) (g : Nat) : Bool :=
  let x := s.field f
  let i := x.measuredMa.toNat
  let m := x.mhz.toNat
  decide (4 * i * m + 16 * i * g + 25 * m * sumMa s (rampingBlocks s f ++ bs) ≤ 20000 * m * admitLimitA x)

/-- The highest 25 MHz step from `200 + 25 n` down to 200 that meets the condition. -/
def trimStep (s : State) (f : Nat) (bs : List Nat) : Nat → Option Nat
  | 0 => if trimFits s f bs 200 then some 200 else none
  | n + 1 => if trimFits s f bs (200 + 25 * (n + 1)) then some (200 + 25 * (n + 1)) else trimStep s f bs n

/-- Admit wakes of a list in ascending index as far as the condition holds at 200 MHz. -/
def admitAt200 (f : Nat) : Nat → List (Fin 1024) → State → State
  | 0, _, s => s
  | n + 1, bs, s =>
    match lowest bs with
    | none => s
    | some b => if trimFits s f [b.val] 200 then admitAt200 f n (bs.erase b) (takeWake b s) else s

/-- ADMISSION_DEFERRAL_EXPIRY: the oldest pending wake and those of lower index form a batch; the clock is trimmed for it. -/
def execAdmissionDeferralExpiry (f : Fin 64) (s : State) : Out :=
  let x := s.field f.val
  match x.pendingWakes with
  | [] => .next s
  | b :: _ =>
    if x.restarting ∨ x.batch ≠ [] then .next s
    else
      let batch := x.pendingWakes.filter (fun c => decide (c.val ≤ b.val))
      let trim (m : Nat) (s : State) : State := s.updField f.val (fun y =>
        setClock { y with trimMhz := some (BitVec.ofNat 11 m), batch := batch, trims := satAdd y.trims 1 })
      match trimStep s f.val (batch.map Fin.val) ((x.mhz.toNat - 200) / 25) with
      | some m => .next (trim m (batch.foldl (fun s c => takeWake c s) s))
      | none => .next (trim 200 (admitAt200 f.val 16 batch s))

/-- The trim ends with the last ramp of its batch (R418). -/
def endRamp (b : Fin 1024) (s : State) : State :=
  s.updField (b.val / 16) (fun x =>
    if x.batch.contains b then
      let rest := x.batch.erase b
      if rest = [] then setClock { x with batch := [], trimMhz := none } else { x with batch := rest }
    else x)

/-- The node hands its cards to the tiles in order, and its purge mask passes to them (R569). -/
def releaseNode (b : Nat) (s : State) : State :=
  let cs := (s.block b).nodeCards
  cs.foldl (fun s c => (cardTiles b c).foldl (fun s t => deliverCard t c s) s)
    (s.updBlock b (fun x => { x with nodeCards := [], nodePurge := [] }))

/-- RAMP_COMPLETE: the block is ACTIVE; after CHRYSALIS the held cards are delivered, after DIAPAUSE they wait for the
reload. -/
def execRampComplete (b : Fin 1024) (s : State) : Out :=
  let x := s.block b.val
  if !x.ramping then .next s
  else
    let s1 := endRamp b (s.putBlock b.val
      { x with pstate := .active, activeSince := s.dev.time, ramping := false, step := 0, wakeAsked := false, reload := x.pstate == .diapause })
    .next (if x.pstate = .diapause then s1 else releaseNode b.val s1)

/-! ## Orders of the field controller (R399, R400, R404) -/

/-- Everything of a block is lost but its powered router (R392, R400). -/
def darkBlock (b : Nat) (s : State) : State :=
  let s1 := s.updBlock b (fun x => { x with pstate := .dark, step := 0, ramping := false, wakeAsked := false, reload := false, nodeCards := [], nodePurge := [] })
  let s2 := s1.updField (b / 16) (fun x => { x with pendingWakes := x.pendingWakes.filter (fun c => c.val != b), batch := x.batch.filter (fun c => c.val != b) })
  updTiles (blockTiles b) (fun x => { router := x.router }) s2

/-- What R399 asks of every tile before DIAPAUSE. -/
def Tile.restable (x : Tile) : Bool := (x.seq == .halted || x.seq == .between) && x.slots == [] && x.sb == []

def execBsPorderWake (b : Fin 1024) (s : State) : Out := .next (wakeRequest b s)

def execBsPorderChrysalis (b : Fin 1024) (s : State) : Out :=
  if s.mayChrysalis b.val then .next (startShutdown b.val .chrysalis s) else .next s

/-- No stage of the placement in force has a tile in the block (R399). -/
def State.stageless (s : State) (b : Nat) : Bool :=
  match s.dev.placement with
  | some p => p.stages.all (fun g => g.tiles.all (fun e => tileBlock e.1 != b))
  | none => true

/-- Power of the blocks that rest in CHRYSALIS, in W; a block's share is a free value (R399; log entry 163). -/
def State.restWatts (s : State) : Nat := ((s.blocks.filter (fun e => e.2.pstate == .chrysalis)).map (fun e => Config.restWatts e.1)).sum

/-- The device is in the QUIESCE state of DRAIN, and no wave has used a stage for 10 s (R399). -/
def State.restedLong (s : State) : Bool :=
  s.dev.quiesced && s.dev.waves == [] && decide (10000000 ≤ (s.dev.time - s.dev.lastWave).toNat)

/-- One of the three conditions under which a block is ordered into DIAPAUSE (R399). -/
def State.mayDiapause (s : State) (b : Nat) : Bool :=
  s.stageless b || decide (s.power.capW.toNat < 3000 + s.restWatts) || s.restedLong

def execBsPorderDiapause (b : Fin 1024) (s : State) : Out :=
  let x := s.block b.val
  if s.mayDiapause b.val ∧ x.pstate = .chrysalis ∧ x.step = 0 ∧ !x.ramping ∧ !x.tied ∧ !x.feeding ∧ (blockTiles b.val).all (fun t => (s.tile t).restable) then
    .next (startShutdown b.val .diapause s)
  else .next s

/-- A tied block goes DARK only by a short (R414). -/
def execBsPorderDark (b : Fin 1024) (s : State) : Out :=
  if (s.block b.val).tied then .next s else .next (darkBlock b.val s)

/-! ## The generator (R390) -/

/-- No router or boundary FIFO of a field holds a flit; its rim interfaces hold none between two rows (log entry 150). -/
def State.fieldQuiet (s : State) (f : Nat) : Bool :=
  s.tiles.all (fun e => e.1 / 1024 != f || (e.2.router.bufs == [] && e.2.router.fifos == [] && e.2.router.outbox == []))

/-- Every block of the field is in CHRYSALIS or deeper. -/
def State.fieldAsleep (s : State) (f : Nat) : Bool :=
  (List.range 16).all (fun i => let b := s.block (16 * f + i)
    (b.pstate == .chrysalis || b.pstate == .diapause || b.pstate == .dark) && !b.ramping)

def execGeneratorStop (f : Fin 64) (s : State) : Out :=
  let x := s.field f.val
  if x.genRunning ∧ x.stopDelay ≠ 0 ∧ s.fieldAsleep f.val ∧ s.fieldQuiet f.val then
    .next (s.putField f.val { x with genRunning := false })
  else .next s

end Sys2Proof.Machine
end

