-- ==== Sys2Proof/Machine/Power.lean ====
section
/-! DEFINITION. Power delivery: the 48 V input, rails, segments, the power budget, current reporting, and the sequence by
which the device loses its rails (R389, R405 to R415, R419, R421 to R429, R442, R444, R476, R495, R496). -/

namespace Sys2Proof.Machine

/-! ## Losing power (R407, R442, R444, R476) -/

/-- Whole minutes of the ledger. -/
def minutes (us : Nat) : Nat := us / 60000000

/-- The wear ledger's journal body: each field's bins, then the minutes. -/
def wearBody (s : State) : List Byte :=
  (List.range 64).flatMap (fun f => (List.range 5).flatMap (fun b => bytesOf 4 (Tbl.get 0 (s.field f).bins b))) ++
  leBytes 4 (minutes s.wear.operatingUs) ++ leBytes 4 (minutes s.wear.boostUs) ++ leBytes 4 (minutes s.wear.hotUs)

def writeWear (s : State) : State := journalAdd kindWear 0 (wearBody s) s

def execWearLedgerWrite (s : State) : Out := .next (writeWear s)

/-- Every open record is committed (R407, step 3). -/
def commitAll (s : State) : State :=
  { s with journal := { s.journal with records := s.journal.records.map (fun r => { r with committed := true }) } }

/-- What a field keeps over a loss of its rail: what the journal and the board hold. -/
def darkField (x : FieldCtl) : FieldCtl :=
  { spareMap := x.spareMap, retired := x.retired, bins := x.bins, excLow := x.excLow, excPeak := x.excPeak,
    breaker := x.breaker, retryUsed := x.retryUsed, railRetired := x.railRetired, phasesFailed := x.phasesFailed,
    lockstepTimes := x.lockstepTimes }

/-- What a block keeps: failed segments and retired sensors, which the journal holds. -/
def darkBlockRecord (x : Block) : Block :=
  { segFailed := x.segFailed, tied := x.tied, skip := x.skip, feeding := x.feeding, diodeRetired := x.diodeRetired,
    ringRetired := x.ringRetired, capped := x.capped, model := x.model }

/-- What of the device manager the loss of stacks, slabs and links leaves: the configuration, the keys and the roles'
records, but no session, image, placement or letter (R476). -/
def darkDev (d : Dev) : Dev :=
  { time := d.time, member := d.member, standbyLost := d.standbyLost, activeKeeper := d.activeKeeper, profile := d.profile,
    nextProfile := d.nextProfile, csrErr := d.csrErr, csrAddr := d.csrAddr, distGen := d.distGen, keeperTo := d.keeperTo,
    expressTenant := d.expressTenant, nextTenant := d.nextTenant, favoured := d.favoured, slotUs := d.slotUs, quotas := d.quotas, receipts := d.receipts,
    receiptsOut := d.receipts.length,
    retries := d.retries, keeperStore := d.keeperStore, tenantKeys := d.tenantKeys, salts := d.salts, wrapKeys := d.wrapKeys,
    authImages := d.authImages, authSeq := d.authSeq, sealState := d.sealState, sealBreaks := d.sealBreaks,
    sealTime := d.sealTime, resealArmed := d.resealArmed, resealAt := d.resealAt, j7 := d.j7, loopClosed := d.loopClosed, measures := d.measures, trailLooks := d.trailLooks,
    adapts := d.adapts, arrivals := d.arrivals }

/-- A firmware agent without power: an instance whose new slot pointer is journalled comes up on that slot; the lines of a
staging that has not ended are lost. -/
def darkAgent (x : FwAgent) : FwAgent :=
  { x with
    active := x.pendingInst.foldl (fun m i => Tbl.set false m i (!Tbl.get false m i)) x.active
    newer := x.newer ++ x.pendingInst ++ x.booting.toList
    staged := [], pendingInst := [], booting := none, letter := none, onMgmt := false }

/-- A stack without power: a retired one stays retired. -/
def darkStack (x : Stack) : Stack := if x.st == (4 : BitVec 3) then { st := 4 } else {}

/-- Every rail but the keepers' off: fields, memory wafer, stacks, links (R407, step 4). -/
def railsOff (s : State) : State :=
  { s with
    tiles := []
    blocks := Tbl.mapV {} darkBlockRecord s.blocks
    fieldCtls := Tbl.mapV {} darkField s.fieldCtls
    stackCtls := Tbl.mapV {} darkStack s.stackCtls
    chiplets := Tbl.mapV {} (fun (x : Chiplet) => { retired := x.retired }) s.chiplets
    ports := []
    fw := Tbl.mapV {} darkAgent s.fw
    dev := darkDev s.dev
    power := { s.power with otherRailsOn := false, watts := 0 } }

/-- The shutdown record: cause, and the sequence number of the last record before it (R482). -/
def shutdownRecord (cause : Byte) (s : State) : State :=
  journalAdd kindShutdown 0 (cause :: bytesOf 8 (s.journal.nextSeq - 1)) s

/-- Shut down: the wear ledger and the shutdown record are written, the journal is committed, the rails go off. Causes: 1
power loss, 2 hard shutdown, 3 removal. -/
def shutDown (cause : Byte) (s : State) : State :=
  let s1 := commitAll (shutdownRecord cause (writeWear s))
  { railsOff s1 with bring := { warmable := decide (cause = 1 ∨ cause = 2), hardShutdown := decide (cause = 2), keepersUp := true } }

/-! ## The input (R405 to R407, R496, R557) -/

def execPrechargeMate (straps : BitVec 4) (s : State) : Out :=
  .next { s with power := { s.power with precharge := true }, dev := { s.dev with member := straps } }

/-- The main switch closes when the capacitance is charged and presence has mated (R406). -/
def closeMain (p : Power) : Power := { p with mainClosed := p.charged && p.presence }

def execPrechargeComplete (s : State) : Out :=
  if s.power.precharge then .next { s with power := closeMain { s.power with charged := true } } else .next s

def execPresenceMate (s : State) : Out := .next { s with power := closeMain { s.power with presence := true } }

/-- PRESENCE_OPEN: the main switch opens; once the rails were on, a power loss follows (R496). -/
def execPresenceOpen (s : State) : Out :=
  let s1 := { s with power := { s.power with presence := false, mainClosed := false, charged := false } }
  .next (if s.power.otherRailsOn then shutDown 1 s1 else s1)

/-- INPUT_OUT_OF_RANGE: below 40 V or above 60 V. -/
def execInputOutOfRange (vin : BitVec 16) (s : State) : Out :=
  if vin.toNat < 4000 ∨ vin.toNat > 6000 then
    .next (shutDown 1 { s with power := { s.power with vin := vin, outOfRange := true, mainClosed := s.power.mainClosed && decide (vin.toNat < 4000) } })
  else .next s

/-! ## Segments and phases (R410, R413) -/

/-- Bits set in a byte. -/
def popCount (b : Byte) : Nat := ((List.range 8).filter (bitAt b)).length

/-- The blocks that tie to a block in its row's ring (R413). -/
def ringNeighbours (b : Nat) : List Nat := [b / 4 * 4 + (b + 1) % 4, b / 4 * 4 + (b + 3) % 4]

/-- Segments of a block fail or are retired (R413): one is opened; two or more tie the block to its neighbours at half rate. -/
def failSegments (b : Nat) (m : Byte) (s : State) : State :=
  let s1 := s.updBlock b (fun y => { y with segFailed := m })
  if popCount m ≥ 2 then
    (ringNeighbours b).foldl (fun s n => s.updBlock n (fun y => { y with feeding := true }))
      (s1.updBlock b (fun y => { y with tied := true, skip := true }))
  else s1

/-- The body of a segment's retirement record. -/
def segmentBody (m : Byte) : List Byte := [2, m]

/-- SEGMENT_CHECK: newly failed segments are journalled and opened. -/
def execSegmentCheck (b : Fin 1024) (failed : Byte) (s : State) : Out :=
  let m := (s.block b.val).segFailed ||| failed
  if m = (s.block b.val).segFailed then .next s
  else .next (failSegments b.val m (journalAdd kindRetirement (retireKey 2 b.val) (segmentBody m) s))

/-- Lower a field's target by one step (R423, R424). -/
def lowerTarget (x : FieldCtl) : FieldCtl :=
  setClock { x with clkTarget := BitVec.ofNat 11 (legalMhz (legalMhz x.clkTarget.toNat - 25)) }

/-- Continuous rating of a field rail in mA (R408, R410). -/
def railRating (x : FieldCtl) : Nat := if x.phasesFailed = 0 then 500000 else 437000

/-- POWER_CONTROLLER_TAKEOVER: the twin runs the stages; no rail changes (R411). -/
def execPowerControllerTakeover (s : State) : Out :=
  match s.power.active with
  | none => .next s
  | some p =>
    let q : Fin 2 := 1 - p
    .next { s with power := { s.power with
      active := some q
      twinOk := false
      takeovers := Tbl.upd 0 s.power.takeovers q.val (fun n => satAdd n 1) } }

/-! ## Droops (R389, R415) -/

def execRailDroop (f : Fin 64) (cycles : BitVec 16) (ended : Bool) (s : State) : Out :=
  .next (s.updField f.val (fun x =>
    if x.genRunning then { x with stretching := !ended, stretch := satAdd x.stretch cycles.toNat } else x))

def execDroopEventLog (b : Fin 1024) (s : State) : Out :=
  .next (journalAdd kindPower (BitVec.ofNat 32 b.val) [2] s)

/-! ## The power budget (R422 to R425, R435) -/

/-- Inlet term in W, from 0.01 °C units (R435). -/
def inletTerm (t : Int) : Nat :=
  if t ≤ 3000 then 20000 else if t ≤ 4000 then (20000 - 4 * (t - 3000)).toNat else max 3000 (16000 - 10 * (t - 4000)).toNat

/-- The lower of the two meters (R434). -/
def Coolant.flow (c : Coolant) : Nat := min c.flowIn.toNat c.flowOut.toNat

/-- Flow term in W (R435). -/
def flowTerm (flow : Nat) : Nat := if flow < 4000 then 20000 * flow / 4000 else 20000

/-- The alarm under which no peak credit is spent: the flow alarm, or the flow stop (R435). -/
def Coolant.alarm (c : Coolant) : Bool := c.flowAlarm || c.flowStop

/-- The coolant's limit of the sustained power, before the outlet term. -/
def Coolant.baseTerm (c : Coolant) : Nat := min (inletTerm c.inlet.toInt) (flowTerm c.flow)

/-- The sustained limit in W (R423). -/
def State.sustained (s : State) : Nat := min (min 20000 s.power.capW.toNat) (min s.coolant.baseTerm s.coolant.outletTermW)

/-- The peak limit in W: 24.5 kW or the cap, 510 A at the input voltage, the sustained limit under a coolant alarm (R405,
R423, R435). -/
def State.peak (s : State) : Nat :=
  let p := min (min 24500 s.power.capW.toNat) (510 * s.power.vin.toNat / 100)
  if s.coolant.alarm then min p s.sustained else p

/-- Change every field controller. -/
def updFields (g : FieldCtl → FieldCtl) (s : State) : State := (List.range 64).foldl (fun s f => s.updField f g) s

/-- Lower every field's target by an equal step. -/
def lowerAll (s : State) : State := updFields lowerTarget s

/-- Peak credit is being spent: input power between the limits, and a cap above the sustained limit (R424, R435). -/
def State.spending (s : State) : Bool :=
  decide (s.sustained < s.power.watts) && decide (s.power.watts ≤ s.peak) && decide (s.sustained < s.power.capW.toNat)

/-- One millisecond of the peak credit (R424): spent between the limits, refilled at a tenth of the rate at or below 90 %
of the sustained limit. -/
def creditTick (s : State) : Power :=
  let p := s.power
  if s.spending then { p with credit := p.credit - 1 }
  else if 10 * p.watts ≤ 9 * s.sustained then
    if p.refillTicks + 1 ≥ 10 then { p with refillTicks := 0, credit := min 10000 (p.credit + 1) } else { p with refillTicks := p.refillTicks + 1 }
  else p

/-- Boost ends on every field once its conditions do (R425). -/
def endBoost (s : State) : State :=
  if s.mayBoost || !s.fieldCtls.any (fun e => e.2.boostGrant) then s
  else updFields (fun x => if x.boostGrant then setClock { x with boostGrant := false } else x) s

/-- POWER_MEASURE: the input, the credit, and the trims that hold the peak limit and the rails' ratings (R423); boost ends with its
conditions (R425). -/
def execPowerMeasure (watts : BitVec 16) (vin : BitVec 16) (s : State) : Out :=
  let s1 := { s with power := { s.power with watts := watts.toNat, vin := vin, outOfRange := decide (vin.toNat < 4000 ∨ vin.toNat > 6000) } }
  let s2 := endBoost { s1 with power := { creditTick s1 with sustainedW := BitVec.ofNat 16 s1.sustained } }
  if watts.toNat > s2.peak then .next (lowerAll s2)
  else .next (updFields (fun x => if x.measuredMa.toNat > railRating x then lowerTarget x else x) s2)

/-- PEAK_CREDIT_EXHAUSTED: every target falls by a step, and boost ends with the credit (R424, R425). -/
def execPeakCreditExhausted (s : State) : Out :=
  if s.power.credit = 0 then
    .next (updFields (fun x => lowerTarget { x with boostGrant := false }) s)
  else .next s

/-! ## Current reporting (R427, R428) -/

/-- A block stands above 95 °C, or a field above 1,000 MHz. -/
def State.anyHot (s : State) : Bool := s.fieldCtls.any (fun e => e.2.throttling)
def State.anyBoost (s : State) : Bool := s.fieldCtls.any (fun e => decide (e.2.mhz.toNat > 1000))

/-- One microsecond of the wear ledger (R444). -/
def wearTick (s : State) : Wear :=
  let w := s.wear
  if s.power.mainClosed then
    { operatingUs := w.operatingUs + 1, boostUs := w.boostUs + s.anyBoost.toNat, hotUs := w.hotUs + s.anyHot.toNat }
  else w

/-- CURRENT_SAMPLE: one microsecond passes; each field's and each ACTIVE block's current is recorded (R416, R427). -/
def execCurrentSample (fieldMa : List (Fin 64 × BitVec 32)) (blockMa : List (Fin 1024 × BitVec 16)) (s : State) : Out :=
  let s1 := { s with wear := wearTick s, dev := { s.dev with time := s.dev.time + 1 } }
  let s2 := fieldMa.foldl (fun s e => s.updField e.1.val (fun x => { x with measuredMa := e.2 })) s1
  .next (blockMa.foldl (fun s e => s.updBlock e.1.val (fun x =>
    if x.pstate = .active then { x with lastMa := if x.skip then BitVec.ofNat 16 (min e.2.toNat 20000) else e.2 } else x)) s2)

/-- Replace bytes of a byte string. -/
def putBytes (bs : List Byte) (off : Nat) (v : List Byte) : List Byte := bs.take off ++ v ++ bs.drop (off + v.length)

/-- Payload bytes of lines. -/
def payload (ls : List Line) : List Byte := ls.flatMap (fun l => (bytesOf 72 l).take 64)

/-- BYTES parcels of a byte string, the last padded with 0. -/
def bytesLines (bs : List Byte) : List Line := (chunks 64 (bs.length + 1) bs).map (fun c => mkParcel c [] fmtBYTES 0)

/-- A record of a number of bytes from measured lines. -/
def recordBytes (n : Nat) (ls : List Line) : List Byte := (payload ls ++ List.replicate n 0).take n

/-- Keep the newest `n` of a ring. -/
def ringPush {α : Type} (n : Nat) (r : List α) (x : α) : List α := (r ++ [x]).drop (r.length + 1 - n)

/-- Offsets in a current record of the domains without power: rail and current of a field whose rail is off, and DARK blocks; of the
stacks and links while their rails are off (R427, R428). -/
def State.unpowered (s : State) : List Nat :=
  ((List.range 64).filter (fun f => !(s.field f).railOn)).flatMap (fun f => [64 + 2 * f, 192 + 2 * f]) ++
  (if s.power.otherRailsOn then [] else 16 :: (List.range 36).map (320 + 2 * ·)) ++
  ((List.range 1024).filter (fun b => (s.block b).pstate == .dark)).map (448 + 2 * ·)

/-- CURRENT_RECORD: the measured record, with the device's own time, number, flags, credit and breakers (R428). -/
def execCurrentRecord (record : List Line) (s : State) : Out :=
  let p := s.power
  let flags := s.spending.toNat + 2 * (s.fieldCtls.any (fun e => e.2.boostGrant)).toNat +
    4 * (decide (p.capW.toNat < 20000)).toNat
  let brk := (((List.range 64).filter (fun f => (s.field f).breaker)).map (2 ^ ·)).sum
  let b1 := putBytes (recordBytes 2496 record) 0 (bytesOf 8 s.dev.time ++ bytesOf 4 p.currentSeq ++ bytesOf 2 p.vin)
  let b2 := putBytes b1 20 (leBytes 2 flags ++ leBytes 2 (p.credit / 10) ++ leBytes 8 brk ++ List.replicate 32 0)
  let b3 := s.unpowered.foldl (fun b o => putBytes b o [0, 0]) (putBytes b2 392 (List.replicate 56 0))
  .next { s with power := { p with
    currentRing := ringPush 60000 p.currentRing (p.currentSeq, bytesLines b3)
    currentSeq := p.currentSeq + 1 } }

end Sys2Proof.Machine
end

