-- ==== Sys2Proof/Machine/Thermal.lean ====
section
/-! DEFINITION. Slab refresh, block sensors and thermal limits, coolant, flow stop, thermal records and cycles (R104 to R106,
R434 to R443, R445). -/

namespace Sys2Proof.Machine

/-! ## Refresh (R104 to R106) -/

/-- SLAB_REFRESH_WINDOW: one slot a window, two while doubled; a slot that no free cycle gave is stolen; each slot scrubs
one group of 8 lines in rotation, and each scrubbed group that held a correctable error counts one corrected read (R106, R107). -/
def execSlabRefreshWindow (t : TileId) (freeSlots : BitVec 7) (corrected : Fin 3) (s : State) : Out :=
  if !(s.block (tileBlock t)).awake then .next s
  else .next (s.updTile t (fun x =>
    let n := if x.double then 2 else 1
    { x with
      steals := satAdd x.steals (n - freeSlots.toNat)
      scrubGroup := (x.scrubGroup + n) % 8192
      eccSlab := satAdd x.eccSlab (min corrected.val n) }))

/-! ## Block readings (R436, R438) -/

/-- The block's reading: the higher of its sensors that are not retired; the model value plus 6 °C when both are. -/
def Block.reading (x : Block) : Nat :=
  if x.diodeRetired && x.ringRetired then x.model.toNat + 6
  else if x.diodeRetired then x.ring.toNat
  else if x.ringRetired then x.diode.toNat
  else max x.diode.toNat x.ring.toNat

/-- TJMAX of a field. -/
def State.tjmax (s : State) (f : Nat) : Nat := ((List.range 16).map (fun i => (s.block (16 * f + i)).reading)).foldl max 0

/-- DOUBLE_REFRESH_END: the block's reading has stayed at or below 93 °C. -/
def execDoubleRefreshEnd (b : Fin 1024) (s : State) : Out :=
  if (s.block b.val).reading ≤ 93 then .next (updTiles (blockTiles b.val) (fun x => { x with double := false }) s) else .next s

/-- The bin of an amplitude (R443). -/
def excursionBin (k : Nat) : Nat := if k < 30 then 0 else if k < 40 then 1 else if k < 50 then 2 else if k < 60 then 3 else 4

/-- Count a cycle in its bin. -/
def countCycle (k : Nat) (x : FieldCtl) : FieldCtl :=
  { x with bins := Tbl.set (0 : Word) x.bins (excursionBin k) (Tbl.get (0 : Word) x.bins (excursionBin k) + 1) }

/-- Lowest value and peak of the excursion being followed. -/
def setCycle (low peak : Nat) (x : FieldCtl) : FieldCtl :=
  { x with excLow := some (BitVec.ofNat 8 low), excPeak := BitVec.ofNat 8 peak }

/-- Follow TJMAX through its excursions (R443): a rise of 20 K above the lowest value, then a fall of 20 K from the peak. -/
def followFrom (v low peak : Nat) (x : FieldCtl) : FieldCtl :=
  if peak < low + 20 then (if v < low then setCycle v v x else setCycle low (max peak v) x)
  else if v + 20 ≤ peak then setCycle v v (countCycle (peak - low) x)
  else setCycle low (max peak v) x

def followCycle (v : Nat) (x : FieldCtl) : FieldCtl :=
  match x.excLow with
  | none => setCycle v v x
  | some l => followFrom v l.toNat x.excPeak.toNat x

/-- TJMAX as the field holds it, with its throttling bit (R436, R437). -/
def noteTjmax (v : Nat) (x : FieldCtl) : FieldCtl :=
  { x with tjmax := BitVec.ofNat 8 (min v 255), throttling := decide (v > 95) }

/-- Set the thermal limit. -/
def setThermal (m : Nat) (x : FieldCtl) : FieldCtl := setClock { x with thermalMhz := BitVec.ofNat 11 m }

/-- Above 85 °C the limit is at most 1,000 MHz (R437). -/
def capThermal (v : Nat) (x : FieldCtl) : FieldCtl :=
  if v > 85 ∧ x.thermalMhz.toNat > 1000 then setThermal 1000 x else x

/-- The field takes TJMAX: its cycle, its throttling bit and the 85 °C cap (R436, R437, R443). -/
def takeTjmax (f : Nat) (s : State) : State :=
  s.updField f (fun x => capThermal (s.tjmax f) (noteTjmax (s.tjmax f) (followCycle (s.tjmax f) x)))

/-- A sensor's new value, or its retirement. -/
def takeSensor (old : Byte) (retired : Bool) : Option Byte → Byte × Bool
  | some v => (if retired then old else v, retired)
  | none => (old, true)

/-- Both sensors retired: the block is capped by half-rate skipping (R438). -/
def capBlock (x : Block) : Block := if x.diodeRetired && x.ringRetired then { x with capped := true, skip := true } else x

/-- Journal the sensors a change retired. -/
def journalSensors (b : Nat) (old new : Block) (s : State) : State :=
  if old.diodeRetired = new.diodeRetired ∧ old.ringRetired = new.ringRetired then s
  else journalAdd kindRetirement (retireKey 6 b) [6, BitVec.ofNat 8 (new.diodeRetired.toNat + 2 * new.ringRetired.toNat)] s

/-- Hard shutdown (R442): the event is journalled with the block, its readings and the coolant state. -/
def hardShutdown (b : Nat) (s : State) : State :=
  let x := s.block b
  let c := s.coolant
  shutDown 2 (journalAdd kindPower (BitVec.ofNat 32 b) ([3, x.diode, x.ring, x.model] ++ bytesOf 2 c.flowIn ++ bytesOf 2 c.flowOut ++
    bytesOf 2 c.inlet ++ bytesOf 2 c.outlet) s)

/-- SENSOR_SAMPLE: the sensors and the model; a sensor out of range is retired; above 95 °C the slabs refresh twice; two
samples at 110 °C shut the device down. -/
def execSensorSample (b : Fin 1024) (diode ring model : Option Byte) (s : State) : Out :=
  let x := s.block b.val
  let d := takeSensor x.diode x.diodeRetired diode
  let r := takeSensor x.ring x.ringRetired ring
  let y := capBlock { x with diode := d.1, diodeRetired := d.2, ring := r.1, ringRetired := r.2, model := model.getD x.model }
  let z := { y with hotSamples := if y.reading ≥ 110 then y.hotSamples + 1 else 0 }
  let s1 := journalSensors b.val x z (s.putBlock b.val z)
  let s2 := if z.reading > 95 then updTiles (blockTiles b.val) (fun t => { t with double := true }) s1 else s1
  let s3 := takeTjmax (b.val / 16) s2
  .next (if z.hotSamples ≥ 2 then hardShutdown b.val s3 else s3)

/-- THERMAL_LIMIT_STEP (R437): a step down above 95 °C, a step up at or below 93 °C, held between. -/
def execThermalLimitStep (f : Fin 64) (s : State) : Out :=
  .next (s.updField f.val (fun x =>
    let m := x.thermalMhz.toNat
    if x.tjmax.toNat > 95 then setThermal (max 200 (m - 25)) x
    else if x.tjmax.toNat ≤ 93 then
      setThermal (min (if x.tjmax.toNat > 85 then 1000 else 1150) (m + 25)) x
    else x))

/-- Distance of two readings. -/
def gap (a b : Byte) : Nat := max a.toNat b.toNat - min a.toNat b.toNat

/-- SENSOR_SUSPECT: the two sensors differ by more than 4 °C. -/
def execSensorSuspect (b : Fin 1024) (s : State) : Out :=
  .next (s.updBlock b.val (fun x =>
    if !x.diodeRetired && !x.ringRetired && decide (gap x.diode x.ring > 4) then { x with suspect := true, suspectSamples := 0 } else x))

/-- SENSOR_MODEL_COMPARE (R438): the sensors that stand against the model are retired; 1 s of agreement, 10,000
comparisons, ends the suspicion. -/
def execSensorModelCompare (b : Fin 1024) (s : State) : Out :=
  let x := s.block b.val
  if !x.suspect then .next s
  else
    let d := !x.diodeRetired && decide (gap x.diode x.model > 6)
    let r := !x.ringRetired && decide (gap x.ring x.model > 6)
    let y := capBlock { x with diodeRetired := x.diodeRetired || d, ringRetired := x.ringRetired || r }
    let z := if d || r then { y with suspectSamples := 0 }
      else if y.suspectSamples + 1 ≥ 10000 then { y with suspect := false, suspectSamples := 0 }
      else { y with suspectSamples := y.suspectSamples + 1 }
    .next (takeTjmax (b.val / 16) (journalSensors b.val x z (s.putBlock b.val z)))

/-! ## Coolant (R433 to R435, R439 to R441) -/

/-- Inlet temperature in force, and the outlet's: 40 °C and 52 °C once a sensor has failed (R434). -/
def coolantTemps (failed : Bool) (inlet outlet : Option (BitVec 16)) : BitVec 16 × BitVec 16 :=
  match failed, inlet, outlet with
  | false, some i, some o => (i, o)
  | _, _, _ => (4000, 5200)

/-- METER_SUSPECT: the meters differ by more than 10 % of the lower reading. -/
def execMeterSuspect (s : State) : Out :=
  let c := s.coolant
  if 10 * (max c.flowIn.toNat c.flowOut.toNat - c.flow) > c.flow then .next { s with coolant := { c with meterSuspect := true } } else .next s

/-- OUTLET_TERM_STEP: the term falls from the lower of the other two, and rises up to it (R435). -/
def execOutletTermStep (s : State) : Out :=
  let c := s.coolant
  let c' := if c.outlet.toInt > 5200 then { c with outletTermW := min c.outletTermW c.baseTerm - 1000, outletActing := true }
    else if c.outlet.toInt < 5100 ∧ c.outletActing then
      let w := min c.baseTerm (c.outletTermW + 1000)
      { c with outletTermW := if w ≥ c.baseTerm then 20000 else w, outletActing := decide (w < c.baseTerm) }
    else c
  let s1 := { s with coolant := c' }
  .next { s1 with power := { s1.power with sustainedW := BitVec.ofNat 16 s1.sustained } }

/-- The inlet is within R433. -/
def Coolant.inletGood (c : Coolant) : Bool := decide (1700 ≤ c.inlet.toInt) && decide (c.inlet.toInt ≤ 4000)

def execFlowAlarmClear (s : State) : Out :=
  if s.coolant.flow ≥ 3400 then .next { s with coolant := { s.coolant with flowAlarm := false } } else .next s

/-! ## Thermal records (R444, R445) -/

/-- Cycles to the end of life of each bin, in parts of 6,000,000. -/
def binWeight : Nat → Nat
  | 0 => 3
  | 1 => 10
  | 2 => 30
  | 3 => 75
  | _ => 200

/-- Used life in parts of 6,000,000: the larger of the two terms of R444. -/
def usedLife (s : State) : Nat :=
  let cyc := ((List.range 64).map (fun f => ((List.range 5).map (fun b => (Tbl.get 0 (s.field f).bins b).toNat * binWeight b)).sum)).foldl max 0
  max cyc (2 * (minutes s.wear.operatingUs + 3 * minutes s.wear.hotUs))

/-- Remaining life in 0.01 % units. -/
def lifeLeft (s : State) : Nat := 10000 * (6000000 - usedLife s) / 6000000

/-- Count over all fields of one bin. -/
def binTotal (s : State) (b : Nat) : Nat := (s.fieldCtls.map (fun e => (Tbl.get 0 e.2.bins b).toNat)).sum

/-- The 192 bytes of a thermal record. -/
def thermalBytes (s : State) : List Byte :=
  let c := s.coolant
  let flags := c.flowAlarm.toNat + 2 * c.flowStop.toNat + 4 * (!c.inletGood).toNat + 8 * c.meterSuspect.toNat + 16 * c.sensorFailed.toNat + 32 * c.outletActing.toNat
  let thr := (((List.range 64).filter (fun f => decide ((s.field f).thermalMhz.toNat < 1150))).map (2 ^ ·)).sum
  let retired := (s.blocks.map (fun e => e.2.diodeRetired.toNat + e.2.ringRetired.toNat)).sum
  bytesOf 8 s.dev.time ++ bytesOf 4 s.power.thermalSeq ++ bytesOf 2 c.inlet ++ bytesOf 2 c.outlet ++ bytesOf 2 c.flowIn ++
  bytesOf 2 c.flowOut ++ bytesOf 2 s.power.sustainedW ++ leBytes 2 flags ++ leBytes 8 thr ++
  (List.range 64).map (fun f => (s.field f).tjmax) ++ (List.range 5).flatMap (fun b => leBytes 4 (binTotal s b)) ++
  leBytes 4 (minutes s.wear.operatingUs) ++ leBytes 4 (minutes s.wear.boostUs) ++ leBytes 2 (lifeLeft s) ++ leBytes 2 retired ++
  List.replicate 64 0

/-- THERMAL_RECORD: one record into the ring of 600. -/
def execThermalRecord (s : State) : Out :=
  let p := s.power
  .next { s with power := { p with
    thermalRing := ringPush 600 p.thermalRing (p.thermalSeq, bytesLines (thermalBytes s))
    thermalSeq := p.thermalSeq + 1 } }

end Sys2Proof.Machine
end

