-- ==== Sys2Proof/Machine/Letters.lean ====
section
/-! DEFINITION. Letters as they arrive: the checks in their order, the bridge, acceptance, refusals and deadlines
(R331 to R340, R349, R350, R359, R475, R498, R507). -/

namespace Sys2Proof.Machine

/-! ## The header (R331 to R333) -/

/-- Header bytes 0 to 27. -/
def headerBytes (op : BitVec 16) (l : Letter) : List Byte :=
  bytesOf 2 l.version ++ bytesOf 2 op ++ bytesOf 4 l.id ++ bytesOf 2 l.session ++ bytesOf 2 l.tenant ++ bytesOf 2 l.flags ++
  bytesOf 2 l.paramLen ++ [l.deadline, l.role] ++ bytesOf 4 l.trainLines ++ bytesOf 6 l.reserved

/-- The CRC a letter must carry. -/
def letterCrc (op : BitVec 16) (l : Letter) : Word := crc32c (headerBytes op l ++ l.params)

def letterCrcOk (op : BitVec 16) (l : Letter) : Bool := l.crc == letterCrc op l

def letterKey (l : Letter) : LetterKey := ⟨l.port, l.id⟩
def letterDevice (l : Letter) : BitVec 4 := fieldAt l.flags 8 4
def letterStream (l : Letter) : Bool := bitAt l.flags 1
def letterTenant (l : Letter) : BitVec 12 := fieldAt l.tenant 0 12

/-- A field of the parameters. -/
def letterNum (l : Letter) (off n : Nat) : Nat := leAt l.params off n
def letterWord (l : Letter) (off : Nat) : Word := BitVec.ofNat 32 (letterNum l off 4)

/-- `n` parameter bytes from `off` are 0. -/
def letterZeros (l : Letter) (off n : Nat) : Bool := ((l.params.drop off).take n).all (· == 0)

/-- A train of a format: the stated count, every parcel with a good CRC and the format (R339). -/
def letterTrainOk (l : Letter) (fmt : Option Byte) : Bool :=
  decide (l.trainLines.toNat ≤ 65536) && l.train.length == l.trainLines.toNat &&
  (match fmt with
    | none => l.train == []
    | some f => l.train.all (fun p => parcelCheck [f] p == none))

/-- Words of a U32 or F32 train. -/
def letterWords (l : Letter) : List Word := l.train.flatMap Line.words

/-- A train of `n` words: its parcels, and 0 beyond the count (R339). -/
def letterWordTrain (l : Letter) (fmt : Byte) (n : Nat) : Bool :=
  letterTrainOk l (some fmt) && l.train.length == (n + 15) / 16 && ((letterWords l).drop n).all (· == 0)

/-! ## Opcodes (R341 to R348) -/

def opOpen : BitVec 16 := 0x0101
def opAppend : BitVec 16 := 0x0102
def opGenerate : BitVec 16 := 0x0103
def opPark : BitVec 16 := 0x0104
def opResume : BitVec 16 := 0x0105
def opFork : BitVec 16 := 0x0106
def opTrim : BitVec 16 := 0x0107
def opClose : BitVec 16 := 0x0108
def opMigrateOut : BitVec 16 := 0x0109
def opMigrateIn : BitVec 16 := 0x010A
def opAdapt : BitVec 16 := 0x010B
def opStageImage : BitVec 16 := 0x0201
def opLoadPlacement : BitVec 16 := 0x0202
def opCommitSwap : BitVec 16 := 0x0203
def opAdapterLoad : BitVec 16 := 0x0204
def opLodgePolicy : BitVec 16 := 0x0205
def opStatus : BitVec 16 := 0x0301
def opTelemetry : BitVec 16 := 0x0302
def opDistances : BitVec 16 := 0x0303
def opPowerCap : BitVec 16 := 0x0304
def opSetProfile : BitVec 16 := 0x0305
def opDrain : BitVec 16 := 0x0306
def opFwStage : BitVec 16 := 0x0401
def opFwActivate : BitVec 16 := 0x0402
def opRetire : BitVec 16 := 0x0403
def opRecalibrate : BitVec 16 := 0x0404
def opJournalRead : BitVec 16 := 0x0405
def opDiag : BitVec 16 := 0x0406
def opAttest : BitVec 16 := 0x0501
def opRoleOpen : BitVec 16 := 0x0502
def opRoleClose : BitVec 16 := 0x0503
def opKeyEnrol : BitVec 16 := 0x0504
def opTenantKeys : BitVec 16 := 0x0505

/-- Every opcode with a meaning; all others are reserved (R349). -/
def knownOpcodes : List (BitVec 16) :=
  [opOpen, opAppend, opGenerate, opPark, opResume, opFork, opTrim, opClose, opMigrateOut, opMigrateIn, opAdapt, opStageImage,
   opLoadPlacement, opCommitSwap, opAdapterLoad, opLodgePolicy, opStatus, opTelemetry, opDistances, opPowerCap, opSetProfile,
   opDrain, opFwStage, opFwActivate, opRetire, opRecalibrate, opJournalRead, opDiag, opAttest, opRoleOpen, opRoleClose,
   opKeyEnrol, opTenantKeys]

/-- Letters served from step 4 to step 9 of bring-up (R475). -/
def servedEarly (op : BitVec 16) : Bool :=
  [opStatus, opAttest, opJournalRead, opRoleOpen, opRoleClose, opFwStage, opStageImage].contains op

/-! ## Rules of an opcode -/

/-- What SESSION must name. -/
inductive SessionNeed where
  | none
  | open
  | fresh
  | maybe
  deriving DecidableEq, Repr

/-- The checks a letter adds to the common ones: the role it needs, the SCOPE bit a maker letter needs (R506), its SESSION, PARAM_LEN, whether its parameters and its
train are good, then every later check in the order of R350 with its status; `early` are further checks of the role step. -/
structure LetterRule where
  role : Byte := 0
  scope : Option Nat := none
  session : SessionNeed := .none
  len : Nat := 0
  params : Bool := true
  train : Bool
  early : List (Bool × BitVec 16) := []
  later : List (Bool × BitVec 16) := []
  deriving DecidableEq, Repr

/-- A role is open on a port (R497, R499). -/
def State.roleOpen (s : State) (port : Nat) (role : Byte) : Bool :=
  role == 0 || (Tbl.get [] s.dev.roles port).any (fun r => r.maker == (role == 2))

/-- A maker role open on a port, with a SCOPE bit (R506). -/
def State.makerScope (s : State) (port : Nat) (b : Nat) : Bool :=
  (Tbl.get [] s.dev.roles port).any (fun r => r.maker && bitAt r.scope b)

/-- An ID is open, or held as the family ID of a live family (R301). -/
def State.sessionTaken (s : State) (n : BitVec 16) : Bool :=
  (s.session n.toNat).state != .free || (Tbl.get [] s.dev.families n.toNat) != []

/-- The session check of R350, step 7, with the status of a failure. -/
def sessionChecks (need : SessionNeed) (l : Letter) (s : State) : List (Bool × BitVec 16) :=
  let x := s.session l.session.toNat
  let mine := x.state != .free && x.tenant == letterTenant l
  match need with
  | .none => [(l.session != 0, 0x0106)]
  | .open => [(l.session == 0, 0x0106), (!mine, 0x0203)]
  | .fresh => [(l.session == 0, 0x0106), (s.sessionTaken l.session, 0x0106)]
  | .maybe => [(l.session != 0 && !mine, 0x0203)]

/-- Letters in flight on a port (R335). -/
def State.portLoad (s : State) (p : Fin 48) : Nat :=
  (s.dev.letters.filter (fun x => x.key.port == p)).length + (s.dev.forwarded.filter (fun f => f.2.2.port == p)).length

/-- The operation is not in the SCOPE of the maker role on the letter's port (R506). -/
def scopeBad (l : Letter) (r : LetterRule) (s : State) : Bool :=
  match r.scope with
  | some b => !s.makerScope l.port.val b
  | none => false

/-- Steps 5 to 11 of R350. -/
def commonChecks (op : BitVec 16) (l : Letter) (r : LetterRule) (s : State) : List (Bool × BitVec 16) :=
  [(decide (l.role.toNat > 2), 0x0104), (decide (l.role.toNat < r.role.toNat), 0x0201), (!s.roleOpen l.port.val l.role, 0x0202),
   (scopeBad l r s, 0x0201)] ++ r.early ++
  [(letterTenant l == 0, 0x0109),
   (s.dev.profile == 2 && letterTenant l != s.dev.expressTenant, 0x0208)] ++
  sessionChecks r.session l s ++
  [(l.flags &&& 0xF0FD != 0 || bitsAt l.tenant 12 4 != 0 || l.reserved != 0 || l.deadline == 0 || decide (l.deadline.toNat > 5), 0x0104),
   (l.paramLen.toNat != r.len || l.params.length != r.len || !r.params, 0x0104),
   (!r.train, 0x0105)] ++
  r.later ++
  [(decide (s.dev.deviceState = 1) && !servedEarly op, 0x0401),
   (decide (4096 ≤ s.portLoad l.port), 0x0405)]

/-- The first failing check. -/
def firstBad : List (Bool × BitVec 16) → Option (BitVec 16)
  | [] => none
  | (true, st) :: _ => some st
  | (false, _) :: cs => firstBad cs

/-! ## Acceptance, refusal and the bridge -/

/-- The record of a letter in flight. -/
def recordOf (op : BitVec 16) (l : Letter) (audit : Bool) : LetterRec :=
  { key := letterKey l, opcode := op, session := l.session, tenant := letterTenant l, deadline := l.deadline, role := l.role,
    stream := letterStream l, audit := audit, params := l.params, train := l.train }

/-- The final receipt of a letter that never came in flight. -/
def bareReceipt (op : BitVec 16) (l : Letter) (status : BitVec 16) (retry : Word) (s : State) : Receipt :=
  ⟨l.port, l.id, status, true, s.dev.member, 0, retry, op, l.session, [], []⟩

def refuseBare (op : BitVec 16) (l : Letter) (status : BitVec 16) (s : State) : State :=
  let p := retryFor status s
  sendReceipt (bareReceipt op l status p.1 p.2) p.2

/-- Letters that R507 audits: those that need the installer or maker role, and the role letters. -/
def audited (op : BitVec 16) (r : LetterRule) : Bool := r.role != 0 || op == opRoleOpen || op == opRoleClose

/-- A letter that claims an open role is the role's last use (R501), but a ROLE_OPEN restarts nothing (R499). -/
def touchRole (op : BitVec 16) (l : Letter) (s : State) : State :=
  if l.role = 0 ∨ op = opRoleOpen then s
  else s.updDev (fun d => { d with roles := Tbl.upd [] d.roles l.port.val (fun rs =>
    rs.map (fun r => if r.maker = (l.role == 2) then { r with lastUse := d.time } else r)) })

/-- The letter is in flight (R335). -/
def enterLetter (op : BitVec 16) (l : Letter) (r : LetterRule) (s : State) : State :=
  (touchRole op l s).updDev (fun d => { d with letters := d.letters ++ [recordOf op l (audited op r)] })

/-- A member of the group: this device, or one whose IDENT a port has taken (R523, R525). -/
def State.isMember (s : State) (m : BitVec 4) : Bool := m == s.dev.member || bitAt s.dev.members m.toNat

/-- A member reached over an UP port (R525). -/
def State.reaches (s : State) (m : BitVec 4) : Bool :=
  s.ports.any (fun p => p.2.st == .up && !p.2.host && p.2.peer == m)

/-- A letter as it stands on a port: header, parameters and train (R331, R339). -/
def letterBytes (op : BitVec 16) (l : Letter) : List Byte := headerBytes op l ++ bytesOf 4 l.crc ++ l.params ++ parcelBytes l.train

/-- The bridge sends a letter for another member on unchanged, or ends it itself (R335, R359). -/
def forwardLetter (op : BitVec 16) (l : Letter) (s : State) : State :=
  let m := letterDevice l
  if !s.isMember m then refuseBare op l 0x010C s
  else if !s.reaches m then refuseBare op l 0x0406 s
  else if 4096 ≤ s.portLoad l.port then refuseBare op l 0x0405 s
  else sendToward m (slotsOf 2 (letterBytes op l)) (s.updDev (fun d => { d with forwarded := d.forwarded ++ [(m, op, l)] }))

/-- A LETTER_ID is in flight on a port, whatever DEVICE it names (R335). -/
def State.inFlight (s : State) (k : LetterKey) : Bool :=
  s.dev.letters.any (fun r => r.key == k) || s.dev.forwarded.any (fun f => letterKey f.2.2 == k)

/-- Host ports accept letters from step 4 of bring-up on (R473, R475). -/
def State.accepting (s : State) : Bool := decide (4 ≤ s.bring.step)

/-! ## A split model (R382) -/

/-- The other members of the split that the placement in force is part of; only the member with the sampler leads (R382). -/
def State.splitMembers (s : State) : List (BitVec 4) :=
  match s.dev.placement with
  | some p => if p.stages.any (fun g => g.kind == 7) then Config.splitMembers p.imageId else []
  | none => []

/-- The lead of a split sends the matching session letters to the other members as letters of its own. -/
def leadLetter (op : BitVec 16) (l : Letter) (s : State) : State :=
  if bitsAt op 8 8 = 1 then
    s.updDev (fun d => { d with ownLetters := d.ownLetters ++ s.splitMembers.map (fun m => (m, op, l.session)) })
  else s

/-- Take a letter in: the checks of R350 in their order, then its action `act`. -/
def receive (op : BitVec 16) (l : Letter) (r : LetterRule) (act : LetterKey → State → State) (s : State) : State :=
  if !s.accepting then s
  else if !letterCrcOk op l then refuseBare op l 0x0101 s
  else if l.version ≠ 1 then refuseBare op l 0x0102 s
  else if s.inFlight (letterKey l) then refuseBare op l 0x0103 s
  else if letterDevice l ≠ s.dev.member then forwardLetter op l s
  else match firstBad (commonChecks op l r s) with
    | some st => finishLetter (letterKey l) st [] [] (enterLetter op l r s)
    | none => act (letterKey l) (leadLetter op l (enterLetter op l r s))

/-- The first step of a letter's action has begun (R334). -/
def progress (k : LetterKey) (s : State) : State := s.updLetter k (fun r => { r with progressed := true })

/-! ## Rows of their own -/

/-- LETTER_CRC_FAILURE: the receipt copies the fields received (R338). -/
def execLetterCrcFailure (opcode : BitVec 16) (l : Letter) (s : State) : Out :=
  if s.accepting && !letterCrcOk opcode l then .next (refuseBare opcode l 0x0101 s) else .next s

/-- LETTER_RESERVED_OPCODE (R349). -/
def execLetterReservedOpcode (opcode : BitVec 16) (l : Letter) (s : State) : Out :=
  if !s.accepting ∨ knownOpcodes.contains opcode then .next s
  else if !letterCrcOk opcode l then .next (refuseBare opcode l 0x0101 s)
  else .next (refuseBare opcode l 0x0102 s)

/-- LETTER_FORWARD: a letter for another member (R359), after the checks that R350 puts before DEVICE. -/
def execLetterForward (opcode : BitVec 16) (l : Letter) (s : State) : Out :=
  if !s.accepting ∨ letterDevice l = s.dev.member then .next s
  else if !letterCrcOk opcode l then .next (refuseBare opcode l 0x0101 s)
  else if l.version ≠ 1 || !knownOpcodes.contains opcode then .next (refuseBare opcode l 0x0102 s)
  else if s.inFlight (letterKey l) then .next (refuseBare opcode l 0x0103 s)
  else .next (forwardLetter opcode l s)

/-- The accepted receipt, with PROGRESS 0 (R337). -/
def sendAccepted (r : LetterRec) (s : State) : State :=
  (sendReceipt { receiptOf s r stAccepted false 0 [] [] with progress := 0 } s).updLetter r.key (fun x => { x with acceptedSent := true })

/-- A progress receipt; the accepted receipt goes before the first (R337). -/
def sendInterim (k : LetterKey) (train : List Line) (s : State) : State :=
  match s.letter k with
  | none => s
  | some r =>
    let s1 := if r.acceptedSent then s else sendAccepted r s
    sendReceipt (receiptOf s1 r stAccepted false 0 [] train) s1

/-- ACCEPTED_RECEIPT: a letter that has not completed within 20 µs. -/
def execAcceptedReceipt (k : LetterKey) (s : State) : Out :=
  match s.letter k with
  | none => .next s
  | some r => if r.acceptedSent then .next s else .next (sendAccepted r s)

end Sys2Proof.Machine
end

