-- ==== Sys2Proof/Machine/Pages.lean ====
section
/-! DEFINITION. Slab pages and frames of sessions: allocation, release and scrubbing, the trail, automatic parking, and the
capacities (R173, R174, R176, R180, R191 to R195, R307 to R320, R328). -/

namespace Sys2Proof.Machine

/-- Pages kept in reserve on a tile (R308). -/
def poolReserve : Nat := 16

/-! ## Quotas and residence (R308, R309, R325, R328) -/

/-- Quotas of a tenant; none in Express. -/
def State.quota (s : State) (t : BitVec 12) : Quota := if s.dev.profile = 2 then {} else Tbl.get {} s.dev.quotas t.toNat

/-- The session holds frames in slabs. -/
def Session.holdsFrames (x : Session) : Bool :=
  [SessState.resident, .running, .resuming, .suspended, .rebuilding].contains x.state

/-- The session is in residence: one that RESUMING still waits for its frames is not (R303, R304). -/
def Session.inResidence (x : Session) : Bool := x.holdsFrames && x.state != .resuming

/-- Resident sessions of a tenant. -/
def State.residents (s : State) (t : BitVec 12) : Nat := s.dev.sessions.countP (fun e => e.2.tenant == t && e.2.inResidence)

/-- Abandon a running ADAPT (R201). -/
def abandonAdapt (n : Nat) (s : State) : State :=
  match (s.session n).adapt with
  | none => s
  | some a => finishLetter a.key 0x010B [] [] (clearAdapt n s)

/-- A session begins to park (R304). -/
def startPark (n : Nat) (s : State) : State := (abandonAdapt n s).updSession n (fun x => { x with state := .parking })

/-- Sessions that R309 may park for a need of session n of tenant t: never the one that needs the pages (log entry 154). -/
def parkCandidates (n : Nat) (t : BitVec 12) (s : State) : List (Nat × Session) :=
  let q := s.quota t
  let full := q.maxResident ≠ 0 ∧ s.residents t ≥ q.maxResident
  s.dev.sessions.filter (fun e => e.2.state == .resident && e.1 != n &&
    (e.2.tenant == t || (!decide full && decide ((s.quota e.2.tenant).minResident = 0 ∨ s.residents e.2.tenant > (s.quota e.2.tenant).minResident))))

/-- Least recently active, ties to the lower ID. -/
def leastRecent : List (Nat × Session) → Option (Nat × Session)
  | [] => none
  | e :: es =>
    match leastRecent es with
    | none => some e
    | some f => if e.2.lastWave.toNat ≤ f.2.lastWave.toNat then some e else some f

/-- Automatic parking (R309) for a need of session n, counted for TELEMETRY; with no candidate the need waits. -/
def autoPark (n : Nat) (t : BitVec 12) (s : State) : State :=
  match leastRecent (parkCandidates n t s) with
  | none => s
  | some e => (startPark e.1 s).updDev (fun d => { d with autoParks := Tbl.upd 0 d.autoParks e.2.tenant.toNat (fun n => n + 1) })

/-- The tenant is at its resident quota without session n (R309, R328). -/
def residenceFull (n : Nat) (t : BitVec 12) (s : State) : Bool :=
  let q := (s.quota t).maxResident
  q != 0 && decide (q ≤ s.dev.sessions.countP (fun e => e.1 != n && e.2.tenant == t && e.2.inResidence))

/-! ## Choosing a tile (R174) -/

/-- Frames of a session and layer on a tile. -/
def frameCount (x : Session) (layer : BitVec 16) (t : TileId) : Nat :=
  x.folios.countP (fun f => f.layer == layer && f.tile == some t)

/-- The tile with room that holds the fewest frames, first listed on a tie; `skip` leaves one frame out of the count. -/
def leastLoaded (s : State) (x : Session) (layer : BitVec 16) (pages reserve : Nat) (skip : Option TileId) :
    List TileId → Option (TileId × Nat × Nat)
  | [] => none
  | t :: ts =>
    let here : Option (TileId × Nat × Nat) :=
      if (s.tile t).poolPages < pages + reserve then none
      else ((s.tile t).freeRun pages).map (fun p => (t, p, frameCount x layer t - (if skip = some t then 1 else 0)))
    match here, leastLoaded s x layer pages reserve skip ts with
    | none, r => r
    | some a, none => some a
    | some a, some b => if a.2.2 ≤ b.2.2 then some a else some b

/-- The attention stage of a layer. -/
def State.layerStage (s : State) (layer : BitVec 16) : Option Stage :=
  match s.dev.placement with
  | none => none
  | some p => p.stages.find? (fun g => g.kind == 2 && g.layer == layer)

/-- Tile and page of a new frame of `pages` pages. -/
def chooseFrame (s : State) (x : Session) (g : Stage) (pages reserve : Nat) (skip : Option TileId) : Option (TileId × Nat) :=
  (leastLoaded s x g.layer pages reserve skip (g.tiles.map Prod.fst)).map (fun r => (r.1, r.2.1))

/-- Pages of an open frame of a stage, and of a sealed one (R168). -/
def openPages (g : Stage) : Nat := framePages g.cacheFmt fmtKV8 g.kdims g.vdims g.vShared
def sealedPages (g : Stage) : Nat := framePages g.cacheFmt g.cacheFmt g.kdims g.vdims g.vShared

/-! ## Frames as lines (R168, R310) -/

/-- Header and sheet lines of a frame at a slab line. -/
def frameBody (g : Stage) (x : Tile) (l : Nat) : List Line :=
  match readFrame g x l with
  | .ok f => frameLines (digestFormat g f.fmt f.isSealed) f
  | .error _ => x.readLines memSlab l 1

/-- The frame a body holds. -/
def bodyFrame (g : Stage) (ls : List Line) : Option Frame :=
  match readFrame g (({} : Tile).writeLines memSlab 0 ls) 0 with
  | .ok f => some f
  | .error _ => none

/-- Lines of a body with its last page padded. -/
def paddedBody (ls : List Line) : List Line := ls ++ List.replicate (32 * ((ls.length + 31) / 32) - ls.length) 0

/-- Place a body on a tile: its pages owned, its lines written. -/
def placeBody (t : TileId) (p : Nat) (head : Nat) (tenant : BitVec 12) (entry : BitVec 16) (ls : List Line) (s : State) : State :=
  s.updTile t (fun x => (x.writeLines memSlab (32 * p) (paddedBody ls)).setOwners p ((ls.length + 31) / 32) (headBody head tenant entry))

/-! ## The trail (R310, R314, R326) -/

/-- The key generation and COUNTER of a record written now; sealing in Hive only, and only with a key. -/
def sealTag (tenant : BitVec 12) (s : State) : (Nat × BitVec 64) × State :=
  let k := Tbl.get {} s.dev.tenantKeys tenant.toNat
  if s.dev.profile = 2 ∨ k.gen = 0 then ((0, 0), s)
  else
    let s1 := s.updDev (fun d => { d with tenantKeys := Tbl.set {} d.tenantKeys tenant.toNat { k with counter := k.counter + 1 } })
    ((k.gen, k.counter), if k.counter.toNat % 65536 = 0 then
      journalAdd kindKeys (tenant.setWidth 32 + 0x20000) (bytesOf 8 (k.counter + 65536)) s1 else s1)

/-- Record header of R311. -/
def recordHeader (owner : BitVec 16) (tenant : BitVec 12) (layer : BitVec 16) (kind : Byte) (flags : Byte) (seqNo : Word)
    (lines : Nat) (salt : Word) (counter : BitVec 64) (gen : Nat) (tag : BitVec 128) : List Byte :=
  bytesOf 2 owner ++ bytesOf 2 (tenant.setWidth 16) ++ bytesOf 2 layer ++ [kind, flags] ++ bytesOf 4 seqNo ++ leBytes 4 lines ++
  bytesOf 4 salt ++ bytesOf 8 counter ++ [BitVec.ofNat 8 gen, 0, 0, 0] ++ bytesOf 16 tag ++ List.replicate 16 0

/-- A body line with its 68 data bytes replaced and SEALED set (R326). -/
def sealedLine (l : Line) (ct : List Byte) : Line := mkParcel (ct.take 64) (ct.drop 64) (Line.fmt l) (Line.flags l ||| 2)

/-- The lines of a record as they stand in the stacks: the header line, and the body in plaintext or sealed. -/
def storedRecord (s : State) (owner : BitVec 16) (tenant : BitVec 12) (layer : BitVec 16) (kind flags : Byte) (seqNo : Word)
    (gen : Nat) (counter : BitVec 64) (body : List Line) : List Line :=
  let k := Tbl.get {} s.dev.tenantKeys tenant.toNat
  if gen = 0 then mkParcel (recordHeader owner tenant layer kind flags seqNo body.length 0 0 0 0) [] fmtBYTES 0 :: body
  else
    let key := if gen = k.gen then k.key else (match k.older with | some o => o.2.1 | none => k.key)
    let salt := if gen = k.gen then k.salt else (match k.older with | some o => o.2.2 | none => k.salt)
    let h := recordHeader owner tenant layer kind (flags ||| 1) seqNo body.length salt counter gen 0
    let aad := h.take 32 ++ body.map Line.fmt
    let sealedText := Config.gcmSeal key (BitVec.ofNat 96 (leNat (bytesOf 4 salt ++ bytesOf 8 counter))) aad
      (body.flatMap (fun l => (bytesOf 72 l).take 68))
    mkParcel (recordHeader owner tenant layer kind (flags ||| 1) seqNo body.length salt counter gen sealedText.2) [] fmtBYTES 0 ::
      (body.zip (chunks 68 (body.length + 1) sealedText.1)).map (fun e => sealedLine e.1 e.2)

/-- The header line of a folio's record. -/
def folioHeader (s : State) (n : Nat) (tenant : BitVec 12) (family : BitVec 16) (flags : Byte) (f : FolioRef) : List Line :=
  (storedRecord s (if f.shared then family else BitVec.ofNat 16 n) tenant f.layer 1 (flags ||| if f.shared then 2 else 0) f.seqNo f.gen
    f.counter f.trail).take 1

/-- The record of a folio is replaced: its header is marked SUPERSEDED (R311, R314), and the keeper is to be told (R321). -/
def supersede (n : Nat) (f : FolioRef) (s : State) : State :=
  if f.trail = [] ∨ s.dev.keeperTo = 0xFF then s
  else s.updSession n (fun y => { y with superseded := y.superseded ++ [folioHeader s n y.tenant y.family 4 f] })

/-- Write a folio's record of session n anew (R314): a sealed folio's predecessor is marked SUPERSEDED in the same write. -/
def writeRecord (n : Nat) (tenant : BitVec 12) (body : List Line) (upto : Nat) (f : FolioRef) (s : State) : FolioRef × State :=
  if f.trail = body then ({ f with trailPos := upto }, s)
  else
    let k := sealTag tenant (if f.sealed then supersede n f s else s)
    ({ f with trail := body, trailPos := upto, gen := k.1.1, counter := k.1.2, streamed := false }, k.2)

/-- Write a record of another kind anew (R310, R314, R326). -/
def writeTrail (tenant : BitVec 12) (body : List Line) (r : TrailRec) (s : State) : TrailRec × State :=
  if r.body = body then (r, s)
  else
    let k := sealTag tenant s
    (⟨body, k.1.1, k.1.2⟩, k.2)

/-- U32 parcels of tokens (R313, R339). -/
def tokenTrain (ts : List Word) : List Line := (chunks 16 (ts.length + 1) ts).map (mkWords fmtU32)

/-- The body line of a session-state record (R310): the record of R300, for which the manual gives no layout. -/
opaque stateLine (family : BitVec 16) (seed : BitVec 64) (budget : Nat) (deadOpt : Bool) (highest : Option Nat) (grammarState : Nat)
    (lastWave : BitVec 64) (adapter : Option Byte) : Line

/-- The session-state record of a session. -/
def Session.stateBody (x : Session) : List Line :=
  [stateLine x.family x.seed x.budget x.deadOpt x.highest x.grammarState x.lastWave (x.adapter.map (fun a => a.id))]

/-- Lines padded with all-zero parcels, or cut, to a count. -/
def fitLines (n : Nat) (ls : List Line) : List Line := (ls ++ List.replicate n 0).take n

/-- The lines of an adapter instance, in its ADAPTER pages and in its record: both W8 copies, the masters, and the two moments of
every master (R199, R311, R380; DESIGN CHOICE, log entry 155). -/
def AdapterInst.lines (a : AdapterInst) : List Line :=
  let n := max a.w8a.length a.w8b.length
  fitLines n a.w8a ++ fitLines n a.w8b ++ a.masters ++ fitLines (2 * a.masters.length) a.moments

/-- The lines of a folio that its record holds when everything up to position `last` has been written behind: a sealed
frame whole, an open one without later positions. -/
def trailBody (s : State) (f : FolioRef) (last : Int) : List Line :=
  match f.tile, s.layerStage f.layer with
  | some t, some g =>
    let x := s.tile t
    (match readFrame g x (32 * f.page) with
      | .ok k => if k.isSealed then frameLines (digestFormat g k.fmt true) k else frameLines g.cacheFmt (dropBeyond k last)
      | .error _ => f.trail)
  | _, _ => f.trail

/-- Write behind every folio of a session up to a position, and its token log, its state and its adapter instance (R310, R314). -/
def flushTrail (n : Nat) (last : Int) (s : State) : State :=
  let x := s.session n
  let r := x.folios.foldl (fun (a : List FolioRef × State) f =>
    let w := writeRecord n x.tenant (trailBody a.2 f last) (last + 1).toNat f a.2
    (a.1 ++ [w.1], w.2)) ([], s)
  let g := writeTrail x.tenant (tokenTrain x.tokens) x.logRec r.2
  let h := writeTrail x.tenant x.stateBody x.stateRec g.2
  let a := writeTrail x.tenant (match x.adapter with | some i => i.lines | none => []) x.adapterRec h.2
  a.2.updSession n (fun y => { y with folios := r.1, logRec := g.1, stateRec := h.1, adapterRec := a.1 })

/-- Highest committed position, −1 for none. -/
def Session.top (x : Session) : Int := match x.highest with | some h => h | none => -1

/-! ## Releasing frames (R180, R319, R320) -/

/-- Another session refers to the shared frame of a folio, whatever its own state (R319, R320). -/
def State.sharedElsewhere (s : State) (n : Nat) (f : FolioRef) : Bool :=
  s.dev.sessions.any (fun e => e.1 != n &&
    e.2.folios.any (fun h => h.shared && h.layer == f.layer && h.tile == f.tile && h.page == f.page))

/-- Scores of shared folios that a test picks are gone; a STATISTICS page without any goes to scrubbing (R318). -/
def Tile.dropShares (gone : BitVec 16 × Nat × Nat → Bool) (x : Tile) : Tile :=
  let keep := x.shareScores.filter (fun e => !gone e)
  (((x.shareScores.filter gone).map (fun e => e.2.2 / 32)).dedup.filter (fun p => !keep.any (fun e => e.2.2 / 32 == p))).foldl
    (fun x p => x.release p 1) { x with shareScores := keep }

/-- Hand a folio's frame to scrubbing, unless it is shared with another session; this session's own scores of it go with it. -/
def releaseFolio (n : Nat) (f : FolioRef) (s : State) : State :=
  match f.tile with
  | none => s
  | some t =>
    if f.shared && s.sharedElsewhere n f then
      s.updTile t (Tile.dropShares (fun e => e.1 == BitVec.ofNat 16 n && e.2.1 == 32 * f.page))
    else s.updTile t (fun x => (x.dropShares (fun e => e.2.1 == 32 * f.page)).release f.page f.pages)

/-- The own scores of a shared folio that stands (R318). -/
def heldScores (n : Nat) (s : State) (f : FolioRef) : List Line :=
  match f.tile, f.shared with
  | some t, true =>
    (match (s.tile t).shareLine (BitVec.ofNat 16 n) (32 * f.page) with
      | some k => (s.tile t).readLines memSlab k 4
      | none => f.scores)
  | _, _ => f.scores

/-- The ADAPTER pages of a session go to scrubbing; the instance stands in its record (R199, R310). -/
def releaseAdapter (n : Nat) (s : State) : State :=
  match (s.session n).adapter with
  | none => s
  | some a =>
    (a.pages.foldl (fun s e => s.updTile e.1 (fun x => x.release e.2 1)) s).updSession n (fun y => { y with adapter := some { a with pages := [] } })

/-- Release every frame of a session. -/
def releaseFrames (n : Nat) (s : State) : State :=
  let x := s.session n
  releaseAdapter n ((x.folios.foldl (fun s f => releaseFolio n f s) s).updSession n (fun y => { y with
    folios := y.folios.map (fun f => { f with tile := none, scores := heldScores n s f })
    sealing := [] }))

/-- Pages reserved for a sealing that has not run leave the session, for scrubbing (R180). -/
def dropSealing (n : Nat) (s : State) : State :=
  (s.session n).sealing.foldl (fun s e => s.updTile e.2.1 (fun x => x.release e.2.2.1 e.2.2.2)) s

/-! ## Pages of their own: STATISTICS and ADAPTER (R176, R196, R199, R307, R318) -/

/-- A page for one session beside the reserve of R308, its entry `entry`. -/
def Tile.takePage (entry : Word) (x : Tile) : Option (Nat × Tile) :=
  if x.poolPages < 1 + poolReserve then none else (x.freeRun 1).map (fun p => (p, x.setOwners p 1 (fun _ => entry)))

/-- A tile's STATISTICS lines for a session's scores of the shared frame at line `l`: 4 lines of a page that has room, or of a
new page; none when there is no page (R318). -/
def Tile.takeShare (tenant : BitVec 12) (session : BitVec 16) (l : Nat) (ws : List Line) (x : Tile) : Option Tile :=
  let mine := x.shareScores.filter (fun e => e.1 == session)
  let groups := ((mine.map (fun e => e.2.2 / 32)).dedup).flatMap (fun p => (List.range 8).map (fun i => 32 * p + 4 * i))
  let put (k : Nat) (x : Tile) : Tile := { x.writeLines memSlab k ws with shareScores := x.shareScores ++ [(session, l, k)] }
  match groups.find? (fun k => !mine.any (fun e => e.2.2 == k)) with
  | some k => some (put k x)
  | none => (x.takePage (ownWord 5 tenant session)).map (fun r => put (32 * r.1) r.2)

/-- A session's own scores of a shared folio that stands at `t` take their STATISTICS lines; none when there is no page. -/
def holdScores (n : Nat) (tenant : BitVec 12) (t : TileId) (page : Nat) (ws : List Line) (s : State) : Option State :=
  ((s.tile t).takeShare tenant (BitVec.ofNat 16 n) (32 * page) ws).map (fun x => s.putTile t x)

/-- One page from the first tile that has one beside its reserve. -/
def firstPage (entry : Word) (s : State) : List TileId → Option (TileId × Nat × State)
  | [] => none
  | t :: ts =>
    match (s.tile t).takePage entry with
    | some r => some (t, r.1, s.putTile t r.2)
    | none => firstPage entry s ts

/-- `n` pages on tiles in order, each from the first tile that has one; none when they have too few. -/
def takePages (entry : Word) (ts : List TileId) : Nat → State → Option (List (TileId × Nat) × State)
  | 0, s => some ([], s)
  | n + 1, s =>
    match firstPage entry s ts with
    | none => none
    | some r => (takePages entry ts n r.2.2).map (fun q => ((r.1, r.2.1) :: q.1, q.2))

/-- Lines into pages, 32 to a page. -/
def fillPages (ls : List Line) (ps : List (TileId × Nat)) (s : State) : State :=
  (ps.zip (chunks 32 ps.length ls)).foldl (fun s e => s.updTile e.1.1 (fun x => x.writeLines memSlab (32 * e.1.2) e.2)) s

/-- Tiles of the attention stages, in the order of their lists. -/
def State.attentionTiles (s : State) : List TileId :=
  match s.dev.placement with
  | none => []
  | some p => (p.stages.filter (fun g => g.kind == 2)).flatMap (fun g => g.tiles.map Prod.fst)

/-- The adapter instance of a session stands in ADAPTER pages, on the tiles of the attention stages, and its record follows it (R199,
R310, R314; DESIGN CHOICE, log entry 155); none when there are too few. -/
def residentAdapter (n : Nat) (s : State) : Option State :=
  let x := s.session n
  match x.adapter with
  | none => some s
  | some a =>
    if a.pages ≠ [] ∨ s.attentionTiles = [] then some s
    else (takePages (ownWord 6 x.tenant (BitVec.ofNat 16 n)) s.attentionTiles ((a.lines.length + 31) / 32) s).map (fun r =>
      let w := writeTrail x.tenant a.lines x.adapterRec (fillPages a.lines r.1 r.2)
      w.2.updSession n (fun y => { y with adapter := some { a with pages := r.1 }, adapterRec := w.1 }))

/-! ## Resealing (R327, R330) -/

/-- A record of the older generation is sealed again under the current key. -/
def resealFolio (tenant : BitVec 12) (old : Nat) (f : FolioRef) (s : State) : FolioRef × State :=
  if f.gen = old then
    let k := sealTag tenant s
    ({ f with gen := k.1.1, counter := k.1.2, streamed := false }, k.2)
  else (f, s)

/-- Dead-letter records likewise. -/
def resealDead (tenant : BitVec 12) (old : Nat) (d : DeadLetter) (s : State) : DeadLetter × State :=
  if d.gen = old then
    let k := sealTag tenant s
    ({ d with gen := k.1.1, counter := k.1.2, streamed := false }, k.2)
  else (d, s)

/-- A record of another kind likewise; one that was never written stays so. -/
def resealTrail (tenant : BitVec 12) (old : Nat) (r : TrailRec) (s : State) : TrailRec × State :=
  if r.gen = old ∧ r.body ≠ [] then
    let k := sealTag tenant s
    (⟨r.body, k.1.1, k.1.2⟩, k.2)
  else (r, s)

/-- Fold a list through the state. -/
def mapState {α : Type} (f : α → State → α × State) : List α → State → List α × State
  | [], s => ([], s)
  | a :: as, s =>
    let r := f a s
    let q := mapState f as r.2
    (r.1 :: q.1, q.2)

/-- Every record of one session. -/
def resealSession (tenant : BitVec 12) (old n : Nat) (s : State) : State :=
  let x := s.session n
  if x.tenant ≠ tenant then s
  else
    let a := mapState (resealFolio tenant old) x.folios s
    let b := mapState (resealDead tenant old) x.dead a.2
    let c := resealTrail tenant old x.logRec b.2
    let d := resealTrail tenant old x.stateRec c.2
    let e := resealTrail tenant old x.adapterRec d.2
    e.2.updSession n (fun y => { y with folios := a.1, dead := b.1, logRec := c.1, stateRec := d.1, adapterRec := e.1 })

/-! ## Stack space (R312, R315, R328) -/

/-- Payload lines of a session's own records (R312, R315): folios it does not share, dead-letter folios, token log, state, adapter
instance. -/
def Session.ownLines (x : Session) : Nat :=
  ((x.folios.filter (fun f => !f.shared)).map (fun f => f.trail.length + 1)).sum + (x.dead.map (fun d => d.body.length + 1)).sum +
  ((x.tokens.length + 15) / 16 + 1) + 2 + (match x.adapter with | some a => a.lines.length + 1 | none => 0)

/-- The shared records a session refers to: family, layer, sequence and lines. -/
def Session.sharedRecords (x : Session) : List (BitVec 16 × BitVec 16 × Word × Nat) :=
  (x.folios.filter (fun f => f.shared)).map (fun f => (x.family, f.layer, f.seqNo, f.trail.length + 1))

/-- Payload lines of one session alone, shared records included: what its transfer brings (R323). -/
def Session.stackLines (x : Session) : Nat := x.ownLines + (x.sharedRecords.map (fun r => r.2.2.2)).sum

/-- Payload lines of several sessions: a record that a family shares counts once (R319). -/
def linesOf (xs : List Session) : Nat :=
  (xs.map Session.ownLines).sum + ((xs.flatMap Session.sharedRecords).dedup.map (fun r => r.2.2.2)).sum

/-- Stack payload bytes of a tenant. -/
def State.tenantBytes (s : State) (t : BitVec 12) : Nat :=
  64 * linesOf ((s.dev.sessions.filter (fun e => e.2.tenant == t && e.2.state != .free)).map Prod.snd)

/-- Records of an image file, by its header line (R368). -/
def fileRecords (h : BitVec 512) : Nat := bitsAt h 128 32

/-- Payload bytes of the stacks that stand. -/
def State.stackBytes (s : State) : Nat := ((List.range 24).filter (fun i => (s.stk i).st != 4)).length * (72 * 2 ^ 30)

/-- Bytes in use: held images, images that stage, trails. -/
def State.usedBytes (s : State) : Nat :=
  64 * ((s.dev.images.map (fun e => match e.2 with | some g => g.records.length | none => 0)).sum +
    (s.dev.staging.map (fun e => match e.2 with | some g => fileRecords (nth 0 g.lines 0) | none => 0)).sum +
    linesOf (s.dev.sessions.map Prod.snd))

/-- The stacks hold what stands in them and `more` lines beside the two reserves of R315. -/
def State.stackRoom (s : State) (more : Nat) : Bool := decide (20 * (s.usedBytes + 64 * more + 16 * 2 ^ 30) ≤ 19 * s.stackBytes)

/-- The stacks hold what stands in them beside the two reserves of R315. -/
def State.stackFits (s : State) : Bool := s.stackRoom 0

/-- Sessions with a trail of `lines` lines that can be parked beside everything that stands (R315). -/
def State.parkedCapacity (s : State) (lines : Nat) : Nat :=
  (19 * s.stackBytes / 20 - (s.usedBytes + 16 * 2 ^ 30)) / (64 * max 1 lines)

/-- Lines that `n` more positions of one session add at most. -/
def State.growthLines (s : State) (n : Nat) : Nat :=
  match s.dev.placement with
  | none => n / 16 + 1
  | some p => n / 16 + 1 + ((p.stages.filter (fun g => g.kind == 2)).map (fun g =>
      (n / 64 + 1) * (1 + frameLineCount g.cacheFmt g.cacheFmt g.kdims g.vdims g.vShared))).sum

/-- The tenant's stack quota would be exceeded by `more` lines. -/
def State.overStack (s : State) (t : BitVec 12) (more : Nat) : Bool :=
  let q := (s.quota t).maxStackGib
  q != 0 && decide (s.tenantBytes t + 64 * more > q * 2 ^ 30)

end Sys2Proof.Machine
end

