-- ==== Sys2Proof/Machine/Tiers.lean ====
section
/-! DEFINITION. The folios of a session: allocation of frames, sealing, compaction, the dead-letter tier, scrubbing and the
trail (R171, R173, R174, R180, R189 to R195, R221, R310 to R321, R327, R461). -/

namespace Sys2Proof.Machine

/-! ## A session's folios -/

/-- The frame of a folio: from its slab, with the session's own scores, or from its trail record. -/
def folioFrame (s : State) (n : Nat) (g : Stage) (f : FolioRef) : Option Frame :=
  match f.tile with
  | some t =>
    (match s.frameOf g t (BitVec.ofNat 16 n) (32 * f.page) with
      | .ok k => some k
      | .error _ => none)
  | none => bodyFrame g f.trail

/-- Folios in ascending sequence. -/
def insertFolio (e : FolioRef × Frame) : List (FolioRef × Frame) → List (FolioRef × Frame)
  | [] => [e]
  | x :: xs => if e.1.seqNo.toNat < x.1.seqNo.toNat then e :: x :: xs else x :: insertFolio e xs

/-- A session's folios of a layer in sequence, with their frames. -/
def layerFolios (s : State) (n : Nat) (g : Stage) : List (FolioRef × Frame) :=
  ((s.session n).folios.filterMap (fun f =>
    if f.layer = g.layer then (folioFrame s n g f).map (fun k => (f, k)) else none)).foldl (fun l e => insertFolio e l) []

/-- Retained positions among folios. -/
def retainedOf (es : List (FolioRef × Frame)) : List Nat := es.flatMap (fun e => e.2.positions)

/-- Entries in position order. -/
def insertEntry (e : Entry) : List Entry → List Entry
  | [] => [e]
  | x :: xs => if e.pos.toNat < x.pos.toNat then e :: x :: xs else x :: insertEntry e xs

def sortEntries (es : List Entry) : List Entry := es.foldl (fun l e => insertEntry e l) []

/-- Body of a frame's record. -/
def recordBody (g : Stage) (k : Frame) : List Line := frameLines (digestFormat g k.fmt k.isSealed) k

/-- Sequence number of the next folio of a layer: 0 for the first. -/
def nextSeqNo (x : Session) (layer : BitVec 16) : Word :=
  match (x.folios.filter (fun f => f.layer == layer)).map (fun f => f.seqNo.toNat) with
  | [] => 0
  | m :: ms => BitVec.ofNat 32 (ms.foldl max m + 1)

/-- Put a folio in a session's list in place of `old`, or at its end. -/
def putFolioRef (old f : FolioRef) (fs : List FolioRef) : List FolioRef :=
  if fs.contains old then fs.map (fun h => if h = old then f else h) else fs ++ [f]

/-- Take a folio out of a session's list. -/
def dropFolioRef (f : FolioRef) (fs : List FolioRef) : List FolioRef := fs.filter (fun h => h != f)

/-- Write the record of a folio whose frame is `k` and keep the folio in place of `old`, under the frame's sequence number. -/
def keepFolio (n : Nat) (g : Stage) (old f : FolioRef) (k : Frame) (s : State) : State :=
  let x := s.session n
  let w := writeRecord n x.tenant (recordBody g k) (x.top + 1).toNat { f with sealed := k.isSealed, seqNo := k.seqNo } s
  w.2.updSession n (fun y => { y with folios := putFolioRef old w.1 y.folios })

/-- Write frame `k` as folio `f` of session `n` (R193, R319): into its own frame, into a new one when it has none or shares
it, or into the trail alone when the session is parked. None when no pool pages are free. -/
def putFolio (n : Nat) (g : Stage) (f : FolioRef) (k : Frame) (s : State) : Option State :=
  let x := s.session n
  if !x.holdsFrames then some (keepFolio n g f { f with shared := false } k s)
  else
    match f.tile, f.shared with
    | some t, false =>
      some (keepFolio n g f f k (s.updTile t (fun y => y.writeFrame (32 * f.page) (digestFormat g k.fmt k.isSealed) k)))
    | _, _ =>
      let body := recordBody g k
      let pages := (body.length + 31) / 32
      (chooseFrame s x g pages poolReserve none).map (fun c =>
        let s1 := placeBody c.1 c.2 1 x.tenant (BitVec.ofNat 16 n) body (releaseFolio n f s)
        keepFolio n g f { f with tile := some c.1, page := c.2, pages := pages, shared := false, scores := [] } k s1)

/-- Write frames into folios in order; folios that are left over are released and forgotten. -/
def putFolios (n : Nat) (g : Stage) : List FolioRef → List Frame → State → Option State
  | fs, [], s => some (fs.foldl (fun s f => (supersede n f (releaseFolio n f s)).updSession n (fun y => { y with folios := dropFolioRef f y.folios })) s)
  | [], k :: ks, s =>
    let f : FolioRef := { layer := g.layer, seqNo := k.seqNo }
    match putFolio n g f k s with
    | none => none
    | some s' => putFolios n g [] ks s'
  | f :: fs, k :: ks, s =>
    match putFolio n g f k s with
    | none => none
    | some s' => putFolios n g fs ks s'

/-! ## Compaction (R189 to R194) -/

/-- Attention stages of the placement in force. -/
def State.attention (s : State) : List Stage :=
  match s.dev.placement with
  | none => []
  | some p => p.stages.filter (fun g => g.kind == 2)

/-- Eligible entries of a layer. -/
def eligible (retained : List Nat) (adapt : Option AdaptRun) (es : List Entry) : List Entry :=
  es.filter (fun e => !protectedPos retained adapt e.pos.toNat)

/-- Entries in ascending weevil score, ties to the lower position. -/
def insertScore (e : Entry) : List Entry → List Entry
  | [] => [e]
  | x :: xs =>
    if f32Key e.weevil < f32Key x.weevil ∨ (f32Key e.weevil = f32Key x.weevil ∧ e.pos.toNat < x.pos.toNat) then e :: x :: xs
    else x :: insertScore e xs

/-- The 64 entries a step evicts (R192). -/
def victims (es : List Entry) : List Entry := (es.foldl (fun l e => insertScore e l) []).take 64

/-- A step is due (R191). -/
def compactionDue (budget : Nat) (adapt : Option AdaptRun) (fs : List (FolioRef × Frame)) : Bool :=
  let r := retainedOf fs
  decide (r.length ≥ budget + 64) && decide ((r.filter (fun p => !protectedPos r adapt p)).length ≥ 64)

/-- The dead-letter folio of the evicted entries (R194). -/
def deadFrame (g : Stage) (free : Byte) (n : Nat) (tenant : BitVec 12) (es : List Entry) : Frame :=
  repackFrame free { newFrame g (BitVec.ofNat 16 n) tenant 0 with fmt := g.cacheFmt, isSealed := true, dead := true } (sortEntries es)

/-- Drop the oldest dead-letter folio of a layer. -/
def dropOldestDead (layer : BitVec 16) : List DeadLetter → List DeadLetter
  | [] => []
  | d :: ds => if d.layer = layer then ds else d :: dropOldestDead layer ds

/-- The session of a tenant that holds the tenant's oldest dead-letter folio, with the time it was written. -/
def oldestDead (t : BitVec 12) : List (Nat × Session) → Option (Nat × BitVec 64)
  | [] => none
  | e :: es =>
    match (if e.2.tenant = t then e.2.dead.head? else none), oldestDead t es with
    | none, r => r
    | some d, none => some (e.1, d.time)
    | some d, some r => if d.time.toNat ≤ r.2.toNat then some (e.1, d.time) else some r

/-- Drop dead-letter folios while the tenant's stack quota is exceeded: the oldest of the session's layer first (R194), then the
tenant's oldest (R328). -/
def trimDead (n : Nat) (layer : BitVec 16) (more : Nat) : Nat → State → State
  | 0, s => s
  | fuel + 1, s =>
    let x := s.session n
    if !s.overStack x.tenant more then s
    else if x.dead.any (fun d => d.layer == layer) then
      trimDead n layer more fuel (s.updSession n (fun y => { y with dead := dropOldestDead layer y.dead }))
    else
      match oldestDead x.tenant s.dev.sessions with
      | none => s
      | some e => trimDead n layer more fuel (s.updSession e.1 (fun y => { y with dead := y.dead.drop 1 }))

/-- Dead-letter folios of a tenant. -/
def State.deadCount (s : State) (t : BitVec 12) : Nat :=
  ((s.dev.sessions.filter (fun e => e.2.tenant == t)).map (fun e => e.2.dead.length)).sum

/-- Write a dead-letter folio (R194). -/
def writeDead (n : Nat) (g : Stage) (k : Frame) (s : State) : State :=
  let body := recordBody g k
  let s1 := trimDead n g.layer (body.length + 1) (s.deadCount (s.session n).tenant) s
  let w := sealTag (s1.session n).tenant s1
  w.2.updSession n (fun y => { y with dead := y.dead ++ [{ layer := g.layer, body := body, gen := w.1.1, counter := w.1.2, time := s.dev.time }] })

/-- A frame as the session's own: its repacked copy of a folio carries its own ID (R169, R319). -/
def ownFrame (n : Nat) (k : Frame) : Frame := { k with session := BitVec.ofNat 16 n }

/-- One step: the victims leave, the affected folios are repacked, the highest-numbered is released. -/
def compactLayer (n : Nat) (g : Stage) (s : State) : Option State :=
  let x := s.session n
  let fs := layerFolios s n g
  let r := retainedOf fs
  let vs := victims (eligible r x.adapt (fs.flatMap (fun e => e.2.entries)))
  let gone (p : Nat) : Bool := vs.any (fun v => v.pos.toNat == p)
  let hit := fs.filter (fun e => e.2.positions.any gone)
  let closed := hit.filter (fun e => e.2.isSealed)
  let keep := sortEntries ((hit.flatMap (fun e => e.2.entries)).filter (fun e => !gone e.pos.toNat))
  let free := Config.repackScale s.dev.trailLooks
  let full := 64 * (closed.length - 1)
  let frames := (closed.zip (chunks 64 closed.length (keep.take full))).map (fun e => repackFrame free (ownFrame n e.1.2) e.2)
  let s1 := s.updDev (fun d => { d with trailLooks := d.trailLooks + 1 })
  let s2 := if x.deadOpt then writeDead n g (deadFrame g free n x.tenant vs) s1 else s1
  match putFolios n g (closed.map Prod.fst) frames s2 with
  | none => none
  | some s3 =>
    match hit.find? (fun e => !e.2.isSealed) with
    | none => some s3
    | some o => putFolio n g o.1 (repackFrame free (ownFrame n o.2) (keep.drop full)) s3

/-- No wave of a session is in flight. -/
def State.betweenWaves (s : State) (n : Nat) : Bool :=
  !(s.dev.waves.any (fun e => match e.2 with | some w => w.session.toNat == n | none => false))

/-- A session whose frames stand in slabs and may change between its waves (R306). -/
def State.standing (s : State) (n : Nat) : Bool :=
  (s.session n).state == .resident || (s.session n).state == .running

/-- COMPACTION_STEP: when due, between waves; with no room a session is parked first (R309). -/
def execCompactionStep (session : BitVec 16) (layer : BitVec 16) (s : State) : Out :=
  let n := session.toNat
  match s.layerStage layer with
  | none => .next s
  | some g =>
    if s.standing n && s.betweenWaves n && compactionDue (s.session n).budget (s.session n).adapt (layerFolios s n g) then
      match compactLayer n g s with
      | some s' => .next s'
      | none => .next (autoPark n (s.session n).tenant s)
    else .next s

/-- A compaction step of session n is due in some layer: its next wave waits (R191). -/
def State.compactionWaits (s : State) (n : Nat) : Bool :=
  s.attention.any (fun g => compactionDue (s.session n).budget (s.session n).adapt (layerFolios s n g))

/-! ## Restoring dead-letter positions (R195) -/

/-- Dead-letter entries of a layer in [first, last], each with the score of R195. -/
def restorable (x : Session) (g : Stage) (first last : Nat) (score : Word) : List Entry :=
  (x.dead.filter (fun d => d.layer == g.layer)).flatMap (fun d =>
    match bodyFrame g d.body with
    | some k => (k.entries.filter (fun e => decide (first ≤ e.pos.toNat) && decide (e.pos.toNat ≤ last))).map (fun e => { e with weevil := score })
    | none => [])

/-- Dead-letter folios of a layer without the restored positions; an empty one is gone. -/
def withoutRestored (g : Stage) (first last : Nat) (ds : List DeadLetter) : List DeadLetter :=
  ds.filterMap (fun d =>
    if d.layer ≠ g.layer then some d
    else match bodyFrame g d.body with
      | none => some d
      | some k =>
        let k' := clearSlots k (fun i => decide (first ≤ (nth 0 k.pos i).toNat) && decide ((nth 0 k.pos i).toNat ≤ last))
        if k'.valid = 0 then none else if k' = k then some d else some { d with body := recordBody g k' })

/-- Largest score of entries, or the free value when there are none. -/
def topScore : List Entry → Word
  | [] => Config.restoredWeevil
  | e :: es => es.foldl (fun m x => if f32Key m < f32Key x.weevil then x.weevil else m) e.weevil

/-- Renumber frames upward from a sequence number. -/
def renumber (from_ : Nat) (ks : List Frame) : List Frame := ks.zipIdx.map (fun e => { e.1 with seqNo := BitVec.ofNat 32 (from_ + e.2) })

/-- The frame of an open folio takes a later sequence number, in its slab: numbers ascend with position (R163). -/
def bumpFrame (g : Stage) (f : FolioRef) (by_ : Word) (s : State) : State :=
  match f.tile with
  | none => s
  | some t => s.updTile t (fun x =>
      match readFrame g x (32 * f.page) with
      | .ok k => x.writeFrame (32 * f.page) (digestFormat g k.fmt k.isSealed) { k with seqNo := k.seqNo + by_ }
      | .error _ => x)

/-- Restore one layer: the sealed folios from the first affected on are repacked with the restored positions in order. -/
def restoreLayer (n first last : Nat) (g : Stage) (s : State) : Option (List Nat × State) :=
  let x := s.session n
  let fs := layerFolios s n g
  let all := fs.flatMap (fun e => e.2.entries)
  let back := sortEntries (restorable x g first last (topScore (eligible (retainedOf fs) x.adapt all)))
  match back with
  | [] => some ([], s)
  | b :: _ =>
    let free := Config.repackScale s.dev.trailLooks
    let closed := fs.filter (fun e => e.2.isSealed)
    let tail := closed.filter (fun e => e.2.positions.any (fun p => decide (b.pos.toNat < p)))
    let es := sortEntries (back ++ tail.flatMap (fun e => e.2.entries))
    let count := (es.length + 63) / 64
    let from_ := match tail with
      | e :: _ => e.1.seqNo.toNat
      | [] => (closed.map (fun e => e.1.seqNo.toNat + 1)).foldl max 0
    let base : Frame := { newFrame g (BitVec.ofNat 16 n) x.tenant 0 with fmt := g.cacheFmt, isSealed := true }
    let bases := tail.map (fun e => ownFrame n e.2) ++ List.replicate (count - tail.length) base
    let frames := renumber from_ ((bases.zip (chunks 64 count es)).map (fun e => repackFrame free e.1 e.2))
    let more := count - tail.length
    -- the open folio keeps its place after them, in its record and in its header
    let bump (f : FolioRef) : FolioRef :=
      if f.layer = g.layer ∧ !f.sealed then
        { f with
          seqNo := f.seqNo + BitVec.ofNat 32 more
          trail := match f.tile, bodyFrame g f.trail with
            | none, some k => recordBody g { k with seqNo := k.seqNo + BitVec.ofNat 32 more }
            | _, _ => f.trail }
      else f
    let s0 := (fs.filter (fun e => !e.2.isSealed)).foldl (fun s e => bumpFrame g e.1 (BitVec.ofNat 32 more) s) s
    let s1 := (s0.updDev (fun d => { d with trailLooks := d.trailLooks + 1 })).updSession n (fun y => { y with
      folios := y.folios.map bump, dead := withoutRestored g first last y.dead })
    (putFolios n g (tail.map Prod.fst) frames s1).map (fun s2 => (back.map (fun e => e.pos.toNat), s2))

/-- Restore every layer, with the positions it restored. -/
def restoreAll (n first last : Nat) : List Stage → List Nat → State → Option (List Nat × State)
  | [], c, s => some (c, s)
  | g :: gs, c, s =>
    match restoreLayer n first last g s with
    | none => none
    | some r => restoreAll n first last gs (c ++ r.1) r.2

/-! ## New frames and sealing (R171, R173, R174) -/

/-- A new open folio is due: no open folio of the layer has room. -/
def openDue (fs : List (FolioRef × Frame)) : Bool := !(fs.any (fun e => !e.2.isSealed && !e.2.full))

/-- Allocate the next open frame of a layer, and the ADAPTER pages a session still lacks. A tenant above its resident quota takes the
residence from its own sessions first (R328), and the stacks must have room for its record (R315). -/
def openFrame (n : Nat) (g : Stage) (s : State) : State :=
  let x := s.session n
  let pages := openPages g
  if !s.stackRoom (pages * 32) then s
  else if residenceFull n x.tenant s then autoPark n x.tenant s
  else match residentAdapter n s with
  | none => autoPark n x.tenant s
  | some s0 =>
    match chooseFrame s0 x g pages 0 none with
    | none => autoPark n x.tenant s
    | some c =>
      let k := newFrame g (BitVec.ofNat 16 n) x.tenant (nextSeqNo x g.layer)
      let s1 := placeBody c.1 c.2 1 x.tenant (BitVec.ofNat 16 n) (frameLines g.cacheFmt k) s0
      s1.updSession n (fun y => { y with folios := y.folios ++ [{ layer := g.layer, seqNo := k.seqNo, tile := some c.1, page := c.2, pages := pages }] })

/-- A full open folio of a layer that has no target yet. -/
def sealDue (x : Session) (fs : List (FolioRef × Frame)) : Option (FolioRef × Frame) :=
  if x.sealing.any (fun e => fs.any (fun f => f.1.layer == e.1)) then none else fs.find? (fun e => !e.2.isSealed && e.2.full)

/-- Allocate the frame a sealing goes to; the frame being sealed is left out of the count (R174). A KV8 stage seals in place
(R173). -/
def targetFrame (n : Nat) (g : Stage) (s : State) : State :=
  let x := s.session n
  match if g.cacheFmt = fmtKV8 then none else sealDue x (layerFolios s n g) with
  | none => s
  | some e =>
    let pages := ((recordBody g (sealFrame g e.2)).length + 31) / 32
    match chooseFrame s x g pages poolReserve e.1.tile with
    | none => autoPark n x.tenant s
    | some c =>
      (s.updTile c.1 (fun y => y.setOwners c.2 pages (fun _ => ownWord 2 x.tenant (BitVec.ofNat 16 n)))).updSession n
        (fun y => { y with sealing := y.sealing ++ [(g.layer, c.1, c.2, pages)] })

/-- FRAME_ALLOCATION. -/
def execFrameAllocation (session : BitVec 16) (layer : BitVec 16) (sealing : Bool) (s : State) : Out :=
  let n := session.toNat
  match s.layerStage layer with
  | none => .next s
  | some g =>
    if !s.standing n then .next s
    else if sealing then .next (targetFrame n g s)
    else if openDue (layerFolios s n g) then .next (openFrame n g s)
    else .next s

/-- Seal one folio into its target, return the old frame for scrubbing and rewrite its record. On another tile the lines go there
as session accesses of KIND 0x7 between the session's waves (R173). -/
def sealFolio (n : Nat) (g : Stage) (f : FolioRef) (k : Frame) (c : TileId × Nat × Nat) (s : State) : State :=
  let x := s.session n
  let k' := sealFrame g k
  let s1 := releaseFolio n f (placeBody c.1 c.2.1 1 x.tenant (BitVec.ofNat 16 n) (recordBody g k') s)
  keepFolio n g f { f with tile := some c.1, page := c.2.1, pages := c.2.2 } k'
    (s1.updSession n (fun y => { y with sealing := y.sealing.filter (fun e => e.1 != g.layer) }))

/-- Seal one folio of a KV8 stage where it stands: its digest is built and SEALED set (R173). -/
def sealHere (n : Nat) (g : Stage) (t : TileId) (f : FolioRef) (k : Frame) (s : State) : State :=
  keepFolio n g f f (sealFrame g k) (s.updTile t (fun x => x.writeFrame (32 * f.page) g.cacheFmt (sealFrame g k)))

/-- The open folio may be sealed: between waves, full, and every position committed (R173, R221). -/
def State.maySeal (s : State) (n : Nat) (k : Frame) : Bool :=
  s.standing n && s.betweenWaves n && !k.isSealed && k.full && k.positions.all (fun p => decide ((p : Int) ≤ (s.session n).top))

/-- FOLIO_SEALING: between waves, a full open folio whose positions are all committed. -/
def execFolioSealing (t : TileId) (frame : BitVec 16) (s : State) : Out :=
  let e := (s.tile t).owner (frame.toNat / 32)
  let n := (ownEntry e).toNat
  let x := s.session n
  match x.folios.find? (fun f => f.tile == some t && 32 * f.page == frame.toNat && !f.shared) with
  | none => .next s
  | some f =>
    match s.layerStage f.layer with
    | none => .next s
    | some g =>
      match folioFrame s n g f with
      | none => .next s
      | some k =>
        if !s.maySeal n k then .next s
        else if g.cacheFmt = fmtKV8 then .next (sealHere n g t f k s)
        else match x.sealing.find? (fun c => c.1 == f.layer) with
          | some c => .next (sealFolio n g f k c.2 s)
          | none => .next s

/-! ## At a commit (R221) -/

/-- Open folios that hold no position are released. -/
def dropEmpty (n : Nat) (s : State) : State :=
  let x := s.session n
  x.folios.foldl (fun s f =>
    match s.layerStage f.layer, f.tile with
    | some g, some _ =>
      (match folioFrame s n g f with
        | some k => if !k.isSealed && k.valid == 0 then (releaseFolio n f s).updSession n (fun y => { y with folios := dropFolioRef f y.folios }) else s
        | none => s)
    | _, _ => s) s

/-! ## The trail and its keeper (R310 to R321, R326) -/

/-- TRAIL_WRITE_BEHIND: the write-behind point moves to at most 255 positions behind the newest (R314). -/
def execTrailWriteBehind (session : BitVec 16) (s : State) : Out :=
  let n := session.toNat
  let x := s.session n
  if x.holdsFrames then
    .next ((flushTrail n (x.top - (Config.trailLag s.dev.trailLooks % 256 : Nat)) s).updDev (fun d => { d with trailLooks := d.trailLooks + 1 }))
  else .next s

/-- Records of a session that go to the keeper: sealed folios and dead-letter folios not sent yet (R321). -/
def keeperRecords (s : State) (n : Nat) (x : Session) : List (List Line) :=
  (x.folios.filter (fun f => f.sealed && !f.streamed && f.trail != [])).map (fun f =>
    storedRecord s (if f.shared then x.family else BitVec.ofNat 16 n) x.tenant f.layer 1 (if f.shared then 2 else 0) f.seqNo f.gen f.counter f.trail) ++
  (x.dead.filter (fun d => !d.streamed)).map (fun d =>
    storedRecord s (BitVec.ofNat 16 n) x.tenant d.layer 4 0 0 d.gen d.counter d.body)

/-- A record of a kind without layer or sequence, sealed for the way to the keeper or to a peer; none of it where it has no lines. -/
def sendRecord (n : Nat) (tenant : BitVec 12) (kind : Byte) (body : List Line) (s : State) : List (List Line) × State :=
  if body = [] then ([], s)
  else
    let k := sealTag tenant s
    ([storedRecord k.2 (BitVec.ofNat 16 n) tenant 0 kind 0 0 k.1.1 k.1.2 body], k.2)

/-- What the keeper holds of a session: its record, its log and its sealed folios, parked. -/
def keptSession (y : Session) : Session :=
  { y with
    state := .parked, queue := [], closeKey := none, adapt := none, sealing := []
    adapter := y.adapter.map (fun a => { a with pages := [] })
    folios := (y.folios.filter (fun f => f.sealed)).map (fun f => { f with tile := none }) }

/-- The session with everything streamed so far noted. -/
def streamedSession (x : Session) : Session :=
  { x with
    keeperLog := x.tokens.length, superseded := [], keeperState := x.stateBody
    folios := x.folios.map (fun f => { f with streamed := f.streamed || f.sealed })
    dead := x.dead.map (fun d => { d with streamed := true }) }

/-- The keeper holds a session as it stands (R321). -/
def State.keeperCurrent (s : State) (n : Nat) (x : Session) : Bool :=
  s.dev.keeperTo != 0xFF && (Tbl.get none s.dev.keeperStore n).isSome && x.keeperLog == x.tokens.length &&
  x.folios.all (fun f => !f.sealed || f.streamed) && x.dead.all (fun d => d.streamed)

/-- KEEPER_LAG_ALARM: the keeper is more than 1 s behind, by a lag the manual leaves open above 1,000 ms. -/
def execKeeperLagAlarm (s : State) : Out :=
  if s.dev.keeperTo = 0xFF then .next s
  else .next (s.updDev (fun d => { d with
      keeperLagAlarm := true, measures := d.measures + 1
      keeperLagMs := if (Config.measured d.measures).toNat > 1000 then Config.measured d.measures else 1001 }))

/-! ## Scrubbing (R180) -/

/-- PAGE_SCRUB on one tile: the 32 lines become all-zero parcels, the page goes back to the pool. -/
def scrubPage (p : Nat) (x : Tile) : Tile :=
  if ownState (x.owner p) = 8 then (x.writeLines memSlab (32 * p) (List.replicate 32 0)).setOwners p 1 (fun _ => ownWord 7 0 0) else x

end Sys2Proof.Machine
end

