-- ==== Sys2Proof/Machine/Placement.lean ====
section
/-! DEFINITION. The placement image: its header, sections and tables, the checks of LOAD_PLACEMENT, and its loading into the
tiles, fields and stacks (R41, R46, R215, R273 to R288, R292, R293, R296, R330, R355, R374, R570). -/

namespace Sys2Proof.Machine

/-! ## Fields of lines -/

/-- `n` bytes from byte `off` of a line, as a number. -/
def numAt (l : Line) (off n : Nat) : Nat := bitsAt l (8 * off) (8 * n)

/-- Lines of a section of an image. -/
def secLines (ls : List Line) (e : Section) : List Line := (ls.drop e.offset).take e.length

/-- The entries of `w` bits in the payloads of lines, in order. -/
def entries (w : Nat) (ls : List Line) : List (BitVec w) :=
  ls.flatMap (fun (l : Line) => (List.range (512 / w)).map (fun i => BitVec.setWidth w (l >>> (w * i))))

/-- Entries up to and including the last that is not 0 (R570). -/
def dropPadding {w : Nat} : List (BitVec w) → List (BitVec w)
  | [] => []
  | x :: xs => match dropPadding xs with | [] => if x = 0 then [] else [x] | y :: ys => x :: y :: ys

/-! ## Header and directory (R276 to R278) -/

/-- The directory entry in 16 bytes. -/
def sectionOfBits (x : BitVec 128) : Section :=
  ⟨fieldAt x 0 16, fieldAt x 16 16, fieldAt x 32 8, bitsAt x 64 32, bitsAt x 96 32⟩

/-- Entries of the directory as the header counts them. -/
def dirCount (ls : List Line) : Nat := numAt (nth 0 ls 0) 10 2
def dirLines (ls : List Line) : Nat := (dirCount ls + 3) / 4
def dirBits (ls : List Line) : List (BitVec 128) := (entries 128 ((ls.drop 1).take (dirLines ls))).take (dirCount ls)
def directory (ls : List Line) : List Section := (dirBits ls).map sectionOfBits

/-- A section kind whose scope is a tile. -/
def tileKind (k : BitVec 16) : Bool := decide (1 ≤ k.toNat) && decide (k.toNat ≤ 0xC)

/-- A section kind with a meaning. -/
def kindOk (k : BitVec 16) : Bool := tileKind k || (decide (0x10 ≤ k.toNat) && decide (k.toNat ≤ 0x15))

/-- SCOPE fits the kind. -/
def scopeOk (e : Section) : Bool :=
  tileKind e.kind || (if e.kind = 0x13 then decide (e.scope.toNat < 64) else e.scope == 0xFFFF)

/-- Two sections share a line. -/
def Section.overlaps (a b : Section) : Bool := decide (a.offset < b.offset + b.length) && decide (b.offset < a.offset + a.length)

/-- Every pair of a list is good. -/
def pairsOk (ok : Section → Section → Bool) : List Section → Bool
  | [] => true
  | e :: es => es.all (ok e) && pairsOk ok es

/-- The header's own checks. -/
def headerOk (ls : List Line) : Bool :=
  let h := nth 0 ls 0
  numAt h 0 4 == 0x434C5046 && numAt h 4 2 == 1 && numAt h 6 1 < 4 && numAt h 7 1 ≤ 8 && numAt h 44 20 == 0 && decide (1 ≤ dirCount ls)

/-- The checks of the section directory. -/
def directoryOk (ls : List Line) : Bool :=
  let ds := directory ls
  (dirBits ls).length == dirCount ls && (dirBits ls).all (fun x => bitsAt x 40 24 == 0) &&
  ds.all (fun e => kindOk e.kind && scopeOk e && (e.alt == 0xFF || decide (e.alt.toNat < 64)) &&
    decide (1 + dirLines ls ≤ e.offset) && decide (e.offset + e.length ≤ ls.length)) &&
  pairsOk (fun a b => !a.overlaps b && !(a.kind == b.kind && a.scope == b.scope && a.alt == b.alt)) ds

/-- A section lies in a field: its tile's, or its own. -/
def Section.inField (f : Nat) (e : Section) : Bool :=
  (tileKind e.kind && tileField e.scope == f) || (e.kind == 0x13 && e.scope.toNat == f)

/-- The sections of the base, or of the placement that alternate f makes: its own, and the base sections it keeps, none of
them in field f; each as a base section (R293, R296). -/
def effective (ds : List Section) : Option Nat → List Section
  | none => ds.filter (fun e => e.alt == 0xFF)
  | some f =>
    let own := ds.filter (fun e => e.alt.toNat == f)
    (own ++ ds.filter (fun e => e.alt == 0xFF && !e.inField f && !own.any (fun o => o.kind == e.kind && o.scope == e.scope))).map
      (fun e => { e with alt := 0xFF })

/-- The section of a kind and scope. -/
def findSection (ds : List Section) (kind : BitVec 16) (scope : BitVec 16) : Option Section :=
  ds.find? (fun e => e.kind == kind && e.scope == scope)

/-- Its lines, none for no section. -/
def sectionLines (ls : List Line) (ds : List Section) (kind scope : BitVec 16) : List Line :=
  match findSection ds kind scope with
  | some e => secLines ls e
  | none => []

/-- Tiles that sections place. -/
def sectionTiles (ds : List Section) : List TileId := ((ds.filter (fun e => tileKind e.kind)).map (fun e => e.scope)).dedup

/-! ## Stage descriptors and tile lists (R279, R283) -/

/-- A stage tile-list entry: tile, stage, ARG. -/
def listEntry (x : BitVec 64) : TileId × Nat × Word := (fieldAt x 0 16, bitsAt x 16 16, fieldAt x 32 32)

/-- TILES of a descriptor. -/
def descTiles (d : Line) : Nat := numAt d 30 2

/-- The stage of a descriptor and its index. -/
def stageOf (d : Line) (tiles : List (TileId × Word)) : Stage :=
  { kind := byteAt d 2, flags := byteAt d 3, layer := fieldAt d 32 16, regThreshold := fieldAt d 48 16, regBudget := numAt d 8 1
    dwellMax := numAt d 9 1, cacheFmt := byteAt d 10, topK := numAt d 11 1, kdims := numAt d 12 2, vdims := bitsAt d 112 15
    vShared := bitAt d 127, decay := wordAt d 4, cacheTscale := wordAt d 5, routeScale := wordAt d 6, gateMode := byteAt d 28
    heads := numAt d 29 1, bypassThreshold := wordAt d 8, tiles := tiles }

/-- STAGES and the descriptors. -/
def stageCount (ls : List Line) : Nat := numAt (nth 0 ls 0) 42 2
def stageDescs (ls : List Line) (ds : List Section) : List Line := sectionLines ls ds 0x10 0xFFFF

/-- Entries of the stage tile lists: as many as the descriptors' TILES add up to; the rest is padding (R570). -/
def tileLists (ls : List Line) (ds : List Section) : List (TileId × Nat × Word) :=
  ((entries 64 (sectionLines ls ds 0x12 0xFFFF)).map listEntry).take
    (((stageDescs ls ds).take (stageCount ls)).map descTiles).sum

/-- Every stage with its tiles in list order. -/
def stagesIn (ls : List Line) (ds : List Section) : List Stage :=
  let ts := tileLists ls ds
  ((stageDescs ls ds).take (stageCount ls)).zipIdx.map (fun e =>
    stageOf e.1 ((ts.filter (fun t => t.2.1 == e.2)).map (fun t => (t.1, t.2.2))))

/-- Tiles that a placement uses. -/
def placedTiles (ls : List Line) (ds : List Section) : List TileId :=
  (sectionTiles ds ++ (stagesIn ls ds).flatMap (fun g => g.tiles.map Prod.fst)).dedup

/-- A lodging-list entry (R287). -/
def lodgeOf (x : BitVec 128) : LodgeEntry :=
  ⟨fieldAt x 0 16, bitsAt x 16 8, fieldAt x 24 8, bitsAt x 32 32, bitsAt x 64 32, fieldAt x 96 16⟩

def lodgeBits (ls : List Line) (ds : List Section) : List (BitVec 128) := dropPadding (entries 128 (sectionLines ls ds 0x14 0xFFFF))

/-- Lodging stages of a home stack, in stage order: kind 0x05, every tile in a block that faces the stack (R287). -/
def lodgeStagesOf (gs : List Stage) (home : Nat) : List Stage :=
  gs.filter (fun g => g.kind == 5 && g.tiles != [] && g.tiles.all (fun t => (blocksFacing home).contains (tileBlock t.1)))

/-- The placement a held image makes: the base, or the alternate of a field. -/
def placementOf (ls : List Line) (alt : Option Nat) : Placement :=
  let h := nth 0 ls 0
  let ds := effective (directory ls) alt
  { imageId := fieldAt h 192 64, weightsId := fieldAt h 256 64, profiles := byteAt h 6, draftLimit := numAt h 7 1, vocab := numAt h 12 4
    retiredMask := fieldAt h 128 64, layers := numAt h 40 2, sections := ds, lines := ls, stages := stagesIn ls ds
    lodging := (lodgeBits ls ds).map lodgeOf, alternate := alt.map (BitVec.ofNat 6) }

/-! ## The checks of class 0x01xx (R296) -/

/-- Fields that only some kinds use are 0 in the others (R279). -/
def unusedOk (d : Line) (g : Stage) : Bool :=
  let att := g.kind == 2
  let rtr := g.kind == 3
  (att || (g.cacheFmt == 0 && numAt d 12 12 == 0 && g.heads == 0 && bitsAt g.flags 1 2 == 0)) &&
  (rtr || (g.topK == 0 && g.routeScale == 0 && g.gateMode == 0 && !bitAt g.flags 3)) &&
  ((rtr && bitAt g.flags 3) || g.bypassThreshold == 0) && numAt d 36 28 == 0 && bitsAt g.flags 4 4 == 0

/-- Widths under R164. -/
def widthOk (n : Nat) : Bool := n % 32 == 0 && decide (32 ≤ n) && decide (n ≤ 2048)

/-- One stage descriptor at an index. -/
def stageOk (e : Line × Nat) : Bool :=
  let d := e.1
  let g := stageOf d []
  numAt d 0 2 == e.2 && decide (1 ≤ g.kind.toNat) && decide (g.kind.toNat ≤ 7) && decide (1 ≤ g.dwellMax) && decide (g.dwellMax ≤ 8) &&
  unusedOk d g && (!bitAt g.flags 1 || bitAt g.flags 2) &&
  (g.kind != 3 || (decide (1 ≤ g.topK) && decide (g.topK ≤ 8))) &&
  (g.kind != 2 || ((g.cacheFmt == fmtKV4 || g.cacheFmt == fmtKV8) && widthOk g.kdims && widthOk g.vdims && (!g.vShared || decide (g.vdims ≤ g.kdims)) &&
    decide (1 ≤ g.heads) && !f32Neg g.decay && g.decay != 0 && decide (g.decay.toNat ≤ 0x3F800000) && posNormal g.cacheTscale))

/-- The stage sections hold the counted entries, padded with 0 (R570). -/
def stagesOk (ls : List Line) (ds : List Section) : Bool :=
  let sd := stageDescs ls ds
  let n := ((sd.take (stageCount ls)).map descTiles).sum
  let te := entries 64 (sectionLines ls ds 0x12 0xFFFF)
  decide (stageCount ls ≤ sd.length) && (sd.drop (stageCount ls)).all (fun l => numAt l 0 64 == 0) &&
  (sd.take (stageCount ls)).zipIdx.all stageOk && decide (n ≤ te.length) && (te.drop n).all (· == 0)

/-- A tensor descriptor: R41, R46 and its FORMAT. -/
def tensorOk (x : BitVec 128) : Bool :=
  posNormal (fieldAt x 0 32) && decide (1 ≤ bitsAt x 48 8) && decide (bitsAt x 48 8 ≤ 5) &&
  (bitsAt x 48 8 != 1 || bitsAt x 40 8 == 0)

/-- A credit entry's reserved bits. -/
def creditBitsOk (x : Word) : Bool :=
  bitsAt x 20 4 == 0 && (!bitAt x 30 || (bitsAt x 16 4 == 0 && bitsAt x 8 8 == 0))

/-- A landing entry: MEM, the range within its memory, alignment in the weight store (R282, R283). -/
def landingOk (x : Word) : Bool :=
  let m : BitVec 2 := fieldAt x 28 2
  let n := bitsAt x 16 12 + 1
  !bitAt x 31 || (m != 3 && decide (bitsAt x 0 16 + n ≤ memLines m) && (m != memWs || (bitsAt x 0 16 % 8 == 0 && n % 8 == 0)))

/-- A weight-map entry (R285). -/
def weightOk (x : BitVec 128) : Bool :=
  bitsAt x 64 64 == 0 && bitsAt x 32 16 % 8 == 0 && bitsAt x 48 16 % 8 == 0 && decide (bitsAt x 32 16 + bitsAt x 48 16 ≤ 16384)

/-- A lodging-list entry (R287). -/
def lodgeOk (x : BitVec 128) : Bool := bitsAt x 112 16 == 0 && decide (bitsAt x 24 8 ≤ 1) && decide (bitsAt x 16 8 < 24)

/-- Page p of a tile is a placement page. -/
def mapBit (ls : List Line) (ds : List Section) (t : TileId) (p : Nat) : Bool :=
  bitAt (nth 0 (sectionLines ls ds 0x9 t) (p / 512)) (p % 512)

/-- A tile's tables and maps. -/
def tileTablesOk (ls : List Line) (ds : List Section) (t : TileId) : Bool :=
  (entries 32 (sectionLines ls ds 0x3 t)).all creditBitsOk && (entries 32 (sectionLines ls ds 0x5 t)).all landingOk &&
  (entries 64 (sectionLines ls ds 0x6 t)).all (fun x => bitsAt x 40 23 == 0) &&
  (dropPadding (entries 128 (sectionLines ls ds 0xC t))).all weightOk &&
  (sectionLines ls ds 0xB t).zipIdx.all (fun e => mapBit ls ds t (e.2 / 32) || e.1 == 0)

/-- A field's barrier entries (R286). -/
def barrierOk (x : BitVec 128) : Bool := bitsAt x 32 32 == 0 && decide (bitsAt x 8 8 < 64)

/-- Fork entry g of a tile's section delivers locally, and into which queue. -/
def leafQueue (ls : List Line) (ds : List Section) (g : Nat) (t : TileId) : Option Nat :=
  let x := nth (0 : Word) (entries 32 (sectionLines ls ds 0x8 t)) g
  if bitAt x 31 && bitAt x 0 && decide (bitsAt x 16 8 < 16) then some (bitsAt x 16 8) else none

/-- Credits that one credit entry allots, by (tile, queue): its own, or one for every leaf of its group (R281). -/
def allotments (ls : List Line) (ds : List Section) (ts : List TileId) (x : Word) : List ((TileId × Nat) × Nat) :=
  if !bitAt x 31 then []
  else if bitAt x 30 then ts.filterMap (fun t => (leafQueue ls ds (bitsAt x 0 16) t).map (fun q => ((t, q), bitsAt x 24 6)))
  else [((fieldAt x 0 16, bitsAt x 16 8), bitsAt x 24 6)]

/-- No pigeonhole is allotted more than 32 credits. -/
def creditsOk (ls : List Line) (ds : List Section) : Bool :=
  let ts := sectionTiles ds
  let all := ts.flatMap (fun t => (entries 32 (sectionLines ls ds 0x3 t)).flatMap (allotments ls ds ts))
  all.all (fun a => decide (((all.filter (fun b => b.1 == a.1)).map Prod.snd).sum ≤ 32))

/-- One placement, the base or an alternate, under every check of class 0x01xx. -/
def placementOk (ls : List Line) (alt : Option Nat) : Bool :=
  let ds := effective (directory ls) alt
  let ts := placedTiles ls ds
  stagesOk ls ds && (dropPadding (entries 128 (sectionLines ls ds 0x11 0xFFFF))).all tensorOk && (lodgeBits ls ds).all lodgeOk &&
  (sectionTiles ds).all (tileTablesOk ls ds) &&
  ds.all (fun e => e.kind != 0x13 || (entries 128 (secLines ls e)).all barrierOk) && creditsOk ls ds &&
  ts.all (fun t => !bitAt (fieldAt (nth 0 ls 0) 128 64 : BitVec 64) (tileField t) && (match alt with | some f => tileField t != f | none => true))

/-- Fields in which the base places a tile. -/
def baseFields (ls : List Line) : List Nat := ((placedTiles ls (effective (directory ls) none)).map tileField).dedup

/-- Alternates that the image holds. -/
def alternates (ls : List Line) : List Nat := ((directory ls).filterMap (fun e => if e.alt = 0xFF then none else some e.alt.toNat)).dedup

/-- An alternate places nothing in its own field. -/
def alternatesClear (ls : List Line) : Bool := (directory ls).all (fun e => e.alt == 0xFF || !e.inField e.alt.toNat)

/-- The base and every alternate. -/
def variants (ls : List Line) : List (Option Nat) := none :: (alternates ls).map some

/-- Every check of class 0x01xx. -/
def imageOk (ls : List Line) : Bool :=
  headerOk ls && directoryOk ls && (baseFields ls).all (fun f => (alternates ls).contains f) && alternatesClear ls &&
  (variants ls).all (placementOk ls)

/-! ## The checks of class 0x03xx (R275, R296) -/

/-- Pool pages of a tile under a placement. -/
def poolOf (ls : List Line) (ds : List Section) (t : TileId) : Nat := (List.range 2016).countP (fun p => !mapBit ls ds t p)

/-- Every attention tile has the pool of R275. -/
def poolsOk (ls : List Line) (p : Placement) : Bool :=
  p.stages.all (fun g => g.kind != 2 || g.tiles.all (fun t => decide (max 448 (8 * openPages g) ≤ poolOf ls p.sections t.1)))

/-- Pinned experts of a home stack are fewer than its lodging stages (R215). -/
def pinsOk (p : Placement) (pinned : LodgeEntry → Bool) : Bool :=
  (List.range 24).all (fun h =>
    let n := (p.lodging.filter (fun e => e.home == h && pinned e)).length
    n == 0 || decide (n < (lodgeStagesOf p.stages h).length))

/-- Cache layouts of a placement's stages (R355). -/
def layouts (p : Placement) : List (BitVec 16 × Bool × Byte × Nat × Nat × Bool) :=
  (p.stages.filter (fun g => g.kind == 2)).map (fun g => (g.layer, bitAt g.flags 0, g.cacheFmt, g.kdims, g.vdims, g.vShared))

/-- Fields that no placement may use: retired ones and lost ones (R295, R296). -/
def State.retiredFields (s : State) : List Nat := (List.range 64).filter (fun f => (s.field f).retired || (s.field f).lost)

/-- A session of another tenant than the one the next load makes the Express tenant is open (R330). -/
def State.otherTenants (s : State) : Bool := s.dev.sessions.any (fun e => e.2.state != .free && e.2.tenant != s.dev.nextTenant)

/-- The class of an expert: as LODGE_POLICY set it, else the list's default (R215, R287). -/
def State.expertPinned (s : State) (e : LodgeEntry) : Bool := (Tbl.get none s.dev.pinned e.expert.toNat).getD e.cls == 1

/-- The checks of class 0x03xx with their statuses, for the profile in force once the load completes. -/
def loadChecks (s : State) (g : Image) : List (Bool × BitVec 16) :=
  let ls := g.records
  let p := placementOf ls none
  let v := variants ls
  [(!s.retiredFields.all (fun f => bitAt p.retiredMask f), 0x0304),
   (!bitAt p.profiles (if s.dev.nextProfile = 2 then 1 else 0), 0x0304),
   ((s.image p.weightsId).isNone, 0x0303),
   (!v.all (fun a => poolsOk ls (placementOf ls a) && pinsOk (placementOf ls a) s.expertPinned), 0x0304),
   (s.dev.nextProfile == 2 && decide (p.draftLimit < 8), 0x0304),
   (s.dev.sessions.any (fun e => e.2.state != .free) &&
      (match s.dev.placement with | some q => layouts q != layouts p | none => false), 0x0304),
   (s.dev.profile != 2 && s.dev.nextProfile == 2 && s.otherTenants, 0x0305),
   (s.dev.profile == 2 && s.dev.nextProfile != 2 && (Tbl.get {} s.dev.tenantKeys s.dev.expressTenant.toNat).gen == 0, 0x0307)]

/-! ## Loading one tile (R234, R273, R274, R374) -/

/-- A table of the values of a list by index. -/
def tblOf {α : Type} [DecidableEq α] (d : α) (xs : List α) : Tbl α := xs.zipIdx.filter (fun e => decide (e.1 ≠ d)) |>.map (fun e => (e.2, e.1))

def creditOf (x : Word) : CreditEntry :=
  if bitAt x 31 then
    { valid := true, grp := bitAt x 30, allot := bitsAt x 24 6, queue := fieldAt x 16 8, target := fieldAt x 0 16, held := bitsAt x 24 6 }
  else {}

def landingOf (x : Word) : Landing :=
  if bitAt x 31 then { valid := true, ring := bitAt x 30, mem := fieldAt x 28 2, count := bitsAt x 16 12 + 1, first := bitsAt x 0 16 } else {}

def circularOf (x : BitVec 64) : Circular :=
  if bitAt x 63 then { valid := true, readers := bitsAt x 32 8, group := fieldAt x 24 8, lines := bitsAt x 12 12 + 1, first := bitsAt x 0 12 } else {}

def treeOf (x : BitVec 64) : TreeEntry :=
  if bitAt x 63 then ⟨true, fieldAt x 40 3, fieldAt x 32 8, fieldAt x 16 5, fieldAt x 0 16⟩ else {}

def forkOf (x : Word) : ForkEntry :=
  if bitAt x 31 then { valid := true, up := fieldAt x 24 3, localQueue := fieldAt x 16 8, out := fieldAt x 0 5 } else {}

/-- The weight-map entries of a tile: SRC, DST, LINES (R285). -/
def weightMap (p : Placement) (t : TileId) : List (Nat × Nat × Nat) :=
  (dropPadding (entries 128 (sectionLines p.lines p.sections 0xC t))).map (fun x => (bitsAt x 0 32, bitsAt x 32 16, bitsAt x 48 16))

/-- Fill physical weight-store lines from the master copy, each entry at DST xor `half`. -/
def fillWeights (g : Image) (half : Nat) (es : List (Nat × Nat × Nat)) (m : Mem) : Mem :=
  es.foldl (fun m e => (List.range e.2.2).foldl (fun m i => Mem.writeLine m ((e.2.1 + i) ^^^ half) (g.line (e.1 + i))) m) m

/-- The program of a tile. -/
def programOf (p : Placement) (t : TileId) : Tbl (BitVec 64) :=
  tblOf 0 ((entries 64 (sectionLines p.lines p.sections 0x1 t)).take 4096)

/-- Initial registers: s1 to s31, then a1 to a15. -/
def initialWords (p : Placement) (t : TileId) : List Word := entries 32 (sectionLines p.lines p.sections 0x2 t)

def initialS (p : Placement) (t : TileId) : Tbl Word := tblOf 0 ((0 : Word) :: (initialWords p t).take 31)
def initialA (p : Placement) (t : TileId) : Tbl Word := tblOf 0 ((0 : Word) :: ((initialWords p t).drop 31).take 15)

/-- Slab contents on placement pages, with the firmware reserve kept. -/
def slabOf (p : Placement) (t : TileId) (old : Mem) : Mem :=
  (sectionLines p.lines p.sections 0xB t).zipIdx.foldl (fun m e =>
    if mapBit p.lines p.sections t (e.2 / 32) then Mem.writeLine m e.2 e.1 else m) (old.filter (fun c => decide (lineAddr slabReserve ≤ c.1)))

/-- Ownership of a tile's pages: placement pages 0x0, pool pages 0x7 (R274). -/
def ownersOf (p : Placement) (t : TileId) : Tbl Word :=
  tblOf 0 ((List.range 2016).map (fun i => if mapBit p.lines p.sections t i then 0 else ownWord 7 0 0))

/-- Program, registers and tables: the program starts at PC 0 with nothing begun, waiting or open. -/
def loadProgram (p : Placement) (t : TileId) (x : Tile) : Tile :=
  let sec (k : BitVec 16) : List Line := sectionLines p.lines p.sections k t
  { x with
    s := initialS p t, a := initialA p t, pc := 0, loops := [], ctx := {}, begun := false, entry := 0, issueq := [], seq := .running
    wait := .none, heldWave := none, imem := programOf p t, slots := [], blockEnds := [], passes := [], killed := [], written := 0, tables := []
    pigeonholes := [], takes := [], credits := tblOf {} ((entries 32 (sec 0x3)).map creditOf), templates := tblOf 0 (entries 128 (sec 0x4))
    landings := tblOf {} ((entries 32 (sec 0x5)).map landingOf), circulars := tblOf {} ((entries 64 (sec 0x6)).map circularOf)
    descq := [], running := [], served := [], sb := [], inbox := [], cardHold := [], latches := [], weevils := [], sampler := [], regBlocks := 0, maxDwell := 0
    router := { x.router with
      trees := tblOf {} ((entries 64 (sec 0x7)).map treeOf), forks := tblOf {} ((entries 32 (sec 0x8)).map forkOf)
      nodes := [], parts := [], waiting := [], nodeCounted := [], receipts := [], reported := [] } }

/-- Facing 0, weights at physical lines DST, working-buffer contents. -/
def loadStores (p : Placement) (g : Image) (t : TileId) (x : Tile) : Tile :=
  { x with facing := 0, ws := fillWeights g 0 (weightMap p t) [], wb := Mem.writeLines [] 0 (sectionLines p.lines p.sections 0xA t) }

/-- What a wake from DIAPAUSE reloads: all but the slab and its ownership (R399). -/
def reloadTile (p : Placement) (g : Image) (t : TileId) (x : Tile) : Tile := loadStores p g t (loadProgram p t x)

/-- Slab contents written again on placement pages (R452), where a line that no section names is an all-zero parcel (R273). -/
def refillSlab (p : Placement) (t : TileId) (m : Mem) : Mem :=
  (sectionLines p.lines p.sections 0xB t).zipIdx.foldl (fun m e => if mapBit p.lines p.sections t (e.2 / 32) then Mem.writeLine m e.2 e.1 else m)
    (m.filter (fun c => !mapBit p.lines p.sections t (c.1 / lineAddr 32)))

/-- A failed tile's content on its new site: everything the placement gives it, its slab frames kept (R452, R460). -/
def refillTile (p : Placement) (g : Image) (t : TileId) (x : Tile) : Tile := { reloadTile p g t x with slab := refillSlab p t x.slab }

/-- A tile of a placement load. -/
def loadTile (p : Placement) (g : Image) (t : TileId) (x : Tile) : Tile :=
  { reloadTile p g t x with slab := slabOf p t x.slab, owners := ownersOf p t, shareScores := [] }

/-- A field's barrier table; the latches of its tiles are cleared with their load (R160, R286). -/
def barrierEntryOf (x : BitVec 128) : BarrierEntry :=
  if x = 0 then {} else ⟨true, fieldAt x 0 8, fieldAt x 8 6, bitsAt x 16 16, fieldAt x 64 64⟩

def loadField (p : Placement) (f : Nat) (x : FieldCtl) : FieldCtl :=
  { x with
    barriers := tblOf {} (((entries 128 (sectionLines p.lines p.sections 0x13 (BitVec.ofNat 16 f))).take 16).map barrierEntryOf)
    arrivals := [], reports := [], releases := [] }

/-! ## Lodging at load (R213, R215) -/

/-- Lodging stages of a home stack that may take an expert: its mask over the stack's stages (R287). -/
def State.lodgeStages (s : State) (home : Nat) : Nat :=
  match s.dev.placement with
  | none => 0
  | some p => (lodgeStagesOf p.stages home).length

/-- Where the lines of an expert's extent go on a tile of a lodging stage: the landing that takes the pushes, and the lines of the
extent in their order. The manual names neither (R216, R287; log entry 160). -/
opaque extentShare (image : BitVec 64) (expert : BitVec 16) (t : TileId) : Fin 16 × List Nat

/-- Push lines into a tile's weight store through a landing, each counted for the FILL claims of its range (R120, R216). -/
def pushExtent (k : Fin 16) (ls : List Line) (x : Tile) : Tile :=
  let e := Tbl.get ({} : Landing) x.landings k.val
  if !e.valid || e.mem != memWs then x
  else (ls.take e.count).zipIdx.foldl (fun y p => (y.writeLine memWs (e.first + p.2) p.1).sbCount false memWs (e.first + p.2)) x

/-- The lines of an expert's extent in the stack master copy (R287, R373). -/
def State.extentLines (s : State) (e : LodgeEntry) : List Line :=
  match s.dev.placement with
  | none => []
  | some p => match s.image p.weightsId with
    | some g => (g.records.drop e.first).take e.lines
    | none => []

/-- An expert's payload streams into the tiles of a home stack's lodging stage (R216). -/
def streamExtent (e : LodgeEntry) (stage : Nat) (s : State) : State :=
  match s.dev.placement with
  | none => s
  | some p =>
    let ls := s.extentLines e
    (nth ({} : Stage) (lodgeStagesOf p.stages e.home) stage).tiles.foldl (fun s t =>
      let h := extentShare p.imageId e.expert t.1
      s.updTile t.1 (pushExtent h.1 (h.2.map (nth 0 ls)))) s

/-- Lodged experts whose stage has one of some tiles stream in again: a weight store that was lost or reloaded holds them no more (R216,
R452; log entry 162). -/
def relodge (ts : List TileId) (s : State) : State :=
  match s.dev.placement with
  | none => s
  | some p => p.lodging.foldl (fun s e => (List.range 16).foldl (fun s i =>
      let g := Tbl.get ({} : LodgeStage) (s.stk e.home).stages i
      if g.st == .lodged && g.expert == e.expert && (nth ({} : Stage) (lodgeStagesOf p.stages e.home) i).tiles.any (fun t => ts.contains t.1) then
        streamExtent e i s
      else s) s) s

/-- Each pinned expert is lodged at the load into the lowest EMPTY stage it may take. -/
def lodgePinned (s : State) (e : LodgeEntry) : State :=
  let x := s.stk e.home
  match (List.range (s.lodgeStages e.home)).find? (fun i => bitAt e.mask i && (Tbl.get ({} : LodgeStage) x.stages i).st == .empty) with
  | none => s
  | some i => streamExtent e i (s.putStk e.home { x with
      stages := Tbl.set {} x.stages i { st := .lodged, expert := e.expert, lastUse := x.uses, pinned := true }, uses := x.uses + 1 })

def loadLodging (s : State) : State :=
  match s.dev.placement with
  | none => s
  | some p =>
    let s0 := { s with stackCtls := Tbl.mapV {} (fun (x : Stack) => { x with stages := [], queue := [] }) s.stackCtls }
    (p.lodging.filter (fun e => s0.expertPinned e)).foldl lodgePinned s0

/-! ## The load (R6, R330, R355, R374) -/

/-- Put a placement in force: every tile it uses, every field's barrier table, and the lodging stages; sleeping
blocks of those tiles are woken (R401). -/
def installPlacement (p : Placement) (ts : List TileId) (load : TileId → Tile → Tile) (s : State) : State :=
  let s1 := ts.foldl (fun s t => s.updTile t (load t)) (wakeTiles ts s)
  let s2 := (List.range 64).foldl (fun s f => s.updField f (loadField p f)) s1
  loadLodging (s2.updDev (fun d => { d with placement := some p, experts := [] }))

/-- Records of an Express session are sealed as Hive returns (R330). -/
def sealAll (s : State) : State :=
  (s.dev.sessions.map Prod.fst).foldl (fun s n => resealSession (s.session n).tenant 0 n s) s

/-- Configuration record: the profiles in force and chosen, keeper, Express tenants in force and chosen, favoured session, slot
length, cap, and every tenant's quotas (R482); the manual gives no layout. -/
def configBody (s : State) : List Byte :=
  let d := s.dev
  [BitVec.ofNat 8 (d.profile.toNat + 16 * d.nextProfile.toNat), d.keeperTo] ++ bytesOf 2 (d.expressTenant.setWidth 16) ++
  bytesOf 2 (d.nextTenant.setWidth 16) ++ bytesOf 2 d.favoured ++ bytesOf 2 d.slotUs ++ bytesOf 2 s.power.capW ++
  d.quotas.flatMap (fun e => leBytes 2 e.1 ++ leBytes 2 e.2.maxOpen ++ leBytes 2 e.2.maxResident ++ leBytes 2 e.2.minResident ++
    leBytes 2 e.2.maxStackGib ++ leBytes 4 e.2.maxBudget ++ leBytes 2 (e.2.maxFamily + 32768 * e.2.fixedSlots.toNat))

/-- The profile that a load puts in force (R6, R330). A change is journalled, and Hive's return ends boost (R7, R482). -/
def takeProfile (s : State) : State :=
  let was := s.dev.profile
  let s1 := s.updDev (fun d => { d with profile := d.nextProfile, expressTenant := d.nextTenant })
  if was = s1.dev.profile ∧ s.dev.expressTenant = s1.dev.expressTenant then s1
  else
    let s2 := journalAdd kindConfig 0 (configBody s1) s1
    if was = 2 ∧ s1.dev.profile ≠ 2 then sealAll (endBoost s2) else s2

/-- Frames that no session's pages hold any more after a load. -/
def forgetFrames (s : State) : State :=
  s.updDev (fun d => { d with sessions := d.sessions.map (fun e =>
    (e.1, { e.2 with
      folios := e.2.folios.map (fun f => { f with tile := none }), sealing := []
      adapter := e.2.adapter.map (fun a => { a with pages := [] }) })) })

/-- What a placement load leaves on every tile, used or not: no finisher table and no release latch (R89, R160). -/
def clearTiles (s : State) : State := { s with tiles := Tbl.mapV {} (fun (x : Tile) => { x with tables := [], latches := [] }) s.tiles }

/-- Step 4 of R355: the image's base placement goes into force. The classes that LODGE_POLICY gave stay with the experts that the new
list names too (R215; DESIGN CHOICE, log entry 156). -/
def installImage (g w : Image) (s : State) : State :=
  let p := placementOf g.records none
  forgetFrames (takeProfile (installPlacement p (placedTiles p.lines p.sections) (fun t => loadTile p w t)
    ((clearTiles s).updDev (fun d => { d with pinned := d.pinned.filter (fun e => p.lodging.any (fun x => x.expert.toNat == e.1)) }))))

/-- Cancel a build: its staging pages go to scrubbing (R376, R378). -/
def cancelBuild (s : State) : State :=
  let s1 := s.dev.swap.pages.foldl (fun s e => s.updTile e.1 (fun x => e.2.foldl (fun x p => x.release p 1) x)) s
  s1.updDev (fun d => { d with swap := {} })

/-- A wave that still has to commit: while a field's loss holds every wave, a discarded one waits for the load (R295). -/
def State.inFlightWave (s : State) (v : Wave) : Bool := !(v.discarded && s.dev.wavesHeld)

/-- A session with no wave in flight that stands in its slabs, for a load or a flow stop to park (R355, R440). -/
def idleStanding (s : State) (e : Nat × Session) : Bool :=
  let busy := s.dev.waves.any (fun w => match w.2 with | some v => v.session.toNat == e.1 && s.inFlightWave v | none => false)
  !busy && (e.2.state == .resident || e.2.state == .running)

/-- Sessions that a load parks now; those that rebuild on a field lost for good park too (R295). -/
def loadParks (s : State) (e : Nat × Session) : Bool := idleStanding s e || (s.dev.wavesHeld && e.2.state == .rebuilding)

/-- While the coolant stands still, every session parks as its last wave commits (R440). -/
def advanceStop (s : State) : State :=
  if s.coolant.flowStop then (s.dev.sessions.filter (idleStanding s)).foldl (fun s e => startPark e.1 s) s else s

/-- A session still holds frames that the load waits for. -/
def loadWaits (x : Session) : Bool := x.state != .suspended && x.state != .free && x.folios.any (fun f => f.tile.isSome)

/-- A field that holds a tile of the placement in force is lost (R295). -/
def State.placementBroken (s : State) : Bool :=
  match s.dev.placement with
  | some p => (placedTiles p.lines p.sections).any (fun t => (s.field (tileField t)).lost)
  | none => false

/-- Waves that an event has held go on once nothing is missing; the interval is journalled (R469). -/
def releaseHold (s : State) : State :=
  if s.placementBroken || s.dev.reloads != [] then s
  else
    let s1 := match s.dev.heldSince with
      | some t => journalAdd kindFault 0 (bytesOf 8 t ++ bytesOf 8 s.dev.time) s
      | none => s
    s1.updDev (fun d => { d with wavesHeld := false, heldSince := none })

/-- R355 while a load waits: resident sessions park; with no wave in flight and no frame left, the placement is installed,
the held waves are released and the letter completes. -/
def advanceLoad (s : State) : State :=
  match s.dev.loadFor with
  | none => s
  | some k =>
    match s.letter k with
    | none => s.updDev (fun d => { d with loadFor := none })
    | some r =>
      let s1 := (s.dev.sessions.filter (loadParks s)).foldl (fun s e => startPark e.1 s) s
      let flying := s1.dev.waves.any (fun w => match w.2 with | some v => s1.inFlightWave v | none => false)
      if flying || s1.dev.sessions.any (fun e => e.2.state == .parking || loadWaits e.2) then s1
      else
        let id : BitVec 64 := BitVec.ofNat 64 (leAt r.params 0 8)
        match s1.image id with
        | none => s1
        | some g =>
          match s1.master (placementOf g.records none) with
          | none => s1
          | some w =>
            finishLetter k stDone [] [] (releaseHold ((installImage g w s1).updDev (fun d => { d with loadFor := none, reloads := [] })))

end Sys2Proof.Machine
end

