-- ==== Sys2Proof/Machine/Sessions.lean ====
section
/-! DEFINITION. Session letters, the letter queue of a session and the session state machine (R300 to R306, R316 to R324,
R341 to R343, R352, R357). -/

namespace Sys2Proof.Machine

/-- The n-th session that arrives from a peer or from a keeper whose copy this device never wrote (R322, R323). -/
opaque arrivedSession : Nat → Session

/-- Little-endian bytes of a count. -/
def countBytes (n : Nat) : List Byte := leBytes 4 n

/-- Result bytes of the highest committed position (R341). -/
def topBytes (x : Session) : List Byte :=
  match x.highest with
  | some h => leBytes 4 h
  | none => bytesOf 4 Config.noPosition

/-! ## Checks of session letters -/

/-- Statuses of a session's state (R305): step 9 of R350. -/
def stateChecks (l : Letter) (s : State) : List (Bool × BitVec 16) :=
  let x := s.session l.session.toNat
  [(x.state == .closing || x.closeKey.isSome, 0x0107), (x.state == .suspended, 0x0207), (x.state == .migrating, 0x0401)]

/-- Busy conditions of a letter that enters the queue (R352, R357): step 11 of R350. -/
def busyChecks (l : Letter) (s : State) : List (Bool × BitVec 16) :=
  [(s.dev.draining, 0x0403), (decide (16 ≤ (s.session l.session.toNat).queue.length), 0x0401)]

/-- Statuses of R305, R352 and R357 for a letter that enters the queue. -/
def queueChecks (l : Letter) (s : State) : List (Bool × BitVec 16) := stateChecks l s ++ busyChecks l s

/-- VOCAB of the placement in force; without one no ID is out of range. -/
def State.tokenOk (s : State) (w : Word) : Bool :=
  match s.dev.placement with
  | some p => decide (w.toNat < p.vocab)
  | none => true

/-- Position after the highest committed one. -/
def Session.nextPos (x : Session) : Nat := (x.top + 1).toNat

/-- A letter that would commit a position above 16,777,215 (R343). -/
def overPosition (x : Session) (n : Nat) : Bool := decide (x.nextPos + n > 16777216)

/-! ## Letters that end with a state change -/

/-- The results of a GENERATE that ends (R341). -/
def generateResults (r : LetterRec) (code : Byte) : List Byte := leBytes 4 r.emitted ++ [code, 0, 0, 0]

/-- End a session's letter: GENERATE as done with an END code, any other with a status. -/
def endSessionLetter (k : LetterKey) (code : Byte) (status : BitVec 16) (s : State) : State :=
  match s.letter k with
  | none => s
  | some r =>
    if r.opcode = opGenerate ∧ r.progressed then
      finishLetter k stDone (generateResults r code) (tokenTrain r.unsent) s
    else finishLetter k status [] [] s

/-- CLOSE proceeds (R304, R334, R352): the running GENERATE ends with END 0x02, every other letter with 0x0107; the frames go to
scrubbing with CLOSE_COMPLETE. -/
def closeNow (n : Nat) (s : State) : State :=
  let x := s.session n
  let s1 := abandonAdapt n (match x.closeKey with | some k => progress k s | none => s)
  let s2 := match x.queue with
    | [] => s1
    | k :: ks => ks.foldl (fun s j => finishLetter j 0x0107 [] [] s) (endSessionLetter k 0x02 0x0107 s1)
  s2.updSession n (fun y => { y with state := .closing, queue := [] })

/-! ## FORK (R316 to R318) -/

/-- A sealed frame becomes shared: every page takes the SHARED state of the family (R317). -/
def shareFolio (tenant : BitVec 12) (family : BitVec 16) (f : FolioRef) (s : State) : State :=
  match f.tile, f.shared with
  | some t, false => s.updTile t (fun x => x.setOwners f.page f.pages (headBody 3 tenant family))
  | _, _ => s

/-- A child's own copy of an open folio of its parent; none when no pool pages are free. -/
def copyOpen (parent child : Nat) (tenant : BitVec 12) (f : FolioRef) (s : State) : Option (FolioRef × State) :=
  match s.layerStage f.layer with
  | none => none
  | some g =>
    match folioFrame s parent g f, chooseFrame s (s.session parent) g f.pages poolReserve none with
    | some k, some c =>
      let k' := { k with session := BitVec.ofNat 16 child }
      some ({ f with tile := some c.1, page := c.2, trail := [], gen := 0, counter := 0, streamed := false },
        placeBody c.1 c.2 1 tenant (BitVec.ofNat 16 child) (recordBody g k') s)
    | _, _ => none

/-- Copy every folio for a child: sealed ones shared, open ones copied. -/
def forkFolios (parent child : Nat) (tenant : BitVec 12) : List FolioRef → State → Option (List FolioRef × State)
  | [], s => some ([], s)
  | f :: fs, s =>
    if f.sealed then
      match forkFolios parent child tenant fs s with
      | none => none
      | some r => some ({ f with shared := true } :: r.1, r.2)
    else
      match copyOpen parent child tenant f s with
      | none => none
      | some c =>
        match forkFolios parent child tenant fs c.2 with
        | none => none
        | some r => some (c.1 :: r.1, r.2)

/-- Lines with a frame's scores, as header lines 5 to 8 hold them or as session `n` holds its own. -/
def scoreLines (n : Nat) (s : State) (f : FolioRef) : List Line :=
  match s.layerStage f.layer with
  | none => []
  | some g => match folioFrame s n g f with
    | some k => vecLines k.weevils
    | none => []

/-- The parent and the child each hold scores of their own of every folio they now share, both starting as the parent's (R318); none
when a tile has no page for them. -/
def forkScores (parent child : Nat) (tenant : BitVec 12) : List FolioRef → State → Option State
  | [], s => some s
  | f :: fs, s =>
    match f.tile, f.sealed with
    | some t, true =>
      let ws := scoreLines parent s f
      let own : Option State := if f.shared then some s else holdScores parent tenant t f.page ws s
      (match own.bind (holdScores child tenant t f.page ws) with
        | none => none
        | some s' => forkScores parent child tenant fs s')
    | _, _ => forkScores parent child tenant fs s

/-- Family ID of a session after a FORK of it: its own ID when it has none (R317). -/
def forkFamily (n : Nat) (x : Session) : BitVec 16 := if x.family = 0 then BitVec.ofNat 16 n else x.family

/-- The child's record: a copy of the parent's, its adapter instance without pages yet (R316). -/
def childSession (p : Session) (family : BitVec 16) (seed : BitVec 64) (fs : List FolioRef) : Session :=
  { p with
    state := .resident, seed := seed, family := family, folios := fs, adapter := p.adapter.map (fun a => { a with pages := [] })
    queue := [], closeKey := none, adapt := none, sealing := [], logRec := {}, stateRec := {}, adapterRec := {}, superseded := []
    keeperState := [], keeperLog := 0, dead := [] }

/-- Run a FORK on a resident parent; none while pool pages are missing, or a resident place of the tenant (R309, R328). -/
def forkNow (n : Nat) (child : BitVec 16) (seed : BitVec 64) (s : State) : Option State :=
  let p := s.session n
  let fam := forkFamily n p
  if residenceFull child.toNat p.tenant s then none
  else match forkFolios n child.toNat p.tenant p.folios s with
  | none => none
  | some r =>
    match forkScores n child.toNat p.tenant p.folios r.2 with
    | none => none
    | some s0 =>
      let s1 := p.folios.foldl (fun s f => if f.sealed then shareFolio p.tenant fam f s else s) s0
      let s2 := s1.updSession n (fun y => { y with family := fam, folios := y.folios.map (fun f => if f.sealed then { f with shared := true } else f) })
      let s3 := s2.putSession child.toNat (childSession p fam seed r.1)
      residentAdapter child.toNat (s3.updDev (fun d => { d with families := Tbl.upd [] d.families fam.toNat (fun ms =>
        (if ms.contains (BitVec.ofNat 16 n) then ms else ms ++ [BitVec.ofNat 16 n]) ++ [child]) }))

/-! ## The queue (R305, R352) -/

/-- A letter of a session with what it names. -/
def Session.head (x : Session) (s : State) : Option LetterRec :=
  match x.queue with
  | [] => none
  | k :: _ => s.letter k

/-- A parked session begins to resume (R304). -/
def startResume (n : Nat) (s : State) : State := s.updSession n (fun x => { x with state := .resuming })

/-- The lines of a transfer: the session's record, every trail record it refers to, shared ones as private copies, and its token log
(R323), each sealed in Hive (R326). -/
def transferLines (s : State) (n : Nat) : List Line × State :=
  let x := s.session n
  let own := BitVec.ofNat 16 n
  let a := sendRecord n x.tenant 3 x.stateBody s
  let b := sendRecord n x.tenant 2 (tokenTrain x.tokens) a.2
  let c := sendRecord n x.tenant 5 (match x.adapter with | some i => i.lines | none => []) b.2
  (a.1.flatten ++ (x.folios.filter (fun f => f.trail != [])).flatMap (fun f =>
      storedRecord s own x.tenant f.layer 1 0 f.seqNo f.gen f.counter f.trail) ++
    x.dead.flatMap (fun d => storedRecord s own x.tenant d.layer 4 0 0 d.gen d.counter d.body) ++ b.1.flatten ++ c.1.flatten, c.2)

/-- The transfer of a session and the MIGRATE_IN of its own go out (R323, R360). -/
def sendSession (n : Nat) (peer : BitVec 4) (s : State) : State :=
  let x := s.session n
  let s1 := (abandonAdapt n s).updSession n (fun y => { y with state := .migrating, prior := x.state, peer := some peer })
  let r := transferLines (flushTrail n x.top s1) n
  (sendToward peer (slotsOf 5 (parcelBytes r.1)) r.2).updDev (fun d => { d with
    migrateOut := d.migrateOut ++ [(BitVec.ofNat 16 n, peer)]
    ownLetters := d.ownLetters ++ [(peer, opMigrateIn, BitVec.ofNat 16 n)] })

/-- MIGRATE_OUT begins (R323): the transfer and the MIGRATE_IN of its own go out; a family root with members here, or a
peer without an UP port, ends it. -/
def startMigrate (n : Nat) (k : LetterKey) (peer : BitVec 4) (s : State) : State :=
  let x := s.session n
  if x.family = BitVec.ofNat 16 n ∧ (Tbl.get [] s.dev.families n).any (fun m => m != BitVec.ofNat 16 n) then
    finishLetter k 0x0107 [] [] s
  else if !s.reaches peer then finishLetter k 0x0306 [] [] s
  else
    sendSession n peer s

/-- A queued TRIM (R341): budget, dead-letter option, or a restore; none while pool pages are missing. -/
def trimNow (n : Nat) (r : LetterRec) (s : State) : Option State :=
  let op := leAt r.params 0 1
  let a := leAt r.params 4 4
  if op = 1 then some (finishLetter r.key stDone (countBytes 0) [] (s.updSession n (fun x => { x with budget := a })))
  else if op = 3 then some (finishLetter r.key stDone (countBytes 0) [] (s.updSession n (fun x => { x with deadOpt := decide (a = 1) })))
  else
    (restoreAll n a (leAt r.params 8 4) s.attention [] s).map (fun q =>
      let c := q.1.dedup.length
      finishLetter r.key stDone (countBytes c) [] (q.2.updLetter r.key (fun y => { y with emitted := c })))

/-- Sessions open on the device, and of one tenant. -/
def State.openCount (s : State) : Nat := s.dev.sessions.countP (fun e => e.2.state != .free)
def State.openOf (s : State) (t : BitVec 12) : Nat := s.dev.sessions.countP (fun e => e.2.state != .free && e.2.tenant == t)

/-- Members of the family a FORK would make. -/
def familySize (n : Nat) (s : State) : Nat := (Tbl.get [] s.dev.families (forkFamily n (s.session n)).toNat).length

/-- A queued FORK: refused if its child's ID has been taken meanwhile, or the device or the family has reached its limit (R300, R301,
R317). -/
def forkLetter (n : Nat) (r : LetterRec) (s : State) : Option State :=
  let child : BitVec 16 := BitVec.ofNat 16 (leAt r.params 0 2)
  if s.sessionTaken child then some (finishLetter r.key 0x0106 [] [] s)
  else if s.openCount ≥ 16384 ∨ max 1 (familySize n s) ≥ 1024 then some (finishLetter r.key 0x0301 [] [] s)
  else (forkNow n child (BitVec.ofNat 64 (leAt r.params 8 8)) s).map (fun s' => finishLetter r.key stDone [] [] s')

/-- One letter at the head of the queue: the state after it, and whether the queue moves on at once. A RESUME makes its first progress
when its frames are filled (R309, R334). -/
def runHead (n : Nat) (r : LetterRec) (s : State) : State × Bool :=
  let x := s.session n
  let s1 := progress r.key s
  let parked := x.state == .parked
  if r.opcode = opPark then
    if parked then (finishLetter r.key stDone [] [] s1, true)
    else if x.state = .resident then (startPark n s1, false) else (s, false)
  else if r.opcode = opResume then
    if parked then (startResume n s, false) else (finishLetter r.key stDone [] [] s1, true)
  else if r.opcode = opTrim then
    (match trimNow n r s1 with
      | some t => (t, true)
      | none => (autoPark n x.tenant s, false))
  else if r.opcode = opFork then
    if parked then (startResume n s, false)
    else (match forkLetter n r s1 with
      | some t => (t, true)
      | none => (autoPark n x.tenant s, false))
  else if r.opcode = opMigrateOut then
    if parked ∨ x.state = .resident then
      let t := startMigrate n r.key (BitVec.ofNat 4 (leAt r.params 0 1)) s1
      (t, (t.session n).state != .migrating)
    else (s, false)
  else if parked then (startResume n s, false)
  else (s, false)

/-- The session's state lets letters run. -/
def Session.settled (x : Session) : Bool := [SessState.resident, .running, .parked].contains x.state

/-- Run the letters at the head of the queue that need no wave. -/
def runQueue (n : Nat) : Nat → State → State
  | 0, s => s
  | fuel + 1, s =>
    let x := s.session n
    if !x.settled then s
    else match x.head s with
      | none => s
      | some r =>
        let t := runHead n r s
        if t.2 then runQueue n fuel t.1 else t.1

/-- Take up what waited for a transition or a token boundary (R304, R306): CLOSE first, then the queue. -/
def settle (n : Nat) (s : State) : State :=
  let x := s.session n
  if x.closeKey.isSome ∧ (x.settled ∨ x.state = .suspended) ∧ s.betweenWaves n then closeNow n s
  else if s.dev.loadFor.isSome || s.coolant.flowStop then s
  else
    let s1 := if x.state = .parked ∧ x.adapt.isSome then startResume n s else s
    runQueue n 17 s1

/-- Sessions whose queue waits for pool pages try again (R309). -/
def settleAll (s : State) : State := s.dev.sessions.foldl (fun s e => if e.2.queue = [] ∧ e.2.closeKey = none then s else settle e.1 s) s

/-! ## DRAIN REMOVE (R357, R495) -/

/-- Peers that may take sessions and are reached, lowest first. -/
def State.drainTo (s : State) : Option (BitVec 4) :=
  ((List.range 16).map (BitVec.ofNat 4)).find? (fun m => bitAt s.dev.drainPeers m.toNat && m != s.dev.member && s.reaches m)

/-- A session with members of its family here cannot leave as the root (R323). -/
def State.rooted (s : State) (n : Nat) : Bool :=
  (s.session n).family == BitVec.ofNat 16 n && (Tbl.get [] s.dev.families n).any (fun m => m != BitVec.ofNat 16 n)

/-- A session without letters leaves for a peer, or stays for the trail keeper. -/
def drainSession (n : Nat) (s : State) : State :=
  let x := s.session n
  if !(x.state == .resident || x.state == .parked) || x.stays || x.queue != [] || x.closeKey.isSome || !s.betweenWaves n then s
  else match s.drainTo with
    | none => s.updSession n (fun y => { y with stays := true })
    | some m =>
      if !s.rooted n then sendSession n m s
      else if s.dev.sessions.any (fun e => e.1 != n && e.2.family == x.family && e.2.state != .free && !e.2.stays) then s
      else s.updSession n (fun y => { y with stays := true })

/-- A session needs nothing more of the drain: gone, or with the keeper as far as one is named. -/
def drainedSession (s : State) (e : Nat × Session) : Bool :=
  e.2.state == .free || ((e.2.stays || e.2.state == .suspended) && (s.dev.keeperTo == 0xFF || s.keeperCurrent e.1 e.2))

/-- DRAIN REMOVE goes on: sessions leave, and with none left to move the letter completes and the device is drained. -/
def advanceDrain (s : State) : State :=
  match s.dev.draining, s.dev.drainLetter with
  | true, some k =>
    let s1 := s.dev.sessions.foldl (fun s e => drainSession e.1 s) s
    if s1.dev.sessions.all (drainedSession s1) && s1.dev.deviceState == 4 then
      let left_ := s1.dev.sessions.countP (fun e => e.2.state != .free)
      finishLetter k stDone (leBytes 4 s1.dev.drainMigrated ++ leBytes 4 left_) []
        (setDeviceState 5 (s1.updDev (fun d => { d with drainLeft := left_ })))
    else s1
  | _, _ => s

/-- Whatever a transition may have let go on: the parking of a flow stop, a load that waits, the queues, a drain. -/
def proceed (s : State) : State := advanceDrain (settleAll (advanceLoad (advanceStop s)))

/-- A letter enters its session's queue. -/
def queueLetter (l : Letter) (k : LetterKey) (s : State) : State :=
  settle l.session.toNat (s.updSession l.session.toNat (fun x => { x with queue := x.queue ++ [k] }))

/-! ## OPEN -/

/-- A budget in range (R189). -/
def budgetOk (b : Nat) : Bool := decide (1024 ≤ b) && decide (b ≤ 262144) && decide (b % 64 = 0)

/-- The budget an OPEN asks for (R341). -/
def openBudget (l : Letter) : Nat := if letterNum l 8 4 = 0 then 16384 else letterNum l 8 4

/-- Limits on one more session of a tenant (R300, R328): step 10 of R350. -/
def newSessionLimits (t : BitVec 12) (s : State) : List (Bool × BitVec 16) :=
  let q := s.quota t
  [(decide (16384 ≤ s.openCount), 0x0301), (q.maxOpen != 0 && decide (q.maxOpen ≤ s.openOf t), 0x0302)]

/-- The same, and the device takes no session while it drains or is quiesced (R357). -/
def newSessionChecks (t : BitVec 12) (s : State) : List (Bool × BitVec 16) :=
  newSessionLimits t s ++ [(s.dev.draining || s.dev.quiesced, 0x0403)]

/-- The image that ADAPTER_LOAD bound to an adapter ID (R379). -/
def State.adapterImage (s : State) (id : Byte) : Option Image :=
  if id = 0 then none else s.image (Tbl.get 0 s.dev.adapters id.toNat)

/-- A new adapter instance copied from its image: W8 records and F32 masters (R199, R379). -/
def newAdapter (s : State) (id : Byte) : Option AdapterInst :=
  (s.adapterImage id).map (fun g => { id := id, w8a := g.records.filter (fun l => Line.fmt l == fmtW8)
                                      masters := g.records.filter (fun l => Line.fmt l == fmtF32) })

def openRule (l : Letter) (s : State) : LetterRule :=
  let q := s.quota (letterTenant l)
  let a : Byte := BitVec.ofNat 8 (letterNum l 13 1)
  { session := .fresh, len := 16, train := letterTrainOk l none
    params := (letterNum l 8 4 == 0 || budgetOk (letterNum l 8 4)) && decide (letterNum l 12 1 ≤ 1) && letterZeros l 14 2 &&
      (q.maxBudget == 0 || decide (openBudget l ≤ q.maxBudget)) && (a == 0 || (s.adapterImage a).isSome)
    later := newSessionChecks (letterTenant l) s }

/-- The record OPEN makes (R300). -/
def newSession (l : Letter) (s : State) : Session :=
  { state := .resident, tenant := letterTenant l, seed := BitVec.ofNat 64 (letterNum l 0 8), budget := openBudget l
    deadOpt := letterNum l 12 1 == 1, lastWave := s.dev.time, adapter := newAdapter s (BitVec.ofNat 8 (letterNum l 13 1)) }

/-- OPEN: the session is RESIDENT at once; a tenant at its resident quota parks one of its own sessions for it (R309, R328). -/
def execOpen (l : Letter) (s : State) : Out :=
  .next (receive opOpen l (openRule l s) (fun k s =>
    let n := l.session.toNat
    let t := letterTenant l
    let s1 := (progress k s).putSession n (newSession l s)
    let s2 := finishLetter k stDone [] [] ((residentAdapter n s1).getD s1)
    if residenceFull n t s then autoPark n t s2 else s2) s)

/-! ## APPEND and GENERATE -/

def appendRule (l : Letter) (s : State) : LetterRule :=
  let n := letterNum l 0 4
  let x := s.session l.session.toNat
  { session := .open, len := 4, train := letterWordTrain l fmtU32 n
    params := decide (1 ≤ n) && decide (n ≤ 65536)
    later := [(!((letterWords l).take n).all s.tokenOk, 0x0104), (overPosition x n, 0x010A)] ++ stateChecks l s ++
      [(s.overStack (letterTenant l) (s.growthLines n), 0x0302)] ++ busyChecks l s }

def execAppend (l : Letter) (s : State) : Out :=
  .next (receive opAppend l (appendRule l s) (fun k s => queueLetter l k s) s)

/-- Stop tokens of a GENERATE. -/
def stopTokens (ps : List Byte) : List Word := (List.range (leAt ps 36 1)).map (fun i => BitVec.ofNat 32 (leAt ps (40 + 4 * i) 4))

def generateRule (l : Letter) (s : State) : LetterRule :=
  let m := letterNum l 32 4
  let n := letterNum l 36 1
  let x := s.session l.session.toNat
  { session := .open, len := 72, train := letterTrainOk l none
    params := s.settingsOk (readSettings (l.params.take 32)) && decide (1 ≤ m) && decide (m ≤ 65536) && decide (n ≤ 8) &&
      letterZeros l 37 3 && letterZeros l (40 + 4 * n) (32 - 4 * n) && (stopTokens l.params).all s.tokenOk
    later := [(overPosition x m, 0x010A)] ++ stateChecks l s ++ [(s.overStack (letterTenant l) (s.growthLines m), 0x0302)] ++ busyChecks l s }

/-- The image of the grammar a GENERATE names, 0 for none (R381). -/
def grammarImage (l : Letter) (s : State) : BitVec 64 :=
  let id := (readSettings (l.params.take 32)).grammar
  if id = 0 then 0 else Tbl.get 0 s.dev.grammars id.toNat

def execGenerate (l : Letter) (s : State) : Out :=
  .next (receive opGenerate l (generateRule l s) (fun k s =>
    queueLetter l k (s.updLetter k (fun r => { r with grammarId := grammarImage l s }))) s)

/-! ## PARK, RESUME, FORK, TRIM -/

/-- A rule of a letter without parameters. -/
def plainRule (l : Letter) (s : State) : LetterRule :=
  { session := .open, len := 0, train := letterTrainOk l none, later := queueChecks l s }

def execPark (l : Letter) (s : State) : Out := .next (receive opPark l (plainRule l s) (fun k s => queueLetter l k s) s)

def execResume (l : Letter) (s : State) : Out := .next (receive opResume l (plainRule l s) (fun k s => queueLetter l k s) s)

/-- Stack lines that a child adds to what its parent holds: its own records, every shared one counted once (R316, R328). -/
def childLines (x : Session) : Nat := ({ x with folios := x.folios.filter (fun f => !f.sealed), dead := [] } : Session).ownLines

def forkRule (l : Letter) (s : State) : LetterRule :=
  let child : BitVec 16 := BitVec.ofNat 16 (letterNum l 0 2)
  let q := s.quota (letterTenant l)
  let size := max 1 (familySize l.session.toNat s) + 1
  { session := .open, len := 16, train := letterTrainOk l none, params := letterZeros l 2 6
    later := [(child == 0, 0x0106), (s.sessionTaken child, 0x0106)] ++ stateChecks l s ++
      [(decide (size > 1024), 0x0301), (q.maxFamily != 0 && decide (size > q.maxFamily), 0x0302),
       (s.overStack (letterTenant l) (childLines (s.session l.session.toNat)), 0x0302)] ++
      newSessionChecks (letterTenant l) s ++ busyChecks l s }

def execFork (l : Letter) (s : State) : Out := .next (receive opFork l (forkRule l s) (fun k s => queueLetter l k s) s)

/-- A TRIM whose OP byte is `op`, with `ok` on its other parameters. -/
def trimRule (l : Letter) (op : Nat) (ok : Bool) (s : State) : LetterRule :=
  { session := .open, len := 12, train := letterTrainOk l none, params := decide (letterNum l 0 1 = op) && letterZeros l 1 3 && ok
    later := queueChecks l s }

def execTrimSetBudget (l : Letter) (s : State) : Out :=
  .next (receive opTrim l (trimRule l 1 (budgetOk (letterNum l 4 4) && letterZeros l 8 4) s) (fun k s => queueLetter l k s) s)

def execTrimRestoreDeadLetter (l : Letter) (s : State) : Out :=
  .next (receive opTrim l (trimRule l 2 (decide (letterNum l 4 4 ≤ letterNum l 8 4)) s) (fun k s => queueLetter l k s) s)

def execTrimSetDeadLetter (l : Letter) (s : State) : Out :=
  .next (receive opTrim l (trimRule l 3 (decide (letterNum l 4 4 ≤ 1) && letterZeros l 8 4) s) (fun k s => queueLetter l k s) s)

/-! ## CLOSE -/

def closeRule (l : Letter) (s : State) : LetterRule :=
  let x := s.session l.session.toNat
  { session := .open, len := 0, train := letterTrainOk l none
    later := [(x.state == .closing || x.closeKey.isSome, 0x0107), (s.dev.draining, 0x0403)] }

/-- CLOSE overtakes the queue: at the next token boundary while a wave runs, after a transition, otherwise at once. -/
def execClose (l : Letter) (s : State) : Out :=
  .next (receive opClose l (closeRule l s) (fun k s =>
    settle l.session.toNat (s.updSession l.session.toNat (fun x => { x with closeKey := some k }))) s)

/-- Forget a session: its ID is free, and its family loses a member (R301, R317). -/
def freeSession (n : Nat) (s : State) : State :=
  let x := s.session n
  (s.putSession n {}).updDev (fun d => { d with
    families := if x.family = 0 then d.families
      else Tbl.upd [] d.families x.family.toNat (fun ms => ms.filter (fun m => m != BitVec.ofNat 16 n)) })

/-- CLOSE_COMPLETE: frames to scrubbing, records released, the letter done. -/
def execCloseComplete (session : BitVec 16) (s : State) : Out :=
  let n := session.toNat
  let x := s.session n
  if x.state ≠ .closing then .next s
  else
    let s1 := freeSession n (releaseFrames n (dropSealing n s))
    .next (proceed (match x.closeKey with
      | some k => finishLetter k stDone [] [] s1
      | none => s1))

/-! ## Parking and resuming (R304, R320) -/

/-- The head letter of a session, ended if it has an opcode. -/
def finishHead (n : Nat) (op : BitVec 16) (s : State) : State :=
  match (s.session n).head s with
  | some r => if r.opcode = op then finishLetter r.key stDone [] [] s else s
  | none => s

/-- PARK_COMPLETE: the trail is current, the frames go to scrubbing. -/
def execParkComplete (session : BitVec 16) (s : State) : Out :=
  let n := session.toNat
  if (s.session n).state ≠ .parking then .next s
  else
    let s1 := releaseFrames n (dropSealing n (flushTrail n (s.session n).top s))
    .next (proceed (settle n (finishHead n opPark (s1.updSession n (fun x => { x with state := .parked })))))

/-- Residence of one folio: a shared frame that stands already, or a new frame filled from the trail; of a shared one the session's own
scores take their STATISTICS lines (R318, R320). -/
def residentFolio (n : Nat) (f : FolioRef) (s : State) : Option State :=
  match f.tile, s.layerStage f.layer with
  | none, some g =>
    let x := s.session n
    let body := if f.trail = [] then f.lost else f.trail
    let pages := (max f.trail.length f.lost.length + 31) / 32
    let full := body ++ List.replicate (32 * pages - body.length) 0
    let back (h : FolioRef) (s : State) : Option State :=
      let s1 := s.updSession n (fun y => { y with folios := putFolioRef f { h with scores := [] } y.folios })
      match h.tile, h.shared with
      | some t, true => holdScores n x.tenant t h.page (if h.scores = [] then scoreLines n s1 h else h.scores) s1
      | _, _ => some s1
    let twin := if f.shared then (s.dev.sessions.flatMap (fun e => e.2.folios)).find? (fun h =>
      h.shared && h.tile.isSome && h.layer == f.layer && h.seqNo == f.seqNo && h.trail == f.trail) else none
    (match twin with
      | some h => back { f with tile := h.tile, page := h.page, pages := h.pages } s
      | none =>
        (chooseFrame s x g pages poolReserve none).bind (fun c =>
          let head := if f.shared then 3 else 1
          let entry := if f.shared then x.family else BitVec.ofNat 16 n
          back { f with tile := some c.1, page := c.2, pages := pages } (placeBody c.1 c.2 head x.tenant entry full s)))
  | _, _ => some s

/-- Residence of folios; none when pool pages are missing. -/
def residentFolios (n : Nat) : List FolioRef → State → Option State
  | [], s => some s
  | f :: fs, s =>
    match residentFolio n f s with
    | none => none
    | some s' => residentFolios n fs s'

/-- Residence of every folio, and of the adapter instance. -/
def residentAll (n : Nat) (fs : List FolioRef) (s : State) : Option State := (residentFolios n fs s).bind (residentAdapter n)

/-! ### Records that cannot be opened (R327, R451, R452) -/

/-- The keeper's copy of a folio's record. -/
def State.keeperCopy (s : State) (n : Nat) (f : FolioRef) : Bool :=
  match Tbl.get none s.dev.keeperStore n with
  | some y => s.dev.keeperTo != 0xFF && y.folios.any (fun h => h.layer == f.layer && h.seqNo == f.seqNo && h.trail == f.trail)
  | none => false

/-- Positions of a body before the first that a recomputation has to form. -/
def bodyFirst (s : State) (layer : BitVec 16) (body : List Line) : Nat :=
  match s.layerStage layer with
  | none => 0
  | some g => match bodyFrame g body with
    | some k => (k.positions.foldl min 16777216)
    | none => 0

/-- A record whose tag fails or whose read cannot be corrected is never opened: the event is journalled, and the record comes from its
keeper copy, or its positions are recomputed from the token log. -/
def failRecord (n : Nat) (s : State) (f : FolioRef) : State :=
  let s1 := journalAdd kindFault (BitVec.ofNat 32 n) ([0xFA] ++ bytesOf 2 f.layer ++ bytesOf 4 f.seqNo) s
  if s.keeperCopy n f then s1
  else
    let p := bodyFirst s f.layer f.trail
    s1.updSession n (fun y => { y with
      folios := putFolioRef f { f with lost := f.trail, trail := [] } y.folios
      rebuildFrom := some (match y.rebuildFrom with | some q => min p q | none => p) })

/-- Every record that could not be read. -/
def failRecords (n : Nat) (bad : List (BitVec 16 × Word)) (s : State) : State :=
  ((s.session n).folios.filter (fun f => f.tile.isNone && f.trail != [] && bad.contains (f.layer, f.seqNo))).foldl (failRecord n) s

/-- RESUME_COMPLETE: every frame filled from its record; a session with lost positions rebuilds next. -/
def execResumeComplete (resume : ResumeEnd) (s : State) : Out :=
  let n := resume.session.toNat
  if (s.session n).state ≠ .resuming then .next s
  else
    let s0 := failRecords n resume.bad s
    let x := s0.session n
    if residenceFull n x.tenant s0 then .next (autoPark n x.tenant s0)
    else match residentAll n x.folios s0 with
      | none => .next (autoPark n x.tenant s0)
      | some s1 =>
        let s2 := match x.head s1 with | some r => if r.opcode = opResume then progress r.key s1 else s1 | none => s1
        if x.rebuildFrom.isSome then .next (s2.updSession n (fun y => { y with state := .rebuilding, prior := .resident }))
        else .next (proceed (settle n (finishHead n opResume (s2.updSession n (fun y => { y with state := .resident })))))

/-! ## Migration (R323, R324) -/

def migrateOutRule (l : Letter) (s : State) : LetterRule :=
  { session := .open, len := 4, train := letterTrainOk l none
    params := decide (letterNum l 0 1 ≤ 15) && decide (letterNum l 0 1 ≠ s.dev.member.toNat) && letterZeros l 1 3
    later := queueChecks l s }

def execMigrateOut (l : Letter) (s : State) : Out :=
  .next (receive opMigrateOut l (migrateOutRule l s) (fun k s => queueLetter l k s) s)

/-- The transfer of a session is over. -/
def endTransfer (session : BitVec 16) (s : State) : State :=
  s.updDev (fun d => { d with migrateOut := d.migrateOut.filter (fun e => e.1 != session), ownLetters := d.ownLetters.filter (fun e => !(e.2.1 == opMigrateIn && e.2.2 == session)) })

/-- MIGRATION_RECEIPT: the peer holds the session; the source closes it. After a transfer that failed first and was retried inside the
device the letter completes with 0x0503. -/
def execMigrationReceipt (move : MoveEnd) (s : State) : Out :=
  let n := move.session.toNat
  let x := s.session n
  if x.state ≠ .migrating then .next s
  else
    let s1 := (endTransfer move.session s).updDev (fun d => { d with drainMigrated := d.drainMigrated + d.draining.toNat })
    match x.queue with
    | [] => .next (s1.updSession n (fun y => { y with state := .closing }))
    | k :: ks =>
      let s2 := ks.foldl (fun s j => finishLetter j 0x0107 [] [] s) (if move.retried then touchLetter k stRetried s1 else s1)
      -- a CLOSE that came during the migration ends with it
      let s3 := match x.closeKey with | some c => finishLetter c stDone [] [] s2 | none => s2
      .next (s3.updSession n (fun y => { y with state := .closing, queue := [], closeKey := some k }))

/-- MIGRATION_FAILURE: the session is back in its prior state, the letter ends with 0x0306. -/
def execMigrationFailure (session : BitVec 16) (s : State) : Out :=
  let n := session.toNat
  let x := s.session n
  if x.state ≠ .migrating then .next s
  else
    let back : SessState := if x.prior = .resident ∧ x.rebuildFrom.isSome then .rebuilding else x.prior
    let s1 := (endTransfer session s).updSession n (fun y => { y with state := back, peer := none, stays := s.dev.draining })
    .next (proceed (settle n (match x.queue with
      | k :: _ => finishLetter k 0x0306 [] [] s1
      | [] => s1)))

/-- The arriving session: the keeper's copy where this device wrote one, else what arrives. -/
def arriving (session : BitVec 16) (keeper : Bool) (s : State) : Session :=
  match keeper, Tbl.get none s.dev.keeperStore session.toNat with
  | true, some x => x
  | _, _ => arrivedSession s.dev.arrivals

/-- Every key generation that a session's records name. -/
def Session.generations (x : Session) : List Nat :=
  x.folios.map (fun f => f.gen) ++ x.dead.map (fun d => d.gen) ++ [x.logRec.gen, x.stateRec.gen, x.adapterRec.gen]

/-- The tenant's key is held at every generation the records name (R324). -/
def keyHeld (x : Session) (k : TenantKey) : Bool :=
  x.generations.all (fun g => g == 0 || g == k.gen || (match k.older with | some o => g == o.1 | none => false))

/-- One past the newest position that stands sealed in a layer. -/
def sealedTo (x : Session) (g : Stage) : Nat :=
  ((x.folios.filter (fun f => f.sealed && f.layer == g.layer)).map (fun f =>
    match bodyFrame g (if f.trail = [] then f.lost else f.trail) with
    | some k => (k.positions.map (· + 1)).foldl max 0
    | none => 0)).foldl max 0

/-- Positions held sealed in all layers: those before the result (R322). -/
def State.sealedEverywhere (s : State) (x : Session) : Nat := (s.attention.map (sealedTo x)).foldl min x.tokens.length

/-- The session MIGRATE_IN makes (R322, R324): PARKED, with the extra tokens; from a keeper, the positions after the newest
one sealed in all layers are recomputed. -/
def arrivedAs (l : Letter) (keeper : Bool) (extra : List Word) (s : State) : Session :=
  let x := arriving l.session keeper s
  let log := x.tokens ++ extra
  { x with
    state := .parked, tenant := letterTenant l, tokens := log, highest := if log = [] then none else some (log.length - 1)
    family := 0, queue := [], closeKey := none, adapt := none, sealing := [], superseded := [], keeperState := [], keeperLog := 0
    adapter := x.adapter.map (fun a => { a with pages := [] })
    folios := x.folios.map (fun f => { f with tile := none, shared := false, streamed := false })
    rebuildFrom := if keeper then some (s.sealedEverywhere x) else none }

def migrateInRule (l : Letter) (source : Nat) (keeperOk : Bool) (s : State) : LetterRule :=
  let n := letterNum l 4 4
  let t := letterTenant l
  let x := arriving l.session (source == 2) s
  { session := .fresh, len := 8, train := letterWordTrain l fmtU32 n
    params := decide (letterNum l 0 1 = source) && keeperOk && letterZeros l 2 2 && decide (n ≤ 65536)
    later := [(!((letterWords l).take n).all s.tokenOk, 0x0104)] ++ newSessionLimits t s ++
      [(s.dev.placement.isNone || !Config.arrivalFits s.dev.arrivals, 0x0304),
       (s.dev.profile != 2 && !keyHeld x (Tbl.get {} s.dev.tenantKeys t.toNat), 0x0307),
       (s.overStack t x.stackLines, 0x0302), (s.dev.draining || s.dev.quiesced, 0x0403)] }

/-- Take a session in. -/
def takeIn (l : Letter) (keeper : Bool) (k : LetterKey) (s : State) : State :=
  let x := arrivedAs l keeper ((letterWords l).take (letterNum l 4 4)) s
  finishLetter k stDone (topBytes x) [] ((progress k s).putSession l.session.toNat x)

/-- A MIGRATE_IN has been answered: the next one is of another session (R324). -/
def nextArrival (s : State) : State := s.updDev (fun d => { d with arrivals := d.arrivals + 1 })

def execMigrateInPeer (l : Letter) (s : State) : Out :=
  .next (nextArrival (receive opMigrateIn l (migrateInRule l 1 (letterNum l 1 1 == 0) s) (takeIn l false) s))

def execMigrateInKeeper (l : Letter) (s : State) : Out :=
  .next (nextArrival (receive opMigrateIn l (migrateInRule l 2 (decide (letterNum l 1 1 ≤ 15) || letterNum l 1 1 == 0xFE) s) (takeIn l true) s))

/-! ## ADAPT (R199 to R201, R380) -/

/-- Every position of a span is retained in some layer. -/
def spanRetained (s : State) (n first last : Nat) : Bool :=
  let r := s.attention.flatMap (fun g => retainedOf (layerFolios s n g))
  (List.range (last + 1 - first)).all (fun i => r.contains (first + i))

def adaptRule (l : Letter) (s : State) : LetterRule :=
  let a := letterNum l 0 4
  let b := letterNum l 4 4
  let x := s.session l.session.toNat
  { session := .open, len := 28, train := letterWordTrain l fmtF32 (b + 1 - a)
    params := decide (a ≤ b) && decide (b + 1 - a ≤ 4096) && spanRetained s l.session.toNat a b
    later := [(x.state == .closing || x.closeKey.isSome || x.adapter.isNone, 0x0107), (x.state == .suspended, 0x0207),
      (x.state == .migrating || x.adapt.isSome, 0x0401), (s.dev.draining, 0x0403)] }

/-- ADAPT runs beside the queue; a parked session resumes first (R201, R304). Its passes are in Adapt.lean. -/
def execAdapt (l : Letter) (s : State) : Out :=
  .next (receive opAdapt l (adaptRule l s) (fun k s =>
    let n := l.session.toNat
    settle n ((s.updDev (fun d => { d with adapts := d.adapts + 1 })).updSession n (fun x => { x with
      adapt := some { key := k, first := letterNum l 0 4, last := letterNum l 4 4, nth := s.dev.adapts } }))) s)

/-- KEEPER_STREAM: folio records, what they supersede, the new tokens and a changed session record go to the keeper (R321). -/
def execKeeperStream (session : BitVec 16) (s : State) : Out :=
  let n := session.toNat
  let x := s.session n
  if s.dev.keeperTo = 0xFF ∨ x.state = .free then .next s
  else
    let log := sendRecord n x.tenant 2 (tokenTrain (x.tokens.drop x.keeperLog)) s
    let st := sendRecord n x.tenant 3 (if x.keeperState = x.stateBody then [] else x.stateBody) log.2
    let y := streamedSession x
    .next (proceed ((st.2.putSession n y).updDev (fun d => { d with
      keeperOut := d.keeperOut ++ ((keeperRecords s n x ++ x.superseded ++ log.1 ++ st.1).map (fun r => (session, r)))
      keeperStore := Tbl.set none d.keeperStore n (some (keptSession y))
      keeperLagMs := 0, keeperLagAlarm := false })))

/-! ## Scrubbing and resealing -/

/-- PAGE_SCRUB: the page is zeroed and back in the pool; sessions that wait for pages try again. -/
def execPageScrub (t : TileId) (page : Fin 2016) (s : State) : Out :=
  .next (settleAll (onTile t (fun s => s.updTile t (scrubPage page.val)) s))

/-- TENANT_RESEAL: the records of the older generation are resealed, and that generation is forgotten (R327). -/
def execTenantReseal (tenant : BitVec 12) (s : State) : Out :=
  let k := Tbl.get {} s.dev.tenantKeys tenant.toNat
  match k.older with
  | none => .next s
  | some o =>
    let s1 := (s.dev.sessions.map Prod.fst).foldl (fun s n => resealSession tenant o.1 n s) s
    .next (s1.updDev (fun d => { d with tenantKeys := Tbl.upd {} d.tenantKeys tenant.toNat (fun k => { k with older := none }) }))

end Sys2Proof.Machine
end

