-- ==== Sys2Proof/Machine/Adapt.lean ====
section
/-! DEFINITION. ADAPT: the statistics its forward waves save, the backward pass layer by layer, the Adam step, the new W8 copy and the
adapter swap (R54, R183, R196 to R201, R212, R380). What the placement's own program gives the passes, and the order and number formats
in which a pass sums, are free values (log entry 27). -/

namespace Sys2Proof.Machine

/-! ## What the passes work on -/

/-- A key or value vector: sheet codes with their scales, or binary32 lanes in working storage. -/
inductive AdaptVec where
  | cached (sheets : List (Byte × List Int))
  | working (lanes : List Word)
  deriving DecidableEq, Repr

/-- One column j of a layer: its position, key and value. -/
structure AdaptCol where
  pos : Nat
  key : AdaptVec
  val : AdaptVec
  deriving DecidableEq, Repr

/-- A position's own router decision to bypass a layer, exact arithmetic on its activations (R211, R212). -/
opaque adaptBypass (nth : Nat) (layer : BitVec 16) (position : Nat) : Bool

/-- q_i: the query of one head of a span token in the n-th ADAPT. -/
opaque adaptQuery (nth : Nat) (layer : BitVec 16) (position head : Nat) : List Word

/-- The key and the value of a span position, recomputed into working storage (R200, step 2). -/
opaque adaptKeyValue (nth : Nat) (layer : BitVec 16) (position : Nat) : List Word × List Word

/-- The main model's logits for the token at a span position (R200, step 3). -/
opaque adaptLogits (nth : Nat) (position : Nat) : List Word

/-- The sum of products that a pass leaves for a binary32 vector and a column. -/
opaque passDot (image : BitVec 64) (layer : BitVec 16) (q : List Word) (v : AdaptVec) : Word

/-- Vectors weighted and summed, as a pass and the stage's sum tree leave them. -/
opaque passSum (image : BitVec 64) (layer : BitVec 16) (terms : List (Word × AdaptVec)) : List Word

/-- A sum in the stage's fixed order (R147, R183). -/
opaque stageSum (image : BitVec 64) (layer : BitVec 16) (parts : List Word) : Word

/-- Mean cross-entropy of tokens under weights and logits (R200, step 3), in binary32. -/
opaque meanCrossEntropy (weights : List Word) (logits : List (List Word)) (tokens : List Word) : Word

/-- Gradient of the loss at the model's output for a span position. -/
opaque lossGrad (nth : Nat) (weights : List Word) (position : Nat) : List Word

/-- dO_i: the gradient of one query row's output, through a layer's stages after attention, from the gradient of the layer's output. -/
opaque outputGrad (nth : Nat) (layer : BitVec 16) (position head : Nat) (above : List Word) : List Word

/-- The gradient of a layer's input for a span position, through its expert and projection stages, from that of its output and the
gradients that the attention stage returns (R198, R200, step 4). -/
opaque inputGrad (nth : Nat) (layer : BitVec 16) (position : Nat) (above : List Word) (dq : List (List Word)) (dk dv : List Word) : List Word

/-- What a span position contributes in a layer to the gradients of the factors, in the order of the masters (R200, step 4). -/
opaque factorGrad (nth : Nat) (layer : BitVec 16) (position : Nat) (above : List Word) (dq : List (List Word)) (dk dv : List Word) : List Word

/-- The root of a stage's max tree, by its place in the stage's tile list: no field of the image names a tree's stage (R196). -/
opaque maxRoot (image : BitVec 64) (layer : BitVec 16) : Nat

/-! ## Query rows and their statistics (R181, R196) -/

/-- IMAGE_ID of the placement in force. -/
def State.imageInForce (s : State) : BitVec 64 := match s.dev.placement with | some p => p.imageId | none => 0

/-- Key sheets of a cached entry. -/
def entryKey (g : Stage) (e : Entry) : AdaptVec := .cached (e.sheets.take (sheetWidths g.kdims).length)

/-- Value sheets of a cached entry: its key sheets where values share them (R165). -/
def entryValue (g : Stage) (e : Entry) : AdaptVec :=
  .cached (if g.vShared then e.sheets.take (sheetWidths g.vdims).length else e.sheets.drop (sheetWidths g.kdims).length)

/-- Positions of a span. -/
def AdaptRun.span (a : AdaptRun) : List Nat := (List.range (a.last + 1 - a.first)).map (a.first + ·)

/-- Span positions present in a layer: a bypassed one makes no entry there and is never scored (R212). -/
def AdaptRun.spanIn (a : AdaptRun) (g : Stage) : List Nat := a.span.filter (fun p => !adaptBypass a.nth g.layer p)

/-- Columns of a layer: the cache before the span, read and never written, and the span's recomputed keys and values (R200). -/
def adaptCols (s : State) (n : Nat) (a : AdaptRun) (g : Stage) : List AdaptCol :=
  (((layerFolios s n g).flatMap (fun e => e.2.entries)).filter (fun e => decide (e.pos.toNat < a.first))).map (fun e =>
    ⟨e.pos.toNat, entryKey g e, entryValue g e⟩) ++
  (a.spanIn g).map (fun p => let kv := adaptKeyValue a.nth g.layer p; ⟨p, .working kv.1, .working kv.2⟩)

/-- Columns that a row at position p sees: a later position is masked (R182). -/
def seenBy (p : Nat) (cs : List AdaptCol) : List AdaptCol := cs.filter (fun c => decide (c.pos ≤ p))

/-- s_ij of a row against its columns. -/
def rowScores (image : BitVec 64) (layer : BitVec 16) (q : List Word) (cs : List AdaptCol) : List Word :=
  cs.map (fun c => passDot image layer q c.key)

/-- m and l of a row of scores (R181, steps 3 and 4). -/
def rowStats (image : BitVec 64) (layer : BitVec 16) (cs : List AdaptCol) (ss : List Word) : Word × Word :=
  let m := (pickAll false ((ss.zip cs).map (fun e => (e.1, BitVec.ofNat 32 e.2.pos)))).1
  (m, stageSum image layer (ss.map (fun x => fexpm x m)))

/-- A probability of a row: exp(s − m) × reciprocal(l), rounded once (R181, step 5; R197, step 2). -/
def rowProb (ml : Word × Word) (x : Word) : Word := fmul (fexpm x ml.1) (frecip ml.2)

/-- Query rows of a layer for span positions: one for each head of each token (R181). -/
def queryRows (g : Stage) (ps : List Nat) : List (Nat × Nat) := ps.flatMap (fun p => (List.range g.heads).map (fun h => (p, h)))

/-- STATISTICS pages that hold the statistics of `n` tokens in a layer: 16 words a line, two binary32 a row (R196; log entry 157). -/
def statPages (g : Stage) (n : Nat) : Nat := (n * g.heads + 255) / 256

/-- The root tile of a layer's max tree. -/
def rootTile (s : State) (g : Stage) : Option TileId := (g.tiles.map Prod.fst)[maxRoot s.imageInForce g.layer % max 1 g.tiles.length]?

/-- STATISTICS pages of one layer. -/
def AdaptRun.statsOf (a : AdaptRun) (g : Stage) : List (BitVec 16 × TileId × Nat) := a.stats.filter (fun e => e.1 == g.layer)

/-- Slab line and first word of a row's statistics. -/
def AdaptRun.statPlace (a : AdaptRun) (g : Stage) (row : Nat) : Option (TileId × Nat × Nat) :=
  ((a.statsOf g)[row / 256]?).map (fun e => (e.2.1, 32 * e.2.2 + row % 256 / 8, 2 * (row % 8)))

/-- Save m and l of one row (R196). -/
def saveRow (a : AdaptRun) (g : Stage) (s : State) (e : Nat × Word × Word) : State :=
  match a.statPlace g e.1 with
  | none => s
  | some k => s.updTile k.1 (fun x =>
      let ws := Line.words (x.readLine memSlab k.2.1)
      x.writeLine memSlab k.2.1 (mkWords fmtF32 (setNth (setNth ws k.2.2 e.2.1) (k.2.2 + 1) e.2.2)))

/-- The saved m and l of one row, from the root's STATISTICS page (R197). -/
def savedRow (s : State) (a : AdaptRun) (g : Stage) (row : Nat) : Word × Word :=
  match a.statPlace g row with
  | none => (0, 0)
  | some k => let l := (s.tile k.1).readLine memSlab k.2.1; (wordAt l k.2.2, wordAt l (k.2.2 + 1))

/-- Row number of a head of a span position. -/
def AdaptRun.rowOf (a : AdaptRun) (g : Stage) (r : Nat × Nat) : Nat := (r.1 - a.first) * g.heads + r.2

/-- The rows of one layer in a forward wave over some positions, with their m and l. -/
def waveStats (s : State) (n : Nat) (a : AdaptRun) (ps : List Nat) (g : Stage) : List (Nat × Word × Word) :=
  let im := s.imageInForce
  let cs := adaptCols s n a g
  (queryRows g (ps.filter (fun p => (a.spanIn g).contains p))).map (fun r =>
    let seen := seenBy r.1 cs
    (a.rowOf g r, rowStats im g.layer seen (rowScores im g.layer (adaptQuery a.nth g.layer r.1 r.2) seen)))

/-- A forward wave saves m and l of every query row of every layer (R196). -/
def saveStats (n : Nat) (a : AdaptRun) (ps : List Nat) (s : State) : State :=
  s.attention.foldl (fun s g => (waveStats s n a ps g).foldl (saveRow a g) s) s

/-- STATISTICS pages on the root tiles for a forward wave that takes the run to `upto` tokens; none when a tile has too few. -/
def takeStats (n upto : Nat) : List Stage → State → Option State
  | [], s => some s
  | g :: gs, s =>
    match (s.session n).adapt, rootTile s g with
    | some a, some t =>
      (takePages (ownWord 5 (s.session n).tenant (BitVec.ofNat 16 n)) [t] (statPages g upto - (a.statsOf g).length) s).bind (fun r =>
        takeStats n upto gs (r.2.updSession n (fun y => { y with
          adapt := some { a with stats := a.stats ++ r.1.map (fun e => (g.layer, e)) } })))
    | _, _ => takeStats n upto gs s

/-! ## The backward pass (R197, R198, R200) -/

/-- One query row of the backward pass: its token, D_i, and p_ij and dS_ij against the columns it sees. -/
structure RowGrad where
  row : Nat × Nat
  query : List Word
  dout : List Word
  terms : List (AdaptCol × Word × Word)
  deriving DecidableEq, Repr

/-- O_i of a row from its probabilities, as the forward pass left it (R181, step 7). -/
def rowOutput (image : BitVec 64) (layer : BitVec 16) (ps : List (AdaptCol × Word)) : List Word :=
  passSum image layer (ps.map (fun e => (e.2, e.1.val)))

/-- dS_ij = p_ij × (dP_ij − D_i) in binary32 (R197, step 4). -/
def scoreGrad (p dp d : Word) : Word := fmul p (fsub dp d)

/-- The row's steps 1 to 4 of R197. -/
def rowGrad (s : State) (a : AdaptRun) (g : Stage) (cs : List AdaptCol) (above : Nat → List Word) (r : Nat × Nat) : RowGrad :=
  let im := s.imageInForce
  let q := adaptQuery a.nth g.layer r.1 r.2
  let dout := outputGrad a.nth g.layer r.1 r.2 (above r.1)
  let ml := savedRow s a g (a.rowOf g r)
  let seen := seenBy r.1 cs
  let ps := (seen.zip (rowScores im g.layer q seen)).map (fun e => (e.1, rowProb ml e.2))
  let d := passDot im g.layer dout (.working (rowOutput im g.layer ps))
  ⟨r, q, dout, ps.map (fun e => (e.1, e.2, scoreGrad e.2 (passDot im g.layer dout e.1.val) d))⟩

/-- dQ_i = Σ_j dS_ij k_j (R197, step 5). -/
def RowGrad.dq (image : BitVec 64) (layer : BitVec 16) (r : RowGrad) : List Word :=
  passSum image layer (r.terms.map (fun e => (e.2.2, e.1.key)))

/-- dK_j = Σ_i dS_ij q_i (R198). -/
def keyGrad (image : BitVec 64) (layer : BitVec 16) (rs : List RowGrad) (j : Nat) : List Word :=
  passSum image layer (rs.flatMap (fun r => (r.terms.filter (fun e => e.1.pos == j)).map (fun e => (e.2.2, .working r.query))))

/-- dV_j = Σ_i p_ij dO_i (R198). -/
def valueGrad (image : BitVec 64) (layer : BitVec 16) (rs : List RowGrad) (j : Nat) : List Word :=
  passSum image layer (rs.flatMap (fun r => (r.terms.filter (fun e => e.1.pos == j)).map (fun e => (e.2.1, .working r.dout))))

/-- What the attention stage of a layer returns to the projection stages for a span position (R197, R198). -/
structure PosGrad where
  pos : Nat
  dq : List (List Word)
  dk : List Word
  dv : List Word
  deriving DecidableEq, Repr

/-- The backward pass through one attention layer, for every span position present in it. -/
def layerGrads (s : State) (n : Nat) (a : AdaptRun) (g : Stage) (above : Nat → List Word) : List PosGrad :=
  let im := s.imageInForce
  let rs := (queryRows g (a.spanIn g)).map (rowGrad s a g (adaptCols s n a g) above)
  (a.spanIn g).map (fun p =>
    ⟨p, (rs.filter (fun r => r.row.1 == p)).map (RowGrad.dq im g.layer), keyGrad im g.layer rs p, valueGrad im g.layer rs p⟩)

/-- Gradients of the span's positions below a layer: a bypassed token's passes unchanged (R212). -/
def gradBelow (a : AdaptRun) (g : Stage) (above : Nat → List Word) (ds : List PosGrad) (p : Nat) : List Word :=
  match ds.find? (fun d => d.pos == p) with
  | none => above p
  | some d => inputGrad a.nth g.layer p (above p) d.dq d.dk d.dv

/-- The layers in reverse: what every position contributes in every layer to the factors' gradients (R200, step 4). -/
def backward (s : State) (n : Nat) (a : AdaptRun) : List Stage → (Nat → List Word) → List (BitVec 16 × List Word)
  | [], _ => []
  | g :: gs, above =>
    let ds := layerGrads s n a g above
    ds.map (fun d => (g.layer, factorGrad a.nth g.layer d.pos (above d.pos) d.dq d.dk d.dv)) ++
      backward s n a gs (gradBelow a g above ds)

/-- Gradients of `n` masters, each combined over its contributions in the fixed tree order (R200, step 5). -/
def combineGrads (image : BitVec 64) (n : Nat) (cs : List (BitVec 16 × List Word)) : List Word :=
  (List.range n).map (fun i => stageSum image 0xFFFF (cs.map (fun c => nth 0 c.2 i)))

/-- Token weights of an ADAPT's train (R341). -/
def adaptWeights (r : LetterRec) (a : AdaptRun) : List Word := (r.train.flatMap Line.words).take (a.last + 1 - a.first)

/-- The loss and the gradients of an ADAPT whose forward waves have all committed. -/
def adaptResult (s : State) (n : Nat) (a : AdaptRun) (ws : List Word) : Word × List Word :=
  let x := s.session n
  let masters := match x.adapter with | some i => 16 * i.masters.length | none => 0
  (meanCrossEntropy ws (a.span.map (adaptLogits a.nth)) ((x.tokens.drop a.first).take a.span.length),
    combineGrads s.imageInForce masters (backward s n a s.attention.reverse (lossGrad a.nth ws)))

/-- An ADAPT's wave commits: a forward wave saves its statistics, the wave after the last of them is the backward pass. -/
def commitAdapt (n : Nat) (v : Wave) (r : LetterRec) (s : State) : State :=
  match (s.session n).adapt with
  | none => s
  | some a =>
    if v.inputs = [] then s.updSession n (fun y => { y with adapt := some { a with result := some (adaptResult s n a (adaptWeights r a)) } })
    else
      (saveStats n a ((List.range v.inputs.length).map (v.first + ·)) s).updSession n (fun y => { y with
        adapt := some { a with done := a.done + v.inputs.length } })

/-! ## The optimiser and the new copy (R54, R200, steps 6 and 7) -/

/-- The letter's parameters of the Adam rule (R341). -/
structure AdamRule where
  rate : Word
  beta1 : Word
  beta2 : Word
  eps : Word
  decay : Word
  deriving DecidableEq, Repr

def adamRule (ps : List Byte) : AdamRule :=
  let w (k : Nat) : Word := BitVec.ofNat 32 (leAt ps k 4)
  ⟨w 8, w 12, w 16, w 20, w 24⟩

/-- m̂ / (√v̂ + ε): the moments corrected for the t-th step, their quotient in binary32. -/
opaque adamQuotient (r : AdamRule) (t : Nat) (m v : Word) : Word

/-- A moving average β·m + (1 − β)·g, each operation rounded once. -/
def adamMoment (beta m g : Word) : Word := fadd (fmul beta m) (fmul (fsub f32One beta) g)

/-- One master with its moments after the t-th step: Adam with decoupled weight decay, in binary32 (R200, step 6; log entry 158). -/
def adamStep (r : AdamRule) (t : Nat) (x g m v : Word) : Word × Word × Word :=
  let m' := adamMoment r.beta1 m g
  let v' := adamMoment r.beta2 v (fmul g g)
  (fsub x (fmul r.rate (fadd (adamQuotient r t m' v') (fmul r.decay x))), m', v')

/-- Tensor scale of the n-th new W8 copy: the manual names none for a factor (R41, R54). -/
opaque adapterScale (nth : Nat) : Word

/-- A block of the n-th new W8 copy that the quantiser cannot form: the manual states no result (R54). -/
opaque adapterBlock (nth i : Nat) : Line

/-- One W8 parcel of 64 masters: Q = 127, format W8 (R54, R200, step 7). -/
def adapterLine (nth : Nat) (e : List Word × Nat) : Line :=
  match quantise .a8 0 (adapterScale nth) e.1 with
  | .ok b => mkParcel (b.codes.map (BitVec.ofInt 8)) [b.scale] fmtW8 0
  | .error _ => adapterBlock nth e.2

/-- The new W8 copy of the masters. -/
def adapterCopy (nth : Nat) (ws : List Word) : List Line :=
  (chunks 64 (ws.length / 64 + 1) ws).zipIdx.map (fun e => adapterLine nth ((e.1 ++ List.replicate 64 0).take 64, e.2))

/-- The words of an instance's masters, first moments and second moments. -/
def AdapterInst.words (a : AdapterInst) : List Word × List Word × List Word :=
  let n := a.masters.length
  let ms := fitLines (2 * n) a.moments
  (a.masters.flatMap Line.words, (ms.take n).flatMap Line.words, (ms.drop n).flatMap Line.words)

/-- The instance after its update: masters and moments stepped, the new copy in the one that was not in use, then flipped to (R380). -/
def updateAdapter (rule : AdamRule) (nth : Nat) (grads : List Word) (a : AdapterInst) : AdapterInst :=
  let w := a.words
  let step := (w.1.zip (grads ++ List.replicate w.1.length 0)).zip (w.2.1.zip w.2.2) |>.map (fun e =>
    adamStep rule (a.steps + 1) e.1.1 e.1.2 e.2.1 e.2.2)
  let masters := step.map Prod.fst
  let copy := adapterCopy nth masters
  { a with
    useB := !a.useB, w8a := if a.useB then copy else a.w8a, w8b := if a.useB then a.w8b else copy
    masters := vecLines masters, moments := vecLines (step.map (fun e => e.2.1)) ++ vecLines (step.map (fun e => e.2.2))
    steps := a.steps + 1 }

/-- ADAPTER_SWAP: between the session's waves the update takes effect, in its ADAPTER pages and its record too; the span's protection ends and ADAPT
completes with the loss (R200, steps 6 to 9). -/
def execAdapterSwap (session : BitVec 16) (s : State) : Out :=
  let n := session.toNat
  let x := s.session n
  match x.adapt, x.adapter with
  | some run, some a =>
    (match run.result, s.letter run.key with
      | some u, some r =>
        if s.standing n && s.betweenWaves n then
          let b := updateAdapter (adamRule r.params) run.nth u.2 a
          let w := writeTrail x.tenant b.lines x.adapterRec (fillPages b.lines b.pages (clearAdapt n s))
          let s1 := w.2.updSession n (fun y => { y with adapter := some b, adapterRec := w.1 })
          .next (settle n (finishLetter run.key stDone (bytesOf 4 u.1) [] s1))
        else .next s
      | _, _ => .next s)
  | _, _ => .next s

end Sys2Proof.Machine
end

