-- ==== Sys2Proof/Machine/Network.lean ====
section
/-! DEFINITION. The data mesh: a flit's hop, credits, boundary FIFOs, deliveries, reduction trees, multicast, pulls and
circulars, and the rim (R129 to R154, R283, R449, R528, R566, R567). -/

namespace Sys2Proof.Machine

/-- Routers work while their field's rail is on (R143): in every power state of the block but DARK. -/
def State.routerOn (s : State) (t : TileId) : Bool := (s.block (tileBlock t)).pstate != .dark

/-- The head of an input. -/
def State.head (s : State) (t : TileId) (p : Port) (vc : Nat) : Option Flit := ((s.tile t).buf p vc).head?

/-! ## Unicast (R135, R138, R143, R449) -/

/-- X first, then Y (R138). -/
def routePort (t d : TileId) : Port :=
  if tileX d > tileX t then .east else if tileX d < tileX t then .west
  else if tileY d > tileY t then .south else if tileY d < tileY t then .north else .loc

/-- A tree or multicast parcel is routed by the tables, not by DEST. -/
def byTable (f : Flit) : Bool := decide (1 ≤ envKind f.env) && decide (envKind f.env ≤ 4)

/-- The branches of an OUT mask, in port order. -/
def branches (out : BitVec 5) : List Port :=
  [Port.loc, .north, .east, .south, .west].filter (fun p => bitAt out (portNo p))

/-- The valid tree entry of a GROUP. -/
def treeEntry (x : Tile) (g : BitVec 16) : Option TreeEntry :=
  ((List.range 64).map (fun i => Tbl.get ({} : TreeEntry) x.router.trees i)).find? (fun e => e.valid && e.treeId == g)

/-- The fork-table entry of a group. -/
def forkEntry (x : Tile) (g : BitVec 16) : ForkEntry := Tbl.get {} x.router.forks g.toNat

/-- An OUT bit leads off the array (R151). -/
def leadsOff (t : TileId) (out : BitVec 5) : Bool := (branches out).any (fun p => (neighbour t p).isNone)

/-- A fork entry that a multicast parcel on port `p` may follow (R151). -/
def forkOk (t : TileId) (p : Port) (e : ForkEntry) : Bool := e.valid && e.up == portCode p && !leadsOff t e.out

/-! ## Arbitration (R135) -/

/-- The outputs that the flit at the head of an input asks for: a unicast flit's next hop; PARENT of a tree entry with one child;
the branches of a multicast flit that have not taken their copy. A part that joins a node asks for none. -/
def asks (t : TileId) (s : State) (p : Port) (vc : Nat) : List Port :=
  match s.head t p vc with
  | none => []
  | some f =>
    if !byTable f then [routePort t (envDest f.env)]
    else if envKind f.env = 4 then
      let ws := Tbl.get [] (s.tile t).router.waiting (portNo p)
      let e := forkEntry (s.tile t) (envGroup f.env)
      if ws ≠ [] then ws.filterMap portOf else if forkOk t p e then branches e.out else []
    else match treeEntry (s.tile t) (envGroup f.env) with
      | some e => if bitAt e.children (portNo p) && (branches e.children).length == 1 then (portOf e.parent.toNat).toList else []
      | none => []

/-- The input ports whose head on a virtual channel asks for an output. -/
def askers (t : TileId) (out : Port) (vc : Nat) (s : State) : List Nat :=
  ([Port.loc, .north, .east, .south, .west].filter (fun p => (asks t s p vc).contains out)).map portNo

/-- The first of `want` after number `last`, in a round of `n`. -/
def nextTurn (n last : Nat) (want : List Nat) : Option Nat :=
  ((List.range n).map (fun i => (last + 1 + i) % n)).find? want.contains

/-- The channel of VCs 0 to 2 whose turn it is at an output, `vc` asking among them. -/
def vcTurn (t : TileId) (out : Port) (vc : Nat) (s : State) : Option Nat :=
  nextTurn 3 (Tbl.get 0 (s.tile t).router.turns (portNo out))
    ((List.range 3).filter (fun v => v == vc || (hasCredit t out v s && askers t out v s != [])))

/-- The input port whose turn it is at an output on a channel, `p` asking among them. -/
def portTurn (t : TileId) (p out : Port) (vc : Nat) (s : State) : Option Nat :=
  nextTurn 5 (Tbl.get 0 (s.tile t).router.turns (8 + bufKey out vc)) (portNo p :: askers t out vc s)

/-- Output `out` serves the flit of input `p` on a channel now: it has a hop credit; VC 3 goes first; VCs 0 to 2 take turns; and
within a channel the inputs take turns (R135). Before any turn the last one served was VC 0 and the local port (DESIGN CHOICE,
log entry 64). -/
def granted (t : TileId) (p out : Port) (vc : Nat) (s : State) : Bool :=
  hasCredit t out vc s &&
  (vc == 3 || (!(hasCredit t out 3 s && askers t out 3 s != []) && vcTurn t out vc s == some vc)) &&
  portTurn t p out vc s == some (portNo p)

/-- The turn passes on. -/
def noteTurn (t : TileId) (p out : Port) (vc : Nat) (s : State) : State :=
  s.updTile t (fun x =>
    let m := Tbl.set 0 x.router.turns (8 + bufKey out vc) (portNo p)
    { x with router := { x.router with turns := if vc < 3 then Tbl.set 0 m (portNo out) vc else m } })

/-- The flit of input `p` leaves through `out`. -/
def hopFrom (t : TileId) (p out : Port) (vc : Nat) (f : Flit) (s : State) : State := hopFlit t out vc f (noteTurn t p out vc s)

/-- Count a hop retry at the receiving router's field, and keep its time for the link (R449). -/
def countHopRetry (t : TileId) (p : Port) (s : State) : State :=
  (s.updTile t (fun x => { x with router := { x.router with
      linkRetries := Tbl.upd [] x.router.linkRetries (portNo p) (fun ts => s.dev.time :: inWindow s.dev.time 1000 ts) } })).updField
    (tileField t) (fun f => { f with hopRetries := satAdd f.hopRetries 1 })

/-- UNICAST_FLIT: the flit at the head of an input moves one hop. A bad side-band CRC discards the copy and the retry
buffer resends it, which leaves the flit where it is and counts a retry. At its destination it stays for its delivery; a
sleeping block is knocked (R143). -/
def execUnicastFlit (t : TileId) (p : Port) (vc : BitVec 2) (crcBad : Bool) (s : State) : Out :=
  let v := vc.toNat
  if !s.routerOn t then .next s
  else match s.head t p v with
  | none => .next s
  | some f =>
    if crcBad then .next (countHopRetry t p s)
    else if byTable f then .next s
    else
      let out := routePort t (envDest f.env)
      if out = .loc then
        if (s.block (tileBlock t)).awake || envQueue f.env ≥ 0xF0 then .next s
        else .next (knockBlock t s)
      else if !granted t p out v s then .next s
      else .next (hopFrom t p out v f (popBuf t p v s))

/-! ## Group credits (R153) -/

def setFork (g : BitVec 16) (e : ForkEntry) (x : Tile) : Tile :=
  { x with router := { x.router with forks := Tbl.set {} x.router.forks g.toNat e } }

/-- Send one credit on when every branch holds a count: toward UP, or to the tile's own entry (R153). -/
def passGroupCredit (t : TileId) (g : BitVec 16) (wave : Byte) : Nat → State → State
  | 0, s => s
  | n + 1, s =>
    let e := forkEntry (s.tile t) g
    let full := (branches e.out).all (fun p => decide (Tbl.get 0 e.credits (portNo p) ≥ 1)) && e.out != 0
    if !full then s
    else
      let e' := { e with credits := (branches e.out).foldl (fun m p => Tbl.set 0 m (portNo p) (Tbl.get 0 m (portNo p) - 1)) e.credits }
      let s' := s.updTile t (setFork g e')
      match portOf e.up.toNat with
      | some .loc =>
        (match groupIndex (s.tile t) g with
          | some i => passGroupCredit t g wave n (s'.updTile t (gainCredit i 1))
          | none => passGroupCredit t g wave n s')
      | some q =>
        (match neighbour t q with
          | some u => if hasCredit t q 3 s then
              passGroupCredit t g wave n (hopFlit t q 3 ⟨creditEnv t u 0 g wave, 0⟩ s') else s
          | none => s)
      | none => s

/-- A hop credit on VC 3 has come free toward port `p`: a complete set of counts that waited for it goes on (R153). -/
def retryGroups (t : TileId) (p : Port) (s : State) : State :=
  ((s.tile t).router.forks.filter (fun e => e.2.up == portCode p)).foldl
    (fun s e => passGroupCredit t (BitVec.ofNat 16 e.1) 0 32 s) s

/-- Flits that the neighbour still holds of a link's virtual channel. -/
def heldBeyond (t : TileId) (p : Port) (vc : Nat) (s : State) : Nat :=
  match neighbour t p with
  | none => 0
  | some u => ((s.tile u).buf (opposite p) vc).length + ((s.tile u).fifo (opposite p) vc).length

/-- HOP_CREDIT_RETURN: a buffer freed beyond output p gives its credit back (R129). -/
def execHopCreditReturn (t : TileId) (p : Port) (vc : BitVec 2) (s : State) : Out :=
  if p ≠ .loc ∧ (s.tile t).spentOn p vc.toNat > heldBeyond t p vc.toNat s then
    let s1 := s.updTile t (fun x => x.setSpent p vc.toNat (x.spentOn p vc.toNat - 1))
    .next (if vc = 3 then retryGroups t p s1 else s1)
  else .next s

/-- A flit waits at a field whose generator is stopped: a KNOCK to its controller (R143). -/
def knockField (t : TileId) (s : State) : State :=
  sendCard (srcRouter t) (knockCard 2 (BitVec.ofNat 16 (tileField t)) 0x03) s

/-- BOUNDARY_FIFO_ARRIVAL: a flit leaves the boundary FIFO for the input buffer; a field whose generator is stopped is
knocked instead (R141, R143). -/
def execBoundaryFifoArrival (t : TileId) (p : Port) (vc : BitVec 2) (s : State) : Out :=
  let x := s.tile t
  match x.fifo p vc.toNat with
  | [] => .next s
  | f :: rest =>
    if !(s.field (tileField t)).genRunning then .next (knockField t s)
    else if (x.buf p vc.toNat).length ≥ 8 then .next s
    else
      let s1 := s.putTile t ((x.setFifo p vc.toNat rest).setBuf p vc.toNat (x.buf p vc.toNat ++ [f]))
      .next (match vc, neighbour t p with
        | 3, some u => retryGroups u (opposite p) s1
        | _, _ => s1)

/-! ## Deliveries (R110, R283, R112, R153) -/

/-- The head of an input when it has reached its tile by unicast; a parcel of a reserved KIND stays where it is (R12, R131; DEDUCED,
log entry 66). -/
def arrived (t : TileId) (p : Port) (vc : Nat) (s : State) : Option Flit :=
  match s.head t p vc with
  | some f => if s.routerOn t && !byTable f && decide (envKind f.env < 0xA) && envDest f.env == t then some f else none
  | none => none

/-- A credit parcel or a request of a pull or circular: the router and the post engine take it, no queue does (R112, R567). -/
def isControl (f : Flit) : Bool := envKind f.env == 5 || envKind f.env == 9

/-- PIGEONHOLE_ARRIVAL. -/
def execPigeonholeArrival (t : TileId) (p : Port) (vc : BitVec 2) (s : State) : Out :=
  match arrived t p vc.toNat s with
  | none => .next s
  | some f =>
    if isControl f ∨ envQueue f.env ≥ 16 then .next s
    else match deliverHole t f (popBuf t p vc.toNat s) with
    | .taken s' => .next s'
    | .held _ => match deliverHole t f s with
      | .held s' => .next s'
      | .taken _ => .next s

/-- LANDING_ARRIVAL. -/
def execLandingArrival (t : TileId) (p : Port) (vc : BitVec 2) (i : Intrusion) (s : State) : Out :=
  match arrived t p vc.toNat s with
  | none => .next s
  | some f =>
    if isControl f ∨ envQueue f.env < 16 ∨ envQueue f.env ≥ 32 then .next s
    else match deliverLanding t f i (popBuf t p vc.toNat s) with
    | .taken s' => .next s'
    | .held _ => match deliverLanding t f i s with
      | .held s' => .next s'
      | .taken _ => .next s

/-! ## Credit parcels (R112, R153) -/

/-- A credit parcel belongs to a group: its GROUP has this port as a branch; GROUP 0 also names no group, and is a unicast
credit where the tile holds an entry for its (tile, queue) pair. -/
def groupCredit (t : TileId) (p : Port) (f : Flit) (s : State) : Bool :=
  let e := forkEntry (s.tile t) (envGroup f.env)
  e.valid && bitAt e.out (portNo p) &&
  (envGroup f.env != 0 || (creditIndex (s.tile t) (envSource f.env) (envQueue f.env)).isNone)

/-- CREDIT_PARCEL: the tile that regains the credit counts it in its entry for the (tile, queue) pair (R112, R133). -/
def execCreditParcel (t : TileId) (p : Port) (s : State) : Out :=
  match arrived t p 3 s with
  | none => .next s
  | some f =>
    if envKind f.env ≠ 5 ∨ groupCredit t p f s then .next s
    else
      let s1 := popBuf t p 3 s
      match creditIndex (s.tile t) (envSource f.env) (envQueue f.env) with
      | none => .next s1
      | some i => .next (s1.updTile t (gainCredit i 1))

/-- GROUP_CREDIT: a credit of a group is counted on the branch it came from, up to 32 (R153). -/
def execGroupCredit (t : TileId) (p : Port) (s : State) : Out :=
  match arrived t p 3 s with
  | none => .next s
  | some f =>
    let g := envGroup f.env
    let e := forkEntry (s.tile t) g
    if envKind f.env ≠ 5 ∨ !groupCredit t p f s then .next s
    else
      let n := min 32 (Tbl.get 0 e.credits (portNo p) + 1)
      let s1 := (popBuf t p 3 s).updTile t (setFork g { e with credits := Tbl.set 0 e.credits (portNo p) n })
      .next (passGroupCredit t g (envWave f.env) 32 s1)

/-! ## Reduction trees (R144 to R149) -/

/-- Combine two lines of a kind, lane by lane (R147). -/
def combineLines (kind : Nat) (a b : Line) : Line :=
  if kind = 1 then mkWords fmtF32 ((Line.words a).zipWith fadd (Line.words b))
  else mkPairs ((Line.pairs a).zipWith (pickPair (kind == 3)) (Line.pairs b))

/-- Combine the parts in port order; the envelope is the first part's with the router as SOURCE (R147). -/
def combineParts (t : TileId) : List Flit → Option Flit
  | [] => none
  | f :: fs =>
    some ⟨setSource f.env t, fs.foldl (fun l g => combineLines (envKind f.env) l g.line) f.line⟩

/-- Send a tree's result on for input `p`: toward PARENT when the output serves it, or into the root's queue (R144, R145). -/
def forwardTree (t : TileId) (p : Port) (e : TreeEntry) (f : Flit) (s : State) : Delivered :=
  match portOf e.parent.toNat with
  | some .loc => deliverLocal t ⟨setDest (setQueue f.env e.rootQueue) t, f.line⟩ s
  | some q => if granted t p q 1 s then .taken (hopFrom t p q 1 f s) else .held s
  | none => .held s

/-- The part at the head of input `p` leaves it; a part that comes next may count a wait of its own (R146). -/
def popPart (t : TileId) (p : Port) (s : State) : State :=
  (popBuf t p 1 s).updTile t (fun x => { x with router := { x.router with nodeCounted := Tbl.set false x.router.nodeCounted (portNo p) false } })

/-- A tree's result leaves with the change `after` on the router; while it must wait, the last part stays at input `p` and nothing
changes but what the waiting itself does (a knock, a fault). -/
def sendTree (t : TileId) (p : Port) (e : TreeEntry) (f : Flit) (after : Router → Router) (s : State) : State :=
  match forwardTree t p e f ((popPart t p s).updTile t (fun x => { x with router := after x.router })) with
  | .taken s' => s'
  | .held _ => match forwardTree t p e f s with
    | .held s' => s'
    | .taken _ => s

/-- Parts a child has given of a (tree, wave) (R145). -/
def partCount (r : Router) (g : BitVec 16) (w : Byte) (p : Port) : Nat :=
  match r.parts.find? (fun e => e.1 == g && e.2.1 == w && e.2.2.1 == portNo p) with
  | some e => e.2.2.2
  | none => 0

/-- Count one more part of a child. -/
def countPart (g : BitVec 16) (w : Byte) (p : Port) (r : Router) : Router :=
  let n := partCount r g w p + 1
  { r with parts := (g, w, portNo p, n) :: r.parts.filter (fun e => !(e.1 == g && e.2.1 == w && e.2.2.1 == portNo p)) }

/-- The part of a port in a node. -/
def nodePart (n : Node) (p : Port) : Option Flit := Tbl.get none n.parts (portNo p)

/-- Does a parcel's format suit its kind (R148)? -/
def treeFormatOk (f : Flit) : Bool := if envKind f.env = 1 then Line.fmt f.line == fmtF32 else Line.fmt f.line == fmtIDX

/-- Put a node in place of the one it continues. -/
def putNode (n : Node) (r : Router) : Router :=
  { r with nodes := r.nodes.filter (fun m => !(m.tree == n.tree && m.wave == n.wave && m.ordinal == n.ordinal)) ++ [n] }

/-- Close a node. -/
def dropNode (n : Node) (r : Router) : Router :=
  { r with nodes := r.nodes.filter (fun m => !(m.tree == n.tree && m.wave == n.wave && m.ordinal == n.ordinal)) }

/-- A part of input `p` joins its node at a router of several children. A ninth node waits, counted once (R146). A part whose CRC
fails counts as its child's n-th and is not used; the wave replays (R145, R148, R451). A part of the wrong format stays at its
input with the fault recorded for its wave, and its node is open (R148). -/
def joinNode (t : TileId) (p : Port) (e : TreeEntry) (f : Flit) (s : State) : State :=
  let x := s.tile t
  let g := envGroup f.env
  let w := envWave f.env
  let k := partCount x.router g w p
  let found := x.router.nodes.find? (fun n => n.tree == g && n.wave == w && n.ordinal == k)
  let node := found.getD ⟨g, w, k, []⟩
  if found.isNone && decide (x.router.nodes.length ≥ 8) then
    if Tbl.get false x.router.nodeCounted (portNo p) then s
    else s.putTile t { x with nodeWaits := satAdd x.nodeWaits 1,
                              router := { x.router with nodeCounted := Tbl.set false x.router.nodeCounted (portNo p) true } }
  else if !crcGood f.line then
    sendFaultNote 3 w t ((popPart t p s).updTile t (fun y => { y with router := countPart g w p y.router }))
  else if !treeFormatOk f then
    takeNetFault t (.net 4 (portCode p) g unitPost) f (s.putTile t { x with router := putNode node x.router })
  else
    let node' : Node := { node with parts := Tbl.set none node.parts (portNo p) (some f) }
    let kids := branches e.children
    if kids.all (fun q => (nodePart node' q).isSome) then
      match combineParts t (kids.filterMap (nodePart node')) with
      | none => s
      | some r => sendTree t p e r (fun y => dropNode node' (countPart g w p y)) s
    else (popPart t p s).updTile t (fun y => { y with router := putNode node' (countPart g w p y.router) })

/-- REDUCTION_PART: a part at the head of an input opens or joins a node, or is forwarded by a router with one child. -/
def execReductionPart (t : TileId) (p : Port) (s : State) : Out :=
  match s.head t p 1 with
  | none => .next s
  | some f =>
    if !s.routerOn t || decide (envKind f.env < 1) || decide (envKind f.env > 3) then .next s
    else if purges t (envWave f.env) s then .next (popPart t p s)
    else match treeEntry (s.tile t) (envGroup f.env) with
    | none => .next (takeNetFault t (.net 2 (portCode p) (envGroup f.env) unitPost) f s)
    | some e =>
      if !bitAt e.children (portNo p) then .next (takeNetFault t (.net 2 (portCode p) (envGroup f.env) unitPost) f s)
      else if (branches e.children).length = 1 then .next (sendTree t p e f id s)
      else .next (joinNode t p e f s)

/-! ## Multicast (R150 to R152) -/

/-- A branch takes its copy: into the tile's own queue, or across the link when its output serves it (R152). -/
def takeBranch (t : TileId) (p : Port) (e : ForkEntry) (b : Port) (f : Flit) (s : State) : Delivered :=
  if b = .loc then deliverLocal t ⟨setDest (setQueue f.env e.localQueue) t, f.line⟩ s
  else if granted t p b 2 s then .taken (hopFrom t p b 2 f s) else .held s

/-- Let every branch of a list that can take its copy; the others stay. -/
def takeBranches (t : TileId) (p : Port) (e : ForkEntry) (f : Flit) : List Port → State → List Port × State
  | [], s => ([], s)
  | b :: bs, s =>
    match takeBranch t p e b f s with
    | .taken s' => takeBranches t p e f bs s'
    | .held s' => let r := takeBranches t p e f bs s'; (b :: r.1, r.2)

/-- Branches that still wait for the flit at the head of an input, and whether any took one. -/
def setWaiting (p : Port) (bs : List Port) (x : Tile) : Tile :=
  { x with router := { x.router with waiting := Tbl.set [] x.router.waiting (portNo p) (bs.map portNo) } }

/-- MULTICAST_FLIT: copies to every port in OUT; branches without a credit wait, counted once (R151, R152). -/
def execMulticastFlit (t : TileId) (p : Port) (s : State) : Out :=
  match s.head t p 2 with
  | none => .next s
  | some f =>
    let x := s.tile t
    let g := envGroup f.env
    let e := forkEntry x g
    if !s.routerOn t || envKind f.env != 4 || Tbl.get [] x.router.waiting (portNo p) != [] then .next s
    else if !forkOk t p e then
      .next (if purges t (envWave f.env) s then popBuf t p 2 s else takeNetFault t (.net 3 (portCode p) g unitPost) f s)
    else
      let r := takeBranches t p e f (branches e.out) s
      if r.1 = [] then .next (popBuf t p 2 r.2)
      else .next (r.2.updTile t (fun y => setWaiting p r.1 { y with mcWaits := satAdd y.mcWaits 1 }))

/-- MULTICAST_BRANCH_TAKE: a waiting branch takes its copy; the last one frees the input buffer (R152). -/
def execMulticastBranchTake (t : TileId) (p : Port) (branch : Port) (s : State) : Out :=
  match s.head t p 2 with
  | none => .next s
  | some f =>
    let x := s.tile t
    let ws := Tbl.get [] x.router.waiting (portNo p)
    if !ws.contains (portNo branch) then .next s
    else match takeBranch t p (forkEntry x (envGroup f.env)) branch f s with
    | .held s' => .next s'
    | .taken s' =>
      let more := ws.filter (fun n => n != portNo branch)
      let s'' := s'.updTile t (fun y => { y with router := { y.router with waiting := Tbl.set [] y.router.waiting (portNo p) more } })
      .next (if more = [] then popBuf t p 2 s'' else s'')

/-! ## Pulls and circulars (R154, R567) -/

/-- The checks of R567 on a range pull: OP, MEM, reserved bits and words, range, reply landing. -/
def pullOk (l : Line) : Bool :=
  let w := wordAt l 0
  let m : BitVec 2 := fieldAt w 8 2
  let land := bitsAt w 16 8
  bitsAt w 0 8 == 1 && (m == memWb || m == memSlab) && bitsAt w 10 6 == 0 && bitsAt w 24 8 == 0 &&
  decide (16 ≤ land) && decide (land < 32) && decide ((wordAt l 2).toNat ≤ 4095) &&
  (List.range 13).all (fun i => wordAt l (i + 3) == 0) &&
  (rangeFault ⟨m, (wordAt l 1).toNat, (wordAt l 2).toNat + 1⟩).isNone

/-- The checks of R567 on a circular request, the circular's number among them. -/
def circularOk (x : Tile) (l : Line) : Bool :=
  let w := wordAt l 0
  let land := bitsAt w 16 8
  bitsAt w 0 8 == 2 && bitsAt w 8 8 == 0 && bitsAt w 24 8 == 0 && decide (16 ≤ land) && decide (land < 32) &&
  decide ((wordAt l 1).toNat < 16) && (wordAt l 2) == 0 && (List.range 13).all (fun i => wordAt l (i + 3) == 0) &&
  (Tbl.get ({} : Circular) x.circulars (wordAt l 1).toNat).valid

/-- The reply's envelope: KIND 0x0 data to the requester's landing with the request's wave fields (R567). -/
def replyEnv (t : TileId) (e : Env) (land : Nat) : Env :=
  setSource (putField (putField (setQueue (setDest e (envSource e)) (BitVec.ofNat 8 land)) 24 (0 : BitVec 6)) 112 (0 : BitVec 16)) t

/-- A malformed request: cause 0x6 with the requester's ID; the parcel is consumed and not served (R567). -/
def refusePull (t : TileId) (p : Port) (f : Flit) (s : State) : State :=
  takeFaultFor (envWave f.env) t (.net 6 0 (envSource f.env) unitPost) (s.tile t).pc 0 (popBuf t p 3 s)

/-- PULL_REQUEST: the remote post engine queues the reply's descriptor, or keeps it while the queue is full (R117), or refuses the
request. -/
def execPullRequest (t : TileId) (p : Port) (s : State) : Out :=
  match arrived t p 3 s with
  | none => .next s
  | some f =>
    if envKind f.env ≠ 9 ∨ bitsAt (wordAt f.line 0) 0 8 = 2 then .next s
    else if !(s.block (tileBlock t)).awake then
      .next (knockBlock t s)
    else if !crcGood f.line then .next (sendFaultNote 3 (envWave f.env) t (popBuf t p 3 s))
    else if !pullOk f.line then .next (refusePull t p f s)
    else
      let n := (wordAt f.line 2).toNat + 1
      let d : Desc :=
      { op := .send, smem := fieldAt (wordAt f.line 0) 8 2, dmem := 0, src := (wordAt f.line 1).toNat, dst := 0,
        blocks := n, reg := false, last := true, bypass := envBypass f.env, position := envPosition f.env, tmpl := 0,
        ctx := ⟨envSession f.env, envTenant f.env, envPosition f.env, envWave f.env, envReplay f.env, envBypass f.env⟩,
        env := some (replyEnv t f.env (bitsAt (wordAt f.line 0) 16 8)) }
      .next ((popBuf t p 3 s).updTile t (fun x => admitServed { x with served := x.served ++ [d] }))

/-- CIRCULAR_REQUEST. -/
def execCircularRequest (t : TileId) (p : Port) (s : State) : Out :=
  match arrived t p 3 s with
  | none => .next s
  | some f =>
    if envKind f.env ≠ 9 ∨ bitsAt (wordAt f.line 0) 0 8 ≠ 2 then .next s
    else if !(s.block (tileBlock t)).awake then
      .next (knockBlock t s)
    else if !crcGood f.line then .next (sendFaultNote 3 (envWave f.env) t (popBuf t p 3 s))
    else if !circularOk (s.tile t) f.line then .next (refusePull t p f s)
    else .next ((popBuf t p 3 s).updTile t (askCircular t (wordAt f.line 1).toNat f.env))

/-! ## The rim (R140, R528, R566) -/

/-- The die a rim parcel leaves to; none when its QUEUE names no attached port of the tile (R133, R140). -/
def rimTarget (t : TileId) (q : Byte) : Option RimDie :=
  let port := if q = 0xF0 then primaryPort t else if q = 0xF1 then secondaryPort t else none
  match port with
  | none => none
  | some (e, d) => match rimDie e d with
    | .idle => none
    | die => some die

/-- RIM_EXIT: a parcel leaves through an outward port to its die; otherwise the router holds it with a destination fault until its
wave is purged. A parcel of a reserved QUEUE code stays in the router (R12, log entry 66). -/
def execRimExit (t : TileId) (p : Port) (vc : BitVec 2) (s : State) : Out :=
  match arrived t p vc.toNat s with
  | none => .next s
  | some f =>
    if envQueue f.env ≠ 0xF0 ∧ envQueue f.env ≠ 0xF1 then .next s
    else match rimTarget t (envQueue f.env) with
    | none => .next (if purges t (envWave f.env) s then popBuf t p vc.toNat s
        else takeNetFault t (.net 5 (portCode p) (envDest f.env) unitPost) f s)
    | some (.chiplet c) =>
      .next ((popBuf t p vc.toNat s).updChiplet c (fun k => { k with rimIn := k.rimIn ++ [f] }))
    | some (.stack n) => .next ((popBuf t p vc.toNat s).updStk n (fun k => { k with rimIn := k.rimIn ++ [f] }))
    | some (.keeper k) => .next ((popBuf t p vc.toNat s).updKeeper k (fun y => { y with rimIn := y.rimIn ++ [f] }))
    | some .idle => .next s

/-- The input port of an outward port's edge. -/
def edgePort (e : Nat) : Port := if e = 0 then .north else if e = 1 then .east else if e = 2 then .south else .west

/-- A parcel from a rim die enters at an edge port when an input buffer is free (R140, R566). While the field's generator is
stopped the parcel stays with its die and the field controller is knocked (R143, log entry 150). -/
def enterRim (t : TileId) (p : Port) (f : Flit) (s : State) : Option State :=
  let x := s.tile t
  if !s.routerOn t || !(s.field (tileField t)).genRunning || decide ((x.buf p (envVc f.env)).length ≥ 8) then none
  else some (s.putTile t (x.setBuf p (envVc f.env) (x.buf p (envVc f.env) ++ [f])))

/-- What a parcel that cannot enter does: a stopped generator is knocked. -/
def awaitRim (t : TileId) (s : State) : State :=
  if s.routerOn t && !(s.field (tileField t)).genRunning then knockField t s else s

/-- RIM_ENTRY: a parcel from a rim die enters through the port that attaches the die. -/
def execRimEntry (t : TileId) (secondary : Bool) (env : Env) (l : Line) (s : State) : Out :=
  match (if secondary then secondaryPort t else primaryPort t) with
  | none => .next s
  | some (e, d) =>
    if rimDie e d == .idle then .next s
    else .next ((enterRim t (edgePort e) ⟨env, l⟩ s).getD (awaitRim t s))

end Sys2Proof.Machine
end

