-- ==== Sys2Proof/Machine/Draws.lean ====
section
/-! DEFINITION. The sampler over the whole vocabulary: the pipeline of R228, draws, drafts and their verification (R218 to R231). The
SAMPLE instructions of one tile are in Sample.lean; here are the distributions that a wave's logits give and the tokens drawn from
them. -/

namespace Sys2Proof.Machine

/-! ## Sums in token-ID order (R224) -/

/-- Sizes of the sampler tiles' ranges, in order; one range without a sampler stage (R283). -/
def rangeSizes (v : Nat) : List Nat → List Nat
  | [] => []
  | [b] => [v - b]
  | b :: c :: bs => (c - b) :: rangeSizes v (c :: bs)

/-- A list cut into consecutive parts. -/
def cutRanges : List Nat → List Word → List (List Word)
  | [], _ => []
  | n :: ns, ws => ws.take n :: cutRanges ns (ws.drop n)

/-- The vocabulary's words by sampler tile. -/
def State.byTile (s : State) (ws : List Word) : List (List Word) :=
  match s.dev.placement with
  | none => [ws]
  | some p =>
    match p.stages.find? (fun g => g.kind == 7) with
    | some g => cutRanges (rangeSizes p.vocab (g.tiles.map (fun e => e.2.toNat))) ws
    | none => [ws]

/-- A tile's sum: the lane sums of its blocks of 64, added in ascending order (R90, R224). -/
def tileSum (ws : List Word) : Word :=
  match (chunks 64 (ws.length / 64 + 1) ws).map (fun c => laneSum ((c ++ List.replicate 64 0).take 64)) with
  | [] => 0
  | b :: bs => bs.foldl fadd b

/-- Sums of tiles in the stage's fixed tree (R147, R224); one tile's sum is itself. -/
def State.treeSum (s : State) : List Word → Word
  | [w] => w
  | ws => stageSum s.imageInForce 0xFFFE ws

/-- The sum across the vocabulary. -/
def State.vocabSum (s : State) (ws : List Word) : Word := s.treeSum ((s.byTile ws).map tileSum)

/-! ## The pipeline (R228) -/

/-- Words with their token IDs. -/
def tokenPairs (ws : List Word) : List (Word × Word) := ws.zipIdx.map (fun e => (e.1, BitVec.ofNat 32 e.2))

/-- Every logit is −infinity. -/
def noneLeft (ws : List Word) : Bool := ws.all (fun w => w == negInf)

/-- Step 2: the current state's mask row. -/
def maskRow (g : Option (Image × Nat)) (vocab : Nat) (ws : List Word) : List Word :=
  match g with
  | none => ws
  | some e => ws.zipIdx.map (fun w => if grammarAllows e.1 vocab e.2 w.2 then w.1 else negInf)

/-- Step 3: the penalty on every distinct token of the last W positions. -/
def penaliseSeen (pen : Word) (seen : List Word) (ws : List Word) : List Word :=
  ws.zipIdx.map (fun w => if seen.any (fun t => t.toNat == w.2) then penalise pen w.1 else w.1)

/-- The winners of k rounds of max-with-index, each masked before the next (R203, R228). -/
def topRounds : Nat → List Word → List Nat
  | 0, _ => []
  | k + 1, ws =>
    let i := (pickAll false (tokenPairs ws)).2.toNat
    i :: topRounds k (setNth ws i negInf)

/-- Step 5. -/
def keepTop (k : Nat) (ws : List Word) : List Word :=
  if k = 0 then ws else let top := topRounds k ws; ws.zipIdx.map (fun w => if top.contains w.2 then w.1 else negInf)

/-- exp(l − m); where the maximum is +infinity, the tokens that have it share the mass and the finite ones have none (R223; log entry
159). -/
def expShare (m l : Word) : Word := if m = f32Inf false then (if l = f32Inf false then f32One else 0) else fexpm l m

/-- Multiply by the reciprocal of the sum. -/
def State.normalise (s : State) (ws : List Word) : List Word := let r := frecip (s.vocabSum ws); ws.map (fun w => fmul w r)

/-- Step 6. -/
def State.softmax (s : State) (ws : List Word) : List Word :=
  let m := (pickAll false (tokenPairs ws)).1
  s.normalise (ws.map (expShare m))

/-- Step 7. -/
def State.cutMin (s : State) (minP : Word) (ws : List Word) : List Word :=
  if isZeroF minP then ws
  else
    let low := fmul minP (pickAll false (tokenPairs ws)).1
    s.normalise (ws.map (fun w => if fltB w low then 0 else w))

/-- Survivors by probability, ties to the lower ID. -/
def insertRank (e : Word × Nat) : List (Word × Nat) → List (Word × Nat)
  | [] => [e]
  | x :: xs => if f32Key x.1 < f32Key e.1 ∨ (x.1 = e.1 ∧ e.2 < x.2) then e :: x :: xs else x :: insertRank e xs

/-- The shortest prefix whose running sum reaches a bound. -/
def reachPrefix (bound : Word) : Word → List (Word × Nat) → List Nat
  | _, [] => []
  | c, e :: es => let c' := fadd c e.1; if fltB c' bound then e.2 :: reachPrefix bound c' es else [e.2]

/-- Step 8. -/
def State.cutTop (s : State) (topP : Word) (ws : List Word) : List Word :=
  if topP = f32One then ws
  else
    let ranked := (ws.zipIdx.filter (fun w => fltB 0 w.1)).foldl (fun l e => insertRank e l) []
    let keep := reachPrefix topP 0 ranked
    s.normalise (ws.zipIdx.map (fun w => if keep.contains w.2 then w.1 else 0))

/-- The logits after steps 1 to 3, and after steps 4 and 5 where they apply. -/
def masked (g : Settings) (gr : Option (Image × Nat)) (vocab : Nat) (hist ls : List Word) : List Word :=
  let seen := hist.drop (hist.length - g.window)
  let a := penaliseSeen g.penalty seen (maskRow gr vocab ((ls ++ List.replicate vocab negInf).take vocab))
  if isZeroF g.temp then a else keepTop g.topK (a.map (fun l => fmul l (frecip g.temp)))

/-- The distribution that logits give under a settings block, a grammar state and a history; none when every logit is −infinity. -/
def State.distribution (s : State) (g : Settings) (gr : Option (Image × Nat)) (hist ls : List Word) : Option (List Word) :=
  let vocab := match s.dev.placement with | some p => p.vocab | none => ls.length
  let a := masked g gr vocab hist ls
  if noneLeft a then none
  else if isZeroF g.temp then some (oneHot a)
  else some (s.cutTop g.topP (s.cutMin g.minP (s.softmax a)))

/-! ## Draws (R229, R230) -/

/-- The lowest token whose cumulative sum is above a threshold, tile by tile from each tile's own start. -/
def State.drawFrom (s : State) (thr : Word) : List Word → Nat → List (List Word) → Option Nat
  | _, _, [] => none
  | sums, base, r :: rs =>
    match drawIndex thr (if sums = [] then 0 else s.treeSum sums) 0 r with
    | some i => some (base + i)
    | none => s.drawFrom thr (sums ++ [tileSum r]) (base + r.length) rs

/-- The highest token with a probability above 0. -/
def highestToken (ws : List Word) : Option Nat := ((ws.zipIdx.filter (fun w => fltB 0 w.1)).map Prod.snd).getLast?

/-- draw(P, u); none only when no token has a probability above 0. -/
def State.draw (s : State) (ps : List Word) (u : Word) : Option Word :=
  ((s.drawFrom (fmul u (s.vocabSum ps)) [] 0 (s.byTile ps)).orElse (fun _ => highestToken ps)).map (BitVec.ofNat 32)

/-- The uniform draw of a session at a position for a purpose (R230). -/
def Session.uniform (x : Session) (position : Nat) (purpose : Word) : Word := uniformF32 x.seed (BitVec.ofNat 24 position) purpose

/-! ## Drafts (R219) -/

/-- A grammar state after a token: its last good value on a DEAD walk (R226). -/
def stepGrammar (s : State) (gr : Option (Image × Nat)) (t : Word) : Option (Image × Nat) :=
  gr.map (fun e => (e.1, (s.walkToken e.1 e.2 t.toNat).getD e.2))

/-- Drafts at positions `p` on from the nymph's logits, each with the distribution it was drawn from, along a provisional grammar state
and history. -/
def draftTokens (s : State) (x : Session) (g : Settings) : Nat → Option (Image × Nat) → List Word → List (List Word) → List (Word × List Word)
  | _, _, _, [] => []
  | p, gr, hist, l :: ls =>
    match s.distribution g gr hist l with
    | none => []
    | some q =>
      match s.draw q (x.uniform p 1) with
      | none => []
      | some d => (d, q) :: draftTokens s x g (p + 1) (stepGrammar s gr d) (hist ++ [d]) ls

/-! ## Verification (R220) -/

/-- Why a wave's tokens end: as the loop of R220 ends, at a DEAD walk, or with no distribution (R226, R228). -/
inductive VerifyEnd where
  | done | dead | empty
  deriving DecidableEq, Repr

/-- Emit a token: it walks the grammar, and a DEAD walk emits nothing (R226). -/
def emitToken (s : State) (gr : Option (Image × Nat)) (t : Option Word) : List Word × VerifyEnd :=
  match t with
  | none => ([], .empty)
  | some t =>
    match gr with
    | none => ([t], .done)
    | some e => if (s.walkToken e.1 e.2 t.toNat).isSome then ([t], .done) else ([], .dead)

/-- max(0, p − q) for every token (R220). -/
def residual (ps qs : List Word) : List Word := zipWords (fun p q => fmax 0 (fsub p q)) ps qs

/-- The loop of R220 at position `p`: `extra` where a last token follows when every draft is accepted. -/
def verify (s : State) (x : Session) (g : Settings) (extra : Bool) :
    Nat → Option (Image × Nat) → List Word → List (Word × List Word) → List (List Word) → List Word × VerifyEnd
  | _, _, _, _, [] => ([], .done)
  | p, gr, hist, ds, l :: ls =>
    match s.distribution g gr hist l with
    | none => ([], .empty)
    | some ps =>
      match ds with
      | [] => if extra then emitToken s gr (s.draw ps (x.uniform p 0)) else ([], .done)
      | d :: ds =>
        if acceptTest (x.uniform p 2) (nth 0 d.2 d.1.toNat) (nth 0 ps d.1.toNat) then
          let e := emitToken s gr (some d.1)
          if e.2 = .done then
            let r := verify s x g extra (p + 1) (stepGrammar s gr d.1) (hist ++ [d.1]) ds ls
            (d.1 :: r.1, r.2)
          else e
        else emitToken s gr (s.draw (residual ps d.2) (x.uniform p 3))

end Sys2Proof.Machine
end

