-- ==== Sys2Proof/Machine/Waves.lean ====
section
/-! DEFINITION. Waves: admission, fixed-time slots, commit, replay, the purge's end and the recomputation of lost positions
(R191, R200, R201, R205, R218 to R223, R226, R228, R314, R325, R329, R342, R402, R455, R461). -/

namespace Sys2Proof.Machine

/-! ## What a session's next wave would carry -/

/-- Tokens a wave carries at most: the smallest DWELL_MAX of the placement's stages (R279). -/
def State.waveLimit (s : State) : Nat :=
  match s.dev.placement with
  | none => 8
  | some p => (p.stages.map Stage.dwellMax).foldl min 8

/-- Tokens a GENERATE's wave emits at most: K + 1, and 8 for K = 8 (R220). -/
def emitLimit (r : LetterRec) : Nat := min 8 ((readSettings (r.params.take 32)).depth + 1)

/-- Tokens of an APPEND that no wave has committed yet. -/
def appendLeft (r : LetterRec) : List Word := ((r.train.flatMap Line.words).take (leAt r.params 0 4)).drop r.emitted

/-- The grammar a GENERATE runs under, and its state: START at its first token (R226, R381). -/
def grammarOf (s : State) (x : Session) (r : LetterRec) : Option (Image × Nat) :=
  (if r.grammarId = 0 then none else s.image r.grammarId).map (fun g => (g, if r.emitted = 0 then grammarStart g else x.grammarState))

/-- Drafts of a GENERATE's wave, from the nymph's logits for the positions after the next (R219). -/
def waveDrafts (s : State) (x : Session) (r : LetterRec) (nymph : List (List Word)) : List (Word × List Word) :=
  let g := readSettings (r.params.take 32)
  draftTokens s x g x.nextPos (grammarOf s x r) x.tokens (nymph.take g.depth)

/-- Inputs of the next wave and the position of the first: an APPEND's next tokens; the last token and at most 7 drafts for a GENERATE
(R220); the next positions of an ADAPT's span, and none for its backward pass (R200). -/
def nextInputs (s : State) (x : Session) (r : LetterRec) (ds : List (Word × List Word)) : Option (List Word × Nat) :=
  if r.opcode = opAppend then some ((appendLeft r).take s.waveLimit, x.nextPos)
  else if r.opcode = opGenerate then
    match x.tokens.getLast? with
    | some w => some (w :: (ds.take 7).map Prod.fst, x.nextPos - 1)
    | none => some ([], 0)
  else if r.opcode = opAdapt then
    x.adapt.map (fun a => ((x.tokens.drop (a.first + a.done)).take (min s.waveLimit (a.last + 1 - a.first - a.done)), a.first + a.done))
  else none

/-! ## Ready sessions and their order (R325) -/

/-- The letter at the head of a session's queue, if it issues waves. -/
def State.headWaves (s : State) (x : Session) : Option LetterRec :=
  (x.head s).filter (fun r => (r.opcode = opAppend ∨ r.opcode = opGenerate) ∧ r.finalStatus = none)

/-- A running ADAPT with passes left. -/
def State.adaptWaves (s : State) (x : Session) : Option LetterRec :=
  match x.adapt with
  | some a => if a.result.isNone then s.letter a.key else none
  | none => none

/-- The letters whose wave a session is ready to issue: its queue's head and its ADAPT beside it (R201). A due compaction step comes
first (R191). -/
def State.readyLetters (s : State) (n : Nat) : List LetterRec :=
  let x := s.session n
  if (x.state == .resident || x.state == .running) && x.closeKey.isNone && s.betweenWaves n && !s.compactionWaits n then
    (s.headWaves x).toList ++ (s.adaptWaves x).toList
  else []

/-- Age of a letter: its place among the letters in flight. -/
def letterAge (s : State) (k : LetterKey) : Nat := s.dev.letters.findIdx (fun r => r.key == k)

/-- The tenant runs in fixed-time slots (R329), which Express does not offer. -/
def State.fixedSlots (s : State) (t : BitVec 12) : Bool := (s.quota t).fixedSlots

/-- Session a goes before session b: the favoured one in Express, then the deadline class, then the letter's age. -/
def goesBefore (s : State) (a b : Nat × LetterRec) : Bool :=
  let fav (n : Nat) : Bool := s.dev.profile == 2 && s.dev.favoured != 0 && s.dev.favoured.toNat == n
  if fav a.1 != fav b.1 then fav a.1
  else if a.2.deadline = b.2.deadline then decide (letterAge s a.2.key < letterAge s b.2.key)
  else decide (a.2.deadline.toNat < b.2.deadline.toNat)

/-- Ready sessions that pass a test. -/
def readySessions (s : State) (p : Session → Bool) : List (Nat × LetterRec) :=
  s.dev.sessions.flatMap (fun e => if p e.2 then (s.readyLetters e.1).map (fun r => (e.1, r)) else [])

/-- The one that goes first. -/
def firstReady (s : State) : List (Nat × LetterRec) → Option (Nat × LetterRec)
  | [] => none
  | a :: as =>
    match firstReady s as with
    | none => some a
    | some b => if goesBefore s b a then some b else some a

/-! ## Admission (R402, R455) -/

/-- The device runs waves: a placement stands, and neither bring-up nor a flow stop keeps it from serving. -/
def State.serves (s : State) : Bool :=
  s.dev.placement.isSome && (s.dev.deviceState == 2 || s.dev.deviceState == 3 || s.dev.deviceState == 4) && !s.coolant.flowStop

/-- New waves may be admitted: nothing holds them or closes admission. -/
def State.admits (s : State) : Bool := s.serves && !s.dev.wavesHeld && !s.dev.admissionClosed && s.dev.loadFor.isNone

/-- The first free WAVE number from the counter on (R455): no wave holds it and it is in no purge mask. -/
def State.freeWave (s : State) : Option Byte :=
  ((List.range 256).map (fun i => s.dev.nextWave + BitVec.ofNat 8 i)).find? (fun w => (s.wave w).isNone && !s.dev.purged.contains w)

/-- Blocks of the placement's stages. -/
def State.stageBlocks (s : State) : List Nat :=
  match s.dev.placement with
  | none => []
  | some p => (p.stages.flatMap (fun g => g.tiles.map (fun e => tileBlock e.1))).dedup

/-- Wake orders go to every sleeping block of the wave's stages at once (R402). -/
def wakeStages (s : State) : State := s.stageBlocks.foldl (fun s b => askWake b s) s

/-- Put a wave under a number. -/
def issueWave (w : Byte) (v : Wave) (s : State) : State :=
  wakeStages ((s.setWave w (some v)).updDev (fun d => { d with nextWave := w + 1 }))

/-- A router stage has a reserved GATE_MODE (R205). -/
def badGate (p : Placement) : Bool := p.stages.any (fun g => g.kind == 3 && decide (g.gateMode.toNat ≥ 3))

/-- STATISTICS pages for the rows of an ADAPT's wave (R196); any other wave needs none. -/
def statsFor (n : Nat) (r : LetterRec) (inputs : Nat) (s : State) : Option State :=
  match (s.session n).adapt with
  | some a => if r.opcode = opAdapt then takeStats n (a.done + inputs) s.attention s else some s
  | none => some s

/-- Issue the next wave of a ready session. A wave that inputs the last token again first drops that position's slots; an ADAPT's wave
writes no cache, and waits for its STATISTICS pages. -/
def admitSession (n : Nat) (r : LetterRec) (fixed : Bool) (nymph : List (List Word)) (s : State) : State :=
  let x := s.session n
  let ds := if r.opcode = opGenerate ∧ x.tokens ≠ [] then waveDrafts s x r nymph else []
  match s.dev.placement, s.freeWave, nextInputs s x r ds with
  | some p, some w, some i =>
    if badGate p then finishLetter r.key 0x011D [] [] s
    else
      (match statsFor n r i.1.length s with
      | none => autoPark n x.tenant s
      | some s0 =>
        let s1 := (progress r.key s0).updSession n (fun x => { x with state := .running })
        let v : Wave := { session := BitVec.ofNat 16 n, letter := some r.key, inputs := i.1, first := i.2, drafts := ds
                          adapt := r.opcode == opAdapt, fixedSlot := fixed }
        issueWave w v (takeBack v s1))
  | _, _, _ => s

/-- WAVE_ADMISSION: the session must be the first in order among those ready; the nymph's logits for its drafts come with it (R219). -/
def execWaveAdmission (start : WaveStart 16) (s : State) : Out :=
  if !s.admits then .next s
  else match firstReady s (readySessions s (fun x => !s.fixedSlots x.tenant)) with
    | some e => if e.1 = start.who.toNat then .next (admitSession e.1 e.2 false start.nymph s) else .next s
    | none => .next s

/-! ## Commit (R221, R226, R342) -/

/-- Tokens up to and including the first stop token. -/
def cutAtStop (stops : List Word) : List Word → List Word × Bool
  | [] => ([], false)
  | t :: ts =>
    if stops.contains t then ([t], true)
    else
      let r := cutAtStop stops ts
      (t :: r.1, r.2)

/-- The state that tokens take the grammar to (R226). -/
def walkTokens (s : State) (gr : Option (Image × Nat)) (ts : List Word) : Option (Image × Nat) := ts.foldl (stepGrammar s) gr

/-- A wave number is free again. -/
def clearWave (w : Byte) (s : State) : State :=
  (s.setWave w none).updDev (fun d => { d with dumps := Tbl.set 0 d.dumps w.toNat 0 })

/-- A committed position would be 256 positions behind in the trail before the next wave commits (R314). -/
def trailDue (s : State) (n : Nat) : Bool :=
  let x := s.session n
  x.folios.any (fun f => match s.layerStage f.layer with
    | none => false
    | some g => match folioFrame s n g f with
      | none => false
      | some k => k.positions.any (fun p => decide (f.trailPos ≤ p) && decide ((p : Int) + 248 ≤ x.top)))

/-- Write behind at a commit what the bound of R314 asks for. -/
def boundTrail (n : Nat) (s : State) : State := if trailDue s n then flushTrail n (s.session n).top s else s

/-- Commit tokens to a session's log (R300, R313) and the cache up to position `last`. -/
def commitTokens (n : Nat) (ts : List Word) (last : Int) (s : State) : State :=
  let s1 := s.updSession n (fun x => { x with
    tokens := x.tokens ++ ts
    highest := if x.tokens ++ ts = [] then none else some ((x.tokens ++ ts).length - 1)
    lastWave := s.dev.time })
  boundTrail n (dropEmpty n (invalidateSlots (BitVec.ofNat 16 n) last s1))

/-- Every sampler tile of a session takes its committed grammar state: provisional ones are dropped (R219, R226). -/
def syncGrammar (n : Nat) (st : Nat) (s : State) : State :=
  { s with tiles := Tbl.mapV {} (fun x =>
      let v := Tbl.get {} x.sampler n
      if v = {} then x else { x with sampler := Tbl.set {} x.sampler n { v with grammarState := st } }) s.tiles }

/-- Commit an APPEND's wave. -/
def commitAppend (n : Nat) (v : Wave) (r : LetterRec) (s : State) : State :=
  let s1 := commitTokens n v.inputs ((v.first + v.inputs.length : Nat) - 1) s
  let s2 := s1.updLetter r.key (fun y => { y with emitted := y.emitted + v.inputs.length })
  if r.emitted + v.inputs.length ≥ leAt r.params 0 4 then
    finishLetter r.key stDone (topBytes (s2.session n)) [] (s2.updLetter r.key (fun y => { y with emitted := 0 }))
  else s2

/-- A progress receipt with a wave's tokens (R342). -/
def streamTokens (k : LetterKey) (ts : List Word) (s : State) : State := sendInterim k (tokenTrain ts) s

/-- Status of a letter whose wave can emit no further token (R226, R228). -/
def emptyStatus (e : VerifyEnd) (grammar : Bool) : BitVec 16 := if e = .dead ∨ grammar then 0x0120 else 0x0121

/-- Commit a GENERATE's wave (R220, R221, R226, R342): the tokens its logits give, at most the letter's, cut at the first stop token. -/
def commitGenerate (n : Nat) (v : Wave) (r : LetterRec) (logits : List (List Word)) (s : State) : State :=
  let x := s.session n
  let g := readSettings (r.params.take 32)
  let gr := grammarOf s x r
  let vr := verify s x g (decide (g.depth ≤ 7)) x.nextPos gr x.tokens v.drafts logits
  let cut := cutAtStop (stopTokens r.params) ((vr.1.take (emitLimit r)).take (leAt r.params 32 4 - r.emitted))
  let out := cut.1
  let st := match walkTokens s gr out with | some e => e.2 | none => x.grammarState
  let s1 := commitTokens n out ((x.nextPos + out.length : Nat) - 2) s
  let s2 := syncGrammar n st (s1.updSession n (fun y => { y with grammarState := st }))
  let s3 := s2.updLetter r.key (fun y => { y with emitted := y.emitted + out.length, unsent := y.unsent ++ out })
  match s3.letter r.key with
  | none => s3
  | some q =>
    if cut.2 then finishLetter r.key stDone (generateResults q 0x01) (tokenTrain q.unsent) s3
    else if q.emitted ≥ leAt r.params 32 4 then finishLetter r.key stDone (generateResults q 0x00) (tokenTrain q.unsent) s3
    else if vr.2 ≠ .done then finishLetter r.key (emptyStatus vr.2 gr.isSome) [] (tokenTrain q.unsent) s3
    else if r.stream then (streamTokens r.key q.unsent s3).updLetter r.key (fun y => { y with unsent := [] })
    else s3

/-- DRAIN REMOVE ends a running letter at its next commit (R357). -/
def drainLetter (k : LetterKey) (s : State) : State := if s.dev.draining then endSessionLetter k 0x03 0x0403 s else s

/-- A wave's commit takes effect: its tokens, its letter, and what waited for the token boundary. -/
def releaseWave (w : Byte) (v : Wave) (logits : List (List Word)) (s : State) : State :=
  let n := v.session.toNat
  let s0 := clearWave w s
  let s1 := match v.letter with
    | none => s0
    | some k =>
      match s0.letter k with
      | none => s0
      | some r =>
        if v.adapt then commitAdapt n v r s0
        else drainLetter k (if r.opcode = opAppend then commitAppend n v r s0 else commitGenerate n v r logits s0)
  proceed (settle n (restSession v.session s1))

/-- A GENERATE's wave brings the main model's logits for each of its inputs, none of them NaN: that fault holds the wave (R220, R223). -/
def logitsOk (s : State) (v : Wave) (logits : List (List Word)) : Bool :=
  match v.letter.bind s.letter with
  | some r => r.opcode != opGenerate || (logits.length == max 1 v.inputs.length && logits.all (fun l => !l.any isNaN))
  | none => true

/-- WAVE_COMMIT: a wave in a fixed-time slot keeps its results until the slot's end (R329). -/
def execWaveCommit (wave : Byte) (logits : List (List Word)) (s : State) : Out :=
  match s.wave wave with
  | none => .next s
  | some v =>
    if v.discarded ∨ v.result.isSome ∨ !logitsOk s v logits then .next s
    else if v.fixedSlot then .next (s.setWave wave (some { v with result := some logits }))
    else .next (releaseWave wave v logits s)

/-! ## Fixed-time slots (R329) -/

/-- Waves of a tenant. -/
def wavesOfTenant (s : State) (t : BitVec 12) : List (Byte × Wave) :=
  s.dev.waves.filterMap (fun e => match e.2 with
    | some v => if v.fixedSlot && (s.session v.session.toNat).tenant == t then some (BitVec.ofNat 8 e.1, v) else none
    | none => none)

/-- At a boundary a finished wave is released; one that still runs is counted once as an overrun. -/
def slotEnd (t : BitVec 12) (s : State) (e : Byte × Wave) : State :=
  match e.2.result with
  | some ts => releaseWave e.1 e.2 ts s
  | none =>
    if e.2.late ∨ e.2.discarded then s
    else (s.setWave e.1 (some { e.2 with late := true })).updDev (fun d => { d with overruns := Tbl.upd 0 d.overruns t.toNat (fun n => n + 1) })

/-! ## Replay and the end of a purge (R455, R456) -/

/-- Reissue a discarded wave from its held inputs under a new number, its slots invalidated first. -/
def replayNow (wave : Byte) (s : State) : State :=
  match s.wave wave with
  | none => s
  | some v =>
    if !v.discarded || !s.serves || s.dev.wavesHeld || !s.standing v.session.toNat then s
    else match s.freeWave with
      | none => s
      | some w => issueWave w { v with discarded := false, replay := true, result := none } (takeBack v (clearWave wave s))

/-- WAVE_REPLAY: a wave of a fixed-time slot waits for its tenant's next boundary, where every wave of the tenant begins (R329). -/
def execWaveReplay (wave : Byte) (s : State) : Out :=
  match s.wave wave with
  | none => .next s
  | some v => if v.fixedSlot then .next s else .next (replayNow wave s)

/-- FIXED_SLOT_BOUNDARY: finished waves of the tenant are released, discarded ones are reissued, and the next one begins. -/
def execFixedSlotBoundary (start : WaveStart 12) (s : State) : Out :=
  let tenant := start.who
  if !s.fixedSlots tenant then .next s
  else
    let s1 := (wavesOfTenant s tenant).foldl (slotEnd tenant) s
    let s2 := (wavesOfTenant s1 tenant).foldl (fun s e => replayNow e.1 s) s1
    if !s2.admits then .next s2
    else match firstReady s2 (readySessions s2 (fun x => x.tenant == tenant)) with
      | some e => .next (admitSession e.1 e.2 true start.nymph s2)
      | none => .next s2

/-- PURGE_RESUME_TIMER: RESUME frees the number. -/
def execPurgeResumeTimer (wave : Byte) (s : State) : Out :=
  if s.dev.purged.contains wave then
    .next ((orderWave wave orderResume s).updDev (fun d => { d with purged := d.purged.filter (fun w => w != wave) }))
  else .next s

/-! ## Deadlines (R334) -/

/-- A letter whose deadline passes without first progress (R334): it leaves whatever waited for it. -/
def execDeadlineExpiry (k : LetterKey) (s : State) : Out :=
  match s.letter k with
  | none => .next s
  | some r =>
    if r.progressed then .next s
    else .next (settleAll (finishLetter k 0x0402 [] [] (s.updDev (fun d => { d with
      roleWaits := d.roleWaits.filter (fun w => w.key != k)
      loadFor := if d.loadFor = some k then none else d.loadFor
      swap := if d.swap.letter = some k then { d.swap with letter := none } else d.swap
      sessions := Tbl.mapV {} (fun (x : Session) => { x with
        closeKey := if x.closeKey = some k then none else x.closeKey
        adapt := x.adapt.filter (fun a => a.key != k) }) d.sessions }))))

/-! ## Recomputation (R322, R461) -/

/-- A lost frame as the recomputation re-forms it. -/
def restoreFolio (n : Nat) (s : State) (f : FolioRef) : State :=
  match f.tile, f.lost with
  | some t, l :: ls =>
    (s.updTile t (fun x => x.writeLines memSlab (32 * f.page) (paddedBody (l :: ls)))).updSession n (fun y => { y with
      folios := putFolioRef f { f with lost := [] } y.folios })
  | _, _ => s

/-- Body of the i-th folio that the n-th recomputation forms in a layer for positions this device never held (R322): the prefill runs
the placement's own program. -/
opaque recomputedFolio : Nat → BitVec 16 → Nat → List Line

/-- Folios of a layer for the positions after those that stand sealed in it: 64 positions each, the last one open unless it is full. -/
def missingIn (x : Session) (look : Nat) (g : Stage) : List FolioRef :=
  if x.folios.any (fun f => f.layer == g.layer && !f.sealed) then []
  else
    let m := x.tokens.length - sealedTo x g
    (List.range ((m + 63) / 64)).map (fun i =>
      let full := decide (64 * (i + 1) ≤ m)
      { layer := g.layer, seqNo := nextSeqNo x g.layer + BitVec.ofNat 32 i, sealed := full
        pages := if full then sealedPages g else openPages g, lost := recomputedFolio look g.layer i })

/-- Folios of the positions after those a keeper held sealed, when none of them was ever held here (R322). -/
def missingFolios (n : Nat) (s : State) : State :=
  let x := s.session n
  if x.rebuildFrom = none then s
  else (s.updDev (fun d => { d with trailLooks := d.trailLooks + 1 })).updSession n (fun y => { y with
    folios := y.folios ++ s.attention.flatMap (missingIn x s.dev.trailLooks) })

/-- OPEN_FOLIO_RECOMPUTE: frames that a lost field took stand in new pages, the lost positions are in place again with the
values they had, and the session leaves REBUILDING. -/
def execOpenFolioRecompute (session : BitVec 16) (s : State) : Out :=
  let n := session.toNat
  let x := s.session n
  if x.state ≠ .rebuilding || !s.serves || s.dev.wavesHeld then .next s
  else
    let s0 := missingFolios n s
    match residentAll n (s0.session n).folios s0 with
    | none => .next (autoPark n x.tenant s)
    | some r =>
      let s1 := (r.session n).folios.foldl (restoreFolio n) r
      let s2 := s1.updSession n (fun y => { y with state := x.prior, rebuildFrom := none })
      .next (proceed (settle n (finishHead n opResume (x.queue.foldl (fun s k => touchLetter k stRepaired s) s2))))

end Sys2Proof.Machine
end

