-- ==== Sys2Proof/Machine/Images.lean ====
section
/-! DEFINITION. Images: staging through the weight gates, held images, LOAD_PLACEMENT, adapters and live swap (R344, R354,
R367 to R383). -/

namespace Sys2Proof.Machine

/-! ## The image file (R367 to R369) -/

/-- Payload of a parcel as an image line. -/
def imageLine (l : Line) : BitVec 512 := l.setWidth 512

/-- Bytes of image lines. -/
def lineBytes (ls : List (BitVec 512)) : List Byte := ls.flatMap (bytesOf 64)

def fileChunks (h : BitVec 512) : Nat := bitsAt h 160 32
def fileKeyId (h : BitVec 512) : BitVec 256 := fieldAt h 192 256
def fileWrap (h : BitVec 512) : Nat := bitsAt h 56 8

/-- Lines before the first chunk. -/
def headLines (h : BitVec 512) : Nat := 9 + (fileChunks h + 3) / 4

/-- First line of chunk i, and one past the file's last line for i = C. -/
def chunkStart (h : BitVec 512) (i : Nat) : Nat := headLines h + 9 * min (65536 * i) (fileRecords h) / 8

/-- The header is legal for a kind and an IMAGE_ID. -/
def fileHeadOk (kind : Byte) (id : BitVec 64) (h : BitVec 512) : Bool :=
  bitsAt h 0 32 == 0x474D4949 && bitsAt h 32 16 == 1 && fieldAt h 48 8 == kind && decide (1 ≤ kind.toNat) && decide (kind.toNat ≤ 4) &&
  (fileWrap h == 1 || fileWrap h == 2) && fieldAt h 64 64 == id && decide (0 < fileRecords h) && fileRecords h % 8 == 0 &&
  fileChunks h == (fileRecords h + 65535) / 65536 && bitsAt h 448 64 == 0

/-- Keepers that run (R462, R488). -/
def State.keepersRunning (s : State) : List Nat := if s.dev.standbyLost then [s.dev.activeKeeper.val] else [0, 1]

/-- A keeper holds the private key of a KEY_ID: its identity key for WRAP 0x01, an enrolled one for WRAP 0x02. -/
def State.holdsKey (s : State) (wrap : Nat) (key : BitVec 256) : Bool :=
  if wrap = 1 then s.keepersRunning.any (fun k => Config.identityKeyId k == key)
  else (List.range 5).any (fun i => Tbl.get none s.dev.wrapKeys i == some key)

/-- Bytes as a key, byte 0 in the low bits. -/
def keyOfBytes (bs : List Byte) : BitVec 256 := BitVec.ofNat 256 (leNat (bs.take 32))

/-- The content key: the key block opened, its IMAGE_ID checked. -/
def contentKey (id : BitVec 64) (ls : List (BitVec 512)) : Option (BitVec 256) :=
  match Config.oaepOpen (fileKeyId (nth 0 ls 0)) (lineBytes ((ls.drop 1).take 8)) with
  | some bs => if bs.length = 40 ∧ leAt bs 32 8 = id.toNat then some (keyOfBytes bs) else none
  | none => none

/-- GCM tag of chunk i. -/
def chunkTag (ls : List (BitVec 512)) (i : Nat) : BitVec 128 := fieldAt (nth 0 ls (9 + i / 4)) (128 * (i % 4)) 128

/-- Plaintext of chunk i and whether its tag matches. -/
def openChunk (id : BitVec 64) (ls : List (BitVec 512)) (key : BitVec 256) (i : Nat) : List Byte × Bool :=
  let h := nth 0 ls 0
  let ct := lineBytes ((ls.drop (chunkStart h i)).take (chunkStart h (i + 1) - chunkStart h i))
  Config.gcmOpen key (BitVec.ofNat 96 (id.toNat + i * 2 ^ 64)) ((bytesOf 64 h).take 56) ct (chunkTag ls i)

/-- Records of a plaintext. -/
def recordsOf (bs : List Byte) : List Line := (chunks 72 (bs.length + 1) bs).map lineOfBytes

/-! ## Held images and their use (R372) -/

/-- Images in use: those in force, a swap candidate and its weights, bound adapters, grammars of running letters. -/
def State.imageInUse (s : State) (id : BitVec 64) : Bool :=
  (match s.dev.placement with | some p => p.imageId == id || p.weightsId == id | none => false) ||
  (match s.dev.swap.candidate with
    | some c => c == id || (match s.image c with | some g => (placementOf g.records none).weightsId == id | none => false)
    | none => false) ||
  s.dev.adapters.any (fun e => e.2 == id) || s.dev.letters.any (fun r => r.opcode == opGenerate && r.grammarId == id)

def State.stagingOf (s : State) (id : BitVec 64) : Option Staging := Tbl.get none s.dev.staging id.toNat
def putStaging (id : BitVec 64) (g : Option Staging) (s : State) : State :=
  s.updDev (fun d => { d with staging := Tbl.set none d.staging id.toNat g })

/-- End a staging letter with the image lines held (R371). -/
def endStage (id : BitVec 64) (status : BitVec 16) (lines : Nat) (s : State) : State :=
  match s.stagingOf id with
  | none => s
  | some g =>
    match g.key with
    | none => s
    | some k => finishLetter k status (countBytes lines) [] ((putStaging id (some { g with key := none }) s).updLetter k (fun r => { r with emitted := lines }))

/-- Drop a staging, its letter ended. -/
def dropStage (id : BitVec 64) (status : BitVec 16) (s : State) : State := putStaging id none (endStage id status 0 s)

/-- A whole chunk stands in the gate. -/
def Staging.chunkReady (g : Staging) : Bool :=
  let h := nth 0 g.lines 0
  decide (g.chunk < fileChunks h) && decide (chunkStart h (g.chunk + 1) ≤ g.lines.length)

/-- Look at what a letter brought: the header before any chunk, then the letter ends unless a chunk waits for the gate. -/
def takeLines (id : BitVec 64) (s : State) : State :=
  match s.stagingOf id with
  | none => s
  | some g =>
    let h := nth 0 g.lines 0
    if g.lines = [] then endStage id stDone 0 s
    else if !fileHeadOk g.kind id h || !s.holdsKey (fileWrap h) (fileKeyId h) then dropStage id 0x0108 s
    else if !s.stackFits then dropStage id 0x0308 s
    else if 9 ≤ g.lines.length ∧ contentKey id g.lines = none then dropStage id 0x0205 s
    else if g.chunkReady then s
    else endStage id stDone g.lines.length s

/-! ## STAGE_IMAGE (R344, R370) -/

def stageId (l : Letter) : BitVec 64 := BitVec.ofNat 64 (letterNum l 0 8)
def stageKind (l : Letter) : Byte := BitVec.ofNat 8 (letterNum l 8 1)

/-- The role of a letter that names an image: operator for one on the list (R344, R497). -/
def imageRole (id : BitVec 64) (s : State) : Byte := if s.dev.authImages.contains id then 0 else 1

/-- KIND and SLOT of the parameters. -/
def stageParamsOk (l : Letter) : Bool :=
  let k := letterNum l 8 1
  decide (1 ≤ k) && decide (k ≤ 4) && letterZeros l 10 2 && (if k ≤ 2 then letterNum l 9 1 == 0 else letterNum l 9 1 != 0)

/-- Held images beside one ID. -/
def State.heldBeside (s : State) (id : BitVec 64) : Nat := s.dev.images.countP (fun e => e.1 != id.toNat)

/-- The file a staging has begun takes that many more lines. -/
def stageFits (g : Staging) (n : Nat) : Bool :=
  g.lines == [] || decide (g.lines.length + n ≤ chunkStart (nth 0 g.lines 0) (fileChunks (nth 0 g.lines 0)))

def stageRule (l : Letter) (s : State) : LetterRule :=
  let id := stageId l
  let off := letterNum l 12 4
  let old := s.stagingOf id
  { role := imageRole id s, len := 16, train := letterTrainOk l (some fmtBYTES)
    params := stageParamsOk l && (off == 0 || (match old with
      | some g => off == g.lines.length && g.kind == stageKind l && letterNum l 9 1 == g.slot.toNat
      | none => false))
    later := [(off != 0 && (match old with | some g => !stageFits g l.train.length | none => false), 0x0105),
      (decide (64 ≤ s.heldBeside id), 0x0301),
      (match old with | some g => g.key.isSome | none => decide (4 ≤ s.dev.staging.length), 0x0401)] }

/-- Lines enter the gate; OFFSET 0 begins anew. -/
def stageLines (l : Letter) (k : LetterKey) (s : State) : State :=
  let id := stageId l
  let fresh : Staging := { kind := stageKind l, slot := BitVec.ofNat 8 (letterNum l 9 1) }
  let g := if letterNum l 12 4 = 0 then fresh else (s.stagingOf id).getD fresh
  takeLines id (putStaging id (some { g with lines := g.lines ++ l.train.map imageLine, key := some k }) (progress k s))

def execStageImage (l : Letter) (s : State) : Out := .next (receive opStageImage l (stageRule l s) (stageLines l) s)

def discardRule (l : Letter) (s : State) : LetterRule :=
  { role := imageRole (stageId l) s, len := 16, train := letterTrainOk l none
    params := stageParamsOk l && decide (letterNum l 12 4 = 0xFFFFFFFF)
    later := [((s.image (stageId l)).isNone, 0x0303), (s.imageInUse (stageId l), 0x0107)] }

/-- STAGE_IMAGE_DISCARD. -/
def execStageImageDiscard (l : Letter) (s : State) : Out :=
  .next (receive opStageImage l (discardRule l s) (fun k s =>
    finishLetter k stDone (countBytes 0) [] ((progress k s).updDev (fun d => { d with images := Tbl.set none d.images (stageId l).toNat none }))) s)

/-! ## Swap candidates (R375, R376) -/

/-- Lines of an image that a candidate may change: the sections of kinds 0x02, 0x0C, 0x11 and 0x14. -/
def freeLine (ds : List Section) (i : Nat) : Bool :=
  ds.any (fun e => (e.kind == 0x2 || e.kind == 0xC || e.kind == 0x11 || e.kind == 0x14) && decide (e.offset ≤ i) && decide (i < e.offset + e.length))

/-- Header line without IMAGE_ID and WEIGHTS_ID. -/
def maskedHead (l : Line) : BitVec 512 := putField (imageLine l) 192 (0 : BitVec 128)

/-- The images agree but for what a candidate may change. -/
def sameImage (a b : List Line) : Bool :=
  a.length == b.length && maskedHead (nth 0 a 0) == maskedHead (nth 0 b 0) &&
  ((a.zip b).zipIdx).all (fun e => e.2 == 0 || freeLine (directory a) e.2 || imageLine e.1.1 == imageLine e.1.2)

/-- A held image is a swap candidate for the placement in force. -/
def State.isCandidate (s : State) (id : BitVec 64) : Bool :=
  match s.dev.placement, s.image id with
  | some p, some g => g.kind == 2 && p.imageId != id && sameImage p.lines g.records
  | _, _ => false

/-- The weights image of a held placement image is held. -/
def State.weightsHeld (s : State) (id : BitVec 64) : Bool :=
  match s.image id with
  | some g => (s.image (placementOf g.records none).weightsId).isSome
  | none => false

/-- A candidate takes the place of any other; its build is still to start. -/
def nameCandidate (id : BitVec 64) (s : State) : State :=
  let keep := s.dev.swap
  (cancelBuild s).updDev (fun d => { d with swap := { candidate := some id, letter := keep.letter, previous := keep.previous } })

/-- An image has become held: it, or a held placement that it gives its weights, may be the newest candidate. -/
def lookForCandidate (id : BitVec 64) (s : State) : State :=
  if s.dev.swap.letter.isSome then s
  else
    let names := id :: (s.dev.images.filterMap (fun e => match e.2 with
      | some g => if g.kind == 2 && (placementOf g.records none).weightsId == id then some (BitVec.ofNat 64 e.1) else none
      | none => none))
    match names.find? (fun i => s.isCandidate i && s.weightsHeld i) with
    | some i => if s.dev.swap.candidate = some i then s else nameCandidate i s
    | none => s

/-! ## The gate (R371, R372) -/

/-- Tiles whose reload waited for lost lines are loaded, and the waves they held go on (R452). -/
def finishReloads (s : State) : State :=
  match s.dev.placement with
  | none => s
  | some p =>
    match s.master p with
    | none => s
    | some g =>
      if s.dev.reloads = [] then s
      else releaseHold ((relodge s.dev.reloads (s.dev.reloads.foldl (fun s t => s.updTile t (refillTile p g t)) s)).updDev (fun d => { d with reloads := [] }))

/-- A grammar table whose header R225 admits: VERSION 1, STATES, START below it, reserved bytes 0, the placement's VOCAB, and every
line it needs. -/
def grammarOk (s : State) (rs : List Line) : Bool :=
  let h := nth 0 rs 0
  let n := bitsAt h 16 16
  let v := bitsAt h 32 32
  bitsAt h 0 16 == 1 && decide (1 ≤ n) && decide (n ≤ 4096) && decide (bitsAt h 64 16 < n) && bitsAt h 80 432 == 0 &&
  (match s.dev.placement with | some p => v == p.vocab | none => true) && decide (1 + 8 * n + n * ((v + 511) / 512) ≤ rs.length)

/-- Every chunk has passed: the image is held, unless its grammar header is wrong (R225), R372 keeps the older copy or there is no room for another. -/
def becomeHeld (id : BitVec 64) (g : Staging) (s : State) : State :=
  let new : Image := ⟨g.kind, g.slot, g.records, Config.sha512 (g.records.flatMap (bytesOf 72)), false⟩
  let n := g.lines.length
  let clash := match s.image id with
    | some old => s.imageInUse id && old.digest != new.digest
    | none => false
  if g.kind = 4 ∧ !grammarOk s g.records then putStaging id none (endStage id 0x0108 n s)
  else if clash then putStaging id none (endStage id 0x0107 n s)
  else if s.heldBeside id ≥ 64 then putStaging id none (endStage id 0x0301 n s)
  else
    let s1 := s.updDev (fun d => { d with
      images := Tbl.set none d.images id.toNat (some new)
      grammars := if g.kind = 4 then Tbl.set 0 d.grammars g.slot.toNat id else d.grammars })
    lookForCandidate id (proceed (finishReloads (putStaging id none (endStage id stDone n s1))))

/-- A chunk failed: its lines are gone, and the letter ends with what is held. -/
def failChunk (id : BitVec 64) (g : Staging) (status : BitVec 16) (s : State) : State :=
  let n := chunkStart (nth 0 g.lines 0) g.chunk
  endStage id status n (putStaging id (some { g with lines := g.lines.take n }) s)

/-- Every format code of R35. -/
def allFormats : List Byte :=
  [fmtW1, fmtW2, fmtW2S, fmtW4, fmtW8, fmtA8, fmtA16, fmtKV4, fmtKV8, fmtF32, fmtIDX, fmtU32, fmtBYTES]

/-- An A16 record that is the high half of a pair. -/
def Line.isHighHalf (r : Line) : Bool := Line.fmt r == fmtA16 && !Line.isLow r

/-- Two neighbouring records: a high parcel has its low one behind it, of the same scale byte, and a low parcel its high one before
it (R60). -/
def halvesMatch (a : Option Line) (b : Option Line) : Bool :=
  match a, b with
  | some h, some l =>
    if Line.isHighHalf h then Line.fmt l == fmtA16 && Line.isLow l && Line.scale h 0 == Line.scale l 0
    else !(Line.fmt l == fmtA16 && Line.isLow l)
  | some h, none => !Line.isHighHalf h
  | none, some l => !(Line.fmt l == fmtA16 && Line.isLow l)
  | none, none => true

/-- The check of a chunk's records at the gate (R60, R371): each parcel's CRC and content, every format code accepted; and the halves
of pairs, which `prev`, the record before, and a chunk to come (`more`) may hold. -/
def gateChecks (prev : Option Line) (more : Bool) : List Line → Bool
  | [] => more || halvesMatch prev none
  | r :: rs => (parcelCheck allFormats r).isNone && halvesMatch prev (some r) && gateChecks (some r) more rs

/-- GATE_CHUNK_END: record checks, then the tag; the chunk's records become held. -/
def execGateChunkEnd (image : BitVec 64) (s : State) : Out :=
  match s.stagingOf image with
  | none => .next s
  | some g =>
    if !g.chunkReady || g.key.isNone then .next s
    else match contentKey image g.lines with
      | none => .next (dropStage image 0x0205 s)
      | some key =>
        let p := openChunk image g.lines key g.chunk
        let rs := recordsOf p.1
        if !gateChecks g.records.getLast? (decide (g.chunk + 1 < fileChunks (nth 0 g.lines 0))) rs then .next (failChunk image g 0x0108 s)
        else if !p.2 then .next (failChunk image g 0x0205 s)
        else
          let g' := { g with chunk := g.chunk + 1, records := g.records ++ rs }
          let s1 := putStaging image (some g') s
          if g'.chunk = fileChunks (nth 0 g.lines 0) then .next (becomeHeld image g' s1)
          else if g'.chunkReady then .next s1
          else .next (endStage image stDone g.lines.length s1)

/-! ## LOAD_PLACEMENT and ADAPTER_LOAD (R344, R354, R355, R379) -/

/-- A device-level letter runs (R354). -/
def State.exclusiveRuns (s : State) : Bool := s.dev.exclusive.isSome

/-- Class 0x01xx checks of a held image. -/
def imageChecks (s : State) (id : BitVec 64) : List (Bool × BitVec 16) :=
  match s.image id with
  | none => [(true, 0x0303)]
  | some g => [(!imageOk g.records, 0x0108)] ++ loadChecks s g

def loadRule (l : Letter) (s : State) : LetterRule :=
  { role := imageRole (stageId l) s, len := 8, train := letterTrainOk l none
    later := imageChecks s (stageId l) ++ [(s.exclusiveRuns, 0x0404)] }

/-- LOAD_PLACEMENT: new waves are held, the build is cancelled, and the rest follows as waves commit and sessions park. -/
def execLoadPlacement (l : Letter) (s : State) : Out :=
  .next (receive opLoadPlacement l (loadRule l s) (fun k s =>
    proceed ((cancelBuild (progress k s)).updDev (fun d => { d with exclusive := some k, loadFor := some k }))) s)

def adapterLoadId (l : Letter) : BitVec 64 := BitVec.ofNat 64 (letterNum l 8 8)

def adapterRule (l : Letter) (s : State) : LetterRule :=
  let id := adapterLoadId l
  { role := imageRole id s, len := 16, train := letterTrainOk l none, params := decide (1 ≤ letterNum l 0 1) && letterZeros l 1 7
    later := [(match s.image id with | some g => g.kind != 3 | none => true, 0x0303)] }

/-- ADAPTER_LOAD: sessions opened from now on copy the image. -/
def execAdapterLoad (l : Letter) (s : State) : Out :=
  .next (receive opAdapterLoad l (adapterRule l s) (fun k s =>
    finishLetter k stDone [] [] ((progress k s).updDev (fun d => { d with adapters := Tbl.set 0 d.adapters (letterNum l 0 1) (adapterLoadId l) }))) s)

/-! ## Live swap (R376 to R378, R383) -/

/-- The placement that a candidate makes, under the alternate in force. -/
def State.candidatePlacement (s : State) (id : BitVec 64) : Option Placement :=
  match s.image id, s.dev.placement with
  | some g, some p => some (placementOf g.records (p.alternate.map BitVec.toNat))
  | _, _ => none

/-- Every weight-map entry lies in lines 0x0000 to 0x1FFF. -/
def halfOnly (p : Placement) : Bool :=
  (sectionTiles p.sections).all (fun t => (weightMap p t).all (fun e => decide (e.2.1 + e.2.2 ≤ 0x2000)))

/-- Weight lines of a tile. -/
def mapLines (p : Placement) (t : TileId) : Nat := ((weightMap p t).map (fun e => e.2.2)).sum

/-- The lowest `n` pool pages of a tile, none when it has fewer beside its reserve (R308). -/
def Tile.poolTake (x : Tile) (n : Nat) : Option (List Nat) :=
  let ps := (List.range 2016).filter (fun p => ownState (x.owner p) == 7)
  if ps.length < n + poolReserve then none else some (ps.take n)

/-- Staging pages for every tile of a staged swap. -/
def stagingPages (s : State) (p : Placement) : List TileId → Option (List (TileId × List Nat))
  | [] => some []
  | t :: ts =>
    match (s.tile t).poolTake ((mapLines p t + 31) / 32), stagingPages s p ts with
    | some ps, some r => some (if ps = [] then r else (t, ps) :: r)
    | _, _ => none

def State.updSwap (s : State) (f : Swap → Swap) : State := s.updDev (fun d => { d with swap := f d.swap })

/-- SWAP_BUILD_START: a half swap builds in the free halves, a staged one takes pages first. -/
def execSwapBuildStart (s : State) : Out :=
  match s.dev.swap.candidate with
  | none => .next s
  | some id =>
    if s.dev.swap.building || s.dev.swap.built || !s.isCandidate id || !s.weightsHeld id then .next s
    else match s.candidatePlacement id, s.dev.placement with
      | some q, some p =>
        if halfOnly p && halfOnly q then .next (s.updSwap (fun w => { w with building := true, half := true, previous := none }))
        else (match stagingPages s q (sectionTiles q.sections) with
          | some ps =>
            let s1 := ps.foldl (fun s e => s.updTile e.1 (fun x => e.2.foldl (fun x i => x.setOwners i 1 (fun _ => 0)) x)) (wakeTiles (ps.map Prod.fst) s)
            .next (s1.updSwap (fun w => { w with building := true, half := false, pages := ps, previous := none }))
          | none => .next (autoPark 0 0 s))
      | _, _ => .next s

/-- Lines of a tile's new weights, in map order. -/
def newWeights (g : Image) (p : Placement) (t : TileId) : List Line :=
  (weightMap p t).flatMap (fun e => (List.range e.2.2).map (fun i => g.line (e.1 + i)))

/-- Write lines into staging pages, 32 to a page. -/
def fillStaging (ls : List Line) (ps : List Nat) (x : Tile) : Tile :=
  (ps.zip (chunks 32 ps.length ls)).foldl (fun x e => x.writeLines memSlab (32 * e.1) e.2) x

/-- The build of one tile: into the half not in use, or into its staging pages. -/
def buildTile (g : Image) (p : Placement) (half : Bool) (pages : List (TileId × List Nat)) (t : TileId) (x : Tile) : Tile :=
  if half then { x with ws := fillWeights g ((1 - x.facing.toNat) * 0x2000) (weightMap p t) x.ws }
  else match pages.find? (fun e => e.1 == t) with
    | some e => fillStaging (newWeights g p t) e.2 x
    | none => x

/-- Step 1 of R377: admission closes for the swap of a waiting letter. -/
def startFlip (s : State) : State :=
  match s.dev.swap.letter with
  | some k => if s.dev.swap.built then (progress k s).updDev (fun d => { d with admissionClosed := true, swap := { d.swap with flipping := true } }) else s
  | none => s

/-- SWAP_BUILD_COMPLETE. -/
def execSwapBuildComplete (s : State) : Out :=
  match s.dev.swap.candidate with
  | none => .next s
  | some id =>
    if !s.dev.swap.building then .next s
    else match s.candidatePlacement id with
      | none => .next s
      | some p =>
        match s.master p with
        | none => .next s
        | some g =>
          let s1 := (sectionTiles p.sections).foldl (fun s t => s.updTile t (buildTile g p s.dev.swap.half s.dev.swap.pages t)) (wakeTiles (sectionTiles p.sections) s)
          .next (startFlip (s1.updSwap (fun w => { w with building := false, built := true })))

def swapRule (l : Letter) (s : State) : LetterRule :=
  let id := stageId l
  { role := imageRole id s, len := 8, train := letterTrainOk l none
    later := [((s.image id).isNone, 0x0303), (!s.isCandidate id, 0x0304), (!s.weightsHeld id, 0x0303),
      (!s.splitMembers.all (fun m => Config.memberReady s.dev.measures m), 0x0303), (!s.splitMembers.all s.reaches, 0x0406),
      (s.exclusiveRuns, 0x0404)] }

/-- The copy of an image stands in the free halves already (R377). -/
def reuseHalf (id : BitVec 64) (s : State) : State :=
  s.updSwap (fun w => { candidate := some id, built := true, half := true, letter := w.letter })

/-- COMMIT_SWAP: it waits for the build, or closes admission at once. -/
def execCommitSwap (l : Letter) (s : State) : Out :=
  .next (receive opCommitSwap l (swapRule l s) (fun k s =>
    let id := stageId l
    let s1 := s.updDev (fun d => { d with exclusive := some k, measures := d.measures + 1, swap := { d.swap with letter := some k } })
    let s2 := if s1.dev.swap.candidate = some id then s1
      else if s1.dev.swap.previous = some id then reuseHalf id (let w := s1.dev.swap; (cancelBuild s1).updSwap (fun _ => w))
      else nameCandidate id s1
    startFlip s2) s)

/-- The registers of a tile whose initial values differ take the new ones. -/
def changeRegs {α : Type} [DecidableEq α] (d : α) (n : Nat) (old new cur : Tbl α) : Tbl α :=
  (List.range n).foldl (fun m i => if Tbl.get d old i = Tbl.get d new i then m else Tbl.set d m i (Tbl.get d new i)) cur

/-- Step 2 of R377 on one tile. -/
def flipTile (g : Image) (p q : Placement) (half : Bool) (t : TileId) (x : Tile) : Tile :=
  let y := if half then { x with facing := 1 - x.facing }
    else { x with ws := fillWeights g 0 (weightMap q t) x.ws, facing := 0 }
  { y with s := changeRegs 0 32 (initialS p t) (initialS q t) y.s, a := changeRegs 0 16 (initialA p t) (initialA q t) y.a }

/-- The swap is over on this device and on every member: admission reopens (R377, R383). -/
def endSwap (s : State) : State :=
  if s.dev.swap.members ≠ [] then s
  else
    let s1 := s.updDev (fun d => { d with admissionClosed := false, swap := { previous := d.swap.previous } })
    match s.dev.swap.letter with
    | some k => finishLetter k stDone [] [] s1
    | none => s1

/-- No tile is within a wave: each has passed its YIELD (R101, R264). -/
def State.betweenAll (s : State) (ts : List TileId) : Bool := ts.all (fun t => !(s.tile t).begun)

/-- SWAP_FLIP: once the last admitted wave has committed and every tile has ended its part of it. -/
def execSwapFlip (s : State) : Out :=
  match s.dev.swap.candidate, s.dev.placement with
  | some id, some p =>
    if !s.dev.swap.flipping || s.dev.waves != [] || s.dev.swap.members != [] || !s.betweenAll (placedTiles p.lines p.sections) then .next s
    else match s.candidatePlacement id with
      | none => .next s
      | some q =>
        match s.master q with
        | none => .next s
        | some g =>
          let half := s.dev.swap.half
          let s1 := (placedTiles p.lines p.sections).foldl (fun s t => s.updTile t (flipTile g p q half t))
            (wakeTiles (placedTiles p.lines p.sections) s)
          let s2 := s1.dev.swap.pages.foldl (fun s e => s.updTile e.1 (fun x => e.2.foldl (fun x i => x.release i 1) x)) s1
          -- the lodging stages begin anew: what they held came from the old weights (log entry 162)
          .next (endSwap (loadLodging (s2.updDev (fun d => { d with
            placement := some q
            swap := { d.swap with pages := [], members := s.splitMembers, previous := if half then some p.imageId else none } }))))
  | _, _ => .next s

/-- SPLIT_SWAP_REPORT: a member has done its step 2. -/
def execSplitSwapReport (member : BitVec 4) (s : State) : Out :=
  if s.dev.swap.members.contains member then
    .next (endSwap (s.updSwap (fun w => { w with members := w.members.filter (fun m => m != member) })))
  else .next s

/-! ## DIAPAUSE_RELOAD (R399) -/

/-- The tiles of a block that the placement uses are loaded again, and its node hands over what it kept (R569). -/
def execDiapauseReload (b : Fin 1024) (s : State) : Out :=
  let x := s.block b.val
  if x.pstate = .active ∧ x.reload then
    let s1 := s.putBlock b.val { x with reload := false }
    match s.dev.placement with
    | none => .next (releaseNode b.val s1)
    | some p =>
      match s.master p with
      | none => .next s
      | some g =>
        let ts := (placedTiles p.lines p.sections).filter (fun t => tileBlock t == b.val)
        .next (releaseNode b.val (relodge ts (ts.foldl (fun s t => s.updTile t (reloadTile p g t)) s1)))
  else .next s

end Sys2Proof.Machine
end

