-- ==== Sys2Proof/Machine/Lodging.lean ====
section
/-! DEFINITION. Stack-resident experts: the lodging dispatcher, its tables and queue, and LODGE_POLICY (R210, R213 to R217, R344). -/

namespace Sys2Proof.Machine

/-- Lodging-table entry. -/
def Stack.stage (x : Stack) (i : Nat) : LodgeStage := Tbl.get {} x.stages i
def Stack.putStage (x : Stack) (i : Nat) (g : LodgeStage) : Stack := { x with stages := Tbl.set {} x.stages i g }

/-- The lodging-list entry of an expert of a home stack. -/
def State.lodgeEntry (s : State) (home : Nat) (expert : BitVec 16) : Option LodgeEntry :=
  match s.dev.placement with
  | none => none
  | some p => p.lodging.find? (fun e => e.expert == expert && e.home == home)

/-- Stages an expert may take, in number order. -/
def State.mayTake (s : State) (e : LodgeEntry) : List Nat := (List.range (min 16 (s.lodgeStages e.home))).filter (fun i => bitAt e.mask i)

/-- The least recently used of stages, ties to the lower number. -/
def leastUsed (x : Stack) : List Nat → Option Nat
  | [] => none
  | i :: is =>
    match leastUsed x is with
    | none => some i
    | some j => if (x.stage i).lastUse ≤ (x.stage j).lastUse then some i else some j

/-- The stage a new lodging takes (R214, step 3). -/
def freeStage (x : Stack) (is : List Nat) : Option Nat :=
  match is.find? (fun i => (x.stage i).st == .empty) with
  | some i => some i
  | none => leastUsed x (is.filter (fun i => (x.stage i).st == .lodged && !(x.stage i).pinned && (x.stage i).pending == 0))

/-- The stage that has an expert in a state. -/
def holder (x : Stack) (st : LodgeState) (expert : BitVec 16) : Option Nat :=
  (List.range 16).find? (fun i => (x.stage i).st == st && (x.stage i).expert == expert)

/-- Microseconds that tokens have waited. -/
def waited (now : BitVec 64) (ts : List (Word × BitVec 64)) : Nat := (ts.map (fun t => (now - t.2).toNat)).sum

/-- The master lines that a lodging reads stand in the stacks (R452, R465). -/
def State.mastered (s : State) : Bool :=
  match s.dev.placement with
  | some p => (s.master p).isSome
  | none => false

/-- Steps 1 to 3 of R214 for a token that came at a time: the state after it, or none when the token has to queue. -/
def dispatch (e : LodgeEntry) (token : Word) (came : BitVec 64) (s : State) : Option State :=
  let x := s.stk e.home
  match holder x .lodged e.expert with
  | some i =>
    let g := x.stage i
    some (countExpert e.expert (fun c => { c with waitUs := satAdd c.waitUs (waited s.dev.time [(token, came)]) })
      (s.putStk e.home { x.putStage i { g with pending := g.pending + 1, lastUse := x.uses } with uses := x.uses + 1 }))
  | none =>
    match holder x .lodging e.expert with
    | some i =>
      let g := x.stage i
      some (s.putStk e.home (x.putStage i { g with waiting := g.waiting ++ [(token, came)] }))
    | none =>
      match if s.mastered then freeStage x (s.mayTake e) else none with
      | some i =>
        let g : LodgeStage := { st := .lodging, expert := e.expert, waiting := [(token, came)], pinned := s.expertPinned e }
        some (countExpert e.expert (fun c => { c with lodgings := c.lodgings + 1 }) (s.putStk e.home (x.putStage i g)))
      | none => none

/-- DISPATCH_NOTE: the expert is the one the note names (R206); a full queue keeps the note at the router stage, under credit. -/
def execDispatchNote (stack : Fin 24) (note : Line) (token : Word) (s : State) : Out :=
  match s.lodgeEntry stack.val (noteExpert note) with
  | none => .next s
  | some e =>
    let x := s.stk stack.val
    match dispatch e token s.dev.time s with
    | some s1 => .next s1
    | none =>
      if x.queue.length ≥ 256 then .next s
      else .next (s.putStk stack.val { x with queue := x.queue ++ [(e.expert, token, s.dev.time)] })

/-- LODGING_COMPLETE: the payload stands in the stage's weight stores, the stage is LODGED, and the waiting tokens enter it (R214,
R216). -/
def execLodgingComplete (stack : Fin 24) (stage : Fin 16) (s : State) : Out :=
  let x := s.stk stack.val
  let g := x.stage stage.val
  if g.st ≠ .lodging || !s.mastered then .next s
  else
    let g' : LodgeStage := { g with st := .lodged, pending := g.waiting.length, waiting := [], lastUse := x.uses }
    let s1 := countExpert g.expert (fun c => { c with waitUs := satAdd c.waitUs (waited s.dev.time g.waiting) })
      (s.putStk stack.val { x.putStage stage.val g' with uses := x.uses + 1 })
    .next (match s.lodgeEntry stack.val g.expert with
      | some e => streamExtent e stage.val s1
      | none => s1)

/-- Retry the queue from its head as far as tokens find a stage. -/
def retryQueue (home : Nat) : Nat → State → State
  | 0, s => s
  | n + 1, s =>
    let x := s.stk home
    match x.queue with
    | [] => s
    | q :: qs =>
      match s.lodgeEntry home q.1 with
      | none => retryQueue home n (s.putStk home { x with queue := qs })
      | some e =>
        match dispatch e q.2.1 q.2.2 (s.putStk home { x with queue := qs }) with
        | some s1 => retryQueue home n s1
        | none => s

/-- LODGING_RETRY: a stage's last pending token has left it, and the queue is tried again. -/
def execLodgingRetry (stack : Fin 24) (stage : Fin 16) (s : State) : Out :=
  let x := s.stk stack.val
  let g := x.stage stage.val
  .next (retryQueue stack.val 256 (if g.st = .lodged then s.putStk stack.val (x.putStage stage.val { g with pending := 0 }) else s))

/-! ## LODGE_POLICY (R215, R344) -/

def policyCount (l : Letter) : Nat := letterNum l 0 2

/-- The entries: expert and class. -/
def policyEntries (l : Letter) : List (BitVec 16 × Byte) :=
  (List.range (policyCount l)).map (fun i => (BitVec.ofNat 16 (letterNum l (4 + 4 * i) 2), BitVec.ofNat 8 (letterNum l (6 + 4 * i) 1)))

/-- An entry names a stack-resident expert and a legal class. -/
def policyOk (l : Letter) (s : State) : Bool :=
  (policyEntries l).all (fun e => decide (e.2.toNat ≤ 1) && (match s.dev.placement with | some p => p.lodging.any (fun x => x.expert == e.1) | none => false)) &&
  (List.range (policyCount l)).all (fun i => letterNum l (7 + 4 * i) 1 == 0)

/-- Classes with the policy's entries. -/
def setClasses (es : List (BitVec 16 × Byte)) (m : Tbl (Option Byte)) : Tbl (Option Byte) :=
  es.foldl (fun m e => Tbl.set none m e.1.toNat (some e.2)) m

def withClasses (l : Letter) (s : State) : State := s.updDev (fun d => { d with pinned := setClasses (policyEntries l) d.pinned })

def policyRule (l : Letter) (s : State) : LetterRule :=
  let s' := withClasses l s
  { len := 4 + 4 * policyCount l, train := letterTrainOk l none
    params := decide (1 ≤ policyCount l) && decide (policyCount l ≤ 4096) && letterZeros l 2 2 && policyOk l s
    later := [(match s.dev.placement with | some p => !pinsOk p (fun e => s'.expertPinned e) | none => false, 0x0301)] }

/-- The pinned bits of stages that hold an expert follow its class. -/
def pinStages (s : State) : State :=
  match s.dev.placement with
  | none => s
  | some p => p.lodging.foldl (fun s e =>
      s.updStk e.home (fun x => (List.range 16).foldl (fun x i =>
        let g := x.stage i
        if g.st != .empty && g.expert == e.expert then x.putStage i { g with pinned := s.expertPinned e } else x) x)) s

def execLodgePolicy (l : Letter) (s : State) : Out :=
  .next (receive opLodgePolicy l (policyRule l s) (fun k s => finishLetter k stDone [] [] (pinStages (withClasses l (progress k s)))) s)

end Sys2Proof.Machine
end

