-- ==== Sys2Proof/Machine/Repair.lean ====
section
/-! DEFINITION. Faults and repair: fault notes and the watchdog, the flow stop, spare substitution, the loss of a field, lockstep
pairs, and the retirement of stacks (R22, R293, R295, R410, R413, R419 to R421, R434, R440, R441, R449 to R467, R541). -/

namespace Sys2Proof.Machine

/-! ## Fault notes and the watchdog (R298, R453, R466, R467) -/

def execFaultNote (cause : BitVec 4) (w : Byte) (source : BitVec 16) (s : State) : Out :=
  if !cardDue (faultNoteCard cause w source) s then .next s
  else .next (proceed (takeNote cause w source (cardArrives (faultNoteCard cause w source) s)))

/-- WATCHDOG at the field controller: at most 64 dumps a wave; then the wave is discarded, or replayed when a fault note or
firefly silence has arisen within the same 1 ms. A restarting controller takes no card. -/
def execWatchdog (t : TileId) (w : Byte) (cause : BitVec 4) (s : State) : Out :=
  if (s.field (tileField t)).restarting ∨ !cardDue (watchdogCard t w cause) s then .next s
  else
    let s1 := cardArrives (watchdogCard t w cause) s
    let n := Tbl.get 0 s1.dev.dumps w.toNat
    let s2 := s1.updDev (fun d => { d with dumps := Tbl.set 0 d.dumps w.toNat (n + 1) })
    let s3 := if n < 64 then journalAdd kindDump (t.setWidth 32) (dumpBody (s2.tile t)) s2 else s2
    if (inWindow s3.dev.time 1000 s3.dev.notes) = [] then
      .next (proceed (endWave w 0x011C (bytesOf 4 (Card.payload (watchdogCard t w cause))) s3))
    else .next (replayWave w s3)

/-- The tile stands in a wait of this cause: its sequencer at issue or in a barrier between a TAKE with CTX and its YIELD, a descriptor,
a part or branch in the router, or a halt (R466). -/
def Tile.stalledBy (x : Tile) (cause : BitVec 4) : Bool :=
  if cause = 0 then x.begun && x.wait != .none
  else if cause = 5 then x.begun && x.wait == .barrier
  else if cause = 7 then x.seq == .halted
  else if cause = 3 ∨ cause = 4 then x.router.bufs != []
  else decide (cause.toNat < 8) && !(x.running == [] && x.descq == [] && x.circulars == [])

/-- STALL_WATCHDOG: a tile whose wait has reached 1 ms sends its card; an issue wait counts between a TAKE with CTX and its
YIELD. The cause is the wait's code (R466). -/
def execStallWatchdog (t : TileId) (cause : BitVec 4) (s : State) : Out :=
  let x := s.tile t
  if !(s.block (tileBlock t)).awake || !x.stalledBy cause then .next s
  else .next (tileSends t (watchdogCard t x.ctx.wave cause) s)

/-! ## Flow stop (R434, R440, R441) -/

/-- The flow-stop outcome (R440): waves held, boost off, targets at 200 MHz, sessions parking, the device quiesced. -/
def flowStopped (s : State) : State :=
  let s1 := { s with coolant := { s.coolant with flowStop := true } }
  let s2 := updFields (fun x => setClock { x with boostGrant := false, clkTarget := 200 }) s1
  proceed (raiseEvent .flowStop (if s2.dev.deviceState = 2 then setDeviceState 3 s2 else s2))

/-- COOLANT_SAMPLE: the four readings, their alarms, and the flow stop: a fall below 8 L/min from at least 8, or 1 s (100
samples) below it, or 1 s above 45 °C at the inlet. -/
def execCoolantSample (flowIn flowOut : BitVec 16) (inlet outlet : Option (BitVec 16)) (s : State) : Out :=
  let c := s.coolant
  let failed := c.sensorFailed || inlet.isNone || outlet.isNone
  let t := coolantTemps failed inlet outlet
  let c1 : Coolant := { c with flowIn := flowIn, flowOut := flowOut, inlet := t.1, outlet := t.2, sensorFailed := failed }
  let low := if c1.flow < 800 then c.lowSamples + 1 else 0
  let hot := if t.1.toInt > 4500 then c.hotInletSamples + 1 else 0
  let c2 := { c1 with
    lowSamples := low, hotInletSamples := hot
    flowAlarm := c.flowAlarm || decide (c1.flow < 3200)
    inletAlarm := decide (t.1.toInt < 1700) }
  let stop := (decide (c1.flow < 800) && decide (c.flow ≥ 800)) || decide (low ≥ 100) || decide (hot ≥ 100)
  let s1 := { s with coolant := c2 }
  let s2 := { s1 with power := { s1.power with sustainedW := BitVec.ofNat 16 s1.sustained } }
  let s3 := if c2.flowAlarm && !c.flowAlarm then raiseEvent .flowAlarm s2 else s2
  .next (if stop && !c.flowStop then flowStopped s3 else s3)

/-- FLOW_RECOVERY: held waves are released. -/
def execFlowRecovery (s : State) : Out :=
  let c := s.coolant
  if c.flowStop && decide (c.flow ≥ 3200) && c.inletGood then
    let s1 : State := { s with coolant := { c with flowStop := false } }
    .next (proceed (if s1.dev.deviceState = 3 ∧ !s1.dev.quiesced then setDeviceState 2 s1 else s1))
  else .next s

/-! ## Lost frames (R452, R460, R461, R463) -/

/-- What a folio's frame starts from after a loss: its trail record, or its frame without positions. -/
def trailStart (s : State) (f : FolioRef) : List Line := if f.trail = [] then trailBody s f (-1) else f.trail

/-- A lost folio of a session: the lines to re-form are those of its committed positions. -/
def loseFolio (s : State) (x : Session) (f : FolioRef) : FolioRef :=
  { f with lost := if f.lost = [] then trailBody s f x.top else f.lost, trail := trailStart s f }

/-- A folio whose frame stands on a tile that passes the test. -/
def FolioRef.onTile (f : FolioRef) (gone : TileId → Nat → Nat → Bool) : Bool :=
  match f.tile with
  | some t => gone t f.page f.pages
  | none => false

/-- First lost position among folios. -/
def firstLost (fs : List FolioRef) (old : Option Nat) : Option Nat :=
  fs.foldl (fun a f => some (match a with | some p => min p f.trailPos | none => f.trailPos)) old

/-- One session when frames are lost: one that stands in slabs is REBUILDING; any other rebuilds once it stands again. -/
def loseInSession (s : State) (gone : TileId → Nat → Nat → Bool) (x : Session) : Session :=
  let hit := x.folios.filter (fun f => f.onTile gone)
  if x.state = .free ∨ hit = [] then x
  else
    let y := { x with
      folios := x.folios.map (fun f => if f.onTile gone then loseFolio s x f else f)
      rebuildFrom := firstLost hit x.rebuildFrom }
    if x.state = .resident ∨ x.state = .running then { y with state := .rebuilding, prior := x.state } else y

/-- Frames are lost. -/
def loseFrames (gone : TileId → Nat → Nat → Bool) (s : State) : State :=
  s.updDev (fun d => { d with sessions := Tbl.mapV {} (loseInSession s gone) d.sessions })

/-- Sessions forget where lost frames stood. -/
def detachFrames (gone : TileId → Nat → Nat → Bool) (s : State) : State :=
  s.updDev (fun d => { d with sessions := Tbl.mapV {} (fun (x : Session) => { x with
      folios := x.folios.map (fun f => if f.onTile gone then { f with tile := none } else f)
      sealing := x.sealing.filter (fun c => !gone c.2.1 c.2.2.1 c.2.2.2) }) d.sessions })

/-- Frames that are lost leave their pages, and the scores that sessions hold of them (R180, R318). -/
def releaseGone (gone : TileId → Nat → Nat → Bool) (s : State) : State :=
  (s.dev.sessions.flatMap (fun e => e.2.folios)).foldl (fun s f =>
    match f.tile with
    | none => s
    | some t =>
      if gone t f.page f.pages then
        s.updTile t (fun x => (x.dropShares (fun c => c.2.1 == 32 * f.page)).release f.page f.pages)
      else s) s

/-- STATISTICS pages that are lost abandon their ADAPT; ADAPTER pages that are lost make the instance leave the slab until its record
fills pages again (R201, R452). -/
def loseOwn (gone : TileId → Nat → Nat → Bool) (s : State) : State :=
  s.dev.sessions.foldl (fun s e =>
    let s1 := if e.2.adapt.any (fun a => a.stats.any (fun c => gone c.2.1 c.2.2 1)) then restSession (BitVec.ofNat 16 e.1) (abandonAdapt e.1 s) else s
    if e.2.adapter.any (fun a => a.pages.any (fun c => gone c.1 c.2 1)) then releaseAdapter e.1 s1 else s1) s

/-- Adapter instances of sessions that stand take pages again, from their records (R452). -/
def restoreOwn (s : State) : State :=
  s.dev.sessions.foldl (fun s e => if e.2.inResidence then (residentAdapter e.1 s).getD s else s) s

/-! ## Field loss (R410, R419, R421, R463) -/

/-- Frames of a field. -/
def inField (f : Nat) (t : TileId) (_ _ : Nat) : Bool := tileField t == f

/-- Body of a field's retirement record. -/
def fieldBody (f : Nat) : List Byte := [3, BitVec.ofNat 8 f]

/-- A field is lost: the frames in it are lost, its blocks go DARK, its rail off; the loss is journalled, and FIELD_LOSS
gives its outcome. -/
def loseField (f : Nat) (retire : Bool) (s : State) : State :=
  if (s.field f).lost then s
  else
    let s0 := detachFrames (inField f) (loseFrames (inField f) (loseOwn (inField f) s))
    let s1 := (List.range 16).foldl (fun s i => darkBlock (16 * f + i) s) s0
    let s2 := s1.updField f (fun x => { x with railOn := false, genRunning := false, settingMv := 0, lost := true, retired := x.retired || retire })
    let s3 := journalAdd kindFault (BitVec.ofNat 32 f) [BitVec.ofNat 8 f, BitVec.ofNat 8 retire.toNat] s2
    if retire then journalAdd kindRetirement (retireKey 3 f) (fieldBody f) s3 else s3

/-- The field's breaker opens; a second trip after the retry retires the field (R419, R420). -/
def tripBreaker (f : Nat) (s : State) : State :=
  let again := (s.field f).retryUsed
  loseField f again (raiseEvent (.breaker f) (s.updField f (fun x => { x with breaker := true, railRetired := x.railRetired || again })))

def execFieldOvercurrent (f : Fin 64) (s : State) : Out := .next (tripBreaker f.val s)

/-- BLOCK_SHORT: every segment of the block opens, the ties stay open, and the field is retired. -/
def execBlockShort (b : Fin 1024) (s : State) : Out :=
  let f := b.val / 16
  .next (loseField f true ((s.updBlock b.val (fun x => { x with segFailed := 0xFF, tied := false })).updField f
    (fun x => { x with railRetired := true })))

/-- PHASE_FAILURE: one failed phase lowers the rail's rating; a second trips the breaker (R410). -/
def execPhaseFailure (f : Fin 64) (phase : Fin 8) (s : State) : Out :=
  let m := (s.field f.val).phasesFailed ||| ((1 : Byte) <<< phase.val)
  let s1 := journalAdd kindPower (BitVec.ofNat 32 f.val) [1, m] (s.updField f.val (fun x => { x with phasesFailed := m }))
  if popCount m ≥ 2 then .next (tripBreaker f.val s1)
  else .next (s1.updField f.val (fun x => if x.measuredMa.toNat > railRating x then lowerTarget x else x))

/-- The next generation of the distance table (R27, R28). -/
def republish (s : State) : State := s.updDev (fun d => { d with distGen := d.distGen + 1 })

/-- Tiles that the placement in force uses. -/
def State.usedTiles (s : State) : List TileId :=
  match s.dev.placement with
  | some p => placedTiles p.lines p.sections
  | none => []

/-- Alternate f of the placement in force is usable: the base is in force, the image holds the alternate, and it places
nothing in a lost or retired field (R293, R295). -/
def State.usableAlternate (s : State) (f : Nat) : Bool :=
  match s.dev.placement with
  | none => false
  | some p => p.alternate.isNone && (alternates p.lines).contains f &&
      (placedTiles p.lines (effective (directory p.lines) (some f))).all (fun t => tileField t != f && !s.retiredFields.contains (tileField t))

/-- STATUS FLAGS bit 0 (R295, R346). -/
def State.noAlternate (s : State) : Bool := ((s.usedTiles.map tileField).dedup).any (fun f => !s.usableAlternate f)

/-- Every letter with a wave in flight is touched by a repair (R351, R358). -/
def touchWaves (s : State) : State :=
  s.dev.waves.foldl (fun s e => match e.2 with
    | some v => (match v.letter with | some k => touchLetter k stRepaired s | none => s)
    | none => s) s

/-- A swap that the loss of a field ends: its build is cancelled, its letter ends, admission reopens (R378). -/
def dropSwap (s : State) : State :=
  let s1 := cancelBuild s
  let s2 := if s.dev.swap.flipping then s1.updDev (fun d => { d with admissionClosed := false }) else s1
  match s.dev.swap.letter with
  | some k => finishLetter k 0x0107 [] [] s2
  | none => s2

/-- Tiles that alternate f changes: those it has a tile section for. -/
def changedTiles (ls : List Line) (f : Nat) : List TileId :=
  ((directory ls).filterMap (fun e => if e.alt.toNat = f ∧ tileKind e.kind then some e.scope else none)).dedup

/-- Ownership under an alternate: placement pages, the frames that stand, and pool pages (R274, R374). -/
def mergedOwners (q : Placement) (t : TileId) (old : Tbl Word) : Tbl Word :=
  tblOf 0 ((List.range 2016).map (fun i =>
    if mapBit q.lines q.sections t i then 0
    else
      let e := Tbl.get 0 old i
      if ownState e = 0 then ownWord 7 0 0 else e))

/-- A tile that an alternate changes. -/
def alternateTile (q : Placement) (g : Image) (t : TileId) (x : Tile) : Tile :=
  { refillTile q g t x with owners := mergedOwners q t x.owners }

/-- A frame that the alternate's own pages take. -/
def displaced (q : Placement) (ts : List TileId) (t : TileId) (page pages : Nat) : Bool :=
  ts.contains t && (List.range pages).any (fun i => mapBit q.lines q.sections t (page + i))

/-- Steps 3 to 6 of R463: the alternate's sections are in place, and admission reopens. -/
def loadAlternate (f : Nat) (q : Placement) (g : Image) (s : State) : State :=
  let ts := changedTiles q.lines f
  let s1 := detachFrames (displaced q ts) (releaseGone (displaced q ts) (loseFrames (displaced q ts) (loseOwn (displaced q ts) s)))
  let keep := s1.dev.experts
  let s2 := installPlacement q ts (fun t => alternateTile q g t) s1
  releaseHold (restoreOwn (s2.updDev (fun d => { d with experts := keep })))

/-- New waves are held from now on by an event (R469). -/
def holdWaves (s : State) : State :=
  s.updDev (fun d => { d with wavesHeld := true, heldSince := d.heldSince.orElse (fun _ => some d.time) })

/-- The loss of a field that holds a tile of the placement: every wave is discarded; with a usable alternate it is loaded,
else every wave is held until the host loads an image (R295, R463). -/
def fieldOutcome (f : Nat) (p : Placement) (s : State) : State :=
  let s1 := holdWaves (dropSwap (discardAll (touchWaves s)))
  if s.usableAlternate f then
    match s1.master p with
    | some g => loadAlternate f (placementOf p.lines (some f)) g s1
    | none => s1
  else s1

/-- A lost field that holds no tile of the placement is retired in the journal alone (R295). -/
def retireLost (f : Nat) (s : State) : State :=
  republish (journalAdd kindRetirement (retireKey 3 f) (fieldBody f) (s.updField f (fun y => { y with retired := true })))

/-- The outcome of a field's loss, once. -/
def fieldLoss (f : Nat) (s : State) : State :=
  let x := s.field f
  if !x.lost || x.lossDone then s
  else
    let s1 := s.updField f (fun y => { y with lossDone := true })
    match s.dev.placement with
    | some p => if s.usedTiles.any (fun t => tileField t == f) then proceed (republish (fieldOutcome f p s1)) else retireLost f s1
    | none => retireLost f s1

def execFieldLoss (f : Fin 64) (s : State) : Out := .next (fieldLoss f.val s)

/-! ## Lockstep pairs (R462) -/

def dayUs : Nat := 86400000000

/-- LOCKSTEP_DISAGREEMENT: the pair restarts; a second one within 24 h retires the field. -/
def execLockstepDisagreement (f : Fin 64) (s : State) : Out :=
  let x := s.field f.val
  if x.lost || x.restarting then .next s
  else
    let near := inWindow s.dev.time dayUs x.lockstepTimes
    let s1 := journalAdd kindFault (BitVec.ofNat 32 f.val) [0xFE, BitVec.ofNat 8 f.val] (s.putField f.val { x with lockstepTimes := s.dev.time :: near })
    if near = [] then .next (s1.updField f.val (fun y => { y with restarting := true }))
    else .next (loseField f.val true s1)

/-! ## Spare substitution (R19 to R22, R459, R460, R541) -/

/-- Tiles of a tile's row group. -/
def rowGroup (t : TileId) : List TileId := (List.range 8).map (fun j => BitVec.ofNat 16 (t.toNat / 8 * 8 + j))

/-- The 64 bytes of a spare map (R19). -/
def mapBytes (m : Tbl (BitVec 4)) : List Byte :=
  (List.range 64).map (fun k => BitVec.ofNat 8 ((spareCode m (2 * k)).toNat + 16 * (spareCode m (2 * k + 1)).toNat))

/-- Journal a field's spare map. -/
def journalMap (f : Nat) (s : State) : State := journalAdd kindSpareMap (BitVec.ofNat 32 f) (mapBytes (s.field f).spareMap) s

/-- Fault and count registers of a tile, as the substitution record keeps them (R541). -/
def countBody (t : TileId) (x : Tile) : List Byte :=
  bytesOf 2 t ++ bytesOf 4 x.seqFault ++ bytesOf 8 x.seqWord ++ bytesOf 4 x.hazards ++ bytesOf 2 x.tallyTotal ++ bytesOf 4 x.bankConflicts ++
  bytesOf 4 x.conflictLast ++ bytesOf 2 x.steals ++ bytesOf 4 x.memFault ++ bytesOf 2 x.eccSlab ++ bytesOf 2 x.eccSram ++
  bytesOf 4 x.netFault ++ bytesOf 4 x.ownFault ++ bytesOf 4 x.ownSession ++ bytesOf 2 x.overWaves ++ bytesOf 2 x.regCount

/-- The weight store as the tile's addresses name it, at physical lines with the facing at 0 (R100). -/
def facedStore (x : Tile) : Mem :=
  if x.facing = 0 then x.ws
  else
    let half := lineAddr 0x2000
    (x.ws.filter (fun c => decide (half ≤ c.1))).map (fun c => (c.1 - half, c.2)) ++ (x.ws.filter (fun c => decide (c.1 < half))).map (fun c => (c.1 + half, c.2))

/-- A tile on another site (R460, R541): memories, ownership and router tables move with it, its registers start anew. -/
def movedTile (now : BitVec 64) (x : Tile) : Tile :=
  { ws := facedStore x, wb := x.wb, slab := x.slab, owners := x.owners, shareScores := x.shareScores,
    router := { x.router with linkRetries := [], reported := [] },
    purge := x.purge, scrubGroup := x.scrubGroup, lastFirefly := now }

/-- What a block's power state keeps of a tile that moves: all of it while the block holds its state, the slab in DIAPAUSE. -/
def movedIn (st : PState) (p : Option Placement) (used : Bool) (t : TileId) (now : BitVec 64) (x : Tile) : Tile :=
  let y := movedTile now x
  match st, p with
  | .dark, _ => { router := x.router }
  | .diapause, _ => sleepTile y
  | _, some q => if used then loadProgram q t y else y
  | _, none => y

/-- Waves that a row group's tiles hold. -/
def wavesHeldBy (ts : List TileId) (s : State) : List Byte :=
  ((s.dev.waves.filterMap (fun e => e.2.map (fun v => (BitVec.ofNat 8 e.1, v)))).filter (fun e =>
    !e.2.discarded && ts.any (fun t => (s.tile t).holdsWave e.1))).map Prod.fst

/-- Discard some waves for a repair; each is reissued with REPLAY after it. -/
def discardSome (ws : List Byte) (s : State) : State :=
  ws.foldl (fun s w => match s.wave w with
    | some v => (orderWave w orderDiscard s).setWave w (some { v with discarded := true })
    | none => s) s

/-- Step 2 of R460: the row group's waves are discarded, the others held; both sorts of letters are touched. -/
def holdForRepair (ts : List TileId) (s : State) : State :=
  if ts.any (fun t => s.usedTiles.contains t) then
    let ws := wavesHeldBy ts s
    let others := (s.dev.waves.filterMap (fun e => e.2.map (fun v => (BitVec.ofNat 8 e.1, v)))).filter (fun e => !e.2.discarded && !ws.contains e.1)
    discardSome ws (others.foldl (fun s e => orderWave e.1 orderHold s) (touchWaves s))
  else s

/-- Step 6: the held waves are released. -/
def resumeHeld (s : State) : State :=
  s.dev.waves.foldl (fun s e => match e.2 with
    | some v => if v.discarded then s else orderWave (BitVec.ofNat 8 e.1) orderResume s
    | none => s) s

/-- The frames of the failed tile start from the trail. -/
def rewriteFrames (t : TileId) (s : State) : State :=
  s.dev.sessions.foldl (fun s e => e.2.folios.foldl (fun s f =>
    if f.tile = some t ∧ f.lost ≠ [] then s.updTile t (fun x => x.writeLines memSlab (32 * f.page) (paddedBody f.trail)) else s) s) s

/-- The failed tile's content on its new site; without its master lines it waits, and holds new waves (R452). -/
def rebuildTile (t : TileId) (s : State) : State :=
  let s1 := rewriteFrames t s
  match s.dev.placement with
  | none => s1
  | some p =>
    if !s.usedTiles.contains t then s1
    else match s.master p with
      | some g => relodge [t] (s1.updTile t (refillTile p g t))
      | none => holdWaves (s1.updDev (fun d => { d with reloads := t :: d.reloads.filter (fun u => u != t) }))

/-- Spare substitution (R460): the counts of the sites that change start anew, the new code is written and journalled, the tiles from the failed one on move a site east,
the failed tile's content is rebuilt, the distance table republished. -/
def substitute (t : TileId) (s : State) : State :=
  let f := tileField t
  let ts := rowGroup t
  let moved := ts.filter (fun u => decide (t.toNat ≤ u.toNat))
  let s1 := loseFrames (fun u _ _ => u == t) (loseOwn (fun u _ _ => u == t) (holdForRepair ts s))
  let s2 := journalMap f (s1.updField f (fun x => { x with
    notes := x.notes.filter (fun n => !moved.contains (fieldAt (Card.payload n.2) 0 16))
    spareMap := Tbl.set (0xF : BitVec 4) x.spareMap (spareIndex t) (BitVec.ofNat 4 (tileXIn t % 8)) }))
  let s3 := journalAdd kindRetirement (retireKey 1 t.toNat) ([1] ++ bytesOf 2 t ++ moved.flatMap (fun u => countBody u (s.tile u))) s2
  let st := (s.block (tileBlock t)).pstate
  let s4 := moved.foldl (fun s u => s.updTile u (movedIn st s.dev.placement (s.usedTiles.contains u) u s.dev.time)) s3
  let s5 := if st = .dark ∨ st = .diapause then rewriteFrames t s4 else rebuildTile t s4
  proceed (resumeHeld (republish (journalAdd kindFault (t.setWidth 32) (bytesOf 8 s.dev.time ++ bytesOf 8 s.dev.time) (restoreOwn s5))))

/-- A tile is retired: substituted, or its field lost where the row group has no spare left (R22, R460). While its
controller restarts, the repair waits (R462). -/
def retireTile (t : TileId) (s : State) : State :=
  let x := s.field (tileField t)
  if x.lost then s
  else if x.restarting then s.putField (tileField t) { x with repairs := x.repairs ++ [t] }
  else if spareCode x.spareMap (spareIndex t) = 0xF then substitute t (askWake (tileBlock t) s)
  else loseField (tileField t) true s

/-- What waited for a field's controllers goes on, the repairs in order. -/
def resumeRepairs (f : Nat) (s : State) : State :=
  let x := s.field f
  x.repairs.foldl (fun s t => retireTile t s) (s.putField f { x with restarting := false, repairs := [] })

/-- FIELD_CONTROLLER_RESTART. -/
def execFieldControllerRestart (f : Fin 64) (s : State) : Out := .next (resumeRepairs f.val s)

/-- Copies of a tile's fault notes with a CAUSE at its field controller, from the last second (R453, R459). -/
def State.noteCount (s : State) (t : TileId) (cause : BitVec 4) : Nat :=
  (inWindow s.dev.time 1000000 (((s.field (tileField t)).notes.filter (fun n =>
    (fieldAt (Card.payload n.2) 28 4 : BitVec 4) == cause && (fieldAt (Card.payload n.2) 0 16 : TileId) == t)).map Prod.fst)).length

/-- Inputs of a tile's router whose link took 16 retries within 1 ms (R449). -/
def State.failingLinks (s : State) (t : TileId) : List Nat :=
  ((s.tile t).router.linkRetries.filter (fun e => decide ((inWindow s.dev.time 1000 e.2).length ≥ 16))).map Prod.fst

/-- A cause of R459 that the field controller counts holds: three compute faults or a second uncorrectable read within 1 s, or 16
retries of one link of the tile within 1 ms (R83, R93, R449). -/
def State.retireDue (s : State) (t : TileId) : Bool :=
  decide (s.noteCount t 2 ≥ 3) || decide (s.noteCount t 4 ≥ 2) || s.failingLinks t != []

/-- A cause that the field controller finds by itself is a fault event too (R459, R467). -/
def noteCause (cause : Byte) (t : TileId) (s : State) : State :=
  journalAdd kindFault (t.setWidth 32) [cause] (s.updDev (fun d => { d with notes := d.time :: inWindow d.time 1000 d.notes }))

/-- A failing link retires the tile at its receiving end; one that fails again after that substitution takes the field (R449). -/
def retireLink (t : TileId) (ps : List Nat) (s : State) : State :=
  let s1 := noteCause 7 t s
  if ps.any (fun p => (s.tile t).router.badLinks.contains p) then
    if (s.field (tileField t)).restarting then retireTile t s1 else loseField (tileField t) true s1
  else retireTile t (s1.updTile t (fun x => { x with router := { x.router with badLinks := x.router.badLinks ++ ps } }))

/-- TILE_RETIREMENT, on a cause that the field controller counts; FIREFLY_SILENCE, ECC_STORM and a RETIRE letter retire their tile
themselves. -/
def execTileRetirement (t : TileId) (s : State) : Out :=
  .next (if !s.retireDue t then s else if s.failingLinks t = [] then retireTile t s else retireLink t (s.failingLinks t) s)

/-- Time without a FIREFLY card from a tile, counted no earlier than from its block's last entry into ACTIVE: the field controller
expects the cards of ACTIVE blocks only (R161). -/
def State.silentUs (s : State) (t : TileId) : Nat :=
  min (s.dev.time - (s.tile t).lastFirefly).toNat (s.dev.time - (s.block (tileBlock t)).activeSince).toNat

/-- FIREFLY_SILENCE: 30 µs without a card from a tile of an ACTIVE block. -/
def execFireflySilence (t : TileId) (s : State) : Out :=
  if (s.block (tileBlock t)).pstate = .active ∧ 30 ≤ s.silentUs t then .next (retireTile t (noteCause 8 t s))
  else .next s

/-- ECC_STORM: 256 corrected reads in 1 ms, which the field controller counts (log entry 151). -/
def execEccStorm (t : TileId) (s : State) : Out := .next (retireTile t (noteCause 6 t s))

/-! ## Stacks (R312, R373, R464, R465) -/

/-- Stacks that are not retired, in number order. -/
def State.standingStacks (s : State) : List Nat := (List.range 24).filter (fun i => (s.stk i).st != 4)

/-- Everything in the stacks fits on one stack fewer, the rewrite reserve given up (R315, R464). -/
def State.fitsWithout (s : State) : Bool := decide (16 * 2 ^ 30 + s.usedBytes ≤ (s.standingStacks.length - 1) * (72 * 2 ^ 30))

/-- Forget a session whose letters end with a status (R452, R464). -/
def closeLost (status : BitVec 16) (n : Nat) (s : State) : State :=
  let x := s.session n
  let s1 := (abandonAdapt n s)
  let s2 := (x.queue ++ x.closeKey.toList).foldl (fun s k => finishLetter k status [] [] s) s1
  freeSession n (releaseFrames n (dropSealing n s2))

/-- Close parked sessions that the keeper holds, least recently active first, until the rest fits. -/
def makeRoom : Nat → State → State
  | 0, s => s
  | fuel + 1, s =>
    if s.fitsWithout then s
    else match leastRecent (s.dev.sessions.filter (fun e => e.2.state == .parked && s.keeperCurrent e.1 e.2)) with
      | none => s
      | some e => makeRoom fuel (closeLost 0x0203 e.1 s)

/-- A stack's retirement begins, its content copied onto the others; none when it would not fit. -/
def retireStackNow (n : Nat) (s : State) : Option State :=
  let s1 := makeRoom s.dev.sessions.length s
  if s1.fitsWithout then some (s1.updStk n (fun x => { x with st := 3 })) else none

/-- Body of a stack's retirement record. -/
def stackBody (n : Nat) : List Byte := [4, BitVec.ofNat 8 n]

/-- STACK_RETIREMENT_AUTO: it waits while the rest does not fit. -/
def execStackRetirementAuto (n : Fin 24) (s : State) : Out :=
  if (s.stk n.val).st ≠ 2 then .next s
  else match retireStackNow n.val s with
    | some s1 => .next (proceed (journalAdd kindRetirement (retireKey 4 n.val) (stackBody n.val) s1))
    | none => .next s

/-- A record of `lines` body lines has lines in a stack (R312). -/
def State.recordIn (s : State) (n owner layer lines : Nat) : Bool :=
  let ks := s.standingStacks
  (List.range (max 1 ((lines + 7) / 8))).any (fun g => ks.getD ((owner + layer + g) % max 1 ks.length) 24 == n)

/-- Records of a session that have lines in a stack: token log, session state, adapter, folios. -/
def sessionIn (s : State) (n k : Nat) (x : Session) : Bool :=
  s.recordIn n k 0 ((x.tokens.length + 15) / 16) || s.recordIn n k 0 1 || 
  (match x.adapter with | some a => s.recordIn n k 0 a.lines.length | none => false)

def folioIn (s : State) (n k : Nat) (x : Session) (f : FolioRef) : Bool :=
  f.tile.isNone && f.trail != [] && s.recordIn n (if f.shared then x.family.toNat else k) f.layer.toNat f.trail.length

/-- An open folio whose record is lost is recomputed, from the keeper's log (R322, R452). -/
def loseTrail (s : State) (n k : Nat) (x : Session) (f : FolioRef) : FolioRef :=
  if folioIn s n k x f ∧ !f.sealed then { f with lost := if f.lost = [] then f.trail else f.lost } else f

/-- A parked session when a stack is lost: the keeper's copy restores it, else it is closed (R452). -/
def parkedLoss (n k : Nat) (s : State) : State :=
  let x := s.session k
  if x.state ≠ .parked ∨ !(sessionIn s n k x || x.folios.any (folioIn s n k x)) then s
  else if s.keeperCurrent k x then
    s.updSession k (fun y => { y with
      folios := y.folios.map (loseTrail s n k y)
      rebuildFrom := firstLost (y.folios.filter (fun f => folioIn s n k y f && !f.sealed)) y.rebuildFrom })
  else closeLost 0x0203 k (journalAdd kindFault (BitVec.ofNat 32 k) ([0xFD] ++ leBytes 2 k) s)

/-- Dead-letter records of a session that stands: nothing else holds them. -/
def deadLoss (n k : Nat) (s : State) : State :=
  let x := s.session k
  let gone (d : DeadLetter) : Bool := s.recordIn n k d.layer.toNat d.body.length && !d.streamed
  if x.state = .free ∨ !x.dead.any gone then s
  else closeLost 0x0203 k (journalAdd kindFault (BitVec.ofNat 32 k) ([0xFC] ++ leBytes 2 k) s)

/-- A held image has lines in a stack: group g of 8 records stands on standing stack g mod N (R373). -/
def imageIn (s : State) (n : Nat) (g : Image) : Bool := decide (s.standingStacks.idxOf n < (g.records.length + 7) / 8)

/-- Held images with lost master lines; the journal names each. -/
def loseImages (n : Nat) (s : State) : State :=
  (s.dev.images.filter (fun e => match e.2 with | some g => imageIn s n g && !g.lost | none => false)).foldl (fun s e =>
    journalAdd kindFault (BitVec.ofNat 32 n) ([0xFB] ++ leBytes 8 e.1) (s.updDev (fun d => { d with
      images := Tbl.set none d.images e.1 (e.2.map (fun g => { g with lost := true })) }))) s

/-- STACK_UNREADABLE: its lines are lost, each rebuilt where a source stands; the rest is restriped. -/
def execStackUnreadable (n : Fin 24) (s : State) : Out :=
  let st := (s.stk n.val).st
  if st ≠ 2 ∧ st ≠ 3 then .next s
  else
    let ids := s.dev.sessions.map Prod.fst
    let s1 := loseImages n.val s
    let s2 := ids.foldl (fun s k => deadLoss n.val k (parkedLoss n.val k s)) s1
    let s3 := s2.updStk n.val (fun x => { x with st := 5 })
    .next (proceed (republish (journalAdd kindRetirement (retireKey 4 n.val) (stackBody n.val) s3)))

/-- The letter that retires a stack. -/
def stackLetter (n : Nat) (s : State) : Option LetterRec :=
  s.dev.letters.find? (fun r => r.opcode == opRetire && r.progressed && leAt r.params 0 1 == 4 && leAt r.params 2 2 == n)

/-- STACK_COPY_COMPLETE: the stack is retired, the table republished, the letter done. -/
def execStackCopyComplete (n : Fin 24) (s : State) : Out :=
  let st := (s.stk n.val).st
  if st ≠ 3 ∧ st ≠ 5 then .next s
  else
    let s1 := republish (s.updStk n.val (fun x => { x with st := 4 }))
    .next (match stackLetter n.val s with
      | some r => finishLetter r.key stDone [] [] s1
      | none => s1)

end Sys2Proof.Machine
end

