-- ==== Sys2Proof/Machine/Device.lean ====
section
/-! DEFINITION. Device-class letters: STATUS, TELEMETRY, DISTANCES, POWER_CAP, SET_PROFILE and DRAIN (R27, R210, R308, R328, R345
to R347, R354, R357, R428, R445). -/

namespace Sys2Proof.Machine

/-- The check of R354. -/
def exclusiveCheck (s : State) : Bool × BitVec 16 := (s.exclusiveRuns, 0x0404)

/-- A letter becomes the device-level letter that runs (R354). -/
def takeExclusive (k : LetterKey) (s : State) : State := s.updDev (fun d => { d with exclusive := some k })

/-! ## STATUS (R303, R346) -/

/-- State code of R303. -/
def sessCode : SessState → Byte
  | .free => 0
  | .resident => 1
  | .running => 2
  | .parking => 3
  | .parked => 4
  | .resuming => 5
  | .migrating => 6
  | .suspended => 7
  | .rebuilding => 8
  | .closing => 9

/-- STATUS FLAGS. -/
def statusFlags (s : State) : Nat :=
  s.noAlternate.toNat + 2 * s.dev.keeperLagAlarm.toNat + 4 * s.dev.swap.candidate.isSome.toNat

/-- The 48 bytes of STATUS for a named session. -/
def statusBytes (session : BitVec 16) (s : State) : List Byte :=
  let ids : BitVec 64 := match s.dev.placement with | some p => p.imageId | none => 0
  bytesOf 8 ids ++ bytesOf 2 s.dev.distGen ++ [s.dev.profile.setWidth 8, s.dev.deviceState, BitVec.ofNat 8 (statusFlags s)] ++
  [if session = 0 then 0 else sessCode (s.session session.toNat).state] ++ leBytes 2 s.openCount ++
  leBytes 2 (s.dev.sessions.countP (fun e => e.2.inResidence)) ++ leBytes 2 (s.dev.sessions.countP (fun e => e.2.state == .parked)) ++
  bytesOf 4 s.dev.keeperLagMs ++ leBytes 8 (maskOf 64 (fun f => s.retiredFields.contains f)) ++
  leBytes 4 (maskOf 24 (fun n => (s.stk n).st == 4)) ++ leBytes 4 s.power.capW.toNat ++ leBytes 8 0

def statusRule (l : Letter) : LetterRule := { session := .maybe, len := 0, train := letterTrainOk l none }

def execStatus (l : Letter) (s : State) : Out :=
  .next (receive opStatus l (statusRule l) (fun k s => finishLetter k stDone (statusBytes l.session s) [] (progress k s)) s)

/-! ## TELEMETRY (R210, R345, R428, R445) -/

/-- Records of a ring from a record number on. -/
def ringLines (r : List (Word × List Line)) (first count : Nat) : List Line :=
  ((r.filter (fun e => decide (first ≤ e.1.toNat) && decide (e.1.toNat < first + count))).flatMap Prod.snd)

/-- The 16-byte record of an expert (R210). -/
def expertBytes (s : State) (e : BitVec 16) : List Byte :=
  let c := Tbl.get {} s.dev.experts e.toNat
  let le := match s.dev.placement with | some p => p.lodging.find? (fun x => x.expert == e) | none => none
  let home : Byte := match le with | some x => BitVec.ofNat 8 x.home | none => 0xFF
  let now := match le with | some x => (holder (s.stk x.home) .lodged e).isSome | none => false
  let pin := match le with | some x => s.expertPinned x | none => false
  bytesOf 2 e ++ [BitVec.ofNat 8 (le.isSome.toNat + 2 * now.toNat + 4 * pin.toNat), home] ++ bytesOf 4 c.routed ++ bytesOf 4 c.lodgings ++ bytesOf 4 c.waitUs

/-- Experts with a record: those of the lodging list, and those that a router stage has routed to; the image lists no other (R210;
log entry 161). -/
def State.expertIds (s : State) : List (BitVec 16) :=
  match s.dev.placement with
  | some p => ((List.range 65536).map (BitVec.ofNat 16)).filter (fun e =>
      p.lodging.any (fun x => x.expert == e) || s.dev.experts.any (fun x => x.1 == e.toNat))
  | none => []

/-- Expert records of a range of expert IDs. -/
def expertRange (s : State) (first count : Nat) : List Byte :=
  (s.expertIds.filter (fun e => decide (first ≤ e.toNat) && decide (e.toNat < first + count))).flatMap (expertBytes s)

/-- Records of the tenants of a range; no layout is given. -/
def tenantRange (s : State) (first count : Nat) : List Byte :=
  ((List.range 4096).filter (fun t => decide (1 ≤ t) && decide (first ≤ t) && decide (t < first + count))).flatMap (fun t =>
    Config.tenantRecord (BitVec.ofNat 12 t) (Tbl.get 0 s.dev.overruns t) (Tbl.get 0 s.dev.autoParks t))

def telemetryFirst (l : Letter) : Nat := letterNum l 4 4
def telemetryCount (l : Letter) : Nat := letterNum l 8 4

/-- The rule of a TELEMETRY whose STREAM byte is `st`. -/
def telemetryRule (l : Letter) (st : Nat) (role : Byte) : LetterRule :=
  { role := role, len := 12, train := letterTrainOk l none
    params := decide (letterNum l 0 1 = st) && letterZeros l 1 3 && decide (1 ≤ telemetryCount l) && decide (telemetryCount l ≤ 65536) }

/-- Serve a stream. -/
def serveLines (f : State → List Line) (k : LetterKey) (s : State) : State := finishLetter k stDone [] (f s) (progress k s)

def execTelemetryCurrent (l : Letter) (s : State) : Out :=
  .next (receive opTelemetry l (telemetryRule l 1 0) (serveLines (fun s => ringLines s.power.currentRing (telemetryFirst l) (telemetryCount l))) s)

def execTelemetryExperts (l : Letter) (s : State) : Out :=
  .next (receive opTelemetry l (telemetryRule l 2 0) (serveLines (fun s => bytesLines (expertRange s (telemetryFirst l) (telemetryCount l)))) s)

/-- The counters of other tenants than the letter's own need the installer role. -/
def tenantsRole (l : Letter) : Byte := if telemetryFirst l = (letterTenant l).toNat ∧ telemetryCount l = 1 then 0 else 1

def execTelemetryTenants (l : Letter) (s : State) : Out :=
  .next (receive opTelemetry l (telemetryRule l 3 (tenantsRole l)) (serveLines (fun s => bytesLines (tenantRange s (telemetryFirst l) (telemetryCount l)))) s)

def execTelemetryThermal (l : Letter) (s : State) : Out :=
  .next (receive opTelemetry l (telemetryRule l 4 0) (serveLines (fun s => ringLines s.power.thermalRing (telemetryFirst l) (telemetryCount l))) s)

/-! ## DISTANCES (R27, R28) -/

/-- The record of a tile in the current generation; a stack that has become unreadable is retired from then on (R29, R465). -/
def State.distance (s : State) (t : Nat) : List Byte :=
  distRecord s.dev.distGen (fun f => (s.field f).spareMap) (fun n => (s.stk n).st == 4 || (s.stk n).st == 5) (fun c => (s.chiplet c).retired) (BitVec.ofNat 16 t)

def distancesRule (l : Letter) : LetterRule :=
  { len := 4, train := letterTrainOk l none, params := decide (letterNum l 0 2 + letterNum l 2 2 ≤ 65535) }

def execDistances (l : Letter) (s : State) : Out :=
  .next (receive opDistances l (distancesRule l) (fun k s =>
    finishLetter k stDone (bytesOf 2 s.dev.distGen)
      (bytesLines ((List.range (letterNum l 2 2 + 1)).flatMap (fun i => s.distance (letterNum l 0 2 + i)))) (progress k s)) s)

/-! ## POWER_CAP (R345, R423) -/

/-- Journal the configuration for a letter. -/
def journalConfig (k : LetterKey) (s : State) : State := journalFor k kindConfig 0 (configBody s) s

def powerCapRule (l : Letter) : LetterRule :=
  { role := 1, len := 4, train := letterTrainOk l none, params := decide (3000 ≤ letterNum l 0 4) && decide (letterNum l 0 4 ≤ 24500) }

/-- The cap in force. -/
def setCap (w : BitVec 16) (s : State) : State :=
  let s1 := { s with power := { s.power with capW := w } }
  { s1 with power := { s1.power with sustainedW := BitVec.ofNat 16 s1.sustained } }

def execPowerCap (l : Letter) (s : State) : Out :=
  .next (receive opPowerCap l (powerCapRule l) (fun k s =>
    let s1 := setCap (BitVec.ofNat 16 (letterNum l 0 4)) (progress k s)
    finishLetter k stDone (bytesOf 4 (s1.power.capW.setWidth 32)) [] (journalConfig k s1)) s)

/-! ## SET_PROFILE (R6, R308, R321, R328, R347) -/

/-- Quota records of a train, 4 to a parcel; all-zero records fill the last parcel. -/
def quotaBits (l : Letter) : List (BitVec 128) := (entries 128 l.train).filter (fun x => x != 0)

/-- The reserved bits of a quota record are 0 and its tenant and family limit are legal. -/
def quotaOk (x : BitVec 128) : Bool :=
  decide (1 ≤ bitsAt x 0 16) && decide (bitsAt x 0 16 ≤ 4095) && decide (bitsAt x 112 11 ≤ 1024) && bitsAt x 123 4 == 0

def quotaOf (x : BitVec 128) : Quota :=
  { maxOpen := bitsAt x 16 16, maxResident := bitsAt x 32 16, minResident := bitsAt x 48 16, maxStackGib := bitsAt x 64 16
    maxBudget := bitsAt x 80 32, maxFamily := bitsAt x 112 11, fixedSlots := bitAt x 127 }

/-- The quotas after a letter. -/
def newQuotas (l : Letter) (s : State) : Tbl Quota :=
  (quotaBits l).foldl (fun q x => Tbl.set {} q (bitsAt x 0 16) (quotaOf x)) s.dev.quotas

/-- Pages that a resident session of a budget needs in a stage, beside its STATISTICS and ADAPTER pages (R307). -/
def stageNeed (budget : Nat) (g : Stage) : Nat := (budget / 64 + 1) * sealedPages g + openPages g

/-- Resident capacity of a placement at the default budget (R308): the smallest over its attention stages. -/
def residentCapacity (p : Placement) : Option Nat :=
  (p.stages.filter (fun g => g.kind == 2)).foldl (fun a g =>
    let c := ((g.tiles.map (fun t => poolOf p.lines p.sections t.1 - poolReserve)).sum) / max 1 (stageNeed 16384 g)
    some (match a with | some m => min m c | none => c)) none

/-- The floors of all tenants exceed the capacity of the loaded placement. -/
def floorsBreak (q : Tbl Quota) (s : State) : Bool :=
  match s.dev.placement with
  | none => false
  | some p =>
    match residentCapacity p with
    | some c => decide (c < (q.map (fun e => e.2.minResident)).sum)
    | none => false

def profileRule (l : Letter) (s : State) : LetterRule :=
  let pr := letterNum l 0 1
  let kp := letterNum l 1 1
  { role := 1, len := 16, train := letterTrainOk l (some fmtBYTES)
    params := (pr == 1 || pr == 2) && (decide (kp ≤ 15) || kp == 0xFE || kp == 0xFF) && decide (letterNum l 2 2 ≤ 4095) &&
      (pr != 2 || letterNum l 2 2 != 0) && letterZeros l 6 2 && decide (10 ≤ letterNum l 8 4) && decide (letterNum l 8 4 ≤ 1000) &&
      letterZeros l 12 4 && (quotaBits l).all quotaOk
    later := [(floorsBreak (newQuotas l s) s, 0x0305), exclusiveCheck s] }

/-- Everything but PROFILE and EXPRESS_TENANT takes effect at once (R347). -/
def setProfile (l : Letter) (s : State) : State :=
  s.updDev (fun d => { d with
    nextProfile := BitVec.ofNat 2 (letterNum l 0 1), nextTenant := BitVec.ofNat 12 (letterNum l 2 2)
    keeperTo := BitVec.ofNat 8 (letterNum l 1 1), favoured := BitVec.ofNat 16 (letterNum l 4 2)
    slotUs := BitVec.ofNat 16 (letterNum l 8 4), quotas := newQuotas l s })

/-- A newly named keeper holds nothing of any session. -/
def forgetKeeper (s : State) : State :=
  s.updDev (fun d => { d with
    keeperStore := [], keeperLagAlarm := false, keeperLagMs := 0
    sessions := Tbl.mapV {} (fun (y : Session) => { y with
      keeperLog := 0, keeperState := [], superseded := [], folios := y.folios.map (fun f => { f with streamed := false }), dead := y.dead.map (fun x => { x with streamed := false }) }) d.sessions })

def execSetProfile (l : Letter) (s : State) : Out :=
  .next (receive opSetProfile l (profileRule l s) (fun k s =>
    let s1 := if s.dev.keeperTo = BitVec.ofNat 8 (letterNum l 1 1) then s else forgetKeeper s
    finishLetter k stDone [] [] (journalConfig k (setProfile l (progress k (takeExclusive k s1))))) s)

/-! ## DRAIN (R357, R495) -/

/-- The rule of a DRAIN whose MODE byte is `m`. -/
def drainRule (l : Letter) (m : Nat) (s : State) : LetterRule :=
  { role := 1, len := 4, train := letterTrainOk l none, params := decide (letterNum l 0 1 = m) && letterZeros l 1 1, later := [exclusiveCheck s] }

/-- A waiting letter ends with 0x0403 and RETRY_US 0. -/
def dropWaiting (k : LetterKey) (s : State) : State := finishLetter k 0x0403 [] [] (s.updLetter k (fun r => { r with noRetry := true }))

/-- The letters of one session as DRAIN REMOVE begins: a running one ends at its next commit, or now between waves; one in a
transition completes with it; waiting ones end. -/
def drainQueue (n : Nat) (s : State) : State :=
  let x := s.session n
  let s0 := match x.adapt with
    | some a => restSession (BitVec.ofNat 16 n) (finishLetter a.key 0x0403 [] [] (clearAdapt n s))
    | none => s
  match x.queue with
  | [] => s0
  | k :: ks =>
    let s1 := ks.foldl (fun s j => dropWaiting j s) s0
    match s1.letter k with
    | none => s1
    | some r =>
      if !r.progressed then dropWaiting k s1
      else if !x.settled || !s1.betweenWaves n then s1
      else restSession (BitVec.ofNat 16 n) (endSessionLetter k 0x03 0x0403 s1)

def execDrainRemove (l : Letter) (s : State) : Out :=
  .next (receive opDrain l (drainRule l 1 s) (fun k s =>
    let s1 := (takeExclusive k (progress k s)).updDev (fun d => { d with
      draining := true, drainLetter := some k, drainPeers := BitVec.ofNat 16 (letterNum l 2 2), drainMigrated := 0, drainLeft := 0 })
    let s2 := (s1.dev.sessions.map Prod.fst).foldl (fun s n => drainQueue n s) s1
    proceed (setDeviceState 4 s2)) s)

/-- Results of a DRAIN that moves no session. -/
def noMoves : List Byte := List.replicate 8 0

def execDrainQuiesce (l : Letter) (s : State) : Out :=
  .next (receive opDrain l (drainRule l 2 s) (fun k s =>
    finishLetter k stDone noMoves [] (setDeviceState 3 ((progress k (takeExclusive k s)).updDev (fun d => { d with quiesced := true })))) s)

def execDrainServe (l : Letter) (s : State) : Out :=
  .next (receive opDrain l (drainRule l 3 s) (fun k s =>
    let s1 := (progress k (takeExclusive k s)).updDev (fun d => { d with quiesced := false })
    finishLetter k stDone noMoves [] (if s1.dev.deviceState = 3 ∧ !s1.coolant.flowStop then setDeviceState 2 s1 else s1)) s)

end Sys2Proof.Machine
end

