-- ==== Sys2Proof/Machine/Journal.lean ====
section
/-! DEFINITION. The keepers' journal: appending, commit, mount, compaction and throttling, JOURNAL_READ, the loss of the
standby keeper, and the power-down after a drain (R326, R348, R479 to R486, R495, R532). -/

namespace Sys2Proof.Machine

/-! ## Records as bytes (R480, R481) -/

/-- A body filled to a multiple of 8 bytes. -/
def paddedBytes (bs : List Byte) : List Byte := bs ++ List.replicate ((8 - bs.length % 8) % 8) 0

/-- Bytes of a record. -/
def recordSize (j : JRecord) : Nat := 32 + (paddedBytes j.body).length

/-- Header bytes 0 to 27. -/
def recordHead (j : JRecord) : List Byte :=
  bytesOf 2 j.kind ++ leBytes 2 (recordSize j) ++ bytesOf 8 j.seqNo ++ bytesOf 8 j.time ++ bytesOf 4 j.key ++
  leBytes 2 (j.ckpt.toNat + 2 * j.single.toNat) ++ [0, 0]

/-- The record as it stands in flash. -/
def recordRaw (j : JRecord) : List Byte :=
  recordHead j ++ bytesOf 4 (crc32c (recordHead j ++ paddedBytes j.body)) ++ paddedBytes j.body

/-- Record bytes that a segment takes beside its header. -/
def segmentBytes : Nat := 262144 - 64

/-- Segments open or full (R480, R548). -/
def Journal.segments (j : Journal) : Nat := ((j.records.map recordSize).sum + segmentBytes - 1) / segmentBytes

/-- Kinds of state records (R482). -/
def stateKind (k : BitVec 16) : Bool := decide (1 ≤ k.toNat) && decide (k.toNat ≤ 8)

/-- Kinds of history records. -/
def historyKind (k : BitVec 16) : Bool := decide (9 ≤ k.toNat) && decide (k.toNat ≤ 12)

/-- JOURNAL_APPEND: a record of a legal kind and size. -/
def execJournalAppend (kind : BitVec 16) (key : Word) (body : List Byte) (s : State) : Out :=
  if 1 ≤ kind.toNat ∧ kind.toNat ≤ 15 ∧ (paddedBytes body).length ≤ 4064 then .next (journalAdd kind key body s) else .next s

/-! ## Commit (R483, R495) -/

/-- Commit the oldest record that is not committed yet. -/
def commitFirst : List JRecord → List JRecord
  | [] => []
  | j :: js => if j.committed || j.obsolete then j :: commitFirst js else { j with committed := true } :: js

/-- Letters whose last record is committed now receive their final receipt. -/
def sendHeld (s : State) : State :=
  s.dev.letters.foldl (fun s r => match r.finalStatus with
    | some f => if s.waitsCommit r.key then s else sendFinal r.key f.1 f.2.1 f.2.2 s
    | none => s) s

/-- Once a drain's final receipt is sent, the module shuts down and its light is blue (R495). -/
def endDrain (s : State) : State :=
  match s.dev.drainLetter with
  | some k =>
    if s.dev.deviceState = 5 ∧ s.letter k = none then
      let s1 := shutDown 3 s
      { s1 with
        power := { s1.power with mainClosed := false }
        keepers := Tbl.mapV {} (fun (k : Keeper) => { k with statusLight := 4 }) s1.keepers }
    else s
  | none => s

def execJournalCommit (s : State) : Out :=
  .next (endDrain (proceed (sendHeld { s with journal := { s.journal with records := commitFirst s.journal.records } })))

/-- STANDBY_KEEPER_LOSS: the active keeper commits alone from now on. -/
def execStandbyKeeperLoss (s : State) : Out :=
  if s.dev.standbyLost then .next s
  else
    let s1 := { s with journal := { s.journal with records := s.journal.records.map (fun (j : JRecord) => if j.committed then j else { j with single := true }) } }
    .next (raiseEvent .standbyLost ((s1.updDev (fun d => { d with standbyLost := true })).updKeeper (1 - s.dev.activeKeeper.val)
      (fun k => { k with role := 0 })))

/-! ## Mount (R484) -/

/-- A record that a mount drops: at or after the first bad one, and not to be had from the other keeper. -/
def dropsAt (cut : BitVec 64) (alone : Bool) (j : JRecord) : Bool :=
  decide (cut.toNat ≤ j.seqNo.toNat) && !(j.committed && !j.single && !alone)

/-- The records after a mount; a dropped one stays in flash, unread, until its segment is erased. -/
def mountRecords (cut : BitVec 64) (alone : Bool) (js : List JRecord) : List JRecord :=
  js.map (fun j => if j.obsolete || dropsAt cut alone j then { j with obsolete := true } else j)

/-- Newest record of a kind and key. -/
def newest (js : List JRecord) (kind : BitVec 16) (key : Word) : Option JRecord :=
  (js.filter (fun j => !j.obsolete && j.kind == kind && j.key == key)).getLast?

/-- The configuration of a record. -/
def applyConfig (b : List Byte) (d : Dev) : Dev :=
  { d with
    profile := BitVec.ofNat 2 (leAt b 0 1 % 16), nextProfile := BitVec.ofNat 2 (leAt b 0 1 / 16), keeperTo := BitVec.ofNat 8 (leAt b 1 1)
    expressTenant := BitVec.ofNat 12 (leAt b 2 2), nextTenant := BitVec.ofNat 12 (leAt b 4 2), favoured := BitVec.ofNat 16 (leAt b 6 2)
    slotUs := BitVec.ofNat 16 (leAt b 8 2)
    quotas := (chunks 16 (b.length + 1) (b.drop 12)).foldl (fun q c =>
      if c.length = 16 then Tbl.set {} q (leAt c 0 2) (quotaOf (BitVec.ofNat 128 (leNat c))) else q) [] }

/-- Configuration without a record: that of reset. -/
def noConfig (d : Dev) : Dev :=
  { d with profile := 1, nextProfile := 1, keeperTo := 0xFF, expressTenant := 0, nextTenant := 0, favoured := 0, slotUs := 10, quotas := [] }

/-- The spare map of 64 bytes. -/
def mapOfBytes (b : List Byte) : Tbl (BitVec 4) :=
  (List.range 128).foldl (fun m k => Tbl.set (0xF : BitVec 4) m k (BitVec.ofNat 4 (leAt b (k / 2) 1 / (if k % 2 = 0 then 1 else 16)))) []

/-- The newest value of a kind and key, as bytes. -/
def newestBody (js : List JRecord) (kind : BitVec 16) (key : Word) : Option (List Byte) := (newest js kind key).map (fun j => j.body)

/-- A retirement record takes effect (R482, R493). -/
def applyRetirement (s : State) (j : JRecord) : State :=
  let i := j.key.toNat % 65536
  match j.key.toNat / 65536 with
  | 2 => failSegments i (BitVec.ofNat 8 (leAt j.body 1 1)) s
  | 3 => s.updField i (fun x => { x with retired := true })
  | 4 => s.updStk i (fun x => { x with st := 4 })
  | 5 => s.updChiplet i (fun x => { x with retired := true })
  | 6 => s.updBlock i (fun x => capBlock { x with diodeRetired := leAt j.body 1 1 % 2 == 1, ringRetired := leAt j.body 1 1 / 2 % 2 == 1 })
  | _ => s

/-- Retirements are those of the journal. -/
def applyRetirements (s : State) : State :=
  (s.journal.records.filter (fun j => !j.obsolete && j.kind == kindRetirement)).foldl applyRetirement { s with
    fieldCtls := Tbl.mapV {} (fun (x : FieldCtl) => { x with retired := false }) s.fieldCtls
    stackCtls := Tbl.mapV {} (fun (x : Stack) => { x with st := if x.st = 4 then 0 else x.st }) s.stackCtls
    chiplets := Tbl.mapV {} (fun (x : Chiplet) => { x with retired := false }) s.chiplets
    blocks := Tbl.mapV {} (fun (x : Block) => { x with
      segFailed := 0, tied := false, feeding := false, skip := false, diodeRetired := false, ringRetired := false, capped := false }) s.blocks }

/-- The wear ledger of a record: the fields' bins, then whole minutes (R444). -/
def applyWear (b : List Byte) (s : State) : State :=
  let us (o : Nat) : Nat := 60000000 * leAt b o 4
  let s1 := (List.range 64).foldl (fun s f => s.updField f (fun x => { x with
    bins := tblOf 0 ((List.range 5).map (fun i => BitVec.ofNat 32 (leAt b (20 * f + 4 * i) 4))) })) s
  { s1 with wear := { operatingUs := us 1280, boostUs := us 1284, hotUs := us 1288 } }

/-- Slot pointers are those of the journal (R488). -/
def applySlots (s : State) : State :=
  (s.journal.records.filter (fun j => !j.obsolete && j.kind == kindFirmware)).foldl (fun s j =>
    { s with fw := Tbl.upd {} s.fw (j.key.toNat / 65536) (fun x => { x with
        active := Tbl.set false x.active (j.key.toNat % 65536) (leAt j.body 0 1 == 1) }) })
    { s with fw := Tbl.mapV {} (fun (x : FwAgent) => { x with active := [] }) s.fw }

/-- A tenant's key under the generation that its record names; COUNTERs go on at the next journalled step (R326, R327). -/
def applyTenantKey (js : List JRecord) (t : Nat) (k : TenantKey) : TenantKey :=
  let k1 : TenantKey := match newestBody js kindKeys (BitVec.ofNat 32 t) with
    | none => {}
    | some b =>
      if leAt b 0 1 = k.gen then k
      else match k.older with
        | some o => if o.1 = leAt b 0 1 then { gen := o.1, key := o.2.1, salt := o.2.2, counter := k.counter } else {}
        | none => {}
  { k1 with counter := BitVec.ofNat 64 ((k1.counter.toNat + 65535) / 65536 * 65536) }

/-- Keys, the authorised-image list and the last authorisation are those of the journal (R482, R506, R508, R511). -/
def applyKeys (js : List JRecord) (d : Dev) : Dev :=
  { d with
    wrapKeys := tblOf none ((List.range 5).map (fun i => (newestBody js kindKeys (BitVec.ofNat 32 (65536 + i))).map (fun b => BitVec.ofNat 256 (leNat b))))
    authImages := match newestBody js kindKeys 0xFFFFFFFE with
      | some b => ((chunks 8 (b.length + 1) b).filter (fun c => c.length == 8)).map (fun c => BitVec.ofNat 64 (leNat c))
      | none => []
    authSeq := match newestBody js kindKeys 0xFFFFFFFF with | some b => BitVec.ofNat 64 (leNat b) | none => 0
    tenantKeys := d.tenantKeys.foldl (fun m e => Tbl.set {} m e.1 (applyTenantKey js e.1 e.2)) [] }

/-- The seal of a record (R503). -/
def applySeal (b : Option (List Byte)) (d : Dev) : Dev :=
  match b with
  | some b => { d with sealState := BitVec.ofNat 8 (leAt b 0 1), sealBreaks := BitVec.ofNat 32 (leAt b 4 4), sealTime := BitVec.ofNat 64 (leAt b 8 8) }
  | none => { d with sealState := 1, sealBreaks := 0, sealTime := 0 }

/-- State records of the journal take effect, the newest of each kind and KEY (R484). -/
def applyJournal (s : State) : State :=
  let js := s.journal.records
  let s1 := match newest js kindConfig 0 with
    | some j => { s.updDev (applyConfig j.body) with power := { s.power with capW := BitVec.ofNat 16 (leAt j.body 10 2) } }
    | none => { s.updDev noConfig with power := { s.power with capW := 0x5FB4 } }
  let s2 := (List.range 64).foldl (fun s f => s.updField f (fun x =>
    { x with spareMap := match newest js kindSpareMap (BitVec.ofNat 32 f) with | some j => mapOfBytes j.body | none => [] })) s1
  let s3 := match newestBody js kindWear 0 with | some b => applyWear b s2 | none => { s2 with wear := {} }
  (applySlots (applyRetirements s3)).updDev (fun d => applySeal (newestBody js kindSeal 0) (applyKeys js d))

/-- Sequence number after the last record that stands. -/
def nextAfter (js : List JRecord) : BitVec 64 :=
  match (js.filter (fun j => !j.obsolete)).getLast? with
  | some j => j.seqNo + 1
  | none => 0

/-- JOURNAL_MOUNT: a keeper that booted mounts its journal; the active keeper's mount completes step 2 of bring-up (R473). -/
def execJournalMount (k : Fin 2) (cut : BitVec 64) (s : State) : Out :=
  if (s.keeper k.val).role = 0 || s.bring.step != 1 then .next s
  else
    let js := mountRecords cut s.dev.standbyLost s.journal.records
    let s1 := { s with journal := { s.journal with records := js, nextSeq := nextAfter js } }
    if k = s.dev.activeKeeper then
      let s2 := applyJournal s1
      .next { s2 with
        journal := { s2.journal with mounted := true }
        bring := { s2.bring with step := 2 }
        keepers := Tbl.mapV {} (fun (k : Keeper) => if k.role = 0 then k else { k with statusLight := 2 }) s2.keepers }
    else .next s1

/-! ## Compaction (R485, R486) -/

/-- No later record of the same kind and key. -/
def isNewest (js : List JRecord) (j : JRecord) : Bool :=
  match newest js j.kind j.key with
  | some n => n.seqNo == j.seqNo
  | none => false

/-- The newest history records, at most 65,536 of them and at most 32 MiB. -/
def keptHistory (js : List JRecord) : List JRecord :=
  let hs := ((js.filter (fun j => !j.obsolete && historyKind j.kind)).reverse).take 65536
  (hs.foldl (fun (a : List JRecord × Nat) j =>
    if a.2 + recordSize j ≤ 32 * 2 ^ 20 then (j :: a.1, a.2 + recordSize j) else (a.1, 32 * 2 ^ 20 + 1)) ([], 0)).1

/-- What a compaction copies: live state, every seal record, the history kept. -/
def copied (js : List JRecord) : List JRecord :=
  js.filter (fun j => !j.obsolete && stateKind j.kind && (j.kind == kindSeal || isNewest js j)) ++ keptHistory js

/-- Append a copy under the next number. -/
def appendCopy (s : State) (j : JRecord) : State :=
  { s with journal := { s.journal with
      records := s.journal.records ++ [{ j with seqNo := s.journal.nextSeq, ckpt := true, single := s.dev.standbyLost, committed := false }]
      nextSeq := s.journal.nextSeq + 1 } }

/-- JOURNAL_COMPACTION: from 1,536 segments on, begin, copies and commit; then what lies below the begin is erased, and
history kinds that were counted are written again, with their count. -/
def execJournalCompaction (s : State) : Out :=
  if s.journal.segments < 1536 then .next s
  else
    let b := s.journal.nextSeq
    let cs := copied s.journal.records
    let s1 := cs.foldl appendCopy (journalAdd kindCheckpoint 0 [] s)
    let s2 := journalAdd kindCommit 0 (bytesOf 8 b ++ leBytes 8 cs.length) s1
    let s3 := { s2 with journal := { s2.journal with
      records := s2.journal.records.filter (fun j => decide (b.toNat ≤ j.seqNo.toNat) || (!j.committed && !j.obsolete))
      commitBegin := b } }
    if s3.journal.throttled then
      .next { (journalAdd kindFault 0 (leBytes 8 s3.journal.withheld) s3) with
        journal := { (journalAdd kindFault 0 (leBytes 8 s3.journal.withheld) s3).journal with throttled := false, withheld := 0 } }
    else .next s3

/-- HISTORY_THROTTLE: with only 16 erased segments left. -/
def execHistoryThrottle (s : State) : Out :=
  if 2048 - 16 ≤ s.journal.segments then .next { s with journal := { s.journal with throttled := true } } else .next s

/-! ## JOURNAL_READ (R348, R486) -/

def readRule (l : Letter) : LetterRule :=
  let raw := letterNum l 12 1
  { role := if raw = 0 then 1 else 2, scope := if raw = 0 then none else some 1, len := 16, train := letterTrainOk l none
    params := decide (1 ≤ letterNum l 8 4) && decide (letterNum l 8 4 ≤ 4096) && decide (raw ≤ 1) && letterZeros l 13 3 }

/-- Records from a sequence number on, in the order of the flash; RAW also returns discarded ones. -/
def readRecords (first count : Nat) (raw : Bool) (s : State) : List Byte :=
  (((s.journal.records.filter (fun j => (raw || !j.obsolete) && decide (first ≤ j.seqNo.toNat))).take count).flatMap recordRaw)

def execJournalRead (l : Letter) (s : State) : Out :=
  .next (receive opJournalRead l (readRule l) (fun k s =>
    finishLetter k stDone [] (bytesLines (readRecords (letterNum l 0 8) (letterNum l 8 4) (letterNum l 12 1 == 1) s)) (progress k s)) s)

end Sys2Proof.Machine
end

