-- ==== Sys2Proof/Machine/Roles.lean ====
section
/-! DEFINITION. Roles, the PRESENCE button, jumper J7, the tamper seal and the takeover by the standby Postmaster (R361, R497 to
R507, R527). -/

namespace Sys2Proof.Machine

/-! ## Closing roles (R501, R507) -/

/-- The audit record of a closure. -/
def auditClosure (maker : Bool) (port : Nat) (reason : Byte) (s : State) : State :=
  journalAdd kindAudit 0 (auditBody 0xFFFF stDone (if maker then 2 else 1) port 0 0 0 s.dev.member reason) s

/-- Close the roles of a port that pass a test. -/
def closeRoles (p : OpenRole → Bool) (port : Nat) (reason : Byte) (s : State) : State :=
  let rs := Tbl.get [] s.dev.roles port
  (rs.filter p).foldl (fun s r => auditClosure r.maker port reason s)
    (s.updDev (fun d => { d with roles := Tbl.set [] d.roles port (rs.filter (fun r => !p r)) }))

/-- An open role of a port. -/
def State.roleOf (s : State) (port : Nat) (maker : Bool) : Option OpenRole :=
  (Tbl.get [] s.dev.roles port).find? (fun r => r.maker == maker)

/-- Open a role on a port. -/
def openRole (port : Nat) (r : OpenRole) (s : State) : State :=
  s.updDev (fun d => { d with roles := Tbl.upd [] d.roles port (fun rs => rs.filter (fun x => x.maker != r.maker) ++ [r]) })

/-! ## ROLE_OPEN and ROLE_CLOSE (R499 to R501, R505, R506) -/

/-- The PRESENCE light flashes while a request waits. -/
def presenceLight (s : State) : State :=
  let v : BitVec 2 := if s.dev.roleWaits = [] then 0 else 1
  (s.updKeeper 0 (fun k => { k with presenceLight := v })).updKeeper 1 (fun k => { k with presenceLight := v })

/-- A ROLE_OPEN waits on a port. -/
def State.waitsOn (s : State) (port : Fin 48) : Bool := s.dev.roleWaits.any (fun w => w.key.port == port)

def roleOpenRule (l : Letter) (s : State) : LetterRule :=
  { len := 4, train := letterTrainOk l none, params := decide (letterNum l 0 1 = 1) && letterZeros l 1 3
    later := [((s.roleOf l.port.val false).isNone && s.waitsOn l.port, 0x0401)] }

/-- The installer role waits for a press, unless it is open already. -/
def execRoleOpenInstaller (l : Letter) (s : State) : Out :=
  .next (receive opRoleOpen l (roleOpenRule l s) (fun k s =>
    if (s.roleOf l.port.val false).isSome then finishLetter k stDone [] [] (progress k s)
    else presenceLight ((progress k s).updDev (fun d => { d with roleWaits := d.roleWaits ++ [⟨k⟩] }))) s)

/-- Body of a maker authorisation: the payload of the first parcel, and its signature in the other eight (R506). -/
def authBody (l : Letter) : List Byte := (payload (l.train.take 1))
def authSign (l : Letter) : List Byte := payload (l.train.drop 1)

/-- KEY_ID of one of the device's two identity keys. -/
def ownIdentity (id : BitVec 256) : Bool := Config.identityKeyId 0 == id || Config.identityKeyId 1 == id

/-- The device accepts the authorisation. -/
def authOk (l : Letter) (s : State) : Bool :=
  let b := authBody l
  leAt b 0 4 == 0x5255414D && leAt b 4 2 == 1 && decide (leAt b 6 2 < 32) && decide (s.dev.authSeq.toNat < leAt b 8 8) &&
  ownIdentity (keyOfBytes (b.drop 16)) && decide (1 ≤ leAt b 48 4) && decide (leAt b 48 4 ≤ 86400) && (b.drop 52).all (· == 0) &&
  Config.verify 1 b (authSign l)

def makerRule (l : Letter) (s : State) : LetterRule :=
  { len := 4, train := letterTrainOk l (some fmtBYTES) && l.train.length == 9, params := decide (letterNum l 0 1 = 2) && letterZeros l 1 3
    early := [(!s.dev.j7 && (s.roleOf l.port.val true).isNone, 0x0206)] }

/-- The accepted AUTH_SEQ is journalled before the letter completes. -/
def takeAuth (l : Letter) (k : LetterKey) (s : State) : State :=
  let b := authBody l
  let s1 := s.updDev (fun d => { d with authSeq := BitVec.ofNat 64 (leAt b 8 8) })
  openRole l.port.val ⟨true, s.dev.time, s.dev.time + BitVec.ofNat 64 (leAt b 48 4 * 1000000), BitVec.ofNat 16 (leAt b 6 2)⟩
    (journalFor k kindKeys 0xFFFFFFFF (bytesOf 8 s1.dev.authSeq) s1)

def execRoleOpenMaker (l : Letter) (s : State) : Out :=
  .next (receive opRoleOpen l (makerRule l s) (fun k s =>
    let s1 := progress k s
    if (s1.roleOf l.port.val true).isSome then finishLetter k stDone [] [] s1
    else if authOk l s1 then finishLetter k stDone [] [] (takeAuth l k s1)
    else finishLetter k 0x0205 [] [] s1) s)

def roleCloseRule (l : Letter) : LetterRule :=
  { len := 4, train := letterTrainOk l none, params := (letterNum l 0 1 == 1 || letterNum l 0 1 == 2) && letterZeros l 1 3 }

def execRoleClose (l : Letter) (s : State) : Out :=
  .next (receive opRoleClose l (roleCloseRule l) (fun k s =>
    finishLetter k stDone [] [] (closeRoles (fun r => r.maker == (letterNum l 0 1 == 2)) l.port.val 1 (progress k s))) s)

/-- PRESENCE_PRESS: one press completes the oldest waiting ROLE_OPEN. -/
def execPresencePress (s : State) : Out :=
  match s.dev.roleWaits with
  | [] => .next s
  | w :: ws =>
    .next (presenceLight (finishLetter w.key stDone [] [] (openRole w.key.port.val ⟨false, s.dev.time, 0, 0⟩
      (s.updDev (fun d => { d with roleWaits := ws })))))

/-- PRESENCE_TIMEOUT: 120 s without a press. -/
def execPresenceTimeout (k : LetterKey) (s : State) : Out :=
  if s.dev.roleWaits.any (fun w => w.key == k) then
    .next (presenceLight (finishLetter k 0x0204 [] [] (s.updDev (fun d => { d with roleWaits := d.roleWaits.filter (fun w => w.key != k) }))))
  else .next s

/-- ROLE_IDLE_TIMEOUT: 3,600 s with no letter that claims the role. -/
def execRoleIdleTimeout (port : Fin 48) (maker : Bool) (s : State) : Out :=
  match s.roleOf port.val maker with
  | none => .next s
  | some r =>
    if 3600000000 ≤ (s.dev.time - r.lastUse).toNat then .next (closeRoles (fun x => x.maker == maker) port.val 2 s) else .next s

/-- MAKER_AUTH_EXPIRY: VALID_S has run out. -/
def execMakerAuthExpiry (port : Fin 48) (s : State) : Out :=
  match s.roleOf port.val true with
  | none => .next s
  | some r => if r.until_.toNat ≤ s.dev.time.toNat then .next (closeRoles (fun x => x.maker) port.val 5 s) else .next s

/-! ## J7 and the seal (R502 to R505) -/

def execJ7Fit (s : State) : Out := .next (s.updDev (fun d => { d with j7 := true }))

/-- J7_REMOVE: every maker role closes. -/
def execJ7Remove (s : State) : Out :=
  .next ((List.range 48).foldl (fun s p => closeRoles (fun r => r.maker) p 4 s) (s.updDev (fun d => { d with j7 := false })))

/-- Body of a seal record (R503). -/
def sealBody (s : State) : List Byte := [s.dev.sealState, 0, 0, 0] ++ bytesOf 4 s.dev.sealBreaks ++ bytesOf 8 s.dev.sealTime

/-- The loop opens: a break is recorded, even when the loop closes again. -/
def breakSeal (s : State) : State :=
  let s1 := s.updDev (fun d => { d with sealState := 2, sealBreaks := d.sealBreaks + 1, sealTime := d.time, loopClosed := false })
  raiseEvent .sealBreak (journalAdd kindSeal 0 (sealBody s1) s1)

def execSealBreak (s : State) : Out := if s.dev.loopClosed then .next (breakSeal s) else .next s

/-- Microseconds an armed reseal has to complete in. -/
def resealUs : Nat := 600000000

/-- RESEAL_COMPLETE: J7 is removed and a new loop has read closed for 1 s, within 600 s of the arming. -/
def execResealComplete (s : State) : Out :=
  if s.dev.resealArmed ∧ !s.dev.j7 ∧ (s.dev.time - s.dev.resealAt).toNat ≤ resealUs then
    let s1 := s.updDev (fun d => { d with sealState := 3, loopClosed := true, resealArmed := false })
    .next (journalAdd kindSeal 0 (sealBody s1) s1)
  else .next s

/-- RESEAL_TIMEOUT: an armed reseal lapses. -/
def execResealTimeout (s : State) : Out :=
  if s.dev.resealArmed ∧ resealUs ≤ (s.dev.time - s.dev.resealAt).toNat then .next (s.updDev (fun d => { d with resealArmed := false })) else .next s

/-! ## Takeover (R361, R501) -/

/-- The standby keeper becomes the active one: it owns every end A of unit 0x00, with the queues and registers as they are. -/
def takeOver (s : State) : State :=
  let a := s.dev.activeKeeper
  if s.dev.standbyLost then s
  else ((s.updDev (fun d => { d with activeKeeper := 1 - a })).updKeeper a.val (fun k => { k with role := 2 })).updKeeper (1 - a).val (fun k => { k with role := 1 })

def execPostmasterTakeover (s : State) : Out := .next (takeOver s)

end Sys2Proof.Machine
end

