-- ==== Sys2Proof/Machine/Links.lean ====
section
/-! DEFINITION. Denor links: frames, control words, port states, cables, link sends and their delivery (R515 to R530, R561, R562). -/

namespace Sys2Proof.Machine

/-! ## The fields of a frame (R517) -/

/-- A frame of 2,570 bytes. -/
abbrev DenorFrame := BitVec 20560

def frameSeq (f : DenorFrame) : BitVec 16 := fieldAt f 0 16
def frameKind (f : DenorFrame) (i : Nat) : BitVec 4 := fieldAt f (16 + 4 * i) 4
def frameSlot (f : DenorFrame) (i : Nat) : BitVec 704 := fieldAt f (8 * (16 + 88 * i)) 704
def frameControl (f : DenorFrame) (i : Nat) : BitVec 64 := fieldAt f (8 * (2392 + 8 * i)) 64

/-! ## Port states (R515, R516, R522 to R524, R527, R561, R562) -/

/-- WIDTH code that the good lanes allow: 8 lanes, then lanes 0–3 or 4–7, then a good pair; 0 for none. -/
def laneWidth (good : Byte) : BitVec 2 :=
  let g := good.toNat
  if g = 255 then 3
  else if g % 16 = 15 ∨ g / 16 = 15 then 2
  else if g % 4 = 3 ∨ g / 4 % 4 = 3 ∨ g / 16 % 4 = 3 ∨ g / 64 = 3 then 1
  else 0

/-- The link chiplet of a port, and the port's number on it. -/
def portChiplet (p : Nat) : Nat := p / 4

/-- A port that carries no traffic any more: its open roles close (R527); only a host port has any. -/
def stopPort (st : PortState) (p : Nat) (s : State) : State :=
  closeRoles (fun _ => true) p 3 (s.updPort p (fun x => { x with st := st, width := 0 }))

/-- Training begins: at the width of the good lanes, or the port is FAILED; the replay buffer is replayed first. -/
def trainPort (p : Nat) (good : Byte) (s : State) : State :=
  if laneWidth good = 0 then stopPort .failed p (s.updPort p (fun x => { x with lanesGood := good }))
  else s.updPort p (fun x => { x with
    st := .training, width := laneWidth good, lanesGood := good, nakSent := none, nakRun := 0, replayFrom := x.replayBuf.head?.map frameSeq })

/-- A retraining is counted, and the port takes firmware that waited for it (R489). -/
def retrainPort (p : Nat) (good : Byte) (s : State) : State :=
  trainPort p good (s.updPort p (fun x => { x with retrains := satAdd x.retrains 1, firmwarePending := false }))

/-- PORT_RETRAIN. -/
def execPortRetrain (port : Fin 48) (lanesGood : Byte) (s : State) : Out :=
  match (s.port port.val).st with
  | .up => .next (retrainPort port.val lanesGood s)
  | .training => .next (retrainPort port.val lanesGood s)
  | .conflict => .next (retrainPort port.val lanesGood s)
  | _ => .next s

/-- PORT_FAIL: not UP within 1 s. -/
def execPortFail (port : Fin 48) (s : State) : Out :=
  if (s.port port.val).st = .training then .next (stopPort .failed port.val s) else .next s

/-- PORT_DOWN. -/
def execPortDown (port : Fin 48) (s : State) : Out := .next (stopPort .down port.val s)

/-- Letters whose held receipts go, each once. -/
def heldIds (p : LinkPort) : List Word := (p.heldReceipts.map Receipt.letterId).dedup

/-- RECEIPT_HOLD_EXPIRY: 10 s without the port; a fault record names each discarded LETTER_ID. -/
def execReceiptHoldExpiry (port : Fin 48) (s : State) : Out :=
  let x := s.port port.val
  if x.st = .up then .next s
  else .next ((heldIds x).foldl (fun s i => journalAdd kindFault (BitVec.ofNat 32 port.val) (bytesOf 4 i) s)
    (s.putPort port.val { x with heldReceipts := [] }))

/-- CABLE_INSERT: a module above 16 W stays unpowered; else training begins, with lane reversal and polarity corrected. -/
def execCableInsert (port : Fin 48) (watts : Byte) (lanesGood : Byte) (reversed : Bool) (polarity : Byte) (s : State) : Out :=
  let x := s.port port.val
  if x.st ≠ .down ∨ (s.chiplet (portChiplet port.val)).retired then .next s
  else if watts.toNat > 16 then .next (s.putPort port.val { x with powered := false })
  else .next (trainPort port.val lanesGood (s.putPort port.val { x with
    powered := true, reversed := reversed, polarity := polarity, rxSeq := 0, txSeq := 0, replayBuf := [], credit := [], acks := [] }))

/-- CABLE_REMOVE. -/
def execCableRemove (port : Fin 48) (s : State) : Out :=
  .next ((stopPort .down port.val s).updPort port.val (fun x => { x with powered := true, lanesGood := 0, reversed := false, polarity := 0 }))

/-! ## Control words (R519 to R524) -/

/-- A control word. -/
def controlWord (typ : Byte) (rest : BitVec 56) : BitVec 64 := typ ++ rest

/-- The port exchanges frames. -/
def LinkPort.live (x : LinkPort) : Bool := x.st == .up || x.st == .training

/-- Frames up to a SEQ leave the replay buffer; one that is not in it frees nothing. -/
def ackBuffer (seq : BitVec 16) (b : List DenorFrame) : List DenorFrame :=
  if b.any (fun f => frameSeq f == seq) then b.drop (b.findIdx (fun f => frameSeq f == seq) + 1) else b

/-- ACK: the frames are acknowledged. -/
def takeAck (p : Nat) (seq : BitVec 16) (s : State) : State :=
  s.updPort p (fun x => { x with replayBuf := ackBuffer seq x.replayBuf })

/-- NAK: replay from the named frame. -/
def takeNak (p : Nat) (seq : BitVec 16) (s : State) : State :=
  s.updPort p (fun x => if x.replayBuf.any (fun f => frameSeq f == seq) then { x with replayFrom := some seq } else x)

/-- CREDIT: slots of a kind that may be sent; a reserved kind is not acted on (R12, R518). -/
def takeCredit (p : Nat) (kind : BitVec 4) (slots : BitVec 16) (s : State) : State :=
  if kind.toNat > 5 then s else s.updPort p (fun x => { x with credit := Tbl.upd 0 x.credit kind.toNat (fun n => n + slots.toNat) })

/-- Another port reports this member index with a different KEY_ID. -/
def State.indexClash (s : State) (p : Nat) (member : BitVec 4) (keyId : BitVec 48) : Bool :=
  s.ports.any (fun e => e.1 != p && (e.2.st == .up || e.2.st == .conflict) && !e.2.host && e.2.peer == member && e.2.keyId != keyId)

/-- The far end breaks a group rule (R524). -/
def State.identBad (s : State) (p : Nat) (member : BitVec 4) (host : Bool) (keyId : BitVec 48) : Bool :=
  if host then s.dev.member != 0 else member == s.dev.member || s.indexClash p member keyId

/-- Receipts that waited for a host port go out (R527). -/
def sendWaiting (p : Nat) (s : State) : State :=
  let rs := (s.port p).heldReceipts
  (s.updPort p (fun x => { x with heldReceipts := [] })).updDev (fun d => { d with receipts := d.receipts ++ rs })

/-- IDENT: the port is UP or in CONFLICT. -/
def takeIdent (p : Nat) (member : BitVec 4) (host : Bool) (keyId : BitVec 48) (s : State) : State :=
  let bad := s.identBad p member host keyId
  let s1 := s.updPort p (fun x => { x with st := if bad then .conflict else .up, host := host, peer := member, keyId := keyId })
  if bad then s1
  else sendWaiting p (if host then s1 else s1.updDev (fun d => { d with members := d.members ||| ((1 : BitVec 16) <<< member.toNat) }))

/-- A control word that arrives on a live port. -/
def onLive (p : Nat) (f : State → State) (s : State) : State := if (s.port p).live then f s else s

def execAck (port : Fin 48) (seq : BitVec 16) (s : State) : Out := .next (onLive port.val (takeAck port.val seq) s)
def execNak (port : Fin 48) (seq : BitVec 16) (s : State) : Out := .next (onLive port.val (takeNak port.val seq) s)
def execCredit (port : Fin 48) (kind : BitVec 4) (slots : BitVec 16) (s : State) : Out :=
  .next (onLive port.val (takeCredit port.val kind slots) s)
def execIdent (port : Fin 48) (member : BitVec 4) (host : Bool) (keyId : BitVec 48) (s : State) : Out :=
  .next (onLive port.val (takeIdent port.val member host keyId) s)

/-- One control word of a frame; a reserved TYPE is ignored and counted. -/
def takeControl (p : Nat) (s : State) (w : BitVec 64) : State :=
  match bitsAt w 56 8 with
  | 0 => s
  | 1 => onLive p (takeAck p (fieldAt w 0 16)) s
  | 2 => onLive p (takeNak p (fieldAt w 0 16)) s
  | 3 => onLive p (takeCredit p (fieldAt w 16 4) (fieldAt w 0 16)) s
  | 4 => onLive p (takeIdent p (fieldAt w 52 4) (bitAt w 51) (fieldAt w 0 48)) s
  | _ => s.updPort p (fun x => { x with ctrlIgnored := satAdd x.ctrlIgnored 1 })

/-! ## Frames (R517 to R520) -/

/-- The LCRC is right. -/
def frameCrcOk (f : DenorFrame) : Bool := (fieldAt f (8 * 2562) 64 : BitVec 64) == crc64 ((bytesOf 2570 f).take 2562)

/-- No slot has a reserved kind. -/
def frameKindsOk (f : DenorFrame) : Bool := (List.range 27).all (fun i => decide ((frameKind f i).toNat ≤ 5))

/-- Send NAK with the SEQ that is missing. -/
def sendNak (p : Nat) (s : State) : State :=
  s.updPort p (fun x => { x with
    naks := satAdd x.naks 1
    nakRun := if x.nakSent = some x.rxSeq then x.nakRun + 1 else 1
    nakSent := some x.rxSeq
    acks := x.acks ++ [controlWord 2 (x.rxSeq.setWidth 56)] })

/-- The slots of a frame that carry something, in order. -/
def frameSlots (f : DenorFrame) : List (BitVec 4 × BitVec 704) :=
  ((List.range 27).map (fun i => (frameKind f i, frameSlot f i))).filter (fun e => e.1 != 0)

/-! ### Receipts on a group link (R336, R359, R518) -/

/-- A receipt read from a receipt stream. -/
def receiptFrom (port : Fin 48) (bs : List Byte) : Receipt :=
  let n := leAt bs 12 4
  ⟨port, BitVec.ofNat 32 (leAt bs 0 4), BitVec.ofNat 16 (leAt bs 4 2), (leAt bs 6 1).testBit 0, BitVec.ofNat 4 (leAt bs 7 1),
   BitVec.ofNat 32 (leAt bs 8 4), BitVec.ofNat 32 (leAt bs 20 4), BitVec.ofNat 16 (leAt bs 24 2), BitVec.ofNat 16 (leAt bs 26 2),
   (bs.drop 32).take n, (chunks 72 (leAt bs 16 4) (bs.drop (32 + n))).map lineOfBytes⟩

/-- Slots of the receipt that begins a receipt stream. -/
def receiptSlots (bs : List Byte) : Nat := (32 + leAt bs 12 4 + 72 * leAt bs 16 4 + 87) / 88

/-- The bridge sends a receipt of a member on by the path of its letter; FINAL ends the letter here too. -/
def returnReceipt (p : Nat) (r : Receipt) (s : State) : State :=
  match s.dev.forwarded.find? (fun f => f.1 == (s.port p).peer && f.2.2.id == r.letterId) with
  | none => s
  | some f =>
    sendReceipt { r with port := f.2.2.port }
      (if r.final then s.updDev (fun d => { d with forwarded := d.forwarded.erase f }) else s)

/-- Whole receipts at the front of a port's receipt stream leave its buffers, whose credit goes back. -/
def takeReceipts : Nat → Nat → State → State
  | 0, _, s => s
  | fuel + 1, p, s =>
    let x := s.port p
    let q := x.delivered.filter (fun e => e.1 == 3)
    let bs := (q.flatMap (fun e => bytesOf 88 e.2))
    let n := receiptSlots bs
    if q = [] ∨ q.length < n then s
    else takeReceipts fuel p (returnReceipt p (receiptFrom 0 bs) (s.putPort p { x with
      delivered := (q.take n).foldl List.erase x.delivered
      acks := x.acks ++ [controlWord 3 (BitVec.ofNat 56 (3 * 65536 + n))] }))

/-- CREDIT for the slots of a kind that went on at once: keeper and migration streams (R518, R521). -/
def streamCredit (f : DenorFrame) (kind : BitVec 4) : List (BitVec 64) :=
  let n := ((frameSlots f).filter (fun e => e.1 == kind)).length
  if n = 0 then [] else [controlWord 3 (BitVec.ofNat 56 (kind.toNat * 65536 + n))]

/-- A frame in order: its control words act, then its slots are delivered where the port is UP, and it is acknowledged; whole
receipts of a member go on, and keeper and migration slots leave for the stacks. -/
def acceptFrame (p : Nat) (f : DenorFrame) (s : State) : State :=
  let s1 := ((List.range 21).map (frameControl f)).foldl (takeControl p) s
  takeReceipts 27 p (s1.updPort p (fun x => { x with
    rxSeq := x.rxSeq + 1, nakSent := none, nakRun := 0
    acks := x.acks ++ [controlWord 1 (x.rxSeq.setWidth 56)] ++ (if x.st = .up then streamCredit f 4 ++ streamCredit f 5 else [])
    delivered := if x.st = .up then x.delivered ++ (frameSlots f).filter (fun e => decide (e.1.toNat ≤ 3)) else x.delivered }))

/-- LINK_FRAME_RX: a bad frame, and every later one until the missing SEQ comes, is discarded. -/
def execLinkFrameRx (port : Fin 48) (frame : BitVec 20560) (fecFailed : Bool) (s : State) : Out :=
  let x := s.port port.val
  if !x.live then .next s
  else if fecFailed || !frameCrcOk frame || !frameKindsOk frame then .next (sendNak port.val s)
  else if frameSeq frame = x.rxSeq then .next (acceptFrame port.val frame s)
  else if (frameSeq frame - x.rxSeq).toNat < 32768 ∧ x.nakSent ≠ some x.rxSeq then .next (sendNak port.val s)
  else .next s

/-! ## Link sends (R528 to R530) -/

/-- A note's fields: peer, QUEUE and DEST. -/
def notePeer (l : Line) : BitVec 4 := fieldAt l 0 4
def noteQueue (l : Line) : Byte := fieldAt l 8 8
def noteDest (l : Line) : TileId := fieldAt l 16 16

/-- A note is U32 with its reserved words 0, and names a landing. -/
def noteOk (l : Line) : Bool :=
  Line.fmt l == fmtU32 && bitsAt l 4 4 == 0 && (Line.words l).tail.all (· == 0) && decide (0x10 ≤ (noteQueue l).toNat) && decide ((noteQueue l).toNat ≤ 0x1F)

/-- UP ports of a chiplet toward a peer, in rising number. -/
def State.peerPorts (s : State) (c : Nat) (peer : BitVec 4) : List (Fin 48) :=
  (List.finRange 48).filter (fun p => p.val / 4 == c && (s.port p.val).st == .up && !(s.port p.val).host && (s.port p.val).peer == peer)

/-- The port a parcel at edge tile k takes: its own, for which it waits while that retrains (R522), or the lowest-numbered UP port toward
the same peer (R528). -/
def State.sendPort (s : State) (c k : Nat) (peer : BitVec 4) : Option (Fin 48) :=
  let own := s.port (4 * c + k / 4)
  if own.st == .training && !own.host && own.peer == peer then none
  else
    let ps := s.peerPorts c peer
    (ps.find? (fun p => p.val == 4 * c + k / 4)).orElse (fun _ => ps.head?)

/-- The adapter holds the parcel and raises the rim destination fault at its edge tile, for the parcel's wave (R140, R530). -/
def holdAtEdge (t : TileId) (f : Flit) (s : State) : State :=
  takeNetFault t (.net 5 (portCode (match primaryPort t with | some p => edgePort p.1 | none => .loc)) (envDest f.env) unitPost) f s

/-- The parcel leaves the adapter's input. -/
def leaveRim (c : Nat) (f : Flit) (s : State) : State := s.updChiplet c (fun x => { x with rimIn := x.rimIn.erase f })

/-- The parcel waits in the adapter's input. -/
def stayRim (c : Nat) (f : Flit) (s : State) : State :=
  s.updChiplet c (fun x => { x with rimIn := if x.rimIn.contains f then x.rimIn else x.rimIn ++ [f] })

/-- A parcel under an open note crosses with the note's DEST and QUEUE; LAST closes the note. -/
def sendUnder (c k : Nat) (n : TileId × BitVec 4 × Byte × TileId) (f : Flit) (s : State) : State :=
  match s.sendPort c k n.2.1 with
  | none => stayRim c f s
  | some p =>
    (leaveRim c f s).updChiplet c (fun x => { x with
      outbound := x.outbound ++ [(p, { f with env := setQueue (setDest f.env n.2.2.2) n.2.2.1 })]
      notes := if envLast f.env then x.notes.erase n else x.notes })

/-- LINK_NOTE: a parcel that comes to the adapter at its edge tile k: one under its SOURCE's open note is sent; any other is
a note, which opens one, waits, or is held with a fault. -/
def execLinkNote (c : Fin 12) (k : Fin 16) (env : Env) (l : Line) (s : State) : Out :=
  let f : Flit := ⟨env, l⟩
  let t := (chipletTiles c.val).getD k.val 0
  let x := s.chiplet c.val
  if envKind env ≠ 0 then .next (holdAtEdge t f (stayRim c.val f s))
  else match x.notes.find? (fun n => n.1 == envSource env) with
    | some n => .next (sendUnder c.val k.val n f s)
    | none =>
      if !noteOk l || s.peerPorts c.val (notePeer l) == [] then .next (holdAtEdge t f (stayRim c.val f s))
      else if x.notes.length ≥ 1024 then .next (stayRim c.val f s)
      else .next ((leaveRim c.val f s).updChiplet c.val (fun x => { x with notes := x.notes ++ [(envSource env, notePeer l, noteQueue l, noteDest l)] }))

/-- The slot of a placement flit (R518). -/
def flitSlot (env : Env) (l : Line) : BitVec 704 := l ++ env

/-- The edge tile through which a parcel that came over a port enters (R530). -/
def deliveryTile (p : Nat) (env : Env) : TileId := (chipletTiles (portChiplet p)).getD (4 * (p % 4) + (envSource env).toNat % 4) 0

/-- The slot's buffer is free again: its credit goes back (R521). -/
def freeSlot (p : Nat) (e : BitVec 4 × BitVec 704) (s : State) : State :=
  s.updPort p (fun x => if x.delivered.contains e then
    { x with delivered := x.delivered.erase e, acks := x.acks ++ [controlWord 3 ((e.1 ++ (1 : BitVec 16)).setWidth 56)] } else x)

/-- LINK_PARCEL_DELIVERY: it enters as a parcel from the rim does, when an input buffer is free. -/
def execLinkParcelDelivery (port : Fin 48) (env : Env) (l : Line) (s : State) : Out :=
  let t := deliveryTile port.val env
  match primaryPort t with
  | none => .next s
  | some (e, _) =>
    match enterRim t (edgePort e) ⟨env, l⟩ s with
    | none => .next (awaitRim t s)
    | some s' => .next (freeSlot port.val (1, flitSlot env l) s')

end Sys2Proof.Machine
end

