-- ==== Sys2Proof/Machine/Maintenance.lean ====
section
/-! DEFINITION. Maintenance-class letters: RETIRE, RECALIBRATE and DIAG (R348, R354, R413, R420, R438, R460, R463, R464, R489,
R492, R493, R504, R506). -/

namespace Sys2Proof.Machine

/-! ## RETIRE (R348, R493) -/

def unitIndex (l : Letter) : Nat := letterNum l 2 2

/-- The rule of a RETIRE whose UNIT byte is `u` and whose INDEX is below `n`; SEGMENT is 0 but for a segment. -/
def retireRule (l : Letter) (u n : Nat) (later : List (Bool × BitVec 16)) : LetterRule :=
  { role := 1, len := 4, train := letterTrainOk l none
    params := decide (letterNum l 0 1 = u) && decide (letterNum l 1 1 < if u = 2 then 8 else 1) && decide (unitIndex l < n), later := later }

def execRetireTile (l : Letter) (s : State) : Out :=
  .next (receive opRetire l (retireRule l 1 65536 []) (fun k s =>
    finishLetter k stDone [] [] (retireTile (BitVec.ofNat 16 (unitIndex l)) (progress k s))) s)

/-- Retire one segment of a block, as a failed one (R413). -/
def retireSegmentOf (b seg : Nat) (s : State) : State :=
  let m := (s.block b).segFailed ||| ((1 : Byte) <<< seg)
  if m = (s.block b).segFailed then s
  else failSegments b m (journalAdd kindRetirement (retireKey 2 b) (segmentBody m) s)

def execRetireSegment (l : Letter) (s : State) : Out :=
  .next (receive opRetire l (retireRule l 2 1024 []) (fun k s =>
    finishLetter k stDone [] [] (retireSegmentOf (unitIndex l) (letterNum l 1 1) (progress k s))) s)

/-- Retire a field; one that is lost already is retired too. -/
def retireFieldNow (f : Nat) (s : State) : State :=
  let x := s.field f
  if x.lost then (if x.retired then s else retireLost f s) else fieldLoss f (loseField f true s)

def execRetireField (l : Letter) (s : State) : Out :=
  .next (receive opRetire l (retireRule l 3 64 [exclusiveCheck s]) (fun k s =>
    finishLetter k stDone [] [] (retireFieldNow (unitIndex l) (progress k (takeExclusive k s)))) s)

/-- Retire a stack (R464): the letter ends once its content is copied, or with 0x0308 when the rest does not fit. -/
def retireStackFor (n : Nat) (k : LetterKey) (s : State) : State :=
  if (s.stk n).st ≠ 2 then finishLetter k stDone [] [] s
  else match retireStackNow n s with
    | none => finishLetter k 0x0308 [] [] s
    | some s1 => proceed (journalFor k kindRetirement (retireKey 4 n) (stackBody n) s1)

def execRetireStack (l : Letter) (s : State) : Out :=
  .next (receive opRetire l (retireRule l 4 24 [exclusiveCheck s]) (fun k s =>
    retireStackFor (unitIndex l) k (progress k (takeExclusive k s))) s)

/-- The ports of a chiplet carry the only path to the host. -/
def State.onlyHostPath (s : State) (c : Nat) : Bool :=
  let hs := s.ports.filter (fun e => e.2.st == .up && e.2.host)
  hs != [] && hs.all (fun e => e.1 / 4 == c)

/-- Body of a chiplet's retirement record. -/
def chipletBody (c : Nat) : List Byte := [5, BitVec.ofNat 8 c]

/-- Retire a link chiplet: journalled first, then its four ports stop, and the distance table is republished. -/
def retireChipletNow (c : Nat) (s : State) : State :=
  let s1 := (journalAdd kindRetirement (retireKey 5 c) (chipletBody c) s).updChiplet c (fun x => { x with retired := true })
  republish ((List.range 4).foldl (fun s q => stopPort .down (4 * c + q) s) s1)

def execRetireChiplet (l : Letter) (s : State) : Out :=
  .next (receive opRetire l (retireRule l 5 12 [(s.onlyHostPath (unitIndex l), 0x0107)]) (fun k s =>
    finishLetter k stDone [] [] (retireChipletNow (unitIndex l) (progress k s))) s)

/-! ## RECALIBRATE (R348, R420, R489, R492) -/

/-- The next measured value. -/
def measure (s : State) : Word × State :=
  (Config.measured s.dev.measures, s.updDev (fun d => { d with measures := d.measures + 1 }))

def overridden (l : Letter) : Bool := letterNum l 1 1 == 1

/-- The rule of a RECALIBRATE of target `g` whose INDEX passes a test. -/
def recalRule (l : Letter) (g : Nat) (ok : Bool) (later : List (Bool × BitVec 16)) : LetterRule :=
  { role := if overridden l then 2 else 1, scope := if overridden l then some 0 else none, len := 4
    train := letterTrainOk l (if overridden l then some fmtBYTES else none)
    params := decide (letterNum l 0 1 = g) && decide (letterNum l 1 1 ≤ 1) && ok, later := later }

/-- INDEX names one of `n` units, or all. -/
def indexOk (l : Letter) (n : Nat) : Bool := decide (unitIndex l < n) || unitIndex l == 0xFFFF

/-- The units that INDEX names. -/
def indexUnits (l : Letter) (n : Nat) : List Nat := if unitIndex l = 0xFFFF then List.range n else [unitIndex l]

/-- Calibration records for a letter: the override's values, in pieces that a record holds, or a measured value. -/
def journalCalibration (l : Letter) (k : LetterKey) (s : State) : State :=
  let key := BitVec.ofNat 32 (65536 * letterNum l 0 1 + unitIndex l)
  if overridden l then
    (chunks 4032 (l.train.length + 1) (payload l.train)).foldl (fun s c => journalFor k kindCalibration key c s) s
  else
    let m := measure s
    journalFor k kindCalibration key (bytesOf 4 m.1) m.2

/-- A block's retired sensors are tested: bit 0 of a measurement passes the diode, bit 1 the ring. -/
def restoreSensors (b : Nat) (s : State) : State :=
  let x := s.block b
  if !x.diodeRetired && !x.ringRetired then s
  else
    let m := measure s
    let y : Block := { x with diodeRetired := x.diodeRetired && !bitAt m.1 0, ringRetired := x.ringRetired && !bitAt m.1 1 }
    let free := x.capped && !(y.diodeRetired && y.ringRetired)
    let z : Block := if free then { y with capped := false, skip := y.tied } else y
    journalSensors b x z (m.2.putBlock b z)

/-- The coolant sensors are checked; they pass by bit 0 of a measurement. -/
def checkCoolant (s : State) : State :=
  let m := measure s
  let c := m.2.coolant
  if bitAt m.1 0 then { m.2 with coolant := { c with sensorFailed := false } } else m.2

/-- Recalibrate the sensors of fields. -/
def recalSensors (l : Letter) (s : State) : State :=
  if overridden l then s
  else (indexUnits l 64).foldl (fun s f => (List.range 16).foldl (fun s i => restoreSensors (16 * f + i) s) s) (checkCoolant s)

def execRecalibrateSensors (l : Letter) (s : State) : Out :=
  .next (receive opRecalibrate l (recalRule l 1 (indexOk l 64) []) (fun k s =>
    finishLetter k stDone [] [] (journalCalibration l k (recalSensors l (progress k s)))) s)

def execRecalibrateRegulators (l : Letter) (s : State) : Out :=
  .next (receive opRecalibrate l (recalRule l 2 (indexOk l 1024) []) (fun k s =>
    finishLetter k stDone [] [] (journalCalibration l k (progress k s))) s)

/-- Ports that are linked retrain, at the lanes they have. -/
def recalLinks (l : Letter) (s : State) : State :=
  (indexUnits l 48).foldl (fun s p =>
    if (s.port p).st = .down ∨ (s.chiplet (portChiplet p)).retired then s else retrainPort p (s.port p).lanesGood s) s

def execRecalibrateLinks (l : Letter) (s : State) : Out :=
  .next (receive opRecalibrate l (recalRule l 3 (indexOk l 48) []) (fun k s =>
    finishLetter k stDone [] [] (recalLinks l (journalCalibration l k (progress k s)))) s)

/-- Field of a breaker retry. -/
def retryField (l : Letter) : Nat := unitIndex l - 0x8000

/-- The breaker of a field cannot be retried: it stands closed, or its one retry is spent. -/
def retrySpent (f : Nat) (s : State) : Bool :=
  let x := s.field f
  !x.breaker || x.retryUsed || x.railRetired

/-- The breaker closes, and the field is to run its self-test; the loss by the first trip no longer retires it. -/
def retryBreaker (f : Nat) (s : State) : State :=
  s.updField f (fun x => { x with breaker := false, retryUsed := true, railOn := true, selfTested := false, retired := false })

def execBreakerRetry (l : Letter) (s : State) : Out :=
  let ok := decide (0x8000 ≤ unitIndex l) && decide (unitIndex l < 0x8040) && !overridden l
  .next (receive opRecalibrate l (recalRule l 2 ok [(retrySpent (retryField l) s, 0x0107)]) (fun k s =>
    finishLetter k stDone [] [] (retryBreaker (retryField l) (journalFor k kindPower (BitVec.ofNat 32 (retryField l)) [4] (progress k s)))) s)

/-! ## DIAG (R348, R493, R504, R506) -/

/-- The rule of a DIAG with its OP byte and SCOPE bit. -/
def diagRule (l : Letter) (op scope : Nat) (params train : Bool) : LetterRule :=
  { role := 2, scope := some scope, len := 4, train := letterTrainOk l (some fmtBYTES) && train
    params := decide (letterNum l 0 1 = op) && letterZeros l 1 1 && params }

/-- DIAG OP 0x01: the report is the unit's own. -/
def execDiagSelfTest (l : Letter) (s : State) : Out :=
  .next (receive opDiag l (diagRule l 1 2 true true) (fun k s =>
    let m := measure (progress k s)
    finishLetter k stDone [] (bytesLines (bytesOf 4 m.1)) m.2) s)

/-- The spare map that a train holds. -/
def editMap (l : Letter) : Tbl (BitVec 4) := mapOfBytes (payload l.train)

/-- Every code of a map is legal (R19). -/
def mapLegal (m : Tbl (BitVec 4)) : Bool := m.all (fun e => decide (e.2.toNat ≤ 8) || e.2 == 0xF)

/-- A field takes a new spare map: it is journalled, the tiles that change their site move, the table is republished. -/
def editSpares (f : Nat) (m : Tbl (BitVec 4)) (s : State) : State :=
  let old := (s.field f).spareMap
  let moved := (fieldTiles f).filter (fun t => physColumn t (spareCode old (spareIndex t)) != physColumn t (spareCode m (spareIndex t)))
  let s1 := journalMap f (s.updField f (fun x => { x with spareMap := m }))
  republish (moved.foldl (fun s t =>
    s.updTile t (movedIn (s.block (tileBlock t)).pstate s.dev.placement (s.usedTiles.contains t) t s.dev.time)) s1)

/-- DIAG OP 0x02. -/
def execDiagSpareMapEdit (l : Letter) (s : State) : Out :=
  .next (receive opDiag l (diagRule l 2 3 (decide (unitIndex l < 64) && mapLegal (editMap l)) (l.train.length == 1)) (fun k s =>
    finishLetter k stDone [] [] (editSpares (unitIndex l) (editMap l) (progress k s))) s)

/-- DIAG OP 0x03. -/
def execDiagReseal (l : Letter) (s : State) : Out :=
  .next (receive opDiag l (diagRule l 3 4 (letterZeros l 2 2) (l.train == [])) (fun k s =>
    finishLetter k stDone [] [] ((progress k s).updDev (fun d => { d with resealArmed := true, resealAt := d.time }))) s)

end Sys2Proof.Machine
end

