-- ==== Sys2Proof/Machine/Security.lean ====
section
/-! DEFINITION. Security-class letters: ATTEST, KEY_ENROL and TENANT_KEYS (R326, R327, R348, R482, R505, R508 to R513). -/

namespace Sys2Proof.Machine

/-! ## ATTEST (R513) -/

/-- Instances of a firmware agent: keepers, field controllers, blocks, link chiplets, power controllers. -/
def agentCount : Nat → Nat
  | 1 => 2
  | 2 => 64
  | 3 => 1024
  | 4 => 12
  | _ => 2

/-- Firmware of an agent class, 1 to 5 (R348). -/
def State.agent (s : State) (a : Nat) : FwAgent := Tbl.get {} s.fw a
def State.updAgent (s : State) (a : Nat) (f : FwAgent → FwAgent) : State := { s with fw := Tbl.set {} s.fw a (f (s.agent a)) }

/-- Instances that run slot B. -/
def onSlotB (a : Nat) (x : FwAgent) : Nat := ((List.range (agentCount a)).filter (fun i => Tbl.get false x.active i)).length

/-- The instances of an agent run different slots. -/
def mixedSlots (a : Nat) (x : FwAgent) : Bool := onSlotB a x != 0 && onSlotB a x != agentCount a

/-- Digest of the slot that most instances run. -/
def agentDigest (a : Nat) (x : FwAgent) : BitVec 512 := if agentCount a < 2 * onSlotB a x then x.digestB else x.digestA

/-- A role is open on some port. -/
def State.anyRole (s : State) (maker : Bool) : Bool := s.dev.roles.any (fun e => e.2.any (fun r => r.maker == maker))

/-- FLAGS of the report. -/
def attestFlags (s : State) : Nat :=
  (s.dev.sealState != 1).toNat + 2 * s.dev.j7.toNat + 4 * (s.anyRole true).toNat + 8 * (s.anyRole false).toNat +
  16 * (s.dev.profile == 2).toNat + 32 * s.dev.standbyLost.toNat + 64 * ([1, 2, 3, 4, 5].any (fun a => mixedSlots a (s.agent a))).toNat

/-- Bodies of the current records of a kind, in KEY order. -/
def currentBodies (js : List JRecord) (kind : BitVec 16) : List Byte :=
  ((js.filter (fun (j : JRecord) => !j.obsolete && j.kind == kind)).foldl (fun (m : Tbl (Option (List Byte))) j =>
    Tbl.set none m j.key.toNat (some (paddedBytes j.body))) []).flatMap (fun e => e.2.getD [])

/-- What CONFIG measures. -/
def configMeasure (s : State) : List Byte :=
  [kindConfig, kindSpareMap, kindRetirement, kindKeys, kindSeal].flatMap (currentBodies s.journal.records)

/-- The digest of an image in force, or 0. -/
def State.digestOf (s : State) (id : BitVec 64) : BitVec 512 := match s.image id with | some g => g.digest | none => 0

/-- Bytes 0 to 575 of the report. -/
def attestBody (nonce : List Byte) (s : State) : List Byte :=
  let ids : BitVec 64 × BitVec 64 := match s.dev.placement with | some p => (p.imageId, p.weightsId) | none => (0, 0)
  let digests : BitVec 512 × BitVec 512 := match s.dev.placement with | some p => (s.digestOf p.imageId, s.digestOf p.weightsId) | none => (0, 0)
  leBytes 4 0x54545441 ++ leBytes 2 1 ++ [BitVec.ofNat 8 s.dev.activeKeeper.val, BitVec.ofNat 8 (attestFlags s)] ++ nonce ++
  bytesOf 8 s.dev.time ++ bytesOf 8 ids.1 ++ bytesOf 8 ids.2 ++ bytesOf 64 digests.1 ++ bytesOf 64 digests.2 ++
  [1, 2, 3, 4, 5].flatMap (fun a => bytesOf 64 (agentDigest a (s.agent a))) ++ bytesOf 64 (Config.sha512 (configMeasure s))

/-- The report: its body and 512 bytes of signature. -/
def attestReport (nonce : List Byte) (s : State) : List Byte :=
  let b := attestBody nonce s
  b ++ recordFill 512 (Config.sign s.dev.activeKeeper.val b)
where
  /-- Exactly `n` bytes of a byte string. -/
  recordFill (n : Nat) (bs : List Byte) : List Byte := (bs ++ List.replicate n 0).take n

def attestRule (l : Letter) : LetterRule := { len := 32, train := letterTrainOk l none }

def execAttest (l : Letter) (s : State) : Out :=
  .next (receive opAttest l (attestRule l) (fun k s =>
    finishLetter k stDone (attestReport l.params s) (bytesLines (Config.certificate s.dev.activeKeeper.val)) (progress k s)) s)

/-! ## The train of KEY_ENROL and TENANT_KEYS (R505, R511) -/

/-- J7 is fitted with no maker role open. -/
def keysBarred (s : State) : Bool := s.dev.j7 && !s.anyRole true

def keyHead (l : Letter) : List Byte := payload (l.train.take 1)
def keyBlock (l : Letter) : List Byte := payload ((l.train.drop 1).take 8)
def keySlot (l : Letter) : Nat := leAt (keyHead l) 5 1
def keyTransport (l : Letter) : BitVec 256 := keyOfBytes ((keyHead l).drop 8)
def keyLength (l : Letter) : Nat := leAt (keyHead l) 40 4

/-- MAGIC and KIND of the header are right. -/
def keyHeadOk (l : Letter) (kind : Nat) : Bool := leAt (keyHead l) 0 4 == 0x4E45594B && leAt (keyHead l) 4 1 == kind

/-- The OAEP block opened under an identity key of a running keeper. -/
def openBlock (l : Letter) (s : State) : Option (List Byte) :=
  if s.holdsKey 1 (keyTransport l) then Config.oaepOpen (keyTransport l) (keyBlock l) else none

/-- Ciphertext and tag of a wrapped private key. -/
def derCipher (l : Letter) : List Byte := (payload (l.train.drop 9)).take (keyLength l)
def derTag (l : Letter) : BitVec 128 := BitVec.ofNat 128 (leAt (payload (l.train.drop 9)) (keyLength l) 16)

/-- The private key that a train wraps, as DER; none when the block or the tag fails. -/
def unwrapDer (l : Letter) (s : State) : Option (List Byte) :=
  match openBlock l s with
  | none => none
  | some b =>
    if b.length ≠ 32 then none
    else
      let p := Config.gcmOpen (keyOfBytes b) 0 (keyHead l) (derCipher l) (derTag l)
      if p.2 then some p.1 else none

/-! ## KEY_ENROL (R508, R511) -/

/-- The rule of a KEY_ENROL of a kind; `n` parcels. -/
def enrolRule (l : Letter) (kind n : Nat) (ok : Bool) (later : List (Bool × BitVec 16)) (s : State) : LetterRule :=
  { role := 1, len := 4, train := letterTrainOk l (some fmtBYTES) && l.train.length == n
    params := decide (letterNum l 0 1 = kind) && letterZeros l 1 3, early := [(keysBarred s, 0x0206)]
    later := (!(keyHeadOk l kind && ok), 0x0104) :: later }

def slotTaken (l : Letter) (s : State) : Bool := (Tbl.get none s.dev.wrapKeys (keySlot l)).isSome

/-- A wrapping key: its slot is free, and the block opens. -/
def execKeyEnrolWrappingKey (l : Letter) (s : State) : Out :=
  let ok := decide (1 ≤ keySlot l) && decide (keySlot l ≤ 4)
  .next (receive opKeyEnrol l (enrolRule l 1 (9 + (keyLength l + 16 + 63) / 64) ok [(slotTaken l s, 0x0301)] s) (fun k s =>
    let s1 := progress k s
    match unwrapDer l s1 with
    | none => finishLetter k 0x0205 [] [] s1
    | some der =>
      let id := Config.keyIdOf der
      finishLetter k stDone [] [] (journalFor k kindKeys (BitVec.ofNat 32 (65536 + keySlot l)) (bytesOf 32 id)
        (s1.updDev (fun d => { d with wrapKeys := Tbl.set none d.wrapKeys (keySlot l) (some id) })))) s)

def enrolImage (l : Letter) : BitVec 64 := BitVec.ofNat 64 (leAt (payload (l.train.drop 1)) 0 8)

/-- The list after an add or a remove. -/
def newAuthList (l : Letter) (ids : List (BitVec 64)) : List (BitVec 64) :=
  if keySlot l = 2 then ids.filter (· != enrolImage l) else if ids.contains (enrolImage l) then ids else ids ++ [enrolImage l]

/-- An authorised-image entry; the list holds 256. -/
def execKeyEnrolImageId (l : Letter) (s : State) : Out :=
  let ok := keySlot l == 1 || keySlot l == 2
  .next (receive opKeyEnrol l (enrolRule l 2 2 ok [(decide (256 < (newAuthList l s.dev.authImages).length), 0x0301)] s) (fun k s =>
    let ids := newAuthList l s.dev.authImages
    finishLetter k stDone [] [] (journalFor k kindKeys 0xFFFFFFFE (ids.flatMap (bytesOf 8))
      ((progress k s).updDev (fun d => { d with authImages := ids })))) s)

/-! ## TENANT_KEYS (R326, R327, R512) -/

def keysTenant (l : Letter) : Nat := letterNum l 0 2
def State.tenantKey (s : State) (t : Nat) : TenantKey := Tbl.get {} s.dev.tenantKeys t

/-- The rule of a TENANT_KEYS of an operation; enrol and rotate carry a header and a block. -/
def tenantRule (l : Letter) (op : Nat) (later : List (Bool × BitVec 16)) (s : State) : LetterRule :=
  let carries := op != 3
  { role := 1, len := 4
    train := if carries then letterTrainOk l (some fmtBYTES) && l.train.length == 9 else letterTrainOk l none
    params := decide (letterNum l 2 1 = op) && letterZeros l 3 1 && decide (1 ≤ keysTenant l) && decide (keysTenant l ≤ 4095)
    early := [(keysBarred s, 0x0206)], later := (carries && !keyHeadOk l 3, 0x0104) :: later }

/-- The tenant key that a train wraps: 32 bytes, then the tenant's ID. -/
def unwrapTenant (l : Letter) (s : State) : Option (BitVec 256) :=
  match openBlock l s with
  | none => none
  | some b => if b.length = 34 ∧ leAt b 32 2 = keysTenant l ∧ leAt b 32 2 = (letterTenant l).toNat then some (keyOfBytes b) else none

/-- Body of a tenant-key record: its current and older generation. -/
def tenantBody (x : TenantKey) : List Byte := leBytes 1 x.gen ++ leBytes 1 (match x.older with | some o => o.1 | none => 0)

/-- A changed tenant key: journalled, and its generation is the result. -/
def putTenantKey (l : Letter) (k : LetterKey) (x : TenantKey) (s : State) : State :=
  finishLetter k stDone (leBytes 1 x.gen) [] (journalFor k kindKeys (BitVec.ofNat 32 (keysTenant l)) (tenantBody x)
    (s.updDev (fun d => { d with tenantKeys := Tbl.set {} d.tenantKeys (keysTenant l) x })))

/-- A fresh SALT. -/
def drawSalt (s : State) : Word × State := (Config.salt s.dev.salts, s.updDev (fun d => { d with salts := d.salts + 1 }))

def execTenantKeysEnrol (l : Letter) (s : State) : Out :=
  .next (receive opTenantKeys l (tenantRule l 1 [((s.tenantKey (keysTenant l)).gen != 0, 0x0107)] s) (fun k s =>
    let s1 := progress k s
    match unwrapTenant l s1 with
    | none => finishLetter k 0x0205 [] [] s1
    | some key =>
      let d := drawSalt s1
      putTenantKey l k { gen := 1, key := key, salt := d.1 } d.2) s)

/-- Generation after `g`: 255 is followed by 1. -/
def nextGen (g : Nat) : Nat := if g = 255 then 1 else g + 1

def execTenantKeysRotate (l : Letter) (s : State) : Out :=
  let x := s.tenantKey (keysTenant l)
  .next (receive opTenantKeys l (tenantRule l 2 [(x.gen == 0, 0x0107), (x.older.isSome, 0x0401)] s) (fun k s =>
    let s1 := progress k s
    let y := s1.tenantKey (keysTenant l)
    match unwrapTenant l s1 with
    | none => finishLetter k 0x0205 [] [] s1
    | some key =>
      let d := drawSalt s1
      putTenantKey l k { gen := nextGen y.gen, key := key, salt := d.1, older := some (y.gen, y.key, y.salt) } d.2) s)

/-- The tenant has an open session, and so perhaps records. -/
def State.tenantOpen (s : State) (t : Nat) : Bool := s.dev.sessions.any (fun e => e.2.state != .free && e.2.tenant.toNat == t)

def execTenantKeysRevoke (l : Letter) (s : State) : Out :=
  .next (receive opTenantKeys l (tenantRule l 3 [(s.tenantOpen (keysTenant l), 0x0107)] s) (fun k s =>
    putTenantKey l k {} (progress k s)) s)

end Sys2Proof.Machine
end

