-- ==== Sys2Proof/Machine/BringUp.lean ====
section
/-! DEFINITION. Bring-up: power-on, the coolant wait, rails, rings and the fields' self-tests, serving, and the warm restart
(R19, R23, R420, R442, R471 to R479, R494, R502, R523). -/

namespace Sys2Proof.Machine

/-! ## Standby (R473, R479, R494, R502, R523) -/

/-- Both keepers' status lights. -/
def statusLights (v : BitVec 4) (s : State) : State :=
  (s.updKeeper 0 (fun k => { k with statusLight := v })).updKeeper 1 (fun k => { k with statusLight := v })

/-- Roles of the keepers by which of them boot: A is active where it boots. -/
def bootKeepers (a b : Bool) (s : State) : State :=
  let ra : BitVec 2 := if a then 1 else 0
  let rb : BitVec 2 := if b then (if a then 2 else 1) else 0
  ((s.updKeeper 0 (fun _ => { role := ra })).updKeeper 1 (fun _ => { role := rb })).updDev (fun d => { d with
    activeKeeper := if a || !b then 0 else 1, standbyLost := !(a && b) })

/-- The loop as the keepers find it: an open one whose break is not recorded yet counts as a break (R502). -/
def senseLoop (closed : Bool) (s : State) : State :=
  if closed then s.updDev (fun d => { d with loopClosed := true })
  else if s.dev.loopClosed || s.dev.sealState != 2 then breakSeal s else s

/-- POWER_ON, step 1: everything but the keepers' flash and the power board is as without power; a device whose other rails
stand is on already. -/
def execPowerOn (straps : BitVec 4) (keeperAGood keeperBGood loopClosed : Bool) (s : State) : Out :=
  if s.power.otherRailsOn then .next s
  else
    let s1 := { railsOff s with
      mailboxes := [], mgmt := {}, coolant := {}
      power := { s.power with precharge := true, active := some 0, twinOk := true, watts := 0 }
      journal := { s.journal with mounted := false }
      bring := { step := if keeperAGood || keeperBGood then 1 else 0, keepersUp := keeperAGood || keeperBGood } }
    let s2 := bootKeepers keeperAGood keeperBGood (s1.updDev (fun d => { d with member := straps, keeperLagAlarm := false }))
    if keeperAGood || keeperBGood then .next (senseLoop loopClosed s2) else .next (statusLights 3 s2)

/-- COOLANT_VERIFIED, step 3: flow and inlet within their conditions. -/
def execCoolantVerified (s : State) : Out :=
  if s.bring.step = 2 ∧ s.coolant.flow ≥ 3200 ∧ s.coolant.inletGood then .next { s with bring := { s.bring with step := 3 } } else .next s

/-- RIM_BRING_UP, step 4: the rails of the memory wafer, the stacks and the links. -/
def execRimBringUp (s : State) : Out :=
  if s.bring.step = 3 ∧ s.power.mainClosed then
    .next ((List.range 24).foldl (fun s n => s.updStk n (fun x => if x.st = 4 then x else { x with st := 2 }))
      { s with bring := { s.bring with step := 4 }, power := { s.power with otherRailsOn := true } })
  else .next s

/-! ## Rings and fields (R19, R23, R471, R477, R478) -/

/-- Ring of a field. -/
def fieldRing (f : Nat) : Nat := min (min (f % 8) (f / 8)) (min (7 - f % 8) (7 - f / 8))

/-- Fields of a ring, in rising index. -/
def ringFields (r : Nat) : List Nat := (List.range 64).filter (fun f => fieldRing f == r)

/-- Every field of a ring has finished its self-test or is retired. -/
def State.ringDone (s : State) (r : Nat) : Bool := (ringFields r).all (fun f => (s.field f).selfTested || (s.field f).retired)

/-- The steps 5 to 8 that the rings started so far complete. -/
def advanceRings (s : State) : State :=
  let n := ((List.range s.bring.ringsStarted).takeWhile (fun r => s.ringDone r)).length
  if 4 ≤ s.bring.step ∧ s.bring.step ≤ 8 then { s with bring := { s.bring with step := max s.bring.step (4 + n) } } else s

/-- A field's rail comes on and its clock starts at its target; its blocks are ACTIVE, and its tiles run their self-test programs
until FIELD_SELF_TEST ends them (R247, R269, R477). -/
def startField (f : Nat) (s : State) : State :=
  if (s.field f).retired then s
  else
    let s1 := s.updField f (fun x =>
      let c := clockLimit x
      { x with railOn := true, genRunning := true, mhz := BitVec.ofNat 11 c.1, limit := c.2, settingMv := BitVec.ofNat 10 (operatingMv c.1) })
    let s2 := (List.range 16).foldl (fun s i => s.updBlock (16 * f + i) (fun b => { b with pstate := .active, activeSince := s.dev.time })) s1
    updTiles (fieldTiles f) (fun t => { t with lastFirefly := s.dev.time, test := true }) s2

/-- RING_START: the next ring, once the ring outside it is done. -/
def execRingStart (ring : Fin 4) (s : State) : Out :=
  if 4 ≤ s.bring.step ∧ s.bring.ringsStarted = ring.val ∧ (ring.val = 0 ∨ s.ringDone (ring.val - 1)) then
    .next (advanceRings ((ringFields ring.val).foldl (fun s f => startField f s)
      { s with bring := { s.bring with ringsStarted := ring.val + 1 } }))
  else .next s

/-- A spare map holds a reserved code (R19, R23). -/
def mapReserved (m : Tbl (BitVec 4)) : Bool := m.any (fun e => decide (9 ≤ e.2.toNat) && decide (e.2.toNat ≤ 14))

/-- Failed offsets of a row group: those of the test, and on a warm start the one its journalled code names. -/
def groupFails (warm : Bool) (m : Tbl (BitVec 4)) (failed : List SiteFail) (k : Nat) : List Nat :=
  let new := ((failed.filter (fun e => 4 * e.row.val + e.group.val == k)).map (fun e => e.offset.val))
  let old := if warm && (spareCode m k) != 0xF then [(spareCode m k).toNat] else []
  (old ++ new).dedup

/-- The map that a self-test builds; none when a row group has two failed sites. -/
def buildMap (warm : Bool) (m : Tbl (BitVec 4)) (failed : List SiteFail) : Option (Tbl (BitVec 4)) :=
  let gs := (List.range 128).map (fun k => (k, groupFails warm m failed k))
  if gs.any (fun e => decide (2 ≤ e.2.length)) then none
  else some (gs.foldl (fun t e => match e.2 with
    | [o] => Tbl.set (0xF : BitVec 4) t e.1 (BitVec.ofNat 4 o)
    | _ => t) [])

/-- Once the distance table stands published, a change of it gives the next generation (R27, R28). -/
def republishServing (s : State) : State := if s.dev.published then republish s else s

/-- A field that fails its self-test is retired and journalled. -/
def failField (f : Nat) (s : State) : State :=
  let s1 := (List.range 16).foldl (fun s i => darkBlock (16 * f + i) s) s
  republishServing (journalAdd kindRetirement (retireKey 3 f) (fieldBody f) (s1.updField f (fun x => { x with
    selfTested := true, retired := true, lost := true, lossDone := true, railOn := false, genRunning := false, settingMv := 0
    railRetired := x.railRetired || x.retryUsed })))

/-- A field that passes: its map is journalled, its self-test programs have ended, and it is available again. -/
def passField (f : Nat) (m : Tbl (BitVec 4)) (s : State) : State :=
  republishServing (journalMap f ((updTiles (fieldTiles f) (fun t => { t with test := false }) s).updField f (fun x => { x with spareMap := m, selfTested := true, lost := false, lossDone := false })))

/-- Step 1 of the self-test: a block's failed segments and sensors are retired (R413, R438, R477). -/
def blockTest (f : Nat) (s : State) (e : BlockFail) : State :=
  let b := 16 * f + e.block.val
  let x := s.block b
  let y := capBlock { x with diodeRetired := x.diodeRetired || e.diode, ringRetired := x.ringRetired || e.ring }
  let m := x.segFailed ||| e.segments
  let s1 := journalSensors b x y (s.putBlock b y)
  if m = x.segFailed then s1 else failSegments b m (journalAdd kindRetirement (retireKey 2 b) (segmentBody m) s1)

/-- FIELD_SELF_TEST: a field whose rail is on, at bring-up or after a breaker retry. -/
def execFieldSelfTest (f : Fin 64) (found : TestFinds) (linkFailed : Bool) (s : State) : Out :=
  let x := s.field f.val
  if !x.railOn || x.selfTested || x.retired then .next s
  else
    let warm := s.bring.warm && !mapReserved x.spareMap && !x.lost
    let s0 := found.blocks.foldl (blockTest f.val) s
    let s1 := if x.lost then startField f.val s0 else s0
    match buildMap warm x.spareMap found.sites with
    | some m => if linkFailed then .next (advanceRings (failField f.val s0)) else .next (advanceRings (passField f.val m s1))
    | none => .next (advanceRings (failField f.val s0))

/-- BRING_UP_COMPLETE, step 9: the distance table is published, and the device serves. -/
def execBringUpComplete (s : State) : Out :=
  if s.bring.step = 8 then
    let s1 := (republish { s with bring := { s.bring with step := 9 } }).updDev (fun d => { d with published := true })
    .next (statusLights 1 (setDeviceState (if s1.coolant.flowStop then 3 else 2) s1))
  else .next s

/-! ## Warm restart (R442, R472) -/

/-- After a hard shutdown the coolant is within its conditions and every block's model value is at most 60 °C. -/
def cooledDown (s : State) : Bool := s.coolant.inletGood && decide (3000 ≤ s.coolant.flow) && decide (s.coolant.flow ≤ 6000) && s.blocks.all (fun e => decide (e.2.model.toNat ≤ 60))

/-- WARM_RESTART: bring-up goes on at step 3. -/
def execWarmRestart (s : State) : Out :=
  let b := s.bring
  if b.warmable ∧ b.keepersUp ∧ b.step = 0 ∧ s.power.mainClosed ∧ !s.power.outOfRange ∧ (!b.hardShutdown || cooledDown s) then
    .next (statusLights 2 { s with bring := { step := 2, warm := true, keepersUp := true } })
  else .next s

end Sys2Proof.Machine
end

