-- ==== Sys2Proof/Machine/Firmware.lean ====
section
/-! DEFINITION. Firmware: FW_STAGE, FW_ACTIVATE, the instances as they boot, report healthy or fall back (R348, R411, R487 to R491,
R510, R533). -/

namespace Sys2Proof.Machine

/-! ## Staging (R487, R510, R533) -/

/-- Payload of a line, 64 bytes. -/
def lineBytes64 (l : Line) : List Byte := (bytesOf 72 l).take 64

/-- The trailer: the last ten lines are 128 bytes of it and a 512-byte signature. -/
def fwTrailer (ls : List Line) : List Byte := ((ls.drop (ls.length - 10)).take 2).flatMap lineBytes64
def fwSignature (ls : List Line) : List Byte := (ls.drop (ls.length - 8)).flatMap lineBytes64
def fwBody (ls : List Line) : List Byte := (ls.take (ls.length - 10)).flatMap lineBytes64

/-- The last line has arrived: the lines end in a trailer that counts the body before it. -/
def fwComplete (ls : List Line) : Bool :=
  decide (10 ≤ ls.length) && leAt (fwTrailer ls) 0 4 == 0x57464F47 && leAt (fwTrailer ls) 8 4 == ls.length - 10

/-- Every other byte of a trailer is 0. -/
def fwTrailerClean (t : List Byte) : Bool := leAt t 5 1 == 0 && ((t.drop 12).take 52).all (· == 0)

def fwSvn (ls : List Line) : BitVec 16 := BitVec.ofNat 16 (leAt (fwTrailer ls) 6 2)
def fwDigest (ls : List Line) : BitVec 512 := BitVec.ofNat 512 (leNat ((fwTrailer ls).drop 64))

/-- The slot is valid (R510). -/
def fwValid (a : Nat) (min : BitVec 16) (ls : List Line) : Bool :=
  leAt (fwTrailer ls) 4 1 == a && fwTrailerClean (fwTrailer ls) && decide (min.toNat ≤ (fwSvn ls).toNat) &&
  fwDigest ls == Config.sha512 (fwBody ls) && Config.verify 0 (fwTrailer ls) (fwSignature ls)

/-- The slot that most instances run; a staged image goes into the other. -/
def mainSlot (a : Nat) (x : FwAgent) : Bool := decide (agentCount a < 2 * onSlotB a x)

/-- A complete, valid image stands in the inactive slot. -/
def fillSlot (a : Nat) (ls : List Line) (x : FwAgent) : FwAgent :=
  let y := { x with staged := [], valid := true, stagedSvn := fwSvn ls, newer := [] }
  if mainSlot a x then { y with digestA := fwDigest ls } else { y with digestB := fwDigest ls }

/-- Lines of an image arrive; the first ones make the slot invalid. The answer says whether a check failed. -/
def takeFirmware (a : Nat) (ls : List Line) (x : FwAgent) : FwAgent × Bool :=
  if !fwComplete ls then ({ x with staged := ls, valid := false }, false)
  else if fwValid a x.minSvn ls then (fillSlot a ls x, false)
  else ({ x with staged := [], valid := false }, true)

def fwAgentOf (l : Letter) : Nat := letterNum l 0 1
def fwOffset (l : Letter) : Nat := letterNum l 4 4

/-- An activation of the agent runs. -/
def FwAgent.activating (x : FwAgent) : Bool := x.booting.isSome || x.pendingInst != []

def fwStageRule (l : Letter) (s : State) : LetterRule :=
  let x := s.agent (fwAgentOf l)
  { len := 8, train := letterTrainOk l (some fmtBYTES)
    params := decide (1 ≤ fwAgentOf l) && decide (fwAgentOf l ≤ 5) && letterZeros l 1 3 && (fwOffset l == 0 || fwOffset l == x.staged.length)
    later := [(x.onMgmt || x.activating, 0x0401)] }

/-- Lines after a letter: OFFSET 0 begins anew. -/
def stagedAfter (l : Letter) (x : FwAgent) : List Line := if fwOffset l = 0 then l.train else x.staged ++ l.train

def execFwStage (l : Letter) (s : State) : Out :=
  .next (receive opFwStage l (fwStageRule l s) (fun k s =>
    let s1 := progress k s
    let x := s1.agent (fwAgentOf l)
    let ls := stagedAfter l x
    let r := takeFirmware (fwAgentOf l) ls x
    finishLetter k (if r.2 then 0x0205 else stDone) (leBytes 4 (if r.2 then 0 else ls.length)) [] (s1.updAgent (fwAgentOf l) (fun _ => r.1))) s)

/-! ## Activation (R411, R488 to R491) -/

/-- Order in which instances boot: the standby keeper and the twin controller first, the rest in ascending index. -/
def bootOrder (a : Nat) (s : State) : List Nat :=
  let first (k : Nat) : List Nat := [1 - k, k]
  if a = 1 then first s.dev.activeKeeper.val
  else if a = 5 then first (match s.power.active with | some p => p.val | none => 0)
  else List.range (agentCount a)

/-- Instances that a letter names and that do not run the staged slot yet. -/
def fwTargets (a inst : Nat) (s : State) : List Nat :=
  (bootOrder a s).filter (fun i => (inst == 0xFFFF || i == inst) && !(s.agent a).newer.contains i)

/-- Journal an instance's slot pointer for the letter that changes it. -/
def journalSlot (a : Nat) (k : Option LetterKey) (b : Bool) (i : Nat) (s : State) : State :=
  let key := BitVec.ofNat 32 (65536 * a + i)
  let body : List Byte := [if b then 1 else 0]
  match k with
  | some k => journalFor k kindFirmware key body s
  | none => journalAdd kindFirmware key body s

/-- Flip the slot of an instance. -/
def flipSlot (i : Nat) (x : FwAgent) : FwAgent := { x with active := Tbl.set false x.active i (!Tbl.get false x.active i) }

/-- A port is the only path to its peer or to the host (R489). -/
def State.onlyPath (s : State) (p : Nat) : Bool :=
  let x := s.port p
  x.st == .up && !s.ports.any (fun e => e.1 != p && e.2.st == .up && e.2.host == x.host && (x.host || e.2.peer == x.peer))

/-- A chiplet's ports restart one at a time; an only path waits for its next retraining. -/
def restartPorts (c : Nat) (s : State) : State :=
  (List.range 4).foldl (fun s q =>
    let p := 4 * c + q
    if s.onlyPath p then s.updPort p (fun x => { x with firmwarePending := true })
    else if (s.port p).live then retrainPort p (s.port p).lanesGood s else s) s

/-- The twin power controller takes over for an update (R411). -/
def switchController (i : Nat) (s : State) : State :=
  let q : Fin 2 := if i = 0 then 0 else 1
  match s.power.active with
  | some p => if p = q then s else { s with power := { s.power with
      active := some q, takeovers := Tbl.upd 0 s.power.takeovers i (fun n => satAdd n 1) } }
  | none => s

/-- What else the boot of an instance does (R488); microcode waits for its block to be GATED or deeper. -/
def bootEffect (a i : Nat) (s : State) : State :=
  if a = 1 then (if s.dev.activeKeeper.val = i then takeOver s else s)
  else if a = 2 then s.updField i (fun x => { x with restarting := true })
  else if a = 3 then s.updBlock i (fun b =>
    if b.pstate = .active ∨ b.ramping then { b with microWait := true } else { b with microLoad := true })
  else if a = 4 then restartPorts i s
  else { switchController (1 - i) s with power := { (switchController (1 - i) s).power with twinOk := false } }

/-- The next instance boots its new slot; with none left the letter ends, and its result names the slot. -/
def bootNext (a : Nat) (slot : Bool) (s : State) : State :=
  let x := s.agent a
  match x.pendingInst with
  | i :: is => bootEffect a i (s.updAgent a (fun y => { flipSlot i y with pendingInst := is, booting := some i }))
  | [] =>
    let s1 := s.updAgent a (fun y => { y with booting := none, letter := none })
    match x.letter with
    | some k => finishLetter k stDone [if slot then 1 else 0] [] s1
    | none => s1

/-- What the end of a boot, healthy or not, does at an instance. -/
def bootEnd (a i : Nat) (s : State) : State :=
  if a = 2 then s.updField i (fun x => { x with restarting := false })
  else if a = 3 then wakeLoaded i (s.updBlock i (fun b => { b with microLoad := false, microWait := false }))
  else if a = 5 then { s with power := { s.power with twinOk := true } }
  else s
where
  /-- A wake that came during the load is served after it. -/
  wakeLoaded (b : Nat) (s : State) : State := if (s.block b).wakeAsked then wakeGated b s else s

def fwInstance (l : Letter) : Nat := letterNum l 2 2

def activateRule (l : Letter) (s : State) : LetterRule :=
  let a := fwAgentOf l
  { role := 1, len := 4, train := letterTrainOk l none
    params := decide (1 ≤ a) && decide (a ≤ 5) && letterZeros l 1 1 && (decide (fwInstance l < agentCount a) || fwInstance l == 0xFFFF)
    later := [(!(s.agent a).valid || fwTargets a (fwInstance l) s == [], 0x0303), (a == 1 && s.exclusiveRuns, 0x0404),
      ((s.agent a).activating || (s.agent a).onMgmt, 0x0401)] }

/-- FW_ACTIVATE: the pointers are journalled, then the instances change one after another. -/
def execFwActivate (l : Letter) (s : State) : Out :=
  .next (receive opFwActivate l (activateRule l s) (fun k s =>
    let a := fwAgentOf l
    let s1 := progress k (if a = 1 then takeExclusive k s else s)
    let ts := fwTargets a (fwInstance l) s1
    let s2 := ts.foldl (fun s i => journalSlot a (some k) (!Tbl.get false (s.agent a).active i) i s) s1
    bootNext a false (s2.updAgent a (fun x => { x with pendingInst := ts, letter := some k }))) s)

/-- INSTANCE_REPORTED_HEALTHY: its SVN is the new minimum, and the next instance boots. A restarted pair takes up the repairs
that waited (R462). -/
def execInstanceReportedHealthy (agent : BitVec 3) (inst : BitVec 16) (s : State) : Out :=
  let a := agent.toNat
  let i := inst.toNat
  if (s.agent a).booting ≠ some i ∨ (a = 3 ∧ (s.block i).microWait) then .next s
  else
    let s1 := s.updAgent a (fun x => { x with minSvn := x.stagedSvn, newer := x.newer ++ [i], booting := none })
    let s2 := bootEnd a i s1
    let s3 := if a = 2 then resumeRepairs i s2 else s2
    .next (bootNext a (Tbl.get false (s.agent a).active i) s3)

/-- FW_HEALTH_TIMEOUT: the instance returns to its old slot, the rollback is journalled, the rest is not changed. -/
def execFwHealthTimeout (agent : BitVec 3) (inst : BitVec 16) (s : State) : Out :=
  let a := agent.toNat
  let i := inst.toNat
  let x := s.agent a
  if x.booting ≠ some i ∨ (a = 3 ∧ (s.block i).microWait) then .next s
  else
    let old := !Tbl.get false x.active i
    let s1 := bootEnd a i (s.updAgent a (fun y => { flipSlot i y with booting := none, pendingInst := [] }))
    let s2 := (i :: x.pendingInst).foldl (fun s j => journalSlot a x.letter (Tbl.get false (s.agent a).active j) j s) s1
    let s3 := if a = 2 then resumeRepairs i s2 else s2
    .next (bootNext a old s3)

end Sys2Proof.Machine
end

