-- ==== Sys2Proof/Machine/Management.lean ====
section
/-! DEFINITION. The management port: MCTP control, PLDM base, platform monitoring and firmware update (R531 to R533, R560). -/

namespace Sys2Proof.Machine

/-- The endpoint answers from step 2 of bring-up while standby power is present. -/
def State.mgmtUp (s : State) : Bool := decide (1 ≤ s.bring.step) || s.bring.keepersUp

def State.updMgmt (s : State) (f : Mgmt → Mgmt) : State := { s with mgmt := f s.mgmt }

/-- A message is taken while the endpoint answers. -/
def onMgmt (f : State → State) (s : State) : State := if s.mgmtUp then f s else s

/-- Send a reply. -/
def answer (r : MgmtReply) (s : State) : State := s.updMgmt (fun m => { m with replies := m.replies ++ [r] })

/-- Send a message whose content is MCTP's or PLDM's own. -/
def answerBody (s : State) : State :=
  s.updMgmt (fun m => { m with replies := m.replies ++ [.body (Config.mgmtBody m.bodies)], bodies := m.bodies + 1 })

/-! ## MCTP control and PLDM base -/

def execSetEndpointId (eid : Byte) (s : State) : Out := .next (onMgmt (fun s => answerBody (s.updMgmt (fun m => { m with eid := eid }))) s)
def execGetEndpointId (s : State) : Out := .next (onMgmt (fun s => answer (.value (s.mgmt.eid.setWidth 32)) s) s)
def execGetMctpVersionSupport (_msgType : Byte) (s : State) : Out := .next (onMgmt answerBody s)
def execGetMessageTypeSupport (s : State) : Out := .next (onMgmt answerBody s)
def execGetTid (s : State) : Out := .next (onMgmt (fun s => answer (.value (s.mgmt.tid.setWidth 32)) s) s)
def execSetTid (tid : Byte) (s : State) : Out := .next (onMgmt (fun s => answerBody (s.updMgmt (fun m => { m with tid := tid }))) s)
def execGetPldmVersion (_pldmType : Byte) (s : State) : Out := .next (onMgmt answerBody s)
def execGetPldmTypes (s : State) : Out := .next (onMgmt answerBody s)
def execGetPldmCommands (_pldmType : Byte) (s : State) : Out := .next (onMgmt answerBody s)

/-- UNSUPPORTED_PLDM_CMD: any other PLDM command. -/
def execUnsupportedPldmCmd (_pldmType _cmd : Byte) (s : State) : Out := .next (onMgmt (answer .unsupported) s)

/-! ## Sensors and events (R532, R560) -/

/-- Reading of a numbered sensor; the input current from power and voltage, in 10 mA. -/
def sensorValue (s : State) (n : Nat) : Option Word :=
  let c := s.coolant
  let p := s.power
  if n = 1 then some (c.inlet.setWidth 32)
  else if n = 2 then some (c.outlet.setWidth 32)
  else if n = 3 then some (c.flowIn.setWidth 32)
  else if n = 4 then some (c.flowOut.setWidth 32)
  else if n = 5 then some (p.vin.setWidth 32)
  else if n = 6 then some (BitVec.ofNat 32 (p.watts * 10000 / p.vin.toNat))
  else if n = 7 then some (BitVec.ofNat 32 p.watts)
  else if 0x100 ≤ n ∧ n < 0x140 then some ((s.field (n - 0x100)).tjmax.setWidth 32)
  else none

/-- Value of a numbered state sensor. -/
def stateSensorValue (s : State) (n : Nat) : Option Word :=
  if n = 0x200 then some (s.dev.deviceState.setWidth 32)
  else if n = 0x201 then some (s.dev.sealState.setWidth 32)
  else none

/-- A reading, or PLDM's own answer to a number the manual does not give. -/
def answerReading (v : Option Word) (s : State) : State :=
  match v with
  | some w => answer (.value w) s
  | none => answerBody s

def execGetSensorReading (sensor : BitVec 16) (s : State) : Out := .next (onMgmt (fun s => answerReading (sensorValue s sensor.toNat) s) s)
def execGetStateSensorReadings (sensor : BitVec 16) (s : State) : Out :=
  .next (onMgmt (fun s => answerReading (stateSensorValue s sensor.toNat) s) s)
def execGetPdrRepositoryInfo (s : State) : Out := .next (onMgmt answerBody s)
def execGetPdr (_record : Word) (s : State) : Out := .next (onMgmt answerBody s)

def execSetEventReceiver (receiver : Byte) (s : State) : Out :=
  .next (onMgmt (fun s => answerBody (s.updMgmt (fun m => { m with receiver := some receiver }))) s)

/-- PLATFORM_EVENT_MESSAGE: the oldest pending event goes to the receiver; SMB_ALERT_N stays while another is pending. -/
def execPlatformEventMessage (s : State) : Out :=
  .next (onMgmt (fun s => s.updMgmt (fun m => match m.events, m.receiver with
    | e :: es, some r => { m with events := es, sentEvents := m.sentEvents ++ [(r, e)], alert := es != [] }
    | _, _ => m)) s)

/-! ## Firmware update (R487, R531, R533) -/

def execQueryDeviceIdentifiers (s : State) : Out := .next (onMgmt answerBody s)
def execGetFirmwareParameters (s : State) : Out := .next (onMgmt answerBody s)
def execGetStatus (s : State) : Out := .next (onMgmt answerBody s)

/-- A host-port staging of an agent is under way. -/
def State.hostStages (s : State) (a : Nat) : Bool := (s.agent a).staged != []

/-- REQUEST_UPDATE: refused while an update runs on either side. -/
def execRequestUpdate (s : State) : Out :=
  .next (onMgmt (fun s =>
    if s.mgmt.upd ≠ .idle ∨ [1, 2, 3, 4, 5].any (fun a => s.hostStages a) then answer .alreadyInUpdateMode s
    else answerBody (s.updMgmt (fun m => { m with upd := .learn }))) s)

/-- PASS_COMPONENT_TABLE. -/
def execPassComponentTable (_component : BitVec 16) (s : State) : Out :=
  .next (onMgmt (fun s => answerBody (if s.mgmt.upd = .learn then s.updMgmt (fun m => { m with upd := .ready }) else s)) s)

/-- UPDATE_COMPONENT: an agent's inactive slot is about to be written, and is not valid until its check. -/
def execUpdateComponent (component : BitVec 16) (s : State) : Out :=
  let a := component.toNat
  .next (onMgmt (fun s =>
    if s.mgmt.upd ≠ .ready ∨ a = 0 ∨ a > 5 then answerBody s
    else if s.hostStages a || (s.agent a).activating then answer .alreadyInUpdateMode s
    else answerBody ((s.updAgent a (fun x => { x with valid := false, onMgmt := true })).updMgmt (fun m => { m with
      upd := .download, component := some component, updLines := [] }))) s)

/-- REQUEST_FIRMWARE_DATA: the device asks, and takes the lines it is given. -/
def execRequestFirmwareData (lines : List Line) (s : State) : Out :=
  .next (onMgmt (fun s => if s.mgmt.upd = .download then answerBody (s.updMgmt (fun m => { m with updLines := m.updLines ++ lines })) else s) s)

/-- TRANSFER_COMPLETE: with result 0 the check follows. -/
def execTransferComplete (result : Byte) (s : State) : Out :=
  .next (onMgmt (fun s =>
    if s.mgmt.upd = .download then answerBody (if result = 0 then s.updMgmt (fun m => { m with upd := .verify }) else s) else s) s)

/-- Agent that is being updated. -/
def Mgmt.agentNo (m : Mgmt) : Nat := match m.component with | some c => c.toNat | none => 0

/-- VERIFY_COMPLETE: the slot is checked as FW_STAGE does; a good one is applied next. -/
def execVerifyComplete (s : State) : Out :=
  .next (onMgmt (fun s =>
    if s.mgmt.upd = .verify then
      let a := s.mgmt.agentNo
      let ls := s.mgmt.updLines
      if fwComplete ls && fwValid a (s.agent a).minSvn ls then
        answerBody ((s.updAgent a (fillSlot a ls)).updMgmt (fun m => { m with upd := .apply }))
      else answerBody s
    else s) s)

/-- The update of a component is over. -/
def endComponent (into : UpdState) (s : State) : State :=
  (s.updAgent s.mgmt.agentNo (fun x => { x with onMgmt := false })).updMgmt (fun m => { m with upd := into, component := none, updLines := [] })

/-- APPLY_COMPLETE: the slot stays inactive until an FW_ACTIVATE letter. -/
def execApplyComplete (s : State) : Out :=
  .next (onMgmt (fun s => if s.mgmt.upd = .apply then answerBody (endComponent .ready s) else s) s)

/-- A component is in transfer, in its check or applied. -/
def Mgmt.inComponent (m : Mgmt) : Bool := m.upd == .download || m.upd == .verify || m.upd == .apply

def execCancelUpdateComponent (s : State) : Out :=
  .next (onMgmt (fun s => answerBody (if s.mgmt.inComponent then endComponent .ready s else s)) s)

def execCancelUpdate (s : State) : Out :=
  .next (onMgmt (fun s => answerBody (if s.mgmt.inComponent then endComponent .idle s else s.updMgmt (fun m => { m with upd := .idle }))) s)

end Sys2Proof.Machine
end

