-- ==== Sys2Proof/Machine/Mailboxes.lean ====
section
/-! DEFINITION. Mailboxes and their letter messages (R156, R361 to R366, R521, R526). -/

namespace Sys2Proof.Machine

/-! ## Ends (R361) -/

/-- Table key of a mailbox end. -/
def endKey : MailEnd → Nat
  | .dev m a => 2 * m.val + (if a then 0 else 1)
  | .blk b a => 180 + 2 * b.val + (if a then 0 else 1)

/-- The other end. -/
def endPeer : MailEnd → MailEnd
  | .dev m a => .dev m (!a)
  | .blk b a => .blk b (!a)

def State.mbx (s : State) (e : MailEnd) : Mbx := Tbl.get {} s.mailboxes (endKey e)
def State.updMbx (s : State) (e : MailEnd) (f : Mbx → Mbx) : State := { s with mailboxes := Tbl.set {} s.mailboxes (endKey e) (f (s.mbx e)) }

/-- The KNOCK for a mailbox message that enters an empty queue (R156, R365). The postcard network addresses the Postmaster, the
field controllers and the block sequencers (R155). -/
def endKnock : MailEnd → Option Card
  | .dev _ true => some (knockCard 4 0 0x01)
  | .dev m false => if m.val < 64 then some (knockCard 2 (BitVec.ofNat 16 m.val) 0x01) else none
  | .blk b true => some (knockCard 2 (BitVec.ofNat 16 (b.val / 16)) 0x01)
  | .blk b false => some (knockCard 1 (BitVec.ofNat 16 b.val) 0x01)

/-! ## Queues (R363 to R366) -/

/-- Words in an inbound queue. -/
def Mbx.rxWords (x : Mbx) : Nat := (x.inq.map List.length).sum

/-- Staged word n. -/
def Mbx.staged (x : Mbx) (n : Nat) : BitVec 64 := Tbl.get (0 : Word) x.tx (2 * n + 1) ++ Tbl.get (0 : Word) x.tx (2 * n)

/-- An interrupt to the local processor where a bit of MBX_CTRL enables it. -/
def Mbx.interrupt (x : Mbx) (b : Nat) : Mbx := if bitAt x.ctrl b then { x with interrupts := x.interrupts + 1 } else x

/-- The queue from an end has room for n words (R363). -/
def State.mailRoom (s : State) (e : MailEnd) (n : Nat) : Bool := decide ((s.mbx (endPeer e)).rxWords + n ≤ 8)

/-- Send a message from an end: it enters the queue whole, or not at all. -/
def postMessage (e : MailEnd) (ws : List (BitVec 64)) (s : State) : State :=
  let p := endPeer e
  let y := s.mbx p
  if ws = [] ∨ ws.length > 8 ∨ y.rxWords + ws.length > 8 then s.updMbx e (fun x => { x with refused := true })
  else
    let s1 := s.updMbx p (fun y => Mbx.interrupt { y with inq := y.inq ++ [ws] } 0)
    if y.inq ≠ [] then s1
    else match endKnock p with
      | some c => sendCard srcMailbox c s1
      | none => s1

/-- A write of MBX_SEND. -/
def mbxSend (e : MailEnd) (len : Word) (s : State) : State :=
  let n := bitsAt len 0 4
  postMessage e (if n ≤ 8 then (List.range n).map (s.mbx e).staged else []) s

def execMbxSend (e : MailEnd) (len : Word) (s : State) : Out := .next (mbxSend e len s)

/-- SEQ of a message. -/
def messageSeq (ws : List (BitVec 64)) : BitVec 16 := fieldAt (nth 0 ws 0) 0 16

/-- A write of MBX_ACK. -/
def mbxAck (e : MailEnd) (v : Word) (s : State) : State :=
  match (s.mbx e).inq with
  | [] => s.updMbx e (fun x => { x with ackMismatch := true })
  | m :: ms =>
    if messageSeq m = (fieldAt v 16 16 : BitVec 16) then
      (s.updMbx e (fun x => { x with inq := ms })).updMbx (endPeer e) (fun y =>
        Mbx.interrupt { (if y.peerAck = v then y else Mbx.interrupt y 2) with peerAck := v } 1)
    else s.updMbx e (fun x => { x with ackMismatch := true })

def execMbxAck (e : MailEnd) (v : Word) (s : State) : Out := .next (mbxAck e v s)

/-! ## Letter messages (R362, R521, R526) -/

/-- The mailbox between the Postmaster and a host-port adapter. -/
def adapterBox (c : Fin 12) : Fin 90 := ⟨76 + c.val, by omega⟩

/-- The two words of a letter message. -/
def letterMessage (code : BitVec 16) (seq : BitVec 16) (buffer : BitVec 16) (port : Byte) (id : Word) : List (BitVec 64) :=
  [BitVec.ofNat 64 (code.toNat * 2 ^ 32 + 2 * 2 ^ 16 + seq.toNat), BitVec.ofNat 64 (id.toNat * 2 ^ 32 + port.toNat * 2 ^ 16 + buffer.toNat)]

/-- Send a letter message under the end's next SEQ; a refused one keeps it (R362, R363). -/
def sendLetterMessage (e : MailEnd) (code : BitVec 16) (buffer : BitVec 16) (port : Byte) (id : Word) (s : State) : State :=
  let s1 := postMessage e (letterMessage code (s.mbx e).nextSeq buffer port id) s
  if s.mailRoom e 2 then s1.updMbx e (fun x => { x with nextSeq := x.nextSeq + 1 }) else s1

/-- Slots of the letter that begins a letter stream (R331, R518). -/
def letterSlots (bs : List Byte) : Nat := (32 + leAt bs 14 2 + 72 * leAt bs 18 4 + 87) / 88

/-- A letter leaves its port's slot buffers for the adapter's letter buffer and its consumer; one slot's credit is withheld until the
letter buffer is free again (R521, R526; DESIGN CHOICE, log entry 165). -/
def takeLetter (p : Nat) (s : State) : State :=
  let x := s.port p
  let q := x.delivered.filter (fun e => e.1 == 2)
  let n := letterSlots (q.flatMap (fun e => bytesOf 88 e.2))
  if q = [] ∨ q.length < n then s
  else s.putPort p { x with
    delivered := (q.take n).foldl List.erase x.delivered
    acks := x.acks ++ (if n ≤ 1 then [] else [controlWord 3 (BitVec.ofNat 56 (2 * 65536 + (n - 1)))]) }

/-- LETTER_ARRIVED: a free buffer of the adapter holds a letter; with no buffer free the host waits, and with no room in the mailbox the
message goes later. -/
def execLetterArrived (c : Fin 12) (buffer : BitVec 16) (port : Byte) (id : Word) (s : State) : Out :=
  let bs := (s.chiplet c.val).buffers
  if buffer.toNat ≥ 256 ∨ port.toNat ≥ 48 ∨ bs.any (fun b => b.1 == buffer) then .next s
  else .next (sendLetterMessage (.dev (adapterBox c) false) 0x0001 buffer port id
    (if s.mailRoom (.dev (adapterBox c) false) 2 then takeLetter port.toNat (s.updChiplet c.val (fun x => { x with buffers := bs ++ [(buffer, port, id)] })) else s))

/-- RECEIPT_READY. -/
def execReceiptReady (c : Fin 12) (buffer : BitVec 16) (port : Byte) (id : Word) (s : State) : Out :=
  .next (sendLetterMessage (.dev (adapterBox c) true) 0x0002 buffer port id s)

/-- LETTER_BUFFER_FREED: the buffer is free, and letter-stream credit goes to the port. -/
def execLetterBufferFreed (c : Fin 12) (buffer : BitVec 16) (port : Byte) (id : Word) (s : State) : Out :=
  let room := s.mailRoom (.dev (adapterBox c) true) 2
  let s1 := if room then s.updChiplet c.val (fun x => { x with buffers := x.buffers.filter (fun b => b.1 != buffer) }) else s
  let s2 := if room && decide (port.toNat < 48) then s1.updPort port.toNat (fun x => { x with acks := x.acks ++ [controlWord 3 (BitVec.ofNat 56 (2 * 65536 + 1))] }) else s1
  .next (sendLetterMessage (.dev (adapterBox c) true) 0x0003 buffer port id s2)

end Sys2Proof.Machine
end

