-- ==== Sys2Proof/Machine/Csr.lean ====
section
/-! DEFINITION. Control registers: addresses, the reach of each agent, every register's word as it reads, and writes with their
outcomes (R11, R12, R93, R127, R162, R202, R269, R366, R403, R404, R430 to R432, R446, R447, R458, R534 to R548). -/

namespace Sys2Proof.Machine

/-! ## Addresses (R535 to R537) -/

def csrClass (a : Word) : Nat := bitsAt a 24 8
def csrInst (a : Word) : Nat := bitsAt a 8 16
def csrOff (a : Word) : Nat := bitsAt a 0 8

/-- The mailbox end of a class and instance. -/
def csrEnd (c i : Nat) : Option MailEnd :=
  if c = 0 then (if h : 0x100 ≤ i ∧ i < 0x15A then some (.dev ⟨i - 0x100, by omega⟩ true) else none)
  else if c = 1 then
    (if h : i < 64 then some (.dev ⟨i, by omega⟩ false)
     else if h : 0x100 ≤ i ∧ i < 0x500 then some (.blk ⟨i - 0x100, by omega⟩ true) else none)
  else if c = 2 then (if h : i < 1024 then some (.blk ⟨i, h⟩ false) else none)
  else if c = 4 then
    (if h : i < 12 then some (.dev ⟨64 + i, by omega⟩ false)
     else if h : 0x100 ≤ i ∧ i < 0x10C then some (.dev ⟨76 + (i - 0x100), by omega⟩ false) else none)
  else if c = 5 then (if h : i < 2 then some (.dev ⟨88 + i, by omega⟩ false) else none)
  else none

/-- A register of a unit, named by its unit and offset. -/
inductive Csr where
  | dm (off : Nat)
  | fc (f off : Nat)
  | bs (b off : Nat)
  | ts (t : TileId) (off : Nat)
  | lk (c off : Nat)
  | pbCtrl (p : Nat)
  | pbRail (f : Nat)
  | pbInput
  | st (n off : Nat)
  | kp (k off : Nat)
  | mbx (e : MailEnd) (off : Nat)
  deriving DecidableEq, Repr

/-- Offsets of a tile's registers. -/
def tsOffsets : List Nat :=
  [0x10, 0x11, 0x12, 0x13, 0x14, 0x20, 0x21, 0x22, 0x30, 0x31, 0x32, 0x33, 0x34, 0x35, 0x36, 0x37, 0x38, 0x39, 0x3A, 0x3B,
   0x40, 0x41, 0x42, 0x50, 0x51, 0x60]

/-- A register that is not a mailbox's. -/
def unitCsr (c i o : Nat) : Option Csr :=
  if c = 0 ∧ i = 0 ∧ (o = 0 ∨ (0x10 ≤ o ∧ o ≤ 0x13)) then some (.dm o)
  else if c = 1 ∧ i < 64 ∧ ((0x10 ≤ o ∧ o ≤ 0x16) ∨ (0x20 ≤ o ∧ o ≤ 0x2F)) then some (.fc i o)
  else if c = 2 ∧ i < 1024 ∧ 0x10 ≤ o ∧ o ≤ 0x15 then some (.bs i o)
  else if c = 3 ∧ tsOffsets.contains o then some (.ts (BitVec.ofNat 16 i) o)
  else if c = 4 ∧ i < 12 ∧ 0x10 ≤ o ∧ o ≤ 0x17 then some (.lk i o)
  else if c = 5 ∧ i < 2 ∧ o = 0x10 then some (.pbCtrl i)
  else if c = 5 ∧ 0x100 ≤ i ∧ i < 0x140 ∧ o = 0x10 then some (.pbRail (i - 0x100))
  else if c = 5 ∧ i = 0x200 ∧ o = 0x10 then some .pbInput
  else if c = 6 ∧ i < 24 ∧ (o = 0x10 ∨ o = 0x11) then some (.st i o)
  else if c = 7 ∧ i < 2 ∧ 0x10 ≤ o ∧ o ≤ 0x13 then some (.kp i o)
  else none

/-- The register at an address; none at a reserved class, instance or offset. -/
def csrAt (a : Word) : Option Csr :=
  let o := csrOff a
  if 0xC0 ≤ o ∧ o ≤ 0xE4 then (csrEnd (csrClass a) (csrInst a)).map (fun e => .mbx e o)
  else unitCsr (csrClass a) (csrInst a) o

/-! ## Reach and power (R538, R539) -/

/-- Mailbox ends of an agent. -/
def ownEnd : Agent → MailEnd → Bool
  | .postmaster, _ => true
  | .fieldController f, .dev m a => m.val == f.val && !a
  | .fieldController f, .blk b a => b.val / 16 == f.val && a
  | .blockSequencer b, .blk c a => b == c && !a
  | .blockSequencer _, .dev _ _ => false
  | .linkFirmware c, .dev m a => m.val == 64 + c.val && !a
  | .linkFirmware _, .blk _ _ => false
  | .hostAdapter c, .dev m a => m.val == 76 + c.val && !a
  | .hostAdapter _, .blk _ _ => false
  | .powerController p, .dev m a => m.val == 88 + p.val && !a
  | .powerController _, .blk _ _ => false

/-- The agent may write the register; a field controller only reads its PB_RAIL. -/
def mayWrite : Agent → Csr → Bool
  | .postmaster, _ => true
  | g, .mbx e _ => ownEnd g e
  | .fieldController f, .fc i _ => i == f.val
  | .fieldController f, .bs b _ => b / 16 == f.val
  | .fieldController f, .ts t _ => tileField t == f.val
  | .blockSequencer b, .bs i _ => i == b.val
  | .blockSequencer b, .ts t _ => tileBlock t == b.val
  | .linkFirmware c, .lk i _ => i == c.val
  | .hostAdapter c, .lk i _ => i == c.val
  | .powerController _, .pbCtrl _ => true
  | .powerController _, .pbRail _ => true
  | .powerController _, .pbInput => true
  | _, _ => false

/-- A field whose rail is on, its breaker closed, neither retired nor lost. -/
def State.fieldPowered (s : State) (f : Nat) : Bool :=
  let x := s.field f
  x.railOn && !x.breaker && !x.retired && !x.lost

/-- The register's unit has power. -/
def State.csrPowered (s : State) : Csr → Bool
  | .fc f _ => s.fieldPowered f
  | .bs b _ => s.fieldPowered (b / 16)
  | .ts t _ => s.fieldPowered (tileField t) && (s.block (tileBlock t)).pstate != .dark
  | .lk c _ => s.power.otherRailsOn && !(s.chiplet c).retired
  | .st _ _ => s.power.otherRailsOn
  | .mbx (.dev m false) _ =>
    if m.val < 64 then s.fieldPowered m.val
    else if m.val < 88 then s.power.otherRailsOn && !(s.chiplet ((m.val - 64) % 12)).retired else true
  | .mbx (.blk b _) _ => s.fieldPowered (b.val / 16)
  | _ => true

/-- AGENT code of DM_CSR_ERR (R544). -/
def agentCode : Agent → Nat
  | .postmaster => 0
  | .fieldController _ => 1
  | .blockSequencer _ => 2
  | .linkFirmware _ => 3
  | .hostAdapter _ => 3
  | .powerController _ => 4

/-- A failed access is recorded, the first one until VALID is cleared (R539, R542). -/
def csrError (g : Agent) (a : Word) (kind : Nat) (s : State) : State :=
  if bitAt s.dev.csrErr 31 then s
  else s.updDev (fun d => { d with csrErr := BitVec.ofNat 32 (2 ^ 31 + agentCode g * 2 ^ 28 + kind * 2 ^ 25), csrAddr := a })

/-! ## What a register reads -/

/-- Device-manager registers (R544). -/
def dmWord (s : State) (o : Nat) : Word :=
  let d := s.dev
  if o = 0x00 then csrPack [(16, 1), (8, 1)]
  else if o = 0x10 then csrPack [(24, d.member.toNat), (21, d.standbyLost.toNat), (20, d.activeKeeper.val), (16, d.profile.toNat),
    (8, d.deviceState.toNat), (0, statusFlags s)]
  else if o = 0x11 then csrPack [(16, s.power.capW.toNat), (0, s.power.sustainedW.toNat)]
  else if o = 0x12 then d.csrErr else d.csrAddr

/-- Field-controller registers (R403, R431, R446, R545). -/
def fcWord (s : State) (f o : Nat) : Word :=
  let x := s.field f
  if o = 0x10 then csrPack [(31, x.genRunning.toNat), (30, x.stretching.toNat), (27, x.limit.toNat), (0, x.mhz.toNat)]
  else if o = 0x11 then csrPack [(16, x.boostGrant.toNat), (0, x.clkTarget.toNat)]
  else if o = 0x12 then x.stretch
  else if o = 0x13 then x.stopDelay.setWidth 32
  else if o = 0x14 then csrPack [(20, x.trims.toNat), (10, x.deferrals.toNat), (0, x.admitLimit.toNat)]
  else if o = 0x15 then csrPack [(24, x.tjmax.toNat), (13, x.thermalMhz.toNat), (0, x.throttling.toNat)]
  else if o = 0x16 then csrPack [(16, x.hopRetries.toNat), (0, x.cardRetries.toNat)]
  else BitVec.ofNat 32 (leAt (mapBytes x.spareMap) (4 * (o - 0x20)) 4)

/-- BS_PSTATE.STATE. -/
def pstateCode : PState → Nat
  | .active => 0
  | .gated => 1
  | .chrysalis => 2
  | .diapause => 3
  | .dark => 4

/-- Block-sequencer registers (R404, R432, R447). -/
def bsWord (s : State) (b o : Nat) : Word :=
  let x := s.block b
  if o = 0x10 then csrPack [(16, pstateCode x.pstate), (4, x.step % 16)]
  else if o = 0x11 then 0
  else if o = 0x12 then csrPack [(16, x.delay.toNat), (0, x.gateCycles.toNat)]
  else if o = 0x13 then csrPack [(16, x.races.toNat), (0, x.wakes.toNat)]
  else if o = 0x14 then csrPack [(24, x.segFailed.toNat), (23, x.tied.toNat), (22, x.skip.toNat), (21, x.feeding.toNat), (0, x.lastMa.toNat)]
  else csrPack [(24, x.diode.toNat), (16, x.ring.toNat), (8, x.model.toNat), (7, x.diodeRetired.toNat), (6, x.ringRetired.toNat),
    (5, x.suspect.toNat), (4, x.capped.toNat)]

/-- LK_PORT_STATUS.STATE. -/
def portCodeOf : PortState → Nat
  | .down => 0
  | .training => 1
  | .up => 2
  | .conflict => 3
  | .failed => 4

/-- Port registers (R534). -/
def lkWord (s : State) (c o : Nat) : Word :=
  let x := s.port (4 * c + o % 4)
  if o < 0x14 then csrPack [(29, portCodeOf x.st), (27, x.width.toNat), (26, x.reversed.toNat), (25, x.host.toNat), (20, x.peer.toNat),
    (8, x.polarity.toNat), (0, x.lanesGood.toNat)]
  else csrPack [(16, x.naks.toNat), (8, x.retrains.toNat), (0, x.ctrlIgnored.toNat)]

/-- Failed phases of the whole board, saturating (R546). -/
def boardPhases (s : State) : Nat := min 255 (((List.range 64).map (fun f => popCount (s.field f).phasesFailed)).sum)

/-- PB_CTRL of a controller (R546). -/
def pbCtrlWord (s : State) (p : Nat) : Word :=
  csrPack [(31, (match s.power.active with | some q => q.val == p | none => false).toNat), (30, s.power.twinOk.toNat),
    (27, (Tbl.get false (s.agent 5).active p).toNat), (16, boardPhases s), (0, (Tbl.get 0 s.power.takeovers p).toNat)]

/-- Stack registers (R547). -/
def stWord (s : State) (n o : Nat) : Word :=
  let x := s.stk n
  if o = 0x10 then csrPack [(29, x.st.toNat), (16, x.queue.length), (0, mask16 (fun i => (Tbl.get ({} : LodgeStage) x.stages i).st == .lodged))]
  else csrPack [(16, x.corrLast.toNat), (8, x.highSeconds.toNat), (0, x.uncorr.toNat)]

/-- Keeper registers but for the latch (R548). -/
def kpWord (s : State) (k o : Nat) : Word :=
  let x := s.keeper k
  if o = 0x10 then csrPack [(30, x.role.toNat), (29, s.dev.j7.toNat), (28, (s.dev.loopClosed && x.role != 0).toNat),
    (16, s.dev.sealState.toNat), (15, x.pressed.toNat), (0, s.journal.segments)]
  else if o = 0x11 then csrPack [(4, x.presenceLight.toNat), (0, x.statusLight.toNat)]
  else if o = 0x12 then fieldAt s.dev.time 0 32 else fieldAt s.dev.time 32 32

/-- Registers of a mailbox end (R366). -/
def mbxWord (s : State) (e : MailEnd) (o : Nat) : Word :=
  let x := s.mbx e
  if 0xD0 ≤ o ∧ o ≤ 0xDF then wordAt (nth (0 : BitVec 64) (x.inq.headD []) ((o - 0xD0) / 2)) (o % 2)
  else if o = 0xE2 then x.peerAck
  else if o = 0xE3 then csrPack [(17, x.ackMismatch.toNat), (16, x.refused.toNat), (8, x.inq.length), (4, x.rxWords),
    (0, 8 - (s.mbx (endPeer e)).rxWords)]
  else if o = 0xE4 then x.ctrl.setWidth 32 else 0

/-- What the Postmaster reads at an address; a failed read gives 0. -/
def State.csrRead (s : State) (a : Word) : Word :=
  match csrAt a with
  | none => 0
  | some r =>
    if !s.csrPowered r then 0
    else match r with
      | .dm o => dmWord s o
      | .fc f o => fcWord s f o
      | .bs b o => bsWord s b o
      | .ts t o => tsWord (s.tile t) o s.dev.time
      | .lk c o => lkWord s c o
      | .pbCtrl p => pbCtrlWord s p
      | .pbRail f => let x := s.field f
        csrPack [(31, x.breaker.toNat), (30, x.retryUsed.toNat), (29, x.railRetired.toNat), (16, x.phasesFailed.toNat), (0, x.settingMv.toNat)]
      | .pbInput => csrPack [(31, s.power.mainClosed.toNat), (30, s.power.precharge.toNat), (29, s.power.presence.toNat),
          (28, s.power.outOfRange.toNat), (0, s.power.vin.toNat)]
      | .st n o => stWord s n o
      | .kp k o => kpWord s k o
      | .mbx e o => mbxWord s e o

/-! ## Writes (R539 to R542) -/

/-- Offsets with a writable field. -/
def tsWritable : List Nat := [0x10, 0x11, 0x20, 0x21, 0x30, 0x31, 0x33, 0x35, 0x36, 0x37, 0x40, 0x41, 0x42, 0x50, 0x60]

/-- A register has an RW, RW1C or WO field. -/
def csrWritable : Csr → Bool
  | .dm o => o == 0x12
  | .fc _ o => [0x11, 0x12, 0x13, 0x14, 0x16].contains o
  | .bs _ o => [0x11, 0x12, 0x13].contains o
  | .ts _ o => tsWritable.contains o
  | .lk _ o => decide (0x14 ≤ o)
  | .pbCtrl _ => true
  | .pbRail _ => false
  | .pbInput => false
  | .st _ o => o == 0x11
  | .kp _ _ => false
  | .mbx _ o => decide (o < 0xD0) || o == 0xE0 || o == 0xE1 || o == 0xE3 || o == 0xE4

/-- A 1 written to VALID clears it. -/
def clearValid (v reg : Word) : Word := if bitAt v 31 then putField reg 31 (0 : BitVec 1) else reg

/-- Write a field controller's register. -/
def fcWrite (f o : Nat) (v : Word) (s : State) : State :=
  if o = 0x11 then writeClkTarget f v s
  else s.updField f (fun x =>
    if o = 0x12 then { x with stretch := v }
    else if o = 0x13 then { x with stopDelay := fieldAt v 0 16 }
    else if o = 0x14 then { x with trims := fieldAt v 20 12, deferrals := fieldAt v 10 10, admitLimit := fieldAt v 0 10 }
    else { x with hopRetries := fieldAt v 16 16, cardRetries := fieldAt v 0 16 })

/-- A state out of an outcome; a command's meaning is a next state here. -/
def outState (d : State) : Out → State
  | .next s => s
  | _ => d

/-- A write of BS_PORDER: the order of its code (R404). -/
def porderWrite (b : Nat) (v : Word) (s : State) : State :=
  if h : b < 1024 then
    match bitsAt v 0 3 with
    | 0 => wakeRequest ⟨b, h⟩ s
    | 2 => outState s (execBsPorderChrysalis ⟨b, h⟩ s)
    | 3 => outState s (execBsPorderDiapause ⟨b, h⟩ s)
    | 4 => outState s (execBsPorderDark ⟨b, h⟩ s)
    | _ => s
  else s

/-- BS_PORDER was given a code that R404 does not list. -/
def porderBad (v : Word) : Bool := !([0, 2, 3, 4].contains (bitsAt v 0 3))

/-- Write a block sequencer's register. -/
def bsWrite (g : Agent) (a : Word) (b o : Nat) (v : Word) (s : State) : State :=
  if o = 0x11 then (if porderBad v then csrError g a 3 s else porderWrite b v s)
  else s.updBlock b (fun x =>
    if o = 0x12 then { x with delay := fieldAt v 16 16, gateCycles := fieldAt v 0 16 }
    else { x with races := fieldAt v 16 16, wakes := fieldAt v 0 16 })

/-- Write a tile's register. TS_FACING takes a write only between two waves of the tile (R101, R264; log entry 153). -/
def tsWrite (o : Nat) (v : Word) (x : Tile) : Tile :=
  if o = 0x10 then { x with seqFault := clearValid v x.seqFault }
  else if o = 0x11 then { x with finFlags := x.finFlags &&& ~~~(fieldAt v 0 3 : BitVec 3) }
  else if o = 0x20 then { x with overrun := x.overrun &&& ~~~(fieldAt v 16 16 : BitVec 16) }
  else if o = 0x21 then { x with hazards := v }
  else if o = 0x30 then (if x.begun then x else { x with facing := fieldAt v 0 1 })
  else if o = 0x31 then { x with bankConflicts := v }
  else if o = 0x33 then { x with steals := fieldAt v 16 16 }
  else if o = 0x35 then { x with memFault := clearValid v x.memFault }
  else if o = 0x36 then { x with creditStalls := fieldAt v 16 16, deferrals := fieldAt v 5 11 }
  else if o = 0x37 then { x with eccSlab := fieldAt v 16 16, eccSram := fieldAt v 0 16 }
  else if o = 0x40 then { x with netFault := clearValid v x.netFault }
  else if o = 0x41 then { x with nodeWaits := fieldAt v 16 12, mcWaits := fieldAt v 0 16 }
  else if o = 0x42 then { x with sent := fieldAt v 16 16 }
  else if o = 0x50 then { x with ownFault := clearValid v x.ownFault }
  else { x with overWaves := fieldAt v 16 16, regCount := fieldAt v 0 16 }

/-- Write a mailbox end's register. -/
def mbxWrite (e : MailEnd) (o : Nat) (v : Word) (s : State) : State :=
  if o = 0xE0 then mbxSend e v s
  else if o = 0xE1 then mbxAck e v s
  else s.updMbx e (fun x =>
    if o = 0xE3 then { x with ackMismatch := x.ackMismatch && !bitAt v 17, refused := x.refused && !bitAt v 16 }
    else if o = 0xE4 then { x with ctrl := fieldAt v 0 3 }
    else { x with tx := Tbl.set 0 x.tx (o - 0xC0) v })

/-- A write that no check stops: reserved bits are ignored, read-only fields keep their values. -/
def csrApply (g : Agent) (a : Word) (r : Csr) (v : Word) (s : State) : State :=
  match r with
  | .dm _ => s.updDev (fun d => { d with csrErr := clearValid v d.csrErr })
  | .fc f o => fcWrite f o v s
  | .bs b o => bsWrite g a b o v s
  | .ts t o =>
    let s1 := s.updTile t (tsWrite o v)
    if (s.block (tileBlock t)).awake then s1 else askWake (tileBlock t) s1
  | .lk c o => s.updPort (4 * c + o % 4) (fun x => { x with naks := fieldAt v 16 16, retrains := fieldAt v 8 8, ctrlIgnored := fieldAt v 0 8 })
  | .pbCtrl p => { s with power := { s.power with takeovers := Tbl.set 0 s.power.takeovers p (fieldAt v 0 16) } }
  | .st n _ => s.updStk n (fun x => { x with uncorr := fieldAt v 0 8 })
  | .mbx e o => mbxWrite e o v s
  | _ => s

/-- CSR_WRITE: the outcomes of R539 in their table's order. -/
def execCsrWrite (agent : Agent) (addr : Word) (v : Word) (s : State) : Out :=
  match csrAt addr with
  | none => .next (csrError agent addr 0 s)
  | some r =>
    if !mayWrite agent r then .next (csrError agent addr 2 s)
    else if !s.csrPowered r then .next (csrError agent addr 4 s)
    else if !csrWritable r then .next (csrError agent addr 1 s)
    else .next (csrApply agent addr r v s)

/-! ## KP_TIME_LO (R543) -/

/-- Agents that read device time, as table keys. -/
def agentKey : Agent → Nat
  | .postmaster => 0
  | .fieldController f => 1 + f.val
  | .blockSequencer b => 65 + b.val
  | .linkFirmware c => 1089 + c.val
  | .hostAdapter c => 1101 + c.val
  | .powerController p => 1113 + p.val

/-- KP_TIME_LO_READ: the upper half is latched for the agent; only the Postmaster reaches a keeper's registers. -/
def execKpTimeLoRead (k : Fin 2) (agent : Agent) (s : State) : Out :=
  if agent = .postmaster then
    .next (s.updKeeper k.val (fun x => { x with timeHigh := Tbl.set none x.timeHigh (agentKey agent) (some (fieldAt s.dev.time 32 32)) }))
  else .next (csrError agent (BitVec.ofNat 32 (7 * 2 ^ 24 + k.val * 2 ^ 8 + 0x12)) 2 s)

end Sys2Proof.Machine
end

