-- ==== Sys2Proof/Machine/Finisher.lean ====
section
/-! DEFINITION. The finisher instruction: 24 operations on vectors of 64 binary32 lanes (R85 to R91, R182, R250 to R253). -/

namespace Sys2Proof.Machine

/-- What a FIN produces: lines by first line, and the flags its lanes set (R87). -/
structure FinOut where
  writes : List (Nat × List Line) := []
  flags : BitVec 3 := 0
  deriving DecidableEq, Repr

/-- Write a FIN's lines. -/
def putLines (ws : List (Nat × List Line)) (x : Tile) : Tile := ws.foldl (fun x w => x.writeLines memWb w.1 w.2) x

/-- Lines of the X operand: none when it is read from slots (R251). -/
def xRanges (f : FinOps) (x : Tile) : List LineRange := if f.xslot then [] else [wbRange (x.line f.ax) (4 * vectors f)]

/-- Lines of the Y operand: none when it is broadcast. -/
def yRanges (f : FinOps) (x : Tile) : List LineRange := if f.yscal then [] else [wbRange (x.line f.ay) (4 * vectors f)]

/-- Lines of a vector destination. -/
def dRanges (f : FinOps) (x : Tile) : List LineRange := [wbRange (x.line f.ad) (4 * vectors f)]

/-- The events of a FIN: a slot hazard befalls only one that reads slots (R77). -/
def finEvents (f : FinOps) (i : Intrusion) : Intrusion := if f.xslot then i else noSlots i

/-- Issue of a FIN (R238, R250, R251): slots, ranges and waits, then the test `first` that comes before any input is examined,
the events of its accesses, and its body; nothing is written on a fault. -/
def finOpAfter (first : Tile → Option TileFault) (f : FinOps) (i : Intrusion) (reads writes : List LineRange)
    (body : Tile → BitVec 3 × Except TileFault FinOut) (x : Tile) : Attempt :=
  let n := vectors f
  let k := f.ax.toNat
  if f.xslot && decide (k + n > 16) then outOfRange x unitFinisher
  else if f.xslot && (List.range n).any (fun c => !(x.slot (k + c)).isOpen) then .fault x (.seq 0x3 unitFinisher)
  else match rangesFault unitFinisher (reads ++ writes) with
  | some e => .fault x e
  | none =>
    if f.xslot && x.slotBusy k n then slotWait x
    else if x.lineBlocks reads writes then .wait x .scoreboard
    else match first x with
    | some e => .fault x e
    | none => accessing (finEvents f i) unitFinisher x (fun y =>
      match (body y).2 with
      | .error e => .fault (y.addFlags (body y).1) e
      | .ok o => .done (putLines o.writes (y.addFlags ((body y).1 ||| o.flags))))

/-- A FIN with no test before its inputs. -/
def finOp (f : FinOps) (i : Intrusion) (reads writes : List LineRange) (body : Tile → BitVec 3 × Except TileFault FinOut)
    (x : Tile) : Attempt := finOpAfter (fun _ => none) f i reads writes body x

/-- The X vectors of a FIN, with the flags slot reads set. -/
def xVectors (f : FinOps) (x : Tile) : Except TileFault (List (List Word × BitVec 3)) := overVectors (finX f x) 0 (vectors f)

/-- Lanes of one operand and their results, with flags. -/
def lanes1 (ovf : Bool) (g : Word → Word) (xs : List Word) : List Word × BitVec 3 :=
  (xs.map g, orFlags (xs.map (fun x => laneFlags ovf [x] (g x))))

def lanes2 (ovf : Bool) (g : Word → Word → Word) (xs ys : List Word) : List Word × BitVec 3 :=
  (zipWords g xs ys, orFlags ((xs.zip ys).map (fun p => laneFlags ovf [p.1, p.2] (g p.1 p.2))))

/-- Write vector results at AD + 4c. -/
def vecWrites (f : FinOps) (x : Tile) (rs : List (List Word)) : List (Nat × List Line) :=
  (rs.zipIdx).map (fun p => (x.line f.ad + 4 * p.2, vecLines p.1))

/-- A FIN whose every vector is a function of the X vector alone. -/
def mapX (f : FinOps) (g : Tile → Nat → List Word → List Word × BitVec 3) (x : Tile) : BitVec 3 × Except TileFault FinOut :=
  match xVectors f x with
  | .error e => (0, .error e)
  | .ok vs =>
    let rs := (vs.zipIdx).map (fun p => g x p.2 p.1.1)
    (orFlags (vs.map Prod.snd), .ok ⟨vecWrites f x (rs.map Prod.fst), orFlags (rs.map Prod.snd)⟩)

/-- A FIN of X and Y vectors. -/
def mapXY (f : FinOps) (g : Tile → Nat → List Word → List Word → List Word × BitVec 3) (x : Tile) :
    BitVec 3 × Except TileFault FinOut :=
  match xVectors f x with
  | .error e => (0, .error e)
  | .ok vs =>
    match overVectors (finY f x) 0 (vectors f) with
    | .error e => (0, .error e)
    | .ok ys =>
      let rs := ((vs.zip ys).zipIdx).map (fun p => g x p.2 p.1.1.1 p.1.2)
      (orFlags (vs.map Prod.snd), .ok ⟨vecWrites f x (rs.map Prod.fst), orFlags (rs.map Prod.snd)⟩)

/-- FIN over X and Y lanes. -/
def finBin (c : Instr) (t : TileId) (f : FinOps) (i : Intrusion) (ovf : Bool) (g : Word → Word → Word) (s : State) : Out :=
  tileExec c t (fun x => finOp f i (xRanges f x ++ yRanges f x) (dRanges f x) (mapXY f (fun _ _ => lanes2 ovf g)) x) s

/-- FIN over X lanes. -/
def finUn (c : Instr) (t : TileId) (f : FinOps) (i : Intrusion) (ovf : Bool) (g : Tile → Word → Word) (s : State) : Out :=
  tileExec c t (fun x => finOp f i (xRanges f x) (dRanges f x) (mapX f (fun y _ => lanes1 ovf (g y))) x) s

def execFinAdd (t : TileId) (f : Met FinOps) (s : State) : Out := finBin (.finAdd t f) t f.ops f.ev true fadd s
def execFinSub (t : TileId) (f : Met FinOps) (s : State) : Out := finBin (.finSub t f) t f.ops f.ev true fsub s
def execFinMul (t : TileId) (f : Met FinOps) (s : State) : Out := finBin (.finMul t f) t f.ops f.ev true fmul s
def execFinMin (t : TileId) (f : Met FinOps) (s : State) : Out := finBin (.finMin t f) t f.ops f.ev false fmin s
def execFinMax (t : TileId) (f : Met FinOps) (s : State) : Out := finBin (.finMax t f) t f.ops f.ev false fmax s
def execFinCmpgt (t : TileId) (f : Met FinOps) (s : State) : Out := finBin (.finCmpgt t f) t f.ops f.ev false fcmpgt s
def execFinCopy (t : TileId) (f : Met FinOps) (s : State) : Out := finUn (.finCopy t f) t f.ops f.ev false (fun _ => quietNaN) s
def execFinRecip (t : TileId) (f : Met FinOps) (s : State) : Out :=
  tileExec (.finRecip t f) t (fun x => finOp f.ops f.ev (xRanges f.ops x) (dRanges f.ops x) (mapX f.ops (fun _ _ xs =>
    (xs.map frecip, orFlags (xs.map (fun v => laneFlags (!isZeroF v) [v] (frecip v)))))) x) s
def execFinRsqrt (t : TileId) (f : Met FinOps) (s : State) : Out := finUn (.finRsqrt t f) t f.ops f.ev false (fun _ => frsqrt) s
def execFinExp (t : TileId) (f : Met FinOps) (s : State) : Out := finUn (.finExp t f) t f.ops f.ev true (fun _ => fexp) s

/-- FMA: x × y + d, d the destination's prior value (R252). -/
def fmaBody (f : FinOps) (x : Tile) : BitVec 3 × Except TileFault FinOut :=
  match overVectors (fun c => match readVec x (x.line f.ad + 4 * c) with
      | .ok ws => .ok ws
      | .error e => .error (parcelFault unitFinisher e)) 0 (vectors f) with
  | .error e => (0, .error e)
  | .ok ds =>
    mapXY f (fun _ c xs ys =>
      let tri := (xs.zip ys).zip (nth [] ds c)
      (tri.map (fun p => ffma p.1.1 p.1.2 p.2),
       orFlags (tri.map (fun p => laneFlags true [p.1.1, p.1.2, p.2] (ffma p.1.1 p.1.2 p.2))))) x

def execFinFma (t : TileId) (f : Met FinOps) (s : State) : Out :=
  tileExec (.finFma t f) t (fun x => finOp f.ops f.ev (xRanges f.ops x ++ yRanges f.ops x ++ dRanges f.ops x) (dRanges f.ops x) (fmaBody f.ops) x) s

/-- EXPM: exp(x − s[SS]). -/
def execFinExpm (t : TileId) (f : Met FinOps) (s : State) : Out :=
  tileExec (.finExpm t f) t (fun x => finOp f.ops f.ev (xRanges f.ops x) (dRanges f.ops x) (mapX f.ops (fun y _ xs =>
    (xs.map (fun v => fexpm v (y.sreg f.ops.ss)),
     orFlags (xs.map (fun v => laneFlags true [v, y.sreg f.ops.ss] (fexpm v (y.sreg f.ops.ss))))))) x) s

/-- Number of the table OPX[1:0]. -/
def tableNo (f : FinOps) : Nat := bitsAt f.opx 0 2

def execFinLookup (t : TileId) (f : Met FinOps) (s : State) : Out :=
  finUn (.finLookup t f) t f.ops f.ev false (fun y v => lookupTable (Tbl.get {} y.tables (tableNo f.ops)) v) s

/-- LOADTBL: 64 F32 lines of entries, then x0 and s in words 0 and 1 of the next (R252); a non-finite one sets the flag (R269). -/
def loadTable (f : FinOps) (i : Intrusion) (x : Tile) : Attempt :=
  let l := x.line f.ax
  match rangesFault unitFinisher [wbRange l 65] with
  | some e => .fault x e
  | none =>
    if x.lineBlocks [wbRange l 65] [] then .wait x .scoreboard
    else accessing (noSlots i) unitFinisher x (fun y =>
      match readWords [fmtF32] y l 65 with
      | .error e => .fault y (parcelFault unitFinisher e)
      | .ok ws =>
        let tab : FinTable := ⟨((ws.take 1024).zipIdx).foldl (fun m p => Tbl.set (0 : Word) m p.2 p.1) [],
          nth 0 ws 1024, nth 0 ws 1025⟩
        .done { y.addFlags (if (ws.take 1026).all isFinite then 0 else flagNonfinite) with
          tables := Tbl.set {} y.tables (tableNo f) tab })

def execFinLoadtbl (t : TileId) (f : Met FinOps) (s : State) : Out :=
  tileExec (.finLoadtbl t f) t (loadTable f.ops f.ev) s

/-! ## Reductions (R253) -/

/-- ACC and G of OPX (R253). -/
def accOf (f : FinOps) : Bool := bitAt f.opx 0
def groupsOf (f : FinOps) : Nat := bitsAt f.opx 1 4 + 1

/-- Lines a reduction writes: one per 16 sums or 8 pairs, or the one accumulated line. -/
def reduceRange (f : FinOps) (per : Nat) (x : Tile) : List LineRange :=
  [wbRange (x.line f.ad) (if accOf f then 1 else (vectors f + per - 1) / per)]

/-- Flags of a value formed inside an operation: an overflow or a NaN that its operands do not have; a partial result is no
input (R269). -/
def innerFlags (ins : List Word) (out : Word) : BitVec 3 := laneFlags true ins out &&& (flagOverflow ||| flagInvalid)

/-- Accumulate sums into the lanes of a line, each addition rounding once, with flags. -/
def accSums (g : Nat) : Nat → List Word → List Word → List Word × BitVec 3
  | _, [], ws => (ws, 0)
  | c, r :: rs, ws =>
    let old := nth 0 ws (c % g)
    let new := fadd old r
    let q := accSums g (c + 1) rs (setNth ws (c % g) new)
    (q.1, q.2 ||| innerFlags [old, r] new)

/-- The flag that the accumulators of `n` vectors leave as inputs: lanes 0 to G − 1 of the line that are combined (R253, R269). -/
def accInputs (g n : Nat) (ws : List Word) : BitVec 3 := if (ws.take (min g n)).all isFinite then 0 else flagNonfinite

/-- Accumulate pairs into the pairs of a line by R85. -/
def accPairs (mini : Bool) (g : Nat) : Nat → List (Word × Word) → List (Word × Word) → List (Word × Word)
  | _, [], ps => ps
  | c, r :: rs, ps => accPairs mini g (c + 1) rs (setNth ps (c % g) (pickPair mini (nth (0, 0) ps (c % g)) r))

/-- LANESUM and SUMSQ. -/
def sumBody (f : FinOps) (square : Bool) (x : Tile) : BitVec 3 × Except TileFault FinOut :=
  match xVectors f x with
  | .error e => (0, .error e)
  | .ok vs =>
    let rs := vs.map (fun v => laneSum (if square then v.1.map (fun a => fmul a a) else v.1))
    let fl := orFlags (vs.map Prod.snd) ||| orFlags ((vs.zip rs).map (fun p => laneFlags true p.1.1 p.2))
    if accOf f then
      match readWords [fmtF32] x (x.line f.ad) 1 with
      | .error e => (fl, .error (parcelFault unitFinisher e))
      | .ok ws =>
        let q := accSums (groupsOf f) 0 rs ws
        (fl, .ok ⟨[(x.line f.ad, [mkWords fmtF32 q.1])], q.2 ||| accInputs (groupsOf f) (vectors f) ws⟩)
    else (fl, .ok ⟨[(x.line f.ad, (chunks 16 (rs.length + 1) rs).map (mkWords fmtF32))], 0⟩)

def execFinLanesum (t : TileId) (f : Met FinOps) (s : State) : Out :=
  tileExec (.finLanesum t f) t (fun x =>
    finOp f.ops f.ev (xRanges f.ops x ++ (if accOf f.ops then reduceRange f.ops 16 x else [])) (reduceRange f.ops 16 x) (sumBody f.ops false) x) s
def execFinSumsq (t : TileId) (f : Met FinOps) (s : State) : Out :=
  tileExec (.finSumsq t f) t (fun x =>
    finOp f.ops f.ev (xRanges f.ops x ++ (if accOf f.ops then reduceRange f.ops 16 x else [])) (reduceRange f.ops 16 x) (sumBody f.ops true) x) s

/-- Indices of a vector's lanes: s[SS] + 64c + i, or the slot positions of a folio record (R253). -/
def laneIndices (f : FinOps) (x : Tile) (rec : List Word) (c : Nat) : List Word :=
  if bitAt f.opx 5 then rec
  else (List.range 64).map (fun i => x.sreg f.ss + BitVec.ofNat 32 (64 * c + i))

/-- Lines of the folio record's positions, read when IDXREC is set. -/
def recRange (f : FinOps) (x : Tile) : List LineRange := if bitAt f.opx 5 then [wbRange (x.line f.ay + 1) 4] else []

/-- MAXIDX and MINIDX. -/
def pickBody (f : FinOps) (mini : Bool) (x : Tile) : BitVec 3 × Except TileFault FinOut :=
  match (if bitAt f.opx 5 then readWords [fmtU32] x (x.line f.ay + 1) 4 else .ok []) with
  | .error e => (0, .error (parcelFault unitFinisher e))
  | .ok rec =>
    match xVectors f x with
    | .error e => (0, .error e)
    | .ok vs =>
      let rs := (vs.zipIdx).map (fun p => pickAll mini (p.1.1.zip (laneIndices f x rec p.2)))
      let fl := orFlags (vs.map Prod.snd) ||| orFlags ((vs.zip rs).map (fun p => laneFlags false p.1.1 p.2.1))
      if accOf f then
        let l := x.readLine memWb (x.line f.ad)
        match parcelCheck [fmtIDX] l with
        | some e => (fl, .error (parcelFault unitFinisher e))
        | none => (fl, .ok ⟨[(x.line f.ad, [mkPairs (accPairs mini (groupsOf f) 0 rs (Line.pairs l))])],
            accInputs (groupsOf f) (vectors f) ((Line.pairs l).map Prod.fst)⟩)
      else (fl, .ok ⟨[(x.line f.ad, (chunks 8 (rs.length + 1) rs).map mkPairs)], 0⟩)

/-- The tile works for a router stage: its max-with-index rounds are gate steps (R203). -/
def State.isRouter (s : State) (t : TileId) : Bool := (s.stagesOf t).any (fun g => g.kind == 3)

/-- Word of the working buffer that holds lane `i` of vector `c` of the X operand. -/
def laneWord (f : FinOps) (x : Tile) (c i : Nat) : Nat := 16 * (x.line f.ax + 4 * c) + i

/-- A gate logit that is no winner masked by KILL is NaN or infinite (R204). -/
def badGateLane (f : FinOps) (x : Tile) (c : Nat) (p : Word × Nat) : Bool :=
  !isFinite p.1 && !(p.1 == negInf && !f.xslot && x.killed.contains (laneWord f x c p.2))

/-- A gate step: max-with-index over gate logits, with the non-finite fault (R203, R204, R266; log entry 141). -/
def gateBody (f : FinOps) (x : Tile) : BitVec 3 × Except TileFault FinOut :=
  match xVectors f x with
  | .error e => (0, .error e)
  | .ok vs =>
    if (vs.zipIdx).any (fun v => (v.1.1.zipIdx).any (badGateLane f x v.2)) then
      (flagNonfinite, .error (.seq 0x7 unitFinisher))
    else pickBody f false x

def execFinMaxidx (t : TileId) (f : Met FinOps) (s : State) : Out :=
  tileExec (.finMaxidx t f) t (fun x =>
    finOp f.ops f.ev (xRanges f.ops x ++ recRange f.ops x ++ (if accOf f.ops then reduceRange f.ops 8 x else [])) (reduceRange f.ops 8 x)
      (if s.isRouter t then gateBody f.ops else pickBody f.ops false) x) s
def execFinMinidx (t : TileId) (f : Met FinOps) (s : State) : Out :=
  tileExec (.finMinidx t f) t (fun x =>
    finOp f.ops f.ev (xRanges f.ops x ++ recRange f.ops x ++ (if accOf f.ops then reduceRange f.ops 8 x else [])) (reduceRange f.ops 8 x)
      (pickBody f.ops true) x) s

/-! ## RMS, ROPE, QUANT, MASK, KILL, CLEAR (R252) -/

def execFinRms (t : TileId) (f : Met FinOps) (s : State) : Out :=
  tileExec (.finRms t f) t (fun x =>
    finOp f.ops f.ev (xRanges f.ops x ++ yRanges f.ops x) (dRanges f.ops x) (mapXY f.ops (fun y _ xs ys =>
      let q := y.sreg f.ops.ss
      let eps := y.sreg (f.ops.ss + 1)
      let r := rmsFactor q eps f.ops.opx.toNat
      (zipWords (fun a b => rmsLane a b r) xs ys,
       orFlags ((xs.zip ys).map (fun p => laneFlags true [p.1, p.2, q, eps] (rmsLane p.1 p.2 r)))))) x) s

/-- ROPE: ω_i of vector c in the two U32 lines at AY + 2c, at position POSITION + s[SS]. -/
def ropeBody (f : FinOps) (x : Tile) : BitVec 3 × Except TileFault FinOut :=
  match overVectors (fun c => match readWords [fmtU32] x (x.line f.ay + 2 * c) 2 with
      | .ok ws => .ok ws
      | .error e => .error (parcelFault unitFinisher e)) 0 (vectors f) with
  | .error e => (0, .error e)
  | .ok om =>
    mapX f (fun y c xs =>
      let pos := (y.ctx.position.toNat + (y.sreg f.ss).toNat) % 2 ^ 24
      let out := ropeVec pos (nth [] om c) xs
      (out, orFlags ((List.range 64).map (fun i =>
        laneFlags true [nth 0 xs (i / 2 * 2), nth 0 xs (i / 2 * 2 + 1)] (nth 0 out i))))) x

def execFinRope (t : TileId) (f : Met FinOps) (s : State) : Out :=
  tileExec (.finRope t f) t (fun x =>
    finOp f.ops f.ev (xRanges f.ops x ++ [wbRange (x.line f.ops.ay) (2 * vectors f.ops)]) (dRanges f.ops x) (ropeBody f.ops) x) s

/-- QUANT: T = s[SS]; A8 with registration at a two-line stride, A8, or W8 (R252). -/
def quantBody (f : FinOps) (threshold : Nat) (x : Tile) : BitVec 3 × Except TileFault FinOut :=
  let mode := bitsAt f.opx 0 2
  match xVectors f x with
  | .error e => (0, .error e)
  | .ok vs =>
    let fl := orFlags (vs.map Prod.snd) ||| orFlags (vs.map (fun v => orFlags (v.1.map (fun a => laneFlags false [a] 0))))
    match overVectors (fun c =>
        match quantise (if mode = 0 then .a8r else if mode = 1 then .a8 else .kv8) threshold (x.sreg f.ss)
            (nth ([], 0) vs c).1 with
        | .ok b => .ok (quantParcels (if mode = 2 then fmtW8 else fmtA8) b)
        | .error e => .error (quantFault unitFinisher e)) 0 (vectors f) with
    | .error e => (fl, .error e)
    | .ok ps => (fl, .ok ⟨(ps.zipIdx).map (fun p => (x.line f.ad + (if mode = 0 then 2 else 1) * p.2, p.1)), 0⟩)

/-- The test of T comes before any input is examined (R54, R56). -/
def quantFirst (f : FinOps) (x : Tile) : Option TileFault :=
  if posNormal (x.sreg f.ss) then none else some (.seq 0x5 unitFinisher)

def execFinQuant (t : TileId) (f : Met FinOps) (s : State) : Out :=
  tileExec (.finQuant t f) t (fun x =>
    finOpAfter (quantFirst f.ops) f.ops f.ev (xRanges f.ops x) [wbRange (x.line f.ops.ad) ((if bitsAt f.ops.opx 0 2 = 0 then 2 else 1) * vectors f.ops)]
      (quantBody f.ops (s.regThreshold t)) x) s

/-- A score stays where its slot is valid and its position is not beyond the query's (R182). -/
def maskKeeps (valid : Nat) (position query : Word) (i : Nat) : Bool :=
  valid.testBit i && decide (bitsAt position 0 24 ≤ query.toNat)

/-- MASK under the folio record at AY (R182, R252). -/
def maskBody (f : FinOps) (x : Tile) : BitVec 3 × Except TileFault FinOut :=
  match readWords [fmtU32] x (x.line f.ay) 5 with
  | .error e => (0, .error (parcelFault unitFinisher e))
  | .ok ws =>
    let valid := (nth 0 ws 2).toNat + 2 ^ 32 * (nth 0 ws 3).toNat
    mapX f (fun y _ xs =>
      ((xs.zipIdx).map (fun p => if maskKeeps valid (nth 0 ws (16 + p.2)) (y.sreg f.ss) p.2 then quietNaN p.1 else negInf),
       orFlags (xs.map (fun a => laneFlags false [a] 0)))) x

def execFinMask (t : TileId) (f : Met FinOps) (s : State) : Out :=
  tileExec (.finMask t f) t (fun x =>
    finOp f.ops f.ev (xRanges f.ops x ++ [wbRange (x.line f.ops.ay) 5]) (dRanges f.ops x) (maskBody f.ops) x) s

/-- The lane KILL names becomes −infinity, the others are copied (R252). -/
def killLanes (f : FinOps) (k : Nat) (x : Tile) : BitVec 3 × Except TileFault FinOut :=
  mapX f (fun _ c xs =>
    ((xs.zipIdx).map (fun p => if c = k / 64 ∧ p.2 = k % 64 then negInf else quietNaN p.1),
     orFlags (xs.map (fun a => laneFlags false [a] 0)))) x

/-- Words of the destination that hold lanes KILL masked: the one it names, and those that were masked in X (R203). -/
def killedWords (f : FinOps) (k : Nat) (x : Tile) : List Nat :=
  (List.range (64 * vectors f)).filterMap (fun n =>
    if n = k ∨ (f.xslot = false ∧ x.killed.contains (16 * x.line f.ax + n) = true) then some (16 * x.line f.ad + n) else none)

/-- Note the words KILL masked once it has written them. -/
def noteKilled (ks : List Nat) : Attempt → Attempt
  | .done y => .done { y with killed := y.killed ++ ks }
  | a => a

/-- KILL: one lane becomes −infinity (R252). -/
def execFinKill (t : TileId) (f : Met FinOps) (s : State) : Out :=
  tileExec (.finKill t f) t (fun x =>
    let k := (x.sreg f.ops.ss).toNat
    if k / 64 ≥ vectors f.ops then outOfRange x unitFinisher
    else noteKilled (killedWords f.ops k x) (finOp f.ops f.ev (xRanges f.ops x) (dRanges f.ops x) (killLanes f.ops k) x)) s

/-- CLEAR: F32 zeros, or IDX pairs (−infinity, 0xFFFF_FFFF) (R252). -/
def execFinClear (t : TileId) (f : Met FinOps) (s : State) : Out :=
  tileExec (.finClear t f) t (fun x =>
    let line := if bitAt f.ops.opx 0 then mkPairs (List.replicate 8 (negInf, 0xFFFFFFFF)) else mkWords fmtF32 (List.replicate 16 0)
    finOp f.ops f.ev [] [wbRange (x.line f.ops.ad) (vectors f.ops)]
      (fun y => (0, .ok ⟨[(y.line f.ops.ad, List.replicate (vectors f.ops) line)], 0⟩)) x) s

end Sys2Proof.Machine
end

