-- ==== Sys2Proof/Machine/Pane.lean ====
section
/-! DEFINITION. The pane, the tally column and the accumulator slots: PASS, a block end, PRELOAD and DRAIN (R63 to R84,
R244 to R249). -/

namespace Sys2Proof.Machine

/-! ## Weight steps and cache views (R64, R165 to R167, R245) -/

/-- The weight check of R60: the parcel's classes, with an illegal codebook word among the illegal scales. -/
def weightCheck (fmt : Byte) (book : Word) (l : Line) : Option ParcelFault :=
  match parcelCheck [fmt] l with
  | some .crc => some .crc
  | some .format => some .format
  | r => if codebookOk fmt book then r else some .scale

/-- The first weight fault of several lines. -/
def weightChecks (fmt : Byte) (book : Word) : List Line → Option ParcelFault
  | [] => none
  | l :: ls => (weightCheck fmt book l).orElse (fun _ => weightChecks fmt book ls)

/-- The 64 columns of a sheet in the stored view: column n is dimension n; a half sheet leaves columns 32 to 63 as zero
blocks; every column carries the scale of the sheet's first line (R167). -/
def storedView (sc : Byte) (dims : List (List Int)) : List (List WBlock) :=
  (List.range 64).map (fun n => match dims[n]? with
    | some ls => [mkWBlock sc ls]
    | none => [mkWBlock 0 []])

/-- The transposed view: column n is slot n, its levels run over the dimensions, 0 beyond a half sheet's (R167). -/
def transposedView (sc : Byte) (dims : List (List Int)) : List (List WBlock) :=
  (List.range 64).map (fun n =>
    [mkWBlock sc ((List.range 64).map (fun k => match dims[k]? with | some ls => nth 0 ls n | none => 0))])

/-- The codes of a sheet's dimensions, each across slots 0 to 63 (R165). -/
def sheetDims (fmt : Byte) (ls : List Line) : List (List Int) :=
  if fmt = fmtKV4 then
    ls.flatMap (fun l => (List.range 2).map (fun b => (List.range 64).map (fun i => (fieldAt l (256 * b + 4 * i) 4).toInt)))
  else ls.map Line.signed

/-- The 64 columns of one weight or cache step. -/
def passColumns (f : PassOps) (fmt : Byte) (book : Word) (ls : List Line) : List (List WBlock) :=
  if f.isCache then
    let sc := match ls with | [] => 0 | l :: _ => Line.scale l 0
    if f.view then transposedView sc (sheetDims fmt ls) else storedView sc (sheetDims fmt ls)
  else stepColumns fmt book ls

/-- Lines of step j: a half sheet has half of them (R245). -/
def stepCount (f : PassOps) (j : Nat) : Nat :=
  if f.half && j + 1 == f.steps.toNat then stepLines (passFmt f) / 2 else stepLines (passFmt f)

/-- Line of block row r, token k (R245). -/
def actLine (f : PassOps) (aa r k : Nat) : Nat := aa + (if f.reg then 2 else 1) * (r * dwellOf f + k)

/-- The activation block of block row r, token k; a pair needs REG (R245). -/
def readAct (f : PassOps) (aa : Nat) (t : Tile) (r k : Nat) : Except ParcelFault ActBlock :=
  let l := actLine f aa r k
  actBlock (t.readLine memWb l) (if f.reg then some (t.readLine memWb (l + 1)) else none)

/-- Block ends of one block row for token `k` of a PASS: none for a zero activation block or a zero step; the high pass before
the low pass (R67 to R69, R81). -/
def rowEnds (f : PassOps) (reads : List LineRange) (k : Nat) (cols : List WBlock) (a : ActBlock) : List BlockEnd :=
  if a.scale = 0 ∨ cols.all (fun c => c.scale == 0) then []
  else
    let rs := tallyRow cols
    let mk (high : Bool) (codes : List Int) : BlockEnd :=
      { slot := f.slot + BitVec.ofNat 4 k, ints := cols.map (fun c => dot codes c.levels), tally := dot codes rs,
        wscales := cols.map (fun c => c.scale), ascale := a.scale, high := high, base := f.slot.toNat, span := dwellOf f,
        reads := reads }
    match a with
    | .a8 _ codes => [mk false codes]
    | .pair _ hi lo => [mk true hi, mk false lo]

/-- Read the activation blocks of one token over the block rows of step j. -/
def tokenBlocks (f : PassOps) (aa : Nat) (t : Tile) (j k : Nat) : Nat → Except ParcelFault (List ActBlock)
  | 0 => .ok []
  | r + 1 =>
    match tokenBlocks f aa t j k r with
    | .error e => .error e
    | .ok bs =>
      match readAct f aa t (stepRows (passFmt f) * j + r) k with
      | .error e => .error e
      | .ok b => .ok (bs ++ [b])

/-- Activation blocks of step j, token by token. -/
def stepBlocks (f : PassOps) (aa : Nat) (t : Tile) (j : Nat) : Nat → Except ParcelFault (List (List ActBlock))
  | 0 => .ok []
  | k + 1 =>
    match stepBlocks f aa t j k with
    | .error e => .error e
    | .ok bs =>
      match tokenBlocks f aa t j k (stepRows (passFmt f)) with
      | .error e => .error e
      | .ok b => .ok (bs ++ [b])

/-- Block ends of one step: tokens in order, block rows in order (R66, R78). -/
def stepEnds (f : PassOps) (reads : List LineRange) (cols : List (List WBlock)) (bs : List (List ActBlock)) : List BlockEnd :=
  (bs.zipIdx).flatMap (fun p => (p.1.zipIdx).flatMap (fun q => rowEnds f reads p.2 (blockRow cols q.2) q.1))

/-- A registered pair. -/
def ActBlock.isPair : ActBlock → Bool
  | .a8 _ _ => false
  | .pair _ _ _ => true

/-- Step `j` of a PASS over the lines from `aw` and `aa`: its block ends in their order and the registered blocks it takes. Of
several faulty parcels the first counts, activations before weights (DESIGN CHOICE, log entry 140). -/
def passStep (f : PassOps) (aw aa : Nat) (book : Word) (t : Tile) (j : Nat) : Except ParcelFault (List BlockEnd × Nat) :=
  let ls := t.readLines (if f.isCache then memSlab else memWs) (aw + j * stepLines (passFmt f)) (stepCount f j)
  match stepBlocks f aa t j (dwellOf f) with
  | .error e => .error e
  | .ok bs =>
    match weightChecks (passFmt f) book ls with
    | some e => .error e
    | none => .ok (stepEnds f (rangesOf f aw aa) (passColumns f (passFmt f) book ls) bs, (bs.flatMap id).countP ActBlock.isPair)

/-- Run the first `n` steps: the block ends in their order and the registered blocks taken. -/
def passSteps (f : PassOps) (aw aa : Nat) (book : Word) (t : Tile) : Nat → Except ParcelFault (List BlockEnd × Nat)
  | 0 => .ok ([], 0)
  | j + 1 =>
    match passSteps f aw aa book t j with
    | .error e => .error e
    | .ok p =>
      match passStep f aw aa book t j with
      | .error e => .error e
      | .ok q => .ok (p.1 ++ q.1, p.2 + q.2)

/-- Ranges a pass reads. -/
def passRanges (f : PassOps) (t : Tile) : List LineRange := rangesOf f (t.line f.aw) (t.line f.aa)

/-- The tile after the steps of a PASS: their block ends are on their way, their registered blocks are counted (R458). -/
def Tile.addEnds (t : Tile) (p : List BlockEnd × Nat) : Tile :=
  { t with blockEnds := t.blockEnds ++ p.1, regBlocks := t.regBlocks + p.2, regCount := satAdd t.regCount p.2 }

/-- A PASS issues: its slots count as written, and its dwell (R83, R457). -/
def Tile.startPass (t : Tile) (f : PassOps) : Tile :=
  { (t.markWritten f.slot.toNat (dwellOf f)) with maxDwell := max t.maxDwell (dwellOf f) }

/-- PASS (R244 to R247): checks, then every block end of the pass on its way to its slot, in order. A PASS that reads lines an
earlier TAKE still fills, or follows such a PASS, issues and takes its steps as their lines are written (R236). -/
def passOp (family : BitVec 16) (f : PassOps) (i : Intrusion) (w : BitVec 64) (x : Tile) : Attempt :=
  let d := dwellOf f
  if !f.tally && !x.test then illegal x
  else if f.slot.toNat + d > 16 then outOfRange x unitPane
  else if (List.range d).any (fun k => !(x.slot (f.slot.toNat + k)).isOpen) then .fault x (.seq 0x3 unitPane)
  else match rangesFault unitPane (passRanges f x) with
  | some e => .fault x e
  | none =>
    match (if f.isCache then
        ownCheck (.sessionRead x.ctx.session x.ctx.tenant) family x unitPane (x.line f.aw) (operandLines f) else none) with
    | some e => .fault x e
    | none =>
      if x.sbBlocks (passRanges f x) [] then .wait x .scoreboard
      else accessing i unitPane x (fun y =>
        if y.takeBlocks (passRanges f x) || !y.passes.isEmpty then
          .done { y.startPass f with passes := y.passes ++ [⟨f, x.line f.aw, x.line f.aa, x.sreg f.sc, 0, x.pc, w⟩] }
        else match passSteps f (x.line f.aw) (x.line f.aa) (x.sreg f.sc) y f.steps.toNat with
        | .error e => .fault y (parcelFault unitPane e)
        | .ok p => .done ((y.startPass f).addEnds p))

def execPass (t : TileId) (f : PassOps) (i : Intrusion) (s : State) : Out :=
  tileExec (.pass t f i) t (passOp (s.familyOf (s.tile t).ctx.session) f i (Instr.pass t f i).word) s

/-! ## Steps of a PASS behind a TAKE (R236) -/

/-- Activation lines of a waiting PASS's next step. -/
def nextLines (p : PassRun) : LineRange := ⟨memWb, p.aa + p.step * stepActs p.f, stepActs p.f⟩

/-- Take the steps of a waiting PASS whose lines are written, at most `n`. -/
def feedPass : Nat → PassRun → Tile → Except ParcelFault (PassRun × Tile)
  | 0, p, x => .ok (p, x)
  | n + 1, p, x =>
    if p.step ≥ p.f.steps.toNat ∨ x.takeBlocks [nextLines p] = true then .ok (p, x)
    else match passStep p.f p.aw p.aa p.book x p.step with
    | .error e => .error e
    | .ok q => feedPass n { p with step := p.step + 1 } (x.addEnds q)

/-- Feed the waiting PASSes in their order: a later one begins when the earlier ones have taken every step. -/
def feedPasses : List PassRun → Tile → Except (ParcelFault × PassRun) Tile
  | [], x => .ok { x with passes := [] }
  | p :: ps, x =>
    match feedPass p.f.steps.toNat p x with
    | .error e => .error (e, p)
    | .ok (q, y) => if q.step ≥ q.f.steps.toNat then feedPasses ps y else .ok { y with passes := q :: ps }

/-! ## Block ends (R70 to R72, R80 to R84) -/

/-- P = I × σ_w × σ_a, with 256 for a high pass (R72). -/
def blockTerm (b : BlockEnd) (i : Int) (sw : Byte) : Dy :=
  let p := ((Dy.ofInt i).mul (e4m3Val sw)).mul (e4m3Val b.ascale)
  if b.high then p.scale 8 else p

/-- Add one block end to a slot's values, column by column; the flag says whether a sum overflowed (R72). -/
def addColumns (b : BlockEnd) : Nat → List Int → List Byte → Tbl Acc40 → Tbl Acc40 × Bool
  | n, i :: is, w :: ws, vals =>
    let r := accAdd (Tbl.get 0 vals n) (blockTerm b i w)
    let q := addColumns b (n + 1) is ws (Tbl.set 0 vals n r.1)
    (q.1, r.2 || q.2)
  | _, _, _, vals => (vals, false)

/-- The slot after a block end, and whether a sum overflowed. -/
def addBlockEnd (b : BlockEnd) (x : Slot) : Slot × Bool :=
  let r := addColumns b 0 b.ints b.wscales x.vals
  ({ x with vals := r.1, count := x.count + 1 }, r.2)

/-- The column sum the tally compares, with the error a fault makes to it (R82). -/
def columnSum (b : BlockEnd) (e : PaneError) : Int :=
  sumInt b.ints + (match e with | .columns d => d | _ => 0)

/-- The block end faults: the tally differs, or parity or a residue check fails (R83, R84). -/
def blockEndFaults (b : BlockEnd) (e : PaneError) : Bool :=
  match e with
  | .parity => true
  | .residue => true
  | _ => columnSum b e != b.tally

/-- The tile after a good block end: the additions, their flag, and OVERRUN from the 1,025th (R72, R80). -/
def retireBlockEnd (b : BlockEnd) (rest : List BlockEnd) (x : Tile) : Tile :=
  let r := addBlockEnd b (x.slot b.slot.toNat)
  { (x.putSlot b.slot.toNat r.1) with
    blockEnds := rest
    finFlags := x.finFlags ||| (if r.2 then flagOverflow else 0)
    overrun := if r.1.count > 1024 then x.overrun ||| BitVec.ofNat 16 (2 ^ b.slot.toNat) else x.overrun }

/-- The oldest block end of a tile reaches the column bottoms. -/
def endBlock (t : TileId) (e : PaneError) (s : State) : State :=
  match (s.tile t).blockEnds with
  | [] => s
  | b :: rest => if blockEndFaults b e then takeFault t .compute 0 s else s.updTile t (retireBlockEnd b rest)

/-- BLOCK_END: waiting PASSes take the steps whose lines are written; then the oldest block end of the tile reaches the column
bottoms. -/
def execBlockEnd (t : TileId) (e : PaneError) (s : State) : Out :=
  if (s.block (tileBlock t)).pstate == .active then
    match feedPasses (s.tile t).passes (s.tile t) with
    | .error r => .next (takeFaultAt t (parcelFault unitPane r.1) r.2.pc r.2.word (s.updTile t (fun x => { x with passes := [] })))
    | .ok y => .next (endBlock t e (s.putTile t y))
  else .next s

/-! ## PRELOAD (R73, R74, R248) -/

/-- Slots of an N − 1 field. -/
def slotCount (n : BitVec 3) : Nat := n.toNat + 1

/-- Open slots from `k` upward, each with its values. -/
def openSlots (factor : Word) : Nat → List (List Acc40) → Tile → Tile
  | _, [], x => x
  | k, v :: vs, x =>
    let vals := (v.zipIdx).foldl (fun m p => Tbl.set (0 : Acc40) m p.2 p.1) []
    openSlots factor (k + 1) vs (x.putSlot k ⟨true, factor, 0, vals⟩)

/-- PRELOAD of the vectors `vs`: range, factor and hazard checks first. -/
def preloadOp (f : PreloadOps) (i : Intrusion) (reads : List LineRange) (vs : Tile → Except TileFault (List (List Word)))
    (x : Tile) : Attempt :=
  let n := slotCount f.n
  if f.slot.toNat + n > 16 then outOfRange x unitConverter
  else match rangesFault unitConverter reads with
  | some e => .fault x e
  | none =>
    if x.slotBusy f.slot.toNat n then slotWait x
    else if x.lineBlocks reads [] then .wait x .scoreboard
    else if !posNormal (x.sreg f.sf) then .fault x (.seq 0x5 unitConverter)
    else accessing i unitConverter x (fun y =>
      match vs y with
      | .error e => .fault y e
      | .ok ws =>
        if !(ws.all (fun v => v.all isFinite)) then .fault y (.seq 0x7 unitConverter)
        else .done ((openSlots (x.sreg f.sf) f.slot.toNat (ws.map (fun v => v.map accOfF32)) y).markWritten f.slot.toNat n))

/-- Vectors of a vector preload: slot SLOT + i takes the four lines at AV + 4i. -/
def preloadVectors (f : PreloadOps) (x : Tile) : Except TileFault (List (List Word)) :=
  overVectors (fun i => match readVec x (x.line f.av + 4 * i) with
    | .ok ws => .ok ws
    | .error e => .error (parcelFault unitConverter e)) 0 (slotCount f.n)

def execPreloadZero (t : TileId) (f : Met PreloadOps) (s : State) : Out :=
  tileExec (.preloadZero t f) t
    (preloadOp f.ops f.ev [] (fun _ => .ok (List.replicate (slotCount f.ops.n) (List.replicate 64 0)))) s

def execPreloadVector (t : TileId) (f : Met PreloadOps) (s : State) : Out :=
  tileExec (.preloadVector t f) t
    (fun x => preloadOp f.ops f.ev [wbRange (x.line f.ops.av) (4 * slotCount f.ops.n)] (preloadVectors f.ops) x) s

/-! ## DRAIN (R75, R249) -/

/-- The lines slot `k` drains to. -/
def drainVec (vs : List (Word × Bool)) : Except QuantFault (List Line) := .ok (vecLines (vs.map Prod.fst))

/-- The quantised lines of a drained slot. -/
def drainQuant (q : QTarget) (threshold : Nat) (T : Word) (vs : List (Word × Bool)) : Except QuantFault (List Line) :=
  match quantise q threshold T (vs.map Prod.fst) with
  | .ok b => .ok (quantParcels fmtA8 b)
  | .error e => .error e

/-- Close the slots of a drain. -/
def closeSlots (k n : Nat) (x : Tile) : Tile :=
  (List.range n).foldl (fun x i => x.putSlot (k + i) {}) x

/-- Write the lines of each drained slot at its stride (R249). -/
def writeDrained (stride ad : Nat) (ps : List (List Line)) (x : Tile) : Tile :=
  (ps.zipIdx).foldl (fun x p => x.writeLines memWb (ad + stride * p.2) p.1) x

/-- DRAIN with line stride `stride` and conversion `conv`; `legal` is the test of T that comes before any value is examined
(R54, R56). -/
def drainOp (f : DrainOps) (i : Intrusion) (stride : Nat) (legal : Word → Bool)
    (conv : Word → List (Word × Bool) → Except QuantFault (List Line)) (x : Tile) : Attempt :=
  let n := slotCount f.n
  let k := f.slot.toNat
  if k + n > 16 then outOfRange x unitConverter
  else if (List.range n).any (fun c => !(x.slot (k + c)).isOpen) then .fault x (.seq 0x3 unitConverter)
  else match rangesFault unitConverter [wbRange (x.line f.ad) (stride * n)] with
  | some e => .fault x e
  | none =>
    if x.slotBusy k n then slotWait x
    else if x.lineBlocks [] [wbRange (x.line f.ad) (stride * n)] then .wait x .scoreboard
    else if !legal (x.sreg f.st) then .fault x (.seq 0x5 unitConverter)
    else accessing i unitConverter x (fun z =>
      let vss := (List.range n).map (fun c => drainValues (x.slot (k + c)))
      let y := z.addFlags (orFlags (vss.map drainFlags))
      match overVectors (fun c => match conv (x.sreg f.st) (nth [] vss c) with
          | .ok ls => .ok ls
          | .error e => .error (quantFault unitConverter e)) 0 n with
      | .error e => .fault y e
      | .ok ps => .done (if f.keep then writeDrained stride (x.line f.ad) ps y
          else closeSlots k n (writeDrained stride (x.line f.ad) ps y)))

def execDrainToF32 (t : TileId) (f : Met DrainOps) (s : State) : Out :=
  tileExec (.drainToF32 t f) t (drainOp f.ops f.ev 4 (fun _ => true) (fun _ vs => drainVec vs)) s
def execDrainToA8r (t : TileId) (f : Met DrainOps) (s : State) : Out :=
  tileExec (.drainToA8r t f) t (drainOp f.ops f.ev 2 posNormal (drainQuant .a8r (s.regThreshold t))) s
def execDrainToA8 (t : TileId) (f : Met DrainOps) (s : State) : Out :=
  tileExec (.drainToA8 t f) t (drainOp f.ops f.ev 1 posNormal (drainQuant .a8 0)) s

end Sys2Proof.Machine
end

