-- ==== Sys2Proof/Machine/Scalar.lean ====
section
/-! DEFINITION. Scalar, address and control instructions (R241 to R243), and the illegal instruction (R240). -/

namespace Sys2Proof.Machine

/-- The shift amount B[4:0] (R241). -/
def shiftAmount (b : Word) : Nat := b.toNat % 32

def execAdd (t : TileId) (f : ScalarOps) (s : State) : Out :=
  tileExec (.add t f) t (scalarOp (fun a b => a + b) f) s
def execSub (t : TileId) (f : ScalarOps) (s : State) : Out :=
  tileExec (.sub t f) t (scalarOp (fun a b => a - b) f) s
def execMul (t : TileId) (f : ScalarOps) (s : State) : Out :=
  tileExec (.mul t f) t (scalarOp (fun a b => a * b) f) s
def execAnd (t : TileId) (f : ScalarOps) (s : State) : Out :=
  tileExec (.and t f) t (scalarOp (fun a b => a &&& b) f) s
def execOr (t : TileId) (f : ScalarOps) (s : State) : Out :=
  tileExec (.or t f) t (scalarOp (fun a b => a ||| b) f) s
def execXor (t : TileId) (f : ScalarOps) (s : State) : Out :=
  tileExec (.xor t f) t (scalarOp (fun a b => a ^^^ b) f) s
def execShl (t : TileId) (f : ScalarOps) (s : State) : Out :=
  tileExec (.shl t f) t (scalarOp (fun a b => a <<< shiftAmount b) f) s
def execShr (t : TileId) (f : ScalarOps) (s : State) : Out :=
  tileExec (.shr t f) t (scalarOp (fun a b => a >>> shiftAmount b) f) s
def execSra (t : TileId) (f : ScalarOps) (s : State) : Out :=
  tileExec (.sra t f) t (scalarOp (fun a b => a.sshiftRight (shiftAmount b)) f) s
def execSlt (t : TileId) (f : ScalarOps) (s : State) : Out :=
  tileExec (.slt t f) t (scalarOp (fun a b => boolWord (a.slt b)) f) s
def execSltu (t : TileId) (f : ScalarOps) (s : State) : Out :=
  tileExec (.sltu t f) t (scalarOp (fun a b => boolWord (a.ult b)) f) s
def execFadd (t : TileId) (f : ScalarOps) (s : State) : Out :=
  tileExec (.fadd t f) t (scalarOp fadd f) s
def execFmul (t : TileId) (f : ScalarOps) (s : State) : Out :=
  tileExec (.fmul t f) t (scalarOp fmul f) s
def execFlt (t : TileId) (f : ScalarOps) (s : State) : Out :=
  tileExec (.flt t f) t (scalarOp (fun a b => boolWord (fltB a b)) f) s

/-- FRCP: the finisher's reciprocal, bit for bit (R241). -/
def execFrcp (t : TileId) (f : ScalarOps) (s : State) : Out :=
  tileExec (.frcp t f) t (fun x => .done (x.setS f.d (frecip (x.sreg f.a)))) s

/-- MOVC: the item of the wave context that IMM32[2:0] selects (R241). -/
def movcItem (t : TileId) (x : Tile) (item : Nat) : Word :=
  match item with
  | 0 => x.ctx.session.setWidth 32
  | 1 => x.ctx.tenant.setWidth 32
  | 2 => x.ctx.position.setWidth 32
  | 3 => x.ctx.wave.setWidth 32
  | 4 => BitVec.ofNat 32 (x.ctx.replay.toNat + 2 * x.ctx.bypass.toNat)
  | 5 => t.setWidth 32
  | _ => BitVec.ofNat 32 (match x.loops with | [] => 0 | l :: _ => l.index)

def execMovc (t : TileId) (f : ScalarOps) (s : State) : Out :=
  tileExec (.movc t f) t (fun x => .done (x.setS f.d (movcItem t x f.imm32.toNat))) s

def execAset (t : TileId) (f : ScalarOps) (s : State) : Out :=
  tileExec (.aset t f) t (fun x => .done (x.setA (areg4 f.d) (x.sreg f.a + opB f x))) s
def execAinc (t : TileId) (f : ScalarOps) (s : State) : Out :=
  tileExec (.ainc t f) t (fun x => .done (x.setA (areg4 f.d) (x.areg (areg4 f.d) + opB f x))) s
def execAget (t : TileId) (f : ScalarOps) (s : State) : Out :=
  tileExec (.aget t f) t (fun x => .done (x.setS f.d (x.areg (areg4 f.a)))) s

/-! ## LDW and STW (R242) -/

/-- LDW: the line's CRC is checked, its content is not. -/
def loadWord (f : LoadStoreOps) (i : Intrusion) (x : Tile) : Attempt :=
  let l := lineOf f x
  match rangesFault unitSequencer [wbRange l 1] with
  | some e => .fault x e
  | none =>
    if x.lineBlocks [wbRange l 1] [] then .wait x .scoreboard
    else accessing (noSlots i) unitSequencer x (fun y =>
      let v := y.readLine memWb l
      if crcGood v then .done (y.setS f.d (wordAt v f.word.toNat)) else .fault y .crc)

/-- The line STW writes: one word replaced, the sidecar rewritten (R242). -/
def storeLine (f : LoadStoreOps) (v : Word) (l : Line) : Line :=
  mkWords (if f.f32 then fmtF32 else fmtU32) (setNth (Line.words l) f.word.toNat v)

def storeWord (f : LoadStoreOps) (i : Intrusion) (x : Tile) : Attempt :=
  let l := lineOf f x
  match rangesFault unitSequencer [wbRange l 1] with
  | some e => .fault x e
  | none =>
    if x.lineBlocks [] [wbRange l 1] then .wait x .scoreboard
    else accessing (noSlots i) unitSequencer x (fun y =>
      .done (y.writeLine memWb l (storeLine f (y.sreg f.d) (y.readLine memWb l))))

def execLdw (t : TileId) (f : LoadStoreOps) (i : Intrusion) (s : State) : Out :=
  tileExec (.ldw t f i) t (loadWord f i) s
def execStw (t : TileId) (f : LoadStoreOps) (i : Intrusion) (s : State) : Out :=
  tileExec (.stw t f i) t (storeWord f i) s

/-! ## Branches and loops (R243) -/

/-- A conditional branch: taken to TARGET, or on to the next instruction. -/
def branchOp (c : Word → Word → Bool) (f : BranchOps) (x : Tile) : Attempt :=
  if c (x.sreg f.a) (x.sreg f.b) then .goto x f.target else .done x

def execBeq (t : TileId) (f : BranchOps) (s : State) : Out := tileExec (.beq t f) t (branchOp (fun a b => a == b) f) s
def execBne (t : TileId) (f : BranchOps) (s : State) : Out := tileExec (.bne t f) t (branchOp (fun a b => a != b) f) s
def execBlt (t : TileId) (f : BranchOps) (s : State) : Out := tileExec (.blt t f) t (branchOp (fun a b => a.slt b) f) s
def execBge (t : TileId) (f : BranchOps) (s : State) : Out := tileExec (.bge t f) t (branchOp (fun a b => b.sle a) f) s
def execJmp (t : TileId) (f : BranchOps) (s : State) : Out := tileExec (.jmp t f) t (fun x => .goto x f.target) s

/-- LOOP: COUNT times, or s[A] times when COUNT is 0; a count of 0 skips the body (R243, R568). -/
def loopOp (f : LoopOps) (x : Tile) : Attempt :=
  if f.stop.toNat ≤ x.pc.toNat then illegal x
  else if x.loops.length ≥ 4 then outOfRange x unitSequencer
  else
    let n := if f.count = 0 then (x.sreg f.a).toNat else f.count.toNat
    if n = 0 then .goto x (f.stop + 1)
    else .done { x with loops := ⟨x.pc + 1, f.stop, n, 0⟩ :: x.loops }

def execLoop (t : TileId) (f : LoopOps) (s : State) : Out := tileExec (.loop t f) t (loopOp f) s

/-- A word the decoder refuses faults; a word it accepts is no illegal instruction and this command does nothing. -/
def execIllegalInstruction (t : TileId) (w : BitVec 64) (s : State) : Out :=
  match decodeTile t w with
  | none => .next (issue t w illegal s)
  | some _ => .next s

end Sys2Proof.Machine
end

