-- ==== Sys2Proof/Machine/Dispatch.lean ====
section
/-! DEFINITION. The dispatch: one arm per command, one direct call of its meaning. -/

namespace Sys2Proof.Machine

/-- The effect of a command on everything but the queue. -/
def exec (i : Instr) (s : State) : Host.Outcome State Fault Refusal :=
  match i with
  | .add t f => Sys2Proof.Machine.execAdd t f s
  | .sub t f => Sys2Proof.Machine.execSub t f s
  | .mul t f => Sys2Proof.Machine.execMul t f s
  | .and t f => Sys2Proof.Machine.execAnd t f s
  | .or t f => Sys2Proof.Machine.execOr t f s
  | .xor t f => Sys2Proof.Machine.execXor t f s
  | .shl t f => Sys2Proof.Machine.execShl t f s
  | .shr t f => Sys2Proof.Machine.execShr t f s
  | .sra t f => Sys2Proof.Machine.execSra t f s
  | .slt t f => Sys2Proof.Machine.execSlt t f s
  | .sltu t f => Sys2Proof.Machine.execSltu t f s
  | .fadd t f => Sys2Proof.Machine.execFadd t f s
  | .fmul t f => Sys2Proof.Machine.execFmul t f s
  | .flt t f => Sys2Proof.Machine.execFlt t f s
  | .frcp t f => Sys2Proof.Machine.execFrcp t f s
  | .ldw t f x => Sys2Proof.Machine.execLdw t f x s
  | .stw t f x => Sys2Proof.Machine.execStw t f x s
  | .movc t f => Sys2Proof.Machine.execMovc t f s
  | .aset t f => Sys2Proof.Machine.execAset t f s
  | .ainc t f => Sys2Proof.Machine.execAinc t f s
  | .aget t f => Sys2Proof.Machine.execAget t f s
  | .beq t f => Sys2Proof.Machine.execBeq t f s
  | .bne t f => Sys2Proof.Machine.execBne t f s
  | .blt t f => Sys2Proof.Machine.execBlt t f s
  | .bge t f => Sys2Proof.Machine.execBge t f s
  | .jmp t f => Sys2Proof.Machine.execJmp t f s
  | .loop t f => Sys2Proof.Machine.execLoop t f s
  | .illegalInstruction t w => Sys2Proof.Machine.execIllegalInstruction t w s
  | .pass t f x => Sys2Proof.Machine.execPass t f x s
  | .blockEnd t e => Sys2Proof.Machine.execBlockEnd t e s
  | .preloadZero t f => Sys2Proof.Machine.execPreloadZero t f s
  | .preloadVector t f => Sys2Proof.Machine.execPreloadVector t f s
  | .drainToF32 t f => Sys2Proof.Machine.execDrainToF32 t f s
  | .drainToA8r t f => Sys2Proof.Machine.execDrainToA8r t f s
  | .drainToA8 t f => Sys2Proof.Machine.execDrainToA8 t f s
  | .finAdd t f => Sys2Proof.Machine.execFinAdd t f s
  | .finSub t f => Sys2Proof.Machine.execFinSub t f s
  | .finMul t f => Sys2Proof.Machine.execFinMul t f s
  | .finFma t f => Sys2Proof.Machine.execFinFma t f s
  | .finMin t f => Sys2Proof.Machine.execFinMin t f s
  | .finMax t f => Sys2Proof.Machine.execFinMax t f s
  | .finCmpgt t f => Sys2Proof.Machine.execFinCmpgt t f s
  | .finCopy t f => Sys2Proof.Machine.execFinCopy t f s
  | .finRecip t f => Sys2Proof.Machine.execFinRecip t f s
  | .finRsqrt t f => Sys2Proof.Machine.execFinRsqrt t f s
  | .finExp t f => Sys2Proof.Machine.execFinExp t f s
  | .finExpm t f => Sys2Proof.Machine.execFinExpm t f s
  | .finLookup t f => Sys2Proof.Machine.execFinLookup t f s
  | .finLoadtbl t f => Sys2Proof.Machine.execFinLoadtbl t f s
  | .finLanesum t f => Sys2Proof.Machine.execFinLanesum t f s
  | .finSumsq t f => Sys2Proof.Machine.execFinSumsq t f s
  | .finRms t f => Sys2Proof.Machine.execFinRms t f s
  | .finRope t f => Sys2Proof.Machine.execFinRope t f s
  | .finMaxidx t f => Sys2Proof.Machine.execFinMaxidx t f s
  | .finMinidx t f => Sys2Proof.Machine.execFinMinidx t f s
  | .finQuant t f => Sys2Proof.Machine.execFinQuant t f s
  | .finMask t f => Sys2Proof.Machine.execFinMask t f s
  | .finKill t f => Sys2Proof.Machine.execFinKill t f s
  | .finClear t f => Sys2Proof.Machine.execFinClear t f s
  | .postCopy t f => Sys2Proof.Machine.execPostCopy t f s
  | .postSend t f => Sys2Proof.Machine.execPostSend t f s
  | .postPull t f => Sys2Proof.Machine.execPostPull t f s
  | .postCircularRequest t f => Sys2Proof.Machine.execPostCircularRequest t f s
  | .descriptorStart t x => Sys2Proof.Machine.execDescriptorStart t x s
  | .descriptorRetire t k => Sys2Proof.Machine.execDescriptorRetire t k s
  | .take t f x => Sys2Proof.Machine.execTake t f x s
  | .reduce t f => Sys2Proof.Machine.execReduce t f s
  | .claim t f => Sys2Proof.Machine.execClaim t f s
  | .release t sr => Sys2Proof.Machine.execRelease t sr s
  | .waitPigeonhole t f => Sys2Proof.Machine.execWaitPigeonhole t f s
  | .waitScoreboard t f => Sys2Proof.Machine.execWaitScoreboard t f s
  | .waitBarrier t f => Sys2Proof.Machine.execWaitBarrier t f s
  | .waitUserCard t f => Sys2Proof.Machine.execWaitUserCard t f s
  | .waitDescriptors t f => Sys2Proof.Machine.execWaitDescriptors t f s
  | .waitSlots t f => Sys2Proof.Machine.execWaitSlots t f s
  | .cardBarrierArrive t f => Sys2Proof.Machine.execCardBarrierArrive t f s
  | .cardUser t f => Sys2Proof.Machine.execCardUser t f s
  | .folioList t f => Sys2Proof.Machine.execFolioList t f s
  | .folioAppend t f => Sys2Proof.Machine.execFolioAppend t f s
  | .folioWeevil t f => Sys2Proof.Machine.execFolioWeevil t f s
  | .folioBound t f => Sys2Proof.Machine.execFolioBound t f s
  | .folioCommit t f => Sys2Proof.Machine.execFolioCommit t f s
  | .sampleSetup t f => Sys2Proof.Machine.execSampleSetup t f s
  | .sampleGmask t f => Sys2Proof.Machine.execSampleGmask t f s
  | .samplePenalty t f => Sys2Proof.Machine.execSamplePenalty t f s
  | .sampleTemp t f => Sys2Proof.Machine.execSampleTemp t f s
  | .sampleUniform t f => Sys2Proof.Machine.execSampleUniform t f s
  | .sampleDraw t f => Sys2Proof.Machine.execSampleDraw t f s
  | .sampleAccept t f => Sys2Proof.Machine.execSampleAccept t f s
  | .sampleResid t f => Sys2Proof.Machine.execSampleResid t f s
  | .sampleGstep t f => Sys2Proof.Machine.execSampleGstep t f s
  | .yield t => Sys2Proof.Machine.execYield t s
  | .halt t => Sys2Proof.Machine.execHalt t s
  | .unicastFlit t p vc crcBad => Sys2Proof.Machine.execUnicastFlit t p vc crcBad s
  | .hopCreditReturn t p vc => Sys2Proof.Machine.execHopCreditReturn t p vc s
  | .boundaryFifoArrival t p vc => Sys2Proof.Machine.execBoundaryFifoArrival t p vc s
  | .pigeonholeArrival t p vc => Sys2Proof.Machine.execPigeonholeArrival t p vc s
  | .landingArrival t p vc x => Sys2Proof.Machine.execLandingArrival t p vc x s
  | .creditParcel t p => Sys2Proof.Machine.execCreditParcel t p s
  | .groupCredit t p => Sys2Proof.Machine.execGroupCredit t p s
  | .reductionPart t p => Sys2Proof.Machine.execReductionPart t p s
  | .multicastFlit t p => Sys2Proof.Machine.execMulticastFlit t p s
  | .multicastBranchTake t p branch => Sys2Proof.Machine.execMulticastBranchTake t p branch s
  | .pullRequest t p => Sys2Proof.Machine.execPullRequest t p s
  | .circularRequest t p => Sys2Proof.Machine.execCircularRequest t p s
  | .rimExit t p vc => Sys2Proof.Machine.execRimExit t p vc s
  | .rimEntry t secondary env l => Sys2Proof.Machine.execRimEntry t secondary env l s
  | .knock dclass dest reason => Sys2Proof.Machine.execKnock dclass dest reason s
  | .faultNote cause wave source => Sys2Proof.Machine.execFaultNote cause wave source s
  | .watchdog t wave cause => Sys2Proof.Machine.execWatchdog t wave cause s
  | .waveOrderHold t wave => Sys2Proof.Machine.execWaveOrderHold t wave s
  | .waveOrderDiscard t wave => Sys2Proof.Machine.execWaveOrderDiscard t wave s
  | .waveOrderReplay t wave => Sys2Proof.Machine.execWaveOrderReplay t wave s
  | .waveOrderResume t wave => Sys2Proof.Machine.execWaveOrderResume t wave s
  | .barrierArrive f id wave => Sys2Proof.Machine.execBarrierArrive f id wave s
  | .barrierRelease t id wave => Sys2Proof.Machine.execBarrierRelease t id wave s
  | .user t payload => Sys2Proof.Machine.execUser t payload s
  | .fireflySend t => Sys2Proof.Machine.execFireflySend t s
  | .firefly t wave => Sys2Proof.Machine.execFirefly t wave s
  | .postcardHopRetry f => Sys2Proof.Machine.execPostcardHopRetry f s
  | .sleepingBlockCard b c => Sys2Proof.Machine.execSleepingBlockCard b c s
  | .slabRefreshWindow t freeSlots corrected => Sys2Proof.Machine.execSlabRefreshWindow t freeSlots corrected s
  | .doubleRefreshEnd b => Sys2Proof.Machine.execDoubleRefreshEnd b s
  | .letterCrcFailure opcode l => Sys2Proof.Machine.execLetterCrcFailure opcode l s
  | .letterReservedOpcode opcode l => Sys2Proof.Machine.execLetterReservedOpcode opcode l s
  | .letterForward opcode l => Sys2Proof.Machine.execLetterForward opcode l s
  | .acceptedReceipt k => Sys2Proof.Machine.execAcceptedReceipt k s
  | .open l => Sys2Proof.Machine.execOpen l s
  | .append l => Sys2Proof.Machine.execAppend l s
  | .generate l => Sys2Proof.Machine.execGenerate l s
  | .park l => Sys2Proof.Machine.execPark l s
  | .resume l => Sys2Proof.Machine.execResume l s
  | .fork l => Sys2Proof.Machine.execFork l s
  | .trimSetBudget l => Sys2Proof.Machine.execTrimSetBudget l s
  | .trimRestoreDeadLetter l => Sys2Proof.Machine.execTrimRestoreDeadLetter l s
  | .trimSetDeadLetter l => Sys2Proof.Machine.execTrimSetDeadLetter l s
  | .close l => Sys2Proof.Machine.execClose l s
  | .migrateOut l => Sys2Proof.Machine.execMigrateOut l s
  | .migrateInPeer l => Sys2Proof.Machine.execMigrateInPeer l s
  | .migrateInKeeper l => Sys2Proof.Machine.execMigrateInKeeper l s
  | .adapt l => Sys2Proof.Machine.execAdapt l s
  | .stageImage l => Sys2Proof.Machine.execStageImage l s
  | .stageImageDiscard l => Sys2Proof.Machine.execStageImageDiscard l s
  | .loadPlacement l => Sys2Proof.Machine.execLoadPlacement l s
  | .commitSwap l => Sys2Proof.Machine.execCommitSwap l s
  | .adapterLoad l => Sys2Proof.Machine.execAdapterLoad l s
  | .lodgePolicy l => Sys2Proof.Machine.execLodgePolicy l s
  | .status l => Sys2Proof.Machine.execStatus l s
  | .telemetryCurrent l => Sys2Proof.Machine.execTelemetryCurrent l s
  | .telemetryExperts l => Sys2Proof.Machine.execTelemetryExperts l s
  | .telemetryTenants l => Sys2Proof.Machine.execTelemetryTenants l s
  | .telemetryThermal l => Sys2Proof.Machine.execTelemetryThermal l s
  | .distances l => Sys2Proof.Machine.execDistances l s
  | .powerCap l => Sys2Proof.Machine.execPowerCap l s
  | .setProfile l => Sys2Proof.Machine.execSetProfile l s
  | .drainRemove l => Sys2Proof.Machine.execDrainRemove l s
  | .drainQuiesce l => Sys2Proof.Machine.execDrainQuiesce l s
  | .drainServe l => Sys2Proof.Machine.execDrainServe l s
  | .fwStage l => Sys2Proof.Machine.execFwStage l s
  | .fwActivate l => Sys2Proof.Machine.execFwActivate l s
  | .retireTile l => Sys2Proof.Machine.execRetireTile l s
  | .retireSegment l => Sys2Proof.Machine.execRetireSegment l s
  | .retireField l => Sys2Proof.Machine.execRetireField l s
  | .retireStack l => Sys2Proof.Machine.execRetireStack l s
  | .retireChiplet l => Sys2Proof.Machine.execRetireChiplet l s
  | .recalibrateSensors l => Sys2Proof.Machine.execRecalibrateSensors l s
  | .recalibrateRegulators l => Sys2Proof.Machine.execRecalibrateRegulators l s
  | .breakerRetry l => Sys2Proof.Machine.execBreakerRetry l s
  | .recalibrateLinks l => Sys2Proof.Machine.execRecalibrateLinks l s
  | .journalRead l => Sys2Proof.Machine.execJournalRead l s
  | .diagSelfTest l => Sys2Proof.Machine.execDiagSelfTest l s
  | .diagSpareMapEdit l => Sys2Proof.Machine.execDiagSpareMapEdit l s
  | .diagReseal l => Sys2Proof.Machine.execDiagReseal l s
  | .attest l => Sys2Proof.Machine.execAttest l s
  | .roleOpenInstaller l => Sys2Proof.Machine.execRoleOpenInstaller l s
  | .roleOpenMaker l => Sys2Proof.Machine.execRoleOpenMaker l s
  | .roleClose l => Sys2Proof.Machine.execRoleClose l s
  | .keyEnrolWrappingKey l => Sys2Proof.Machine.execKeyEnrolWrappingKey l s
  | .keyEnrolImageId l => Sys2Proof.Machine.execKeyEnrolImageId l s
  | .tenantKeysEnrol l => Sys2Proof.Machine.execTenantKeysEnrol l s
  | .tenantKeysRotate l => Sys2Proof.Machine.execTenantKeysRotate l s
  | .tenantKeysRevoke l => Sys2Proof.Machine.execTenantKeysRevoke l s
  | .deadlineExpiry k => Sys2Proof.Machine.execDeadlineExpiry k s
  | .waveAdmission start => Sys2Proof.Machine.execWaveAdmission start s
  | .fixedSlotBoundary start => Sys2Proof.Machine.execFixedSlotBoundary start s
  | .waveCommit wave logits => Sys2Proof.Machine.execWaveCommit wave logits s
  | .waveReplay wave => Sys2Proof.Machine.execWaveReplay wave s
  | .frameAllocation session layer sealing => Sys2Proof.Machine.execFrameAllocation session layer sealing s
  | .folioSealing t frame => Sys2Proof.Machine.execFolioSealing t frame s
  | .compactionStep session layer => Sys2Proof.Machine.execCompactionStep session layer s
  | .pageScrub t page => Sys2Proof.Machine.execPageScrub t page s
  | .trailWriteBehind session => Sys2Proof.Machine.execTrailWriteBehind session s
  | .keeperStream session => Sys2Proof.Machine.execKeeperStream session s
  | .keeperLagAlarm => Sys2Proof.Machine.execKeeperLagAlarm s
  | .parkComplete session => Sys2Proof.Machine.execParkComplete session s
  | .resumeComplete resume => Sys2Proof.Machine.execResumeComplete resume s
  | .migrationReceipt move => Sys2Proof.Machine.execMigrationReceipt move s
  | .migrationFailure session => Sys2Proof.Machine.execMigrationFailure session s
  | .closeComplete session => Sys2Proof.Machine.execCloseComplete session s
  | .adapterSwap session => Sys2Proof.Machine.execAdapterSwap session s
  | .tenantReseal tenant => Sys2Proof.Machine.execTenantReseal tenant s
  | .dispatchNote stack note token => Sys2Proof.Machine.execDispatchNote stack note token s
  | .lodgingComplete stack stage => Sys2Proof.Machine.execLodgingComplete stack stage s
  | .lodgingRetry stack stage => Sys2Proof.Machine.execLodgingRetry stack stage s
  | .gateChunkEnd image => Sys2Proof.Machine.execGateChunkEnd image s
  | .swapBuildStart => Sys2Proof.Machine.execSwapBuildStart s
  | .swapBuildComplete => Sys2Proof.Machine.execSwapBuildComplete s
  | .swapFlip => Sys2Proof.Machine.execSwapFlip s
  | .splitSwapReport member => Sys2Proof.Machine.execSplitSwapReport member s
  | .mbxSend e len => Sys2Proof.Machine.execMbxSend e len s
  | .mbxAck e v => Sys2Proof.Machine.execMbxAck e v s
  | .letterArrived c buffer port id => Sys2Proof.Machine.execLetterArrived c buffer port id s
  | .receiptReady c buffer port id => Sys2Proof.Machine.execReceiptReady c buffer port id s
  | .letterBufferFreed c buffer port id => Sys2Proof.Machine.execLetterBufferFreed c buffer port id s
  | .bsPorderWake b => Sys2Proof.Machine.execBsPorderWake b s
  | .bsPorderChrysalis b => Sys2Proof.Machine.execBsPorderChrysalis b s
  | .bsPorderDiapause b => Sys2Proof.Machine.execBsPorderDiapause b s
  | .bsPorderDark b => Sys2Proof.Machine.execBsPorderDark b s
  | .fcClkTargetWrite f v => Sys2Proof.Machine.execFcClkTargetWrite f v s
  | .voltageReached f => Sys2Proof.Machine.execVoltageReached f s
  | .kpTimeLoRead k agent => Sys2Proof.Machine.execKpTimeLoRead k agent s
  | .csrWrite agent addr v => Sys2Proof.Machine.execCsrWrite agent addr v s
  | .gateEntry b => Sys2Proof.Machine.execGateEntry b s
  | .gatedWake b => Sys2Proof.Machine.execGatedWake b s
  | .chrysalisDelayExpiry b => Sys2Proof.Machine.execChrysalisDelayExpiry b s
  | .chrysalisEntry b => Sys2Proof.Machine.execChrysalisEntry b s
  | .wakeRequest b => Sys2Proof.Machine.execWakeRequest b s
  | .wakeAdmission b => Sys2Proof.Machine.execWakeAdmission b s
  | .admissionRetry f => Sys2Proof.Machine.execAdmissionRetry f s
  | .admissionDeferralExpiry f => Sys2Proof.Machine.execAdmissionDeferralExpiry f s
  | .rampComplete b => Sys2Proof.Machine.execRampComplete b s
  | .diapauseReload b => Sys2Proof.Machine.execDiapauseReload b s
  | .generatorStop f => Sys2Proof.Machine.execGeneratorStop f s
  | .drowseCalibration f => Sys2Proof.Machine.execDrowseCalibration f s
  | .railDroop f cycles ended => Sys2Proof.Machine.execRailDroop f cycles ended s
  | .droopEventLog b => Sys2Proof.Machine.execDroopEventLog b s
  | .prechargeMate straps => Sys2Proof.Machine.execPrechargeMate straps s
  | .prechargeComplete => Sys2Proof.Machine.execPrechargeComplete s
  | .presenceMate => Sys2Proof.Machine.execPresenceMate s
  | .presenceOpen => Sys2Proof.Machine.execPresenceOpen s
  | .inputOutOfRange vin => Sys2Proof.Machine.execInputOutOfRange vin s
  | .fieldOvercurrent f => Sys2Proof.Machine.execFieldOvercurrent f s
  | .blockShort b => Sys2Proof.Machine.execBlockShort b s
  | .segmentCheck b failed => Sys2Proof.Machine.execSegmentCheck b failed s
  | .phaseFailure f phase => Sys2Proof.Machine.execPhaseFailure f phase s
  | .powerControllerTakeover => Sys2Proof.Machine.execPowerControllerTakeover s
  | .powerMeasure watts vin => Sys2Proof.Machine.execPowerMeasure watts vin s
  | .peakCreditExhausted => Sys2Proof.Machine.execPeakCreditExhausted s
  | .currentSample fieldMa blockMa => Sys2Proof.Machine.execCurrentSample fieldMa blockMa s
  | .currentRecord record => Sys2Proof.Machine.execCurrentRecord record s
  | .sensorSample b diode ring model => Sys2Proof.Machine.execSensorSample b diode ring model s
  | .thermalLimitStep f => Sys2Proof.Machine.execThermalLimitStep f s
  | .sensorSuspect b => Sys2Proof.Machine.execSensorSuspect b s
  | .sensorModelCompare b => Sys2Proof.Machine.execSensorModelCompare b s
  | .coolantSample flowIn flowOut inlet outlet => Sys2Proof.Machine.execCoolantSample flowIn flowOut inlet outlet s
  | .meterSuspect => Sys2Proof.Machine.execMeterSuspect s
  | .outletTermStep => Sys2Proof.Machine.execOutletTermStep s
  | .flowRecovery => Sys2Proof.Machine.execFlowRecovery s
  | .flowAlarmClear => Sys2Proof.Machine.execFlowAlarmClear s
  | .thermalRecord => Sys2Proof.Machine.execThermalRecord s
  | .wearLedgerWrite => Sys2Proof.Machine.execWearLedgerWrite s
  | .warmRestart => Sys2Proof.Machine.execWarmRestart s
  | .tileRetirement t => Sys2Proof.Machine.execTileRetirement t s
  | .fireflySilence t => Sys2Proof.Machine.execFireflySilence t s
  | .eccStorm t => Sys2Proof.Machine.execEccStorm t s
  | .openFolioRecompute session => Sys2Proof.Machine.execOpenFolioRecompute session s
  | .fieldLoss f => Sys2Proof.Machine.execFieldLoss f s
  | .lockstepDisagreement f => Sys2Proof.Machine.execLockstepDisagreement f s
  | .stackRetirementAuto stack => Sys2Proof.Machine.execStackRetirementAuto stack s
  | .stackUnreadable stack => Sys2Proof.Machine.execStackUnreadable stack s
  | .stackCopyComplete stack => Sys2Proof.Machine.execStackCopyComplete stack s
  | .stallWatchdog t cause => Sys2Proof.Machine.execStallWatchdog t cause s
  | .purgeResumeTimer wave => Sys2Proof.Machine.execPurgeResumeTimer wave s
  | .powerOn straps keeperAGood keeperBGood loopClosed => Sys2Proof.Machine.execPowerOn straps keeperAGood keeperBGood loopClosed s
  | .coolantVerified => Sys2Proof.Machine.execCoolantVerified s
  | .rimBringUp => Sys2Proof.Machine.execRimBringUp s
  | .ringStart ring => Sys2Proof.Machine.execRingStart ring s
  | .fieldSelfTest f found linkFailed => Sys2Proof.Machine.execFieldSelfTest f found linkFailed s
  | .bringUpComplete => Sys2Proof.Machine.execBringUpComplete s
  | .journalAppend kind key body => Sys2Proof.Machine.execJournalAppend kind key body s
  | .journalCommit => Sys2Proof.Machine.execJournalCommit s
  | .journalMount k cut => Sys2Proof.Machine.execJournalMount k cut s
  | .journalCompaction => Sys2Proof.Machine.execJournalCompaction s
  | .historyThrottle => Sys2Proof.Machine.execHistoryThrottle s
  | .fwHealthTimeout agent inst => Sys2Proof.Machine.execFwHealthTimeout agent inst s
  | .presencePress => Sys2Proof.Machine.execPresencePress s
  | .presenceTimeout k => Sys2Proof.Machine.execPresenceTimeout k s
  | .roleIdleTimeout port maker => Sys2Proof.Machine.execRoleIdleTimeout port maker s
  | .makerAuthExpiry port => Sys2Proof.Machine.execMakerAuthExpiry port s
  | .j7Fit => Sys2Proof.Machine.execJ7Fit s
  | .j7Remove => Sys2Proof.Machine.execJ7Remove s
  | .sealBreak => Sys2Proof.Machine.execSealBreak s
  | .resealComplete => Sys2Proof.Machine.execResealComplete s
  | .resealTimeout => Sys2Proof.Machine.execResealTimeout s
  | .postmasterTakeover => Sys2Proof.Machine.execPostmasterTakeover s
  | .linkFrameRx port frame fecFailed => Sys2Proof.Machine.execLinkFrameRx port frame fecFailed s
  | .ack port seq => Sys2Proof.Machine.execAck port seq s
  | .nak port seq => Sys2Proof.Machine.execNak port seq s
  | .credit port kind slots => Sys2Proof.Machine.execCredit port kind slots s
  | .ident port member host keyId => Sys2Proof.Machine.execIdent port member host keyId s
  | .portRetrain port lanesGood => Sys2Proof.Machine.execPortRetrain port lanesGood s
  | .portFail port => Sys2Proof.Machine.execPortFail port s
  | .portDown port => Sys2Proof.Machine.execPortDown port s
  | .receiptHoldExpiry port => Sys2Proof.Machine.execReceiptHoldExpiry port s
  | .cableInsert port watts lanesGood reversed polarity => Sys2Proof.Machine.execCableInsert port watts lanesGood reversed polarity s
  | .cableRemove port => Sys2Proof.Machine.execCableRemove port s
  | .linkNote c k env l => Sys2Proof.Machine.execLinkNote c k env l s
  | .linkParcelDelivery port env l => Sys2Proof.Machine.execLinkParcelDelivery port env l s
  | .setEndpointId eid => Sys2Proof.Machine.execSetEndpointId eid s
  | .getEndpointId => Sys2Proof.Machine.execGetEndpointId s
  | .getMctpVersionSupport msgType => Sys2Proof.Machine.execGetMctpVersionSupport msgType s
  | .getMessageTypeSupport => Sys2Proof.Machine.execGetMessageTypeSupport s
  | .getTid => Sys2Proof.Machine.execGetTid s
  | .setTid tid => Sys2Proof.Machine.execSetTid tid s
  | .getPldmVersion pldmType => Sys2Proof.Machine.execGetPldmVersion pldmType s
  | .getPldmTypes => Sys2Proof.Machine.execGetPldmTypes s
  | .getPldmCommands pldmType => Sys2Proof.Machine.execGetPldmCommands pldmType s
  | .getSensorReading sensor => Sys2Proof.Machine.execGetSensorReading sensor s
  | .getStateSensorReadings sensor => Sys2Proof.Machine.execGetStateSensorReadings sensor s
  | .getPdrRepositoryInfo => Sys2Proof.Machine.execGetPdrRepositoryInfo s
  | .getPdr record => Sys2Proof.Machine.execGetPdr record s
  | .setEventReceiver receiver => Sys2Proof.Machine.execSetEventReceiver receiver s
  | .platformEventMessage => Sys2Proof.Machine.execPlatformEventMessage s
  | .queryDeviceIdentifiers => Sys2Proof.Machine.execQueryDeviceIdentifiers s
  | .getFirmwareParameters => Sys2Proof.Machine.execGetFirmwareParameters s
  | .requestUpdate => Sys2Proof.Machine.execRequestUpdate s
  | .passComponentTable component => Sys2Proof.Machine.execPassComponentTable component s
  | .updateComponent component => Sys2Proof.Machine.execUpdateComponent component s
  | .requestFirmwareData lines => Sys2Proof.Machine.execRequestFirmwareData lines s
  | .transferComplete result => Sys2Proof.Machine.execTransferComplete result s
  | .verifyComplete => Sys2Proof.Machine.execVerifyComplete s
  | .applyComplete => Sys2Proof.Machine.execApplyComplete s
  | .getStatus => Sys2Proof.Machine.execGetStatus s
  | .cancelUpdateComponent => Sys2Proof.Machine.execCancelUpdateComponent s
  | .cancelUpdate => Sys2Proof.Machine.execCancelUpdate s
  | .unsupportedPldmCmd pldmType cmd => Sys2Proof.Machine.execUnsupportedPldmCmd pldmType cmd s
  | .standbyKeeperLoss => Sys2Proof.Machine.execStandbyKeeperLoss s
  | .shutdownComplete b => Sys2Proof.Machine.execShutdownComplete b s
  | .instanceReportedHealthy agent inst => Sys2Proof.Machine.execInstanceReportedHealthy agent inst s
  | .fieldControllerRestart f => Sys2Proof.Machine.execFieldControllerRestart f s

end Sys2Proof.Machine
end

