-- ==== Sys2Proof/Machine/Transmit.lean ====
section
/-! DEFINITION. What leaves on the Denor ports: slots of parcels, receipts and keeper streams, packed into frames against credit,
kept for replay, and sent while no command waits (R517 to R523, R528). -/

namespace Sys2Proof.Machine

/-! ## Slots that wait for a frame (R518, R521, R522, R528) -/

/-- Parcels that a chiplet's adapter has put on a port wait there in slots of kind 0x1. -/
def queueParcels (c : Nat) (s : State) : State :=
  ((s.chiplet c).outbound.foldl (fun s e => queueSlots e.1.val [(1, flitSlot e.2.env e.2.line)] s) s).updChiplet c
    (fun x => { x with outbound := [] })

/-- Receipts sent since the last look wait on their ports. -/
def queueReceipts (s : State) : State :=
  ((s.dev.receipts.drop s.dev.receiptsOut).foldl (fun s r => queueSlots r.port.val (slotsOf 3 (receiptBytes r)) s) s).updDev
    (fun d => { d with receiptsOut := d.receipts.length })

/-- The port toward the trail keeper: a peer of the group, or the host store over the host bridge (R321). -/
def State.keeperPort (s : State) : Option Nat :=
  if s.dev.keeperTo.toNat < 16 then s.portToward (s.dev.keeperTo.setWidth 4)
  else if s.dev.keeperTo = 0xFE then s.upPort (fun x => x.host) else none

/-- The keeper stream waits on the keeper's port, or stays in the stacks while there is none (R321). -/
def queueKeeper (s : State) : State :=
  match s.keeperPort with
  | none => s
  | some p => (queueSlots p ((s.dev.keeperOut.drop s.dev.keeperSent).flatMap (fun e => slotsOf 4 (parcelBytes e.2))) s).updDev
      (fun d => { d with keeperSent := d.keeperOut.length })

/-- The port that takes over a FAILED port's slots of one sort: placement traffic stays on the chiplet, streams go to any port
toward the same peer (R522, R528). -/
def State.takeover (s : State) (p : Nat) (parcels : Bool) : Option Nat :=
  if parcels then (s.peerPorts (p / 4) (s.port p).peer).head?.map Fin.val
  else if (s.port p).host then none else s.portToward (s.port p).peer

/-- Slots of one sort move from a FAILED port. -/
def moveSlots (p : Nat) (parcels : Bool) (s : State) : State :=
  match s.takeover p parcels with
  | none => s
  | some q =>
    let x := s.port p
    queueSlots q (x.txSlots.filter (fun e => (e.1 == 1) == parcels))
      (s.putPort p { x with txSlots := x.txSlots.filter (fun e => (e.1 == 1) != parcels) })

/-- A FAILED port's traffic moves. -/
def moveFailed (s : State) (p : Nat) : State :=
  if (s.port p).st = .failed then moveSlots p false (moveSlots p true s) else s

/-- Everything that is to leave waits on its port. -/
def queueAll (s : State) : State :=
  (List.range 48).foldl moveFailed (queueKeeper (queueReceipts ((List.range 12).foldl (fun s c => queueParcels c s) s)))

/-! ## Frames (R517, R519 to R521, R523) -/

/-- The slots that go into the next frame, at most n, each against a credit of its kind; those without credit wait. What is left
of the slots, and of the credit. -/
def pickSlots (n : Nat) (credit : Tbl Nat) :
    List (BitVec 4 × BitVec 704) → List (BitVec 4 × BitVec 704) × List (BitVec 4 × BitVec 704) × Tbl Nat
  | [] => ([], [], credit)
  | e :: q =>
    if n = 0 then ([], e :: q, credit)
    else if Tbl.get 0 credit e.1.toNat = 0 then
      let r := pickSlots n credit q
      (r.1, e :: r.2.1, r.2.2)
    else
      let r := pickSlots (n - 1) (Tbl.upd 0 credit e.1.toNat (fun k => k - 1)) q
      (e :: r.1, r.2.1, r.2.2)

/-- A frame of a SEQ, slots and control words; the rest of it is idle and empty. -/
def makeFrame (seq : BitVec 16) (slots : List (BitVec 4 × BitVec 704)) (words : List (BitVec 64)) : DenorFrame :=
  let kinds := ((List.range 27).map (fun i => (slots.getD i (0, 0)).1.toNat * 16 ^ i)).sum
  let body := bytesOf 2 seq ++ leBytes 14 kinds ++ (List.range 27).flatMap (fun i => bytesOf 88 (slots.getD i (0, 0)).2) ++
    (List.range 21).flatMap (fun i => bytesOf 8 (words.getD i 0)) ++ [0, 0]
  BitVec.ofNat 20560 (leNat (body ++ bytesOf 8 (crc64 body)))

/-- The IDENT word of this device: its member index and the first 6 bytes of the active keeper's KEY_ID (R523). -/
def identWord (s : State) : BitVec 64 :=
  controlWord 4 (s.dev.member ++ (0 : BitVec 4) ++ (fieldAt (Config.identityKeyId s.dev.activeKeeper.toNat) 0 48 : BitVec 48))

/-- Control words for the next frame; IDENT in every frame until the far end's has come. -/
def frameWords (s : State) (x : LinkPort) : List (BitVec 64) := (if x.st = .training then [identWord s] else []) ++ x.acks

/-- A port sends a new frame, unless it has nothing to send or 64 frames are unacknowledged. -/
def sendNew (p : Nat) (s : State) : State :=
  let x := s.port p
  let w := frameWords s x
  let r := if x.st = .up then pickSlots 27 x.credit x.txSlots else ([], x.txSlots, x.credit)
  if x.replayBuf.length ≥ 64 ∨ (r.1 = [] ∧ w = []) then s
  else
    let f := makeFrame x.txSeq r.1 (w.take 21)
    s.putPort p { x with
      txSeq := x.txSeq + 1, replayBuf := x.replayBuf ++ [f], line := some f, txSlots := r.2.1, credit := r.2.2
      acks := x.acks.drop (if x.st = .training then 20 else 21) }

/-- A port sends a frame again, and goes on with the next one it keeps. -/
def sendAgain (p : Nat) (seq : BitVec 16) (s : State) : State :=
  s.updPort p (fun x =>
    match x.replayBuf.dropWhile (fun f => frameSeq f != seq) with
    | [] => { x with replayFrom := none }
    | f :: rest => { x with line := some f, replayFrom := rest.head?.map frameSeq })

/-- A port sends one frame: a replay first. -/
def sendFrame (s : State) (p : Nat) : State :=
  let x := s.port p
  if !x.live then s
  else match x.replayFrom with
    | some seq => sendAgain p seq s
    | none => sendNew p s

/-- Every port sends one frame. -/
def sendFrames (s : State) : State := (List.range 48).foldl sendFrame (queueAll s)

end Sys2Proof.Machine
end

