-- ==== Sys2Proof/WellFormed.lean ====
section
/-! DEFINITION. Well-formed commands: operands that the hardware can be given. A tile instruction's fields must be legal for its
encoding; the other checks bound lists and codes by the manual's formats. -/

namespace Sys2Proof

/-- The letter of a letter command, with the opcode of its row (R341 to R348). -/
def Instr.asLetter : Instr → Option (BitVec 16 × Letter)
  | .open l => some (0x0101, l)
  | .append l => some (0x0102, l)
  | .generate l => some (0x0103, l)
  | .park l => some (0x0104, l)
  | .resume l => some (0x0105, l)
  | .fork l => some (0x0106, l)
  | .trimSetBudget l => some (0x0107, l)
  | .trimRestoreDeadLetter l => some (0x0107, l)
  | .trimSetDeadLetter l => some (0x0107, l)
  | .close l => some (0x0108, l)
  | .migrateOut l => some (0x0109, l)
  | .migrateInPeer l => some (0x010A, l)
  | .migrateInKeeper l => some (0x010A, l)
  | .adapt l => some (0x010B, l)
  | .stageImage l => some (0x0201, l)
  | .stageImageDiscard l => some (0x0201, l)
  | .loadPlacement l => some (0x0202, l)
  | .commitSwap l => some (0x0203, l)
  | .adapterLoad l => some (0x0204, l)
  | .lodgePolicy l => some (0x0205, l)
  | .status l => some (0x0301, l)
  | .telemetryCurrent l => some (0x0302, l)
  | .telemetryExperts l => some (0x0302, l)
  | .telemetryTenants l => some (0x0302, l)
  | .telemetryThermal l => some (0x0302, l)
  | .distances l => some (0x0303, l)
  | .powerCap l => some (0x0304, l)
  | .setProfile l => some (0x0305, l)
  | .drainRemove l => some (0x0306, l)
  | .drainQuiesce l => some (0x0306, l)
  | .drainServe l => some (0x0306, l)
  | .fwStage l => some (0x0401, l)
  | .fwActivate l => some (0x0402, l)
  | .retireTile l => some (0x0403, l)
  | .retireSegment l => some (0x0403, l)
  | .retireField l => some (0x0403, l)
  | .retireStack l => some (0x0403, l)
  | .retireChiplet l => some (0x0403, l)
  | .recalibrateSensors l => some (0x0404, l)
  | .recalibrateRegulators l => some (0x0404, l)
  | .breakerRetry l => some (0x0404, l)
  | .recalibrateLinks l => some (0x0404, l)
  | .journalRead l => some (0x0405, l)
  | .diagSelfTest l => some (0x0406, l)
  | .diagSpareMapEdit l => some (0x0406, l)
  | .diagReseal l => some (0x0406, l)
  | .attest l => some (0x0501, l)
  | .roleOpenInstaller l => some (0x0502, l)
  | .roleOpenMaker l => some (0x0502, l)
  | .roleClose l => some (0x0503, l)
  | .keyEnrolWrappingKey l => some (0x0504, l)
  | .keyEnrolImageId l => some (0x0504, l)
  | .tenantKeysEnrol l => some (0x0505, l)
  | .tenantKeysRotate l => some (0x0505, l)
  | .tenantKeysRevoke l => some (0x0505, l)
  | .letterCrcFailure op l => some (op, l)
  | .letterReservedOpcode op l => some (op, l)
  | .letterForward op l => some (op, l)
  | _ => none

/-- A letter's lists fit PARAM_LEN and TRAIN_LINES (R332). -/
def Letter.fits (l : Letter) : Bool := decide (l.params.length < 65536) && decide (l.train.length < 4294967296)

/-- Instances of a firmware agent code: keepers, field controllers, blocks, link chiplets, power controllers. -/
def instanceOk (agent : BitVec 3) (inst : BitVec 16) : Bool :=
  match agent.toNat with
  | 1 => decide (inst.toNat < 2)
  | 2 => decide (inst.toNat < 64)
  | 3 => decide (inst.toNat < 1024)
  | 4 => decide (inst.toNat < 12)
  | 5 => decide (inst.toNat < 2)
  | _ => false

/-- Checks on the operands of a command that is no tile instruction. -/
def Instr.dataOk : Instr → Bool
  | .illegalInstruction t w => (decodeTile t w).isNone
  | .knock _ _ reason => decide (1 ≤ reason.toNat) && decide (reason.toNat ≤ 5)
  | .faultNote cause _ _ => decide (1 ≤ cause.toNat) && decide (cause.toNat ≤ 8)
  | .watchdog _ _ cause => decide (cause.toNat ≤ 7)
  | .stallWatchdog _ cause => decide (cause.toNat ≤ 7)
  | .slabRefreshWindow _ freeSlots _ => decide (freeSlots.toNat ≤ 64)
  | .currentSample fs bs => decide ((fs.map Prod.fst).Nodup) && decide ((bs.map Prod.fst).Nodup)
  | .fieldSelfTest _ g _ => decide g.sites.Nodup && decide ((g.blocks.map (fun e => e.block)).Nodup)
  | .journalAppend kind _ body => decide (1 ≤ kind.toNat) && decide (kind.toNat ≤ 15) && decide (body.length ≤ 4064)
  | .letterArrived _ buffer port _ => decide (buffer.toNat < 256) && decide (port.toNat < 48)
  | .receiptReady _ buffer port _ => decide (buffer.toNat < 256) && decide (port.toNat < 48)
  | .letterBufferFreed _ buffer port _ => decide (buffer.toNat < 256) && decide (port.toNat < 48)
  | .fwHealthTimeout agent inst => instanceOk agent inst
  | .instanceReportedHealthy agent inst => instanceOk agent inst
  | _ => true

/-- The command is well formed. -/
def Instr.wf (i : Instr) : Bool :=
  i.encodingOk && i.dataOk && (match i.asLetter with | some e => e.2.fits | none => true)

end Sys2Proof
end

