-- ==== Sys2Proof/Safety.lean ====
section
/-! DEFINITION. What counts as a safe run, in the terms the statements use: a step that answers a next state, the canonical
form of every table and memory of the device, and what a tile command may change. -/

namespace Sys2Proof.Machine

/-- A safe step: the command at the front answers a next state. -/
def Safe (s : State) : Prop := ∃ t, step s = .next t

/-- The states that runs from `s` pass through. -/
inductive Reaches : State → State → Prop where
  | here (s : State) : Reaches s s
  | next {s t u : State} (h : step s = .next t) (r : Reaches t u) : Reaches s u

/-- The memories of a tile are in canonical form: addresses strictly rising, no entry equal to what an unlisted byte reads as. -/
def Tile.memWf (x : Tile) : Bool := Memory.wf x.wb && Memory.wf x.slab && Memory.wf x.ws

/-- The tables by unit are in canonical form, and so are the memories of every tile. -/
def State.wf (s : State) : Bool :=
  Tbl.wf {} s.tiles && s.tiles.all (fun e => e.2.memWf) && Tbl.wf {} s.blocks && Tbl.wf {} s.fieldCtls &&
  Tbl.wf {} s.stackCtls && Tbl.wf {} s.chiplets && Tbl.wf {} s.ports && Tbl.wf {} s.mailboxes && Tbl.wf {} s.keepers &&
  Tbl.wf {} s.fw && Tbl.wf {} s.dev.sessions

/-- `s` and `u` agree on everything but the tiles, the postcards under way and the copies of fault notes that field controllers
hold. -/
def SameButTiles (s u : State) : Prop :=
  u = { s with tiles := u.tiles, fieldCtls := u.fieldCtls, dev := { s.dev with cards := u.dev.cards } } ∧
  ∀ f, { u.field f with notes := (s.field f).notes } = s.field f

/-- `s` and `u` agree on everything but tile `t`. -/
def SameButTile (t : TileId) (s u : State) : Prop :=
  u = { s with tiles := u.tiles } ∧ ∀ v : TileId, v ≠ t → u.tile v = s.tile v

/-- `x` and `y` hold the same bytes in all three memories. -/
def SameMemories (x y : Tile) : Prop :=
  ∀ a, Mem.readByte y.wb a = Mem.readByte x.wb a ∧ Mem.readByte y.slab a = Mem.readByte x.slab a ∧
    Mem.readByte y.ws a = Mem.readByte x.ws a

/-- The journal record that an append makes in `s` (R481). -/
def newRecord (kind : BitVec 16) (key : Word) (body : List Byte) (s : State) : JRecord :=
  ⟨kind, s.journal.nextSeq, s.dev.time, key, false, s.dev.standbyLost, body, false, false⟩

/-- Nothing waits in the device: no letter in a session's queue, no CLOSE, no load, no flow stop, no drain. -/
def Quiet (s : State) : Prop :=
  (∀ e ∈ s.dev.sessions, e.2.queue = [] ∧ e.2.closeKey = none) ∧ s.dev.loadFor = none ∧ s.coolant.flowStop = false ∧
  s.dev.draining = false

/-! ## Letters -/

/-- The letter of a row that takes a letter in, with its opcode (R341 to R348). -/
def letterRow : Instr → Option (BitVec 16 × Letter)
  | .letterCrcFailure _ _ => none
  | .letterReservedOpcode _ _ => none
  | .letterForward _ _ => none
  | i => i.asLetter

/-- What a letter's row moves on beside the letter itself: a MIGRATE_IN has been answered, and the next one brings another session
(log entry 28). -/
def rowAfter : Instr → State → State
  | .migrateInPeer _ => nextArrival
  | .migrateInKeeper _ => nextArrival
  | _ => id

/-- A letter passes every check but those that end with one status: it enters flight (R350). -/
def AcceptedBut (status : BitVec 16) (op : BitVec 16) (l : Letter) (r : LetterRule) (s : State) : Prop :=
  s.accepting = true ∧ letterCrcOk op l = true ∧ l.version = 1 ∧ s.inFlight (letterKey l) = false ∧
  letterDevice l = s.dev.member ∧ firstBad ((commonChecks op l r s).filter (fun c => c.2 != status)) = none

/-- A letter passes every check of R350: it enters flight and its action begins. -/
def Accepted (op : BitVec 16) (l : Letter) (r : LetterRule) (s : State) : Prop :=
  s.accepting = true ∧ letterCrcOk op l = true ∧ l.version = 1 ∧ s.inFlight (letterKey l) = false ∧
  letterDevice l = s.dev.member ∧ firstBad (commonChecks op l r s) = none

/-- Receipts leave on a port at once: it is no host port, or it is UP (R527). -/
def portOpen (s : State) (p : Fin 48) : Prop := (s.port p.val).host = false ∨ (s.port p.val).st = .up

/-- The letter is over: it is no longer in flight, and its final receipt with the status has left on an open port. -/
def Finished (l : Letter) (status : BitVec 16) (s u : State) : Prop :=
  u.letter (letterKey l) = none ∧ (portOpen s l.port → ∃ r, r ∈ u.dev.receipts ∧ r.port = l.port ∧ r.letterId = l.id ∧
    r.status = status ∧ r.final = true ∧ r.session = l.session ∧ r.device = s.dev.member)

/-- A letter that passes every check, in flight with its action about to begin (R350). -/
def entered (op : BitVec 16) (l : Letter) (r : LetterRule) (s : State) : State := leadLetter op l (enterLetter op l r s)

/-- The letter is over with a status, results and a train: its final receipt has left on an open port, or it waits for the
commit of what the letter journalled (R337, R483, R507). -/
def Answered (l : Letter) (status : BitVec 16) (results : List Byte) (train : List Line) (s u : State) : Prop :=
  (u.letter (letterKey l) = none ∧ (portOpen s l.port → ∃ r, r ∈ u.dev.receipts ∧ r.port = l.port ∧ r.letterId = l.id ∧
    r.status = status ∧ r.final = true ∧ r.results = results ∧ r.train = train)) ∨
  (∃ r, u.letter (letterKey l) = some r ∧ r.finalStatus = some (status, results, train))

/-- The letter is over with a status (R337, R483, R507). -/
def Ends (l : Letter) (status : BitVec 16) (s u : State) : Prop := ∃ rs ls, Answered l status rs ls s u

/-! ## Instructions of a tile -/

/-- The tile whose sequencer issues a command, for the rows that are instructions of a tile (R239 to R265). -/
def issuer : Instr → Option TileId
  | .add t _ => some t | .sub t _ => some t | .mul t _ => some t | .and t _ => some t | .or t _ => some t
  | .xor t _ => some t | .shl t _ => some t | .shr t _ => some t | .sra t _ => some t | .slt t _ => some t
  | .sltu t _ => some t | .fadd t _ => some t | .fmul t _ => some t | .flt t _ => some t | .frcp t _ => some t
  | .ldw t _ _ => some t | .stw t _ _ => some t | .movc t _ => some t | .aset t _ => some t | .ainc t _ => some t
  | .aget t _ => some t | .beq t _ => some t | .bne t _ => some t | .blt t _ => some t | .bge t _ => some t
  | .jmp t _ => some t | .loop t _ => some t | .pass t _ _ => some t
  | .preloadZero t _ => some t | .preloadVector t _ => some t
  | .drainToF32 t _ => some t | .drainToA8r t _ => some t | .drainToA8 t _ => some t
  | .finAdd t _ => some t | .finSub t _ => some t | .finMul t _ => some t | .finFma t _ => some t | .finMin t _ => some t
  | .finMax t _ => some t | .finCmpgt t _ => some t | .finCopy t _ => some t | .finRecip t _ => some t
  | .finRsqrt t _ => some t | .finExp t _ => some t | .finExpm t _ => some t | .finLookup t _ => some t
  | .finLoadtbl t _ => some t | .finLanesum t _ => some t | .finSumsq t _ => some t | .finRms t _ => some t
  | .finRope t _ => some t | .finMaxidx t _ => some t | .finMinidx t _ => some t | .finQuant t _ => some t
  | .finMask t _ => some t | .finKill t _ => some t | .finClear t _ => some t
  | .postCopy t _ => some t | .postSend t _ => some t | .postPull t _ => some t | .postCircularRequest t _ => some t
  | .take t _ _ => some t | .reduce t _ => some t | .claim t _ => some t | .release t _ => some t
  | .waitPigeonhole t _ => some t | .waitScoreboard t _ => some t | .waitBarrier t _ => some t
  | .waitUserCard t _ => some t | .waitDescriptors t _ => some t | .waitSlots t _ => some t
  | .cardBarrierArrive t _ => some t | .cardUser t _ => some t
  | .folioList t _ => some t | .folioAppend t _ => some t | .folioWeevil t _ => some t | .folioBound t _ => some t
  | .folioCommit t _ => some t | .sampleSetup t _ => some t | .sampleGmask t _ => some t | .samplePenalty t _ => some t
  | .sampleTemp t _ => some t | .sampleUniform t _ => some t | .sampleDraw t _ => some t | .sampleAccept t _ => some t
  | .sampleResid t _ => some t | .sampleGstep t _ => some t | .yield t => some t | .halt t => some t
  | _ => none

/-- The tile of a decoded instruction word is given beside it, and so are the events of its accesses (R107, R125). -/
def quiet : Instr → Instr
  | .ldw t f _ => .ldw t f {}
  | .stw t f _ => .stw t f {}
  | .pass t f _ => .pass t f {}
  | .take t f _ => .take t f {}
  | .preloadZero t f => .preloadZero t ⟨f.ops, {}⟩
  | .preloadVector t f => .preloadVector t ⟨f.ops, {}⟩
  | .drainToF32 t f => .drainToF32 t ⟨f.ops, {}⟩
  | .drainToA8r t f => .drainToA8r t ⟨f.ops, {}⟩
  | .drainToA8 t f => .drainToA8 t ⟨f.ops, {}⟩
  | .finAdd t f => .finAdd t ⟨f.ops, {}⟩
  | .finSub t f => .finSub t ⟨f.ops, {}⟩
  | .finMul t f => .finMul t ⟨f.ops, {}⟩
  | .finFma t f => .finFma t ⟨f.ops, {}⟩
  | .finMin t f => .finMin t ⟨f.ops, {}⟩
  | .finMax t f => .finMax t ⟨f.ops, {}⟩
  | .finCmpgt t f => .finCmpgt t ⟨f.ops, {}⟩
  | .finCopy t f => .finCopy t ⟨f.ops, {}⟩
  | .finRecip t f => .finRecip t ⟨f.ops, {}⟩
  | .finRsqrt t f => .finRsqrt t ⟨f.ops, {}⟩
  | .finExp t f => .finExp t ⟨f.ops, {}⟩
  | .finExpm t f => .finExpm t ⟨f.ops, {}⟩
  | .finLookup t f => .finLookup t ⟨f.ops, {}⟩
  | .finLoadtbl t f => .finLoadtbl t ⟨f.ops, {}⟩
  | .finLanesum t f => .finLanesum t ⟨f.ops, {}⟩
  | .finSumsq t f => .finSumsq t ⟨f.ops, {}⟩
  | .finRms t f => .finRms t ⟨f.ops, {}⟩
  | .finRope t f => .finRope t ⟨f.ops, {}⟩
  | .finMaxidx t f => .finMaxidx t ⟨f.ops, {}⟩
  | .finMinidx t f => .finMinidx t ⟨f.ops, {}⟩
  | .finQuant t f => .finQuant t ⟨f.ops, {}⟩
  | .finMask t f => .finMask t ⟨f.ops, {}⟩
  | .finKill t f => .finKill t ⟨f.ops, {}⟩
  | .finClear t f => .finClear t ⟨f.ops, {}⟩
  | .folioList t f => .folioList t ⟨f.ops, {}⟩
  | .folioAppend t f => .folioAppend t ⟨f.ops, {}⟩
  | .folioWeevil t f => .folioWeevil t ⟨f.ops, {}⟩
  | .folioBound t f => .folioBound t ⟨f.ops, {}⟩
  | .folioCommit t f => .folioCommit t ⟨f.ops, {}⟩
  | .sampleSetup t f => .sampleSetup t ⟨f.ops, {}⟩
  | .sampleGmask t f => .sampleGmask t ⟨f.ops, {}⟩
  | .samplePenalty t f => .samplePenalty t ⟨f.ops, {}⟩
  | .sampleTemp t f => .sampleTemp t ⟨f.ops, {}⟩
  | .sampleUniform t f => .sampleUniform t ⟨f.ops, {}⟩
  | .sampleDraw t f => .sampleDraw t ⟨f.ops, {}⟩
  | .sampleAccept t f => .sampleAccept t ⟨f.ops, {}⟩
  | .sampleResid t f => .sampleResid t ⟨f.ops, {}⟩
  | .sampleGstep t f => .sampleGstep t ⟨f.ops, {}⟩
  | i => i

/-- Instruction `i` issues on tile `t`, no other one waits there before it, and its encoding is legal (R235, R238, R240). -/
def Issues (i : Instr) (t : TileId) (s : State) : Prop :=
  s.issues t = true ∧ (s.tile t).mayIssue i.word = true ∧ i.encodingOk = true

/-- Instruction `i` executes on tile `t`: it leaves the tile as `y`, and issue goes on after it (R232, R243). -/
def Executes (i : Instr) (t : TileId) (s : State) (y : Tile) : Prop := exec i s = .next (s.putTile t y.advance)

/-- Instruction `i` branches on tile `t` to `target` (R243). -/
def Branches (i : Instr) (t : TileId) (s : State) (target : BitVec 12) : Prop :=
  exec i s = .next (s.putTile t ((s.tile t).branchTo target))

/-- Nothing stops a FIN at issue: its slots are open and idle, its ranges exist, its lines are free, and no event of its accesses
stops it (R84, R107, R238, R251). -/
def FinReady (f : FinOps) (i : Intrusion) (reads writes : List LineRange) (x : Tile) : Prop :=
  (f.xslot = true → f.ax.toNat + vectors f ≤ 16 ∧ (∀ c, c < vectors f → (x.slot (f.ax.toNat + c)).isOpen = true) ∧
    x.slotBusy f.ax.toNat (vectors f) = false) ∧
  rangesFault unitFinisher (reads ++ writes) = none ∧ x.lineBlocks reads writes = false ∧
  intrusionStops (finEvents f i) unitFinisher = none

end Sys2Proof.Machine
end

