-- ==== Sys2Proof/Certificates/Slice0/Obligations.lean ====
section
/-! DEFINITION. The statements for the provers, by family of the opcode table. A completion clause says, under conditions on
the state and the operands alone, which next state the command answers. -/

open Sys2Proof Sys2Proof.Machine

/-! ## The block as a whole -/

/-- A step runs the command at the front of the queue on the state with the queue's rest.

With no command waiting each Denor port sends one frame of what is to leave; with nothing to leave and no port live the block
idles (the model's choices, log entries 1 and 131). -/
def Obligations.StepRunsTheFrontCommand : Prop :=
  (∀ (c : Instr) (rest : List Instr) (s : State), s.pending = c :: rest → step s = exec c { s with pending := rest }) ∧
  (∀ s : State, s.pending = [] → step s = .next (sendFrames s)) ∧
  (∀ s : State, (∀ c, c < 12 → (s.chiplet c).outbound = []) → s.dev.receiptsOut = s.dev.receipts.length →
     s.dev.keeperSent = s.dev.keeperOut.length →
     (∀ p, (s.port p).txSlots = [] ∧ (s.port p).live = false) → ∀ p, (sendFrames s).port p = s.port p)

/-- No command, on any state, stops the block: every row has an effect and every open value is a free value.

The model's choices (log entries) in it: the free values (10 to 38) in place of stops. -/
def Obligations.NoCommandStopsTheBlock : Prop := ∀ (c : Instr) (s : State), ∃ t, exec c s = .next t

/-- Every command leaves the queue alone, so each step takes exactly the front command off it and keeps the rest in its
order: commands run first in, first out.

The model's choices (log entries) in it: the queue of commands (1). -/
def Obligations.EveryStepTakesOnlyTheFrontCommand : Prop :=
  ∀ (s t : State), step s = .next t → t.pending = s.pending.tail

/-- From a queue of well-formed commands every step leads to a queue of well-formed commands.

The model's choices (log entries) in it: the queue of commands (1). -/
def Obligations.QueuedCommandsStayWellFormed : Prop :=
  ∀ (s t : State), (∀ c ∈ s.pending, c.wf = true) → step s = .next t → ∀ c ∈ t.pending, c.wf = true

/-- The state after reset meets the invariants: no command waits, and every table and memory has its canonical form. Every
register holds the reset value of its table: those of tiles, field controllers, blocks, ports, stacks, keepers, mailbox ends,
the power board and the device manager.

The model's choices (log entries) in it: an empty queue and halted tiles without an image (1, 2), the reset values that
the spec does not give (6 to 9). -/
def Obligations.ResetIsAsTheTablesSay : Prop :=
  State.reset.pending = [] ∧ State.reset.wf = true ∧
  (∀ t : TileId, (∀ o ∈ tsOffsets, tsWord (State.reset.tile t) o 0 = 0) ∧ (State.reset.tile t).seq = .halted ∧
    (∀ k, (State.reset.tile t).slot k = {})) ∧
  (∀ f, fcWord State.reset f 0x10 = 0 ∧ fcWord State.reset f 0x11 = 0x3E8 ∧ fcWord State.reset f 0x12 = 0 ∧
    fcWord State.reset f 0x13 = 0xA ∧ fcWord State.reset f 0x14 = 0x1F4 ∧ fcWord State.reset f 0x15 = 0x8FC000 ∧
    fcWord State.reset f 0x16 = 0 ∧ ∀ n, n < 16 → fcWord State.reset f (0x20 + n) = 0xFFFFFFFF) ∧
  (∀ b, bsWord State.reset b 0x10 = 0x40000 ∧ bsWord State.reset b 0x12 = 0x320100 ∧ bsWord State.reset b 0x13 = 0 ∧
    bsWord State.reset b 0x14 = 0x7D00 ∧ bsWord State.reset b 0x15 = 0) ∧
  (∀ c o, lkWord State.reset c o = 0) ∧ (∀ n, stWord State.reset n 0x10 = 0 ∧ stWord State.reset n 0x11 = 0) ∧
  (∀ k, kpWord State.reset k 0x10 = 0x10000 ∧ kpWord State.reset k 0x11 = 0 ∧ kpWord State.reset k 0x12 = 0 ∧
    kpWord State.reset k 0x13 = 0) ∧
  (∀ e, mbxWord State.reset e 0xE2 = 0 ∧ mbxWord State.reset e 0xE3 = 8 ∧ mbxWord State.reset e 0xE4 = 1 ∧
    ∀ n, n < 16 → mbxWord State.reset e (0xD0 + n) = 0) ∧
  pbCtrlWord State.reset 0 = 0 ∧ pbCtrlWord State.reset 1 = 0 ∧
  dmWord State.reset 0x00 = 0x10100 ∧ dmWord State.reset 0x10 = 0x10100 ∧ dmWord State.reset 0x11 = 0x5FB44E20 ∧
  dmWord State.reset 0x12 = 0 ∧ dmWord State.reset 0x13 = 0

/-- Encoding and decoding agree: the word of any legal tile instruction decodes to that instruction, every operand at every
value its encoding admits; the events of its accesses (R107, R125) are no part of the word. -/
def Obligations.TileWordsReadBack : Prop :=
  ∀ (i : Instr) (t : TileId), issuer i = some t → i.encodingOk = true → decodeTile t i.word = some (quiet i)

/-- Words written out from the encodings of R239 to R265 decode to the instructions they stand for. -/
def Obligations.WrittenOutWordsDecode : Prop :=
  decodeTile 5 0x0118830000000007 = none ∧
  decodeTile 5 0x0118810000000007 = some (.add 5 ⟨3, 2, 0, true, 7⟩) ∧
  decodeTile 5 0x0118840000000000 = some (.add 5 ⟨3, 2, 2, false, 0⟩) ∧
  decodeTile 5 0x1010000040000005 = none ∧
  decodeTile 5 0x20108000000000AB = some (.beq 5 ⟨2, 2, 0xAB⟩) ∧
  decodeTile 5 0x2500000300000010 = some (.loop 5 ⟨0, 3, 0x10⟩) ∧
  decodeTile 5 0xF000000000000000 = some (.yield 5) ∧
  decodeTile 5 0xFF00000000000000 = some (.halt 5) ∧
  decodeTile 5 0 = none

/-! ## Tile instructions in general (R238, R240, R267) -/

/-- An instruction of a tile changes nothing but that tile, the postcards on their way and the copies of its fault notes: no other
tile, no other unit. HALT is reported to the Postmaster besides.

On a tile that is halted, held, or whose block is not ACTIVE, no instruction issues, and none issues behind one that waits:
nothing changes.

The model's choices (log entries) in it: the operands in the command and the waiting at issue (39, 40). -/
def Obligations.TileInstructionsStayOnTheirTile : Prop :=
  (∀ (i : Instr) (t : TileId) (s u : State), issuer i = some t → exec i s = .next u →
     SameButTiles s { u with dev := { u.dev with halts := s.dev.halts } } ∧ (∀ v : TileId, v ≠ t → u.tile v = s.tile v) ∧
     u.dev.halts = (if i = .halt t ∧ s.issues t = true ∧ (s.tile t).mayIssue i.word = true then s.dev.halts ++ [t] else s.dev.halts)) ∧
  (∀ (i : Instr) (t : TileId) (s : State), issuer i = some t → s.issues t = false ∨ (s.tile t).mayIssue i.word = false →
     exec i s = .next s)

/-- A word whose encoding is illegal faults: TS_SEQ_FAULT takes cause 0x1 of the sequencer with the PC and the word unless
it already holds a fault, issue stops with the PC where it is, and a FAULT_NOTE of cause 0x1 goes out.

ILLEGAL_INSTRUCTION completes on every word: of a fetched word that the decoder refuses it takes that fault, its whole effect;
a word that decodes is no illegal instruction and changes nothing.

The model's choices (log entries) in it: the issue queue at a fault (42), IMM32 while IMM is 0 (43), PC at a fault (45), a
halted sequencer that stays halted (47). -/
def Obligations.IllegalWordsFault : Prop :=
  (∀ (i : Instr) (t : TileId) (s : State), issuer i = some t → s.issues t = true → (s.tile t).mayIssue i.word = true →
     i.encodingOk = false →
     ∃ u, exec i s = .next u ∧ (u.tile t).seq = .held ∧ (u.tile t).pc = (s.tile t).pc ∧
       (u.tile t).seqFault = (if bitAt (s.tile t).seqFault 31 then (s.tile t).seqFault
         else seqFaultWord 0x1 unitSequencer (s.tile t).pc) ∧
       u.dev.cards = s.dev.cards ++ [⟨srcTile t, faultNoteCard 0x1 (s.tile t).noteWave t⟩]) ∧
  (∀ (t : TileId) (w : BitVec 64) (s : State),
     (decodeTile t w ≠ none → exec (.illegalInstruction t w) s = .next s) ∧
     (s.issues t = true → (s.tile t).mayIssue w = true → decodeTile t w = none →
       exec (.illegalInstruction t w) s =
         .next (takeFault t (.seq 0x1 unitSequencer) w (s.putTile t (s.tile t).fetch))) ∧
     (s.issues t = true → (s.tile t).mayIssue w = true → decodeTile t w = none →
       ∃ u, exec (.illegalInstruction t w) s = .next u ∧ (u.tile t).seq = .held ∧ (u.tile t).pc = (s.tile t).pc ∧
         (bitAt (s.tile t).seqFault 31 = false →
           (u.tile t).seqFault = seqFaultWord 0x1 unitSequencer (s.tile t).pc ∧ (u.tile t).seqWord = w) ∧
         u.dev.cards = s.dev.cards ++ [⟨srcTile t, faultNoteCard 0x1 (s.tile t).noteWave t⟩]))

/-! ## Scalar, address and control instructions (R232, R241 to R243) -/

/-- The scalar instructions write s[D] with the results of R241 and go on with the next instruction.

ASET and AINC write a[D], AGET reads a[A] into s[D] (R241). Their words have the one layout of R241, and they are legal
exactly where their unused fields are 0, a field that names an address register has its top bit at 0 (R240), and MOVC selects
no item above 6.

The model's choices (log entries) in it: none in what R241 is cited for; the issue queue beside it (42). -/
def Obligations.RegisterInstructionsWriteD : Prop :=
  (∀ (t : TileId) (f : ScalarOps) (s : State),
     let x := s.tile t
     let a := x.sreg f.a
     let b := if f.imm then f.imm32 else x.sreg f.b
     let n := b.toNat % 32
     (Issues (.add t f) t s → Executes (.add t f) t s (x.setS f.d (a + b))) ∧
     (Issues (.sub t f) t s → Executes (.sub t f) t s (x.setS f.d (a - b))) ∧
     (Issues (.mul t f) t s → Executes (.mul t f) t s (x.setS f.d (a * b))) ∧
     (Issues (.and t f) t s → Executes (.and t f) t s (x.setS f.d (a &&& b))) ∧
     (Issues (.or t f) t s → Executes (.or t f) t s (x.setS f.d (a ||| b))) ∧
     (Issues (.xor t f) t s → Executes (.xor t f) t s (x.setS f.d (a ^^^ b))) ∧
     (Issues (.shl t f) t s → Executes (.shl t f) t s (x.setS f.d (a <<< n))) ∧
     (Issues (.shr t f) t s → Executes (.shr t f) t s (x.setS f.d (a >>> n))) ∧
     (Issues (.sra t f) t s → Executes (.sra t f) t s (x.setS f.d (a.sshiftRight n))) ∧
     (Issues (.slt t f) t s → Executes (.slt t f) t s (x.setS f.d (if a.toInt < b.toInt then 1 else 0))) ∧
     (Issues (.sltu t f) t s → Executes (.sltu t f) t s (x.setS f.d (if a.toNat < b.toNat then 1 else 0))) ∧
     (Issues (.fadd t f) t s → Executes (.fadd t f) t s (x.setS f.d (fadd a b))) ∧
     (Issues (.fmul t f) t s → Executes (.fmul t f) t s (x.setS f.d (fmul a b))) ∧
     (Issues (.flt t f) t s → Executes (.flt t f) t s (x.setS f.d (if fltB a b then 1 else 0))) ∧
     (Issues (.frcp t f) t s → Executes (.frcp t f) t s (x.setS f.d (frecip a))) ∧
     (Issues (.movc t f) t s → Executes (.movc t f) t s (x.setS f.d (movcItem t x f.imm32.toNat)))) ∧
  (∀ (t : TileId) (f : ScalarOps) (s : State),
     let x := s.tile t
     let b := if f.imm then f.imm32 else x.sreg f.b
     let d : BitVec 4 := f.d.setWidth 4
     (Issues (.aset t f) t s → Executes (.aset t f) t s (x.setA d (x.sreg f.a + b))) ∧
     (Issues (.ainc t f) t s → Executes (.ainc t f) t s (x.setA d (x.areg d + b))) ∧
     (Issues (.aget t f) t s → Executes (.aget t f) t s (x.setS f.d (x.areg (f.a.setWidth 4))))) ∧
  (∀ (t : TileId) (f : ScalarOps),
     let binary : List Instr := [.add t f, .sub t f, .mul t f, .and t f, .or t f, .xor t f, .shl t f, .shr t f, .sra t f,
       .slt t f, .sltu t f, .fadd t f, .fmul t f, .flt t f]
     (∀ i ∈ binary ++ [.frcp t f, .movc t f, .aset t f, .ainc t f, .aget t f], i.word.toNat % 2 ^ 56 =
       f.d.toNat * 2 ^ 51 + f.a.toNat * 2 ^ 46 + f.b.toNat * 2 ^ 41 + f.imm.toNat * 2 ^ 40 + f.imm32.toNat) ∧
     (∀ i ∈ binary, i.encodingOk = true ↔ (f.imm = true → f.b = 0)) ∧
     ((Instr.frcp t f).encodingOk = true ↔ f.b = 0 ∧ f.imm = false ∧ f.imm32 = 0) ∧
     ((Instr.movc t f).encodingOk = true ↔ f.imm = true ∧ f.a = 0 ∧ f.b = 0 ∧ f.imm32.toNat < 7) ∧
     ((Instr.aset t f).encodingOk = true ↔ (f.imm = true → f.b = 0) ∧ f.d.toNat < 16) ∧
     ((Instr.ainc t f).encodingOk = true ↔ (f.imm = true → f.b = 0) ∧ f.a = 0 ∧ f.d.toNat < 16) ∧
     ((Instr.aget t f).encodingOk = true ↔ f.b = 0 ∧ f.imm = false ∧ f.imm32 = 0 ∧ f.a.toNat < 16))

/-- Reading back after ADD, for each register: s[D] reads the sum, every other scalar register and every address register
reads as before; s0 reads 0, also as a destination. No flag, no other register of the sequencer but PC and loops moves, and
no byte of a memory changes.

Reading back after ASET: a[D] reads the sum, every other address register and every scalar register reads as before; a0
reads 0, also as a destination.

The model's choices (log entries) in it: the operands in the command (39). -/
def Obligations.RegistersReadBack : Prop :=
  (∀ (t : TileId) (f : ScalarOps) (s : State) (r : BitVec 5) (q : BitVec 4), Issues (.add t f) t s →
     ∃ u, exec (.add t f) s = .next u ∧
       (u.tile t).sreg 0 = 0 ∧
       (u.tile t).sreg r = (if r = f.d ∧ r ≠ 0 then (s.tile t).sreg f.a + (if f.imm then f.imm32 else (s.tile t).sreg f.b)
         else (s.tile t).sreg r) ∧
       (u.tile t).areg q = (s.tile t).areg q ∧
       (u.tile t).finFlags = (s.tile t).finFlags ∧ (u.tile t).ctx = (s.tile t).ctx ∧ (u.tile t).slots = (s.tile t).slots ∧
       (u.tile t).sb = (s.tile t).sb ∧ (u.tile t).seqFault = (s.tile t).seqFault ∧
       SameMemories (s.tile t) (u.tile t) ∧ u.dev = s.dev) ∧
  (∀ (t : TileId) (f : ScalarOps) (s : State) (r : BitVec 5) (q : BitVec 4), Issues (.aset t f) t s →
     ∃ u, exec (.aset t f) s = .next u ∧
       (u.tile t).areg 0 = 0 ∧
       (u.tile t).areg q = (if q = f.d.setWidth 4 ∧ q ≠ 0
         then (s.tile t).sreg f.a + (if f.imm then f.imm32 else (s.tile t).sreg f.b) else (s.tile t).areg q) ∧
       (u.tile t).sreg r = (s.tile t).sreg r ∧ SameMemories (s.tile t) (u.tile t) ∧ u.dev = s.dev)

/-- LDW and STW on a line that exists and that no one holds: LDW, with the line's CRC good, writes s[D] with payload word
WORD; STW replaces word WORD by s[D] and rewrites the sidecar. The events of the access are counted beside it (R107, R125).

LDW and STW of a line beyond the working buffer take a memory fault of cause 0x1 that names the line (R97, R266).

STW stores to the 72 bytes of its line and to no other byte of a memory.

The model's choices (log entries) in it: the event of the access as an operand (53), the content of ACCESS and TENANT in
TS_MEM_FAULT (50). -/
def Obligations.WordsAreLoadedAndStored : Prop :=
  (∀ (t : TileId) (f : LoadStoreOps) (i : Intrusion) (s : State),
     let x := s.tile t
     let l := (x.areg f.a + f.offset.signExtend 32).toNat
     let y := intrude (noSlots i) x
     l < 4096 → intrusionStops i unitSequencer = none →
     (Issues (.ldw t f i) t s → x.lineBlocks [wbRange l 1] [] = false → crcGood (Mem.readLine x.wb l) = true →
       Executes (.ldw t f i) t s (y.setS f.d (wordAt (Mem.readLine x.wb l) f.word.toNat))) ∧
     (Issues (.stw t f i) t s → x.lineBlocks [] [wbRange l 1] = false →
       Executes (.stw t f i) t s { y with
         wb := Mem.writeLine x.wb l (mkWords (if f.f32 then fmtF32 else fmtU32)
           (setNth (Line.words (Mem.readLine x.wb l)) f.word.toNat (x.sreg f.d)))
         killed := x.killed.filter (fun k => k / 16 != l) })) ∧
  (∀ (t : TileId) (f : LoadStoreOps) (i : Intrusion) (s : State) (c : Instr),
     (c = .ldw t f i ∨ c = .stw t f i) → Issues c t s → bitAt (s.tile t).memFault 31 = false →
     4096 ≤ ((s.tile t).areg f.a + f.offset.signExtend 32).toNat →
     ∃ u, exec c s = .next u ∧ (u.tile t).seq = .held ∧ SameMemories (s.tile t) (u.tile t) ∧
       (u.tile t).memFault = memFaultWord 0x1 memWb (BitVec.ofNat 16 ((s.tile t).areg f.a + f.offset.signExtend 32).toNat)) ∧
  (∀ (t : TileId) (f : LoadStoreOps) (i : Intrusion) (s u : State), exec (.stw t f i) s = .next u →
     (∀ a, (a < 72 * lineOf f (s.tile t) ∨ 72 * lineOf f (s.tile t) + 72 ≤ a) →
       Mem.readByte (u.tile t).wb a = Mem.readByte (s.tile t).wb a) ∧
     (∀ a, Mem.readByte (u.tile t).slab a = Mem.readByte (s.tile t).slab a) ∧
     (∀ a, Mem.readByte (u.tile t).ws a = Mem.readByte (s.tile t).ws a) ∧
     (∀ r, (u.tile t).sreg r = (s.tile t).sreg r) ∧ (∀ r, (u.tile t).areg r = (s.tile t).areg r))

/-- Branches go to TARGET where their condition holds, else on; LOOP opens its body, skips it on a count of 0, and faults on
END ≤ PC and on a fifth loop (R243).

YIELD with no descriptor queued or running ends the tile's part of the wave and counts a wave over its registered budget; HALT
stops the sequencer with the PC at the next instruction and is reported to the Postmaster. Both leave slots, scoreboard and memories.

The model's choices (log entries) in it: PC after HALT (41), the issue queue (42), where an empty LOOP goes on (44), YIELD
beside running descriptors (51). -/
def Obligations.ControlInstructionsSequence : Prop :=
  (∀ (t : TileId) (f : BranchOps) (g : LoopOps) (s : State),
     let x := s.tile t
     let a := x.sreg f.a
     let b := x.sreg f.b
     let n := if g.count = 0 then (x.sreg g.a).toNat else g.count.toNat
     (Issues (.beq t f) t s → if a = b then Branches (.beq t f) t s f.target else Executes (.beq t f) t s x) ∧
     (Issues (.bne t f) t s → if a ≠ b then Branches (.bne t f) t s f.target else Executes (.bne t f) t s x) ∧
     (Issues (.blt t f) t s → if a.toInt < b.toInt then Branches (.blt t f) t s f.target else Executes (.blt t f) t s x) ∧
     (Issues (.bge t f) t s → if b.toInt ≤ a.toInt then Branches (.bge t f) t s f.target else Executes (.bge t f) t s x) ∧
     (Issues (.jmp t f) t s → Branches (.jmp t f) t s f.target) ∧
     (Issues (.loop t g) t s → x.pc.toNat < g.stop.toNat → x.loops.length < 4 → n ≠ 0 →
       Executes (.loop t g) t s { x with loops := ⟨x.pc + 1, g.stop, n, 0⟩ :: x.loops }) ∧
     (Issues (.loop t g) t s → x.pc.toNat < g.stop.toNat → x.loops.length < 4 → n = 0 →
       Branches (.loop t g) t s (g.stop + 1)) ∧
     (Issues (.loop t g) t s → g.stop.toNat ≤ x.pc.toNat →
       exec (.loop t g) s = .next (takeFault t (.seq 0x1 unitSequencer) (Instr.loop t g).word (s.putTile t x.fetch))) ∧
     (Issues (.loop t g) t s → x.pc.toNat < g.stop.toNat → 4 ≤ x.loops.length →
       exec (.loop t g) s = .next (takeFault t (.seq 0x2 unitSequencer) (Instr.loop t g).word (s.putTile t x.fetch)))) ∧
  (∀ (t : TileId) (s : State),
     let x := s.tile t
     (Issues (.yield t) t s → x.descq.length + x.running.length = 0 → ∃ y, Executes (.yield t) t s y ∧ y.seq = .between ∧ y.begun = false ∧
       y.regBlocks = 0 ∧ y.maxDwell = 0 ∧
       y.overWaves = (if s.regBudget t * x.maxDwell < x.regBlocks then satAdd x.overWaves 1 else x.overWaves) ∧
       y.slots = x.slots ∧ y.sb = x.sb ∧ SameMemories x y) ∧
     (Issues (.yield t) t s → x.descq.length + x.running.length ≠ 0 →
       exec (.yield t) s = .next (s.putTile t { x.fetch with wait := .yield, waitWord := (Instr.yield t).word })) ∧
     (Issues (.halt t) t s → ∃ u, exec (.halt t) s = .next u ∧ (u.tile t).seq = .halted ∧ u.dev.halts = s.dev.halts ++ [t] ∧
       (u.tile t).pc = (nextPc x.loops x.pc).1 ∧
       (u.tile t).slots = x.slots ∧ (u.tile t).sb = x.sb ∧ SameMemories x (u.tile t)))

/-! ## Pane, slots and finisher (R60 to R91, R244 to R253) -/

/-- PASS, with its slots open, its operands in range, readable and free: every block end of the pass is on its way, its slots
count as written, and the registered blocks and the dwell are counted; behind a TAKE that still fills its lines, or such a PASS,
it issues and keeps its steps for later.

BLOCK_END: waiting passes take the steps whose lines are written; then the oldest block end adds its product I × σ_w × σ_a to
each of the 64 columns of its slot and counts one block; one whose tally, parity or residue is wrong faults, and the slots
written in the wave close.

The model's choices (log entries) in it: PC at a content fault (45), a halted sequencer that stays halted (47), conflicts
as operands (53), which check of a block end fails as an operand (54), the first faulty parcel (140), the block ends of a pass at
once and waiting passes fed by BLOCK_END (166). -/
def Obligations.PassesAndBlockEnds : Prop :=
  (∀ (t : TileId) (f : PassOps) (i : Intrusion) (s : State),
     let x := s.tile t
     let y := intrude i x
     let d := f.dwell.toNat + 1
     Issues (.pass t f i) t s → (f.tally = true ∨ x.test = true) → f.slot.toNat + d ≤ 16 →
     (∀ k, k < d → (x.slot (f.slot.toNat + k)).isOpen = true) → rangesFault unitPane (passRanges f x) = none →
     (f.isCache = true → ownCheck (.sessionRead x.ctx.session x.ctx.tenant) (s.familyOf x.ctx.session) x unitPane
       (x.line f.aw) (operandLines f) = none) →
     x.sbBlocks (passRanges f x) [] = false → intrusionStops i unitPane = none →
     (∀ ends regs, x.takeBlocks (passRanges f x) = false → x.passes = [] →
       passSteps f (x.line f.aw) (x.line f.aa) (x.sreg f.sc) y f.steps.toNat = .ok (ends, regs) →
       Executes (.pass t f i) t s { (y.markWritten f.slot.toNat d) with
         blockEnds := x.blockEnds ++ ends
         regBlocks := x.regBlocks + regs
         regCount := satAdd x.regCount regs
         maxDwell := max x.maxDwell d }) ∧
     (x.takeBlocks (passRanges f x) = true ∨ x.passes ≠ [] →
       Executes (.pass t f i) t s { (y.markWritten f.slot.toNat d) with
         maxDwell := max x.maxDwell d
         passes := x.passes ++ [⟨f, x.line f.aw, x.line f.aa, x.sreg f.sc, 0, x.pc, (Instr.pass t f i).word⟩] })) ∧
  (∀ (t : TileId) (e : PaneError) (s : State), (s.block (tileBlock t)).pstate = .active →
     (∀ y b rest, feedPasses (s.tile t).passes (s.tile t) = .ok y → y.blockEnds = b :: rest →
       (blockEndFaults b e = false → b.ints.length = 64 → b.wscales.length = 64 →
         ∃ u, exec (.blockEnd t e) s = .next u ∧ (u.tile t).blockEnds = rest ∧
           (∀ n, n < 64 → Tbl.get 0 ((u.tile t).slot b.slot.toNat).vals n =
             (accAdd (Tbl.get 0 ((s.tile t).slot b.slot.toNat).vals n) (blockTerm b (nth 0 b.ints n) (nth 0 b.wscales n))).1) ∧
           ((u.tile t).slot b.slot.toNat).count = ((s.tile t).slot b.slot.toNat).count + 1 ∧
           (∀ k, k ≠ b.slot.toNat → (u.tile t).slot k = (s.tile t).slot k) ∧
           SameMemories (s.tile t) (u.tile t)) ∧
       (blockEndFaults b e = true →
         ∃ u, exec (.blockEnd t e) s = .next u ∧
           (u.tile t).seq = (if (s.tile t).seq = .halted then .halted else .held) ∧ (u.tile t).blockEnds = [] ∧
           (∀ k, k < 16 → bitAt (s.tile t).written k = true → (u.tile t).slot k = {}) ∧
           (u.tile t).tallyTotal = satAdd (s.tile t).tallyTotal 1 ∧
           u.dev.cards = s.dev.cards ++ [⟨srcTile t, faultNoteCard 0x2 (s.tile t).noteWave t⟩])) ∧
     (∀ p, feedPasses (s.tile t).passes (s.tile t) = .error p →
       ∃ u, exec (.blockEnd t e) s = .next u ∧ (u.tile t).seq = (if (s.tile t).seq = .halted then .halted else .held) ∧
         (u.tile t).passes = []))

/-- PRELOAD opens slots SLOT to SLOT + N − 1 with the factor s[SF], zero or the vectors at AV; a last slot above 15 opens
none and faults.

DRAIN writes each slot's 64 values to line AD + k × i, as four F32 parcels, or quantised to A8 with and without
registration, at strides 4, 2 and 1; without KEEP the slots close.

A PASS that names a closed slot and a DRAIN of one do not issue: an unopened-slot fault (R76).

The model's choices (log entries) in it: the issue queue beside what R76 says (42), rounding of a drained product (57). -/
def Obligations.SlotsOpenAndDrain : Prop :=
  (∀ (t : TileId) (f : PreloadOps) (i : Intrusion) (s : State),
     let x := s.tile t
     let y := intrude i x
     let n := f.n.toNat + 1
     let k := f.slot.toNat
     let F := x.sreg f.sf
     (Issues (.preloadZero t ⟨f, i⟩) t s → k + n ≤ 16 → x.slotBusy k n = false → posNormal F = true →
       intrusionStops i unitConverter = none →
       Executes (.preloadZero t ⟨f, i⟩) t s
         ((openSlots F k (List.replicate n (List.replicate 64 (accOfF32 0))) y).markWritten k n)) ∧
     (∀ ws, Issues (.preloadVector t ⟨f, i⟩) t s → k + n ≤ 16 → (x.areg f.av).toNat + 4 * n ≤ 4096 →
       x.slotBusy k n = false → x.lineBlocks [wbRange (x.areg f.av).toNat (4 * n)] [] = false → posNormal F = true →
       intrusionStops i unitConverter = none → preloadVectors f y = .ok ws → ws.all (fun v => v.all isFinite) = true →
       Executes (.preloadVector t ⟨f, i⟩) t s ((openSlots F k (ws.map (fun v => v.map accOfF32)) y).markWritten k n)) ∧
     (Issues (.preloadZero t ⟨f, i⟩) t s → 16 < k + n →
       exec (.preloadZero t ⟨f, i⟩) s =
         .next (takeFault t (.seq 0x2 unitConverter) (Instr.preloadZero t ⟨f, i⟩).word (s.putTile t x.fetch))) ∧
     (Issues (.preloadVector t ⟨f, i⟩) t s → 16 < k + n →
       exec (.preloadVector t ⟨f, i⟩) s =
         .next (takeFault t (.seq 0x2 unitConverter) (Instr.preloadVector t ⟨f, i⟩).word (s.putTile t x.fetch)))) ∧
  (∀ (t : TileId) (f : DrainOps) (j : Intrusion) (s : State) (ps : List (List Line)),
     let x := s.tile t
     let n := f.n.toNat + 1
     let k := f.slot.toNat
     let l := (x.areg f.ad).toNat
     let vals := (List.range n).map (fun i => drainValues (x.slot (k + i)))
     let y := (intrude j x).addFlags (orFlags (vals.map drainFlags))
     let ready (stride : Nat) : Prop := k + n ≤ 16 ∧ (∀ i, i < n → (x.slot (k + i)).isOpen = true) ∧ l + stride * n ≤ 4096 ∧
       x.slotBusy k n = false ∧ x.lineBlocks [] [wbRange l (stride * n)] = false ∧ intrusionStops j unitConverter = none
     let quantised (q : QTarget) (threshold : Nat) : Prop := posNormal (x.sreg f.st) = true ∧ ps.length = n ∧
       ∀ i, i < n → drainQuant q threshold (x.sreg f.st) (nth [] vals i) = .ok (nth [] ps i)
     let result (stride : Nat) (lines : List (List Line)) : Tile :=
       if f.keep then writeDrained stride l lines y else closeSlots k n (writeDrained stride l lines y)
     (Issues (.drainToF32 t ⟨f, j⟩) t s → ready 4 →
       Executes (.drainToF32 t ⟨f, j⟩) t s (result 4 (vals.map (fun v => vecLines (v.map Prod.fst))))) ∧
     (Issues (.drainToA8r t ⟨f, j⟩) t s → ready 2 → quantised .a8r (s.regThreshold t) →
       Executes (.drainToA8r t ⟨f, j⟩) t s (result 2 ps)) ∧
     (Issues (.drainToA8 t ⟨f, j⟩) t s → ready 1 → quantised .a8 0 → Executes (.drainToA8 t ⟨f, j⟩) t s (result 1 ps)) ∧
     (∀ c, c = .drainToF32 t ⟨f, j⟩ ∨ c = .drainToA8r t ⟨f, j⟩ ∨ c = .drainToA8 t ⟨f, j⟩ → Issues c t s → k + n ≤ 16 →
       (∃ i, i < n ∧ (x.slot (k + i)).isOpen = false) →
       exec c s = .next (takeFault t (.seq 0x3 unitConverter) c.word (s.putTile t x.fetch)))) ∧
  (∀ (t : TileId) (f : PassOps) (i : Intrusion) (s : State), Issues (.pass t f i) t s →
     (f.tally = true ∨ (s.tile t).test = true) → f.slot.toNat + (f.dwell.toNat + 1) ≤ 16 →
     (∃ k, k < f.dwell.toNat + 1 ∧ ((s.tile t).slot (f.slot.toNat + k)).isOpen = false) →
     exec (.pass t f i) s = .next (takeFault t (.seq 0x3 unitPane) (Instr.pass t f i).word (s.putTile t (s.tile t).fetch)))

/-- The lane-wise FIN operations of two operands: with their vectors readable, each destination lane is the operation of the X
and Y lanes, vector c at AD + 4c, and the sticky flags gather what the lanes and the slot reads set (R87, R252).

The lane-wise FIN operations of one operand.

The model's choices (log entries) in it: rounding (57); the functions that R88 bounds are free inside the bounds (10 to
13). -/
def Obligations.FinLaneOperations : Prop :=
  (∀ (t : TileId) (f : FinOps) (i : Intrusion) (s : State) (xs : List (List Word × BitVec 3)) (ys : List (List Word)),
     let x := intrude (finEvents f i) (s.tile t)
     xVectors f x = .ok xs → overVectors (finY f x) 0 (vectors f) = .ok ys →
     let out (ovf : Bool) (g : Word → Word → Word) : Tile :=
       let rs := (xs.zip ys).map (fun p => lanes2 ovf g p.1.1 p.2)
       putLines ((rs.zipIdx).map (fun p => (x.line f.ad + 4 * p.2, vecLines p.1.1)))
         (x.addFlags (orFlags (xs.map Prod.snd) ||| orFlags (rs.map Prod.snd)))
     let ready : Prop := FinReady f i (xRanges f x ++ yRanges f x) (dRanges f x) (s.tile t)
     ready →
     (Issues (.finAdd t ⟨f, i⟩) t s → Executes (.finAdd t ⟨f, i⟩) t s (out true fadd)) ∧
     (Issues (.finSub t ⟨f, i⟩) t s → Executes (.finSub t ⟨f, i⟩) t s (out true fsub)) ∧
     (Issues (.finMul t ⟨f, i⟩) t s → Executes (.finMul t ⟨f, i⟩) t s (out true fmul)) ∧
     (Issues (.finMin t ⟨f, i⟩) t s → Executes (.finMin t ⟨f, i⟩) t s (out false fmin)) ∧
     (Issues (.finMax t ⟨f, i⟩) t s → Executes (.finMax t ⟨f, i⟩) t s (out false fmax)) ∧
     (Issues (.finCmpgt t ⟨f, i⟩) t s → Executes (.finCmpgt t ⟨f, i⟩) t s (out false fcmpgt))) ∧
  (∀ (t : TileId) (f : FinOps) (i : Intrusion) (s : State) (xs : List (List Word × BitVec 3)),
     let x := intrude (finEvents f i) (s.tile t)
     xVectors f x = .ok xs → FinReady f i (xRanges f x) (dRanges f x) (s.tile t) →
     let out (rs : List (List Word × BitVec 3)) : Tile :=
       putLines ((rs.zipIdx).map (fun p => (x.line f.ad + 4 * p.2, vecLines p.1.1)))
         (x.addFlags (orFlags (xs.map Prod.snd) ||| orFlags (rs.map Prod.snd)))
     let each (ovf : Bool) (g : Word → Word) : Tile := out (xs.map (fun v => lanes1 ovf g v.1))
     let killed : Tile := out (xs.zipIdx.map (fun q => (q.1.1.zipIdx.map (fun p =>
           if q.2 = (x.sreg f.ss).toNat / 64 ∧ p.2 = (x.sreg f.ss).toNat % 64 then negInf else quietNaN p.1),
         orFlags (q.1.1.map (fun a => laneFlags false [a] 0)))))
     (Issues (.finCopy t ⟨f, i⟩) t s → Executes (.finCopy t ⟨f, i⟩) t s (each false quietNaN)) ∧
     (Issues (.finRecip t ⟨f, i⟩) t s → Executes (.finRecip t ⟨f, i⟩) t s (out (xs.map (fun v =>
       (v.1.map frecip, orFlags (v.1.map (fun a => laneFlags (!isZeroF a) [a] (frecip a)))))))) ∧
     (Issues (.finRsqrt t ⟨f, i⟩) t s → Executes (.finRsqrt t ⟨f, i⟩) t s (each false frsqrt)) ∧
     (Issues (.finExp t ⟨f, i⟩) t s → Executes (.finExp t ⟨f, i⟩) t s (each true fexp)) ∧
     (Issues (.finExpm t ⟨f, i⟩) t s → Executes (.finExpm t ⟨f, i⟩) t s (out (xs.map (fun v =>
       (v.1.map (fun a => fexpm a (x.sreg f.ss)),
        orFlags (v.1.map (fun a => laneFlags true [a, x.sreg f.ss] (fexpm a (x.sreg f.ss))))))))) ∧
     (Issues (.finLookup t ⟨f, i⟩) t s → Executes (.finLookup t ⟨f, i⟩) t s
       (each false (lookupTable (Tbl.get {} x.tables (bitsAt f.opx 0 2))))) ∧
     (Issues (.finKill t ⟨f, i⟩) t s → (x.sreg f.ss).toNat / 64 < vectors f → Executes (.finKill t ⟨f, i⟩) t s
       { killed with killed := killed.killed ++ killedWords f (x.sreg f.ss).toNat x }))

/-- The other FIN operations, each under its own operands: their body's lines are written and its flags set.

LOADTBL takes 1,024 entries, x0 and the slope factor from 65 F32 lines; CLEAR writes F32 zeros, or pairs of −infinity and
0xFFFF_FFFF (R252).

The model's choices (log entries) in it: rounding (57, 58); the functions that R88 and R91 bound are free inside the
bounds (10 to 13). -/
def Obligations.FinOtherOperations : Prop :=
  (∀ (t : TileId) (f : FinOps) (i : Intrusion) (s : State) (fl : BitVec 3) (o : FinOut),
     let x := intrude (finEvents f i) (s.tile t)
     let out : Tile := putLines o.writes (x.addFlags (fl ||| o.flags))
     let acc (per : Nat) : List LineRange := if accOf f then reduceRange f per x else []
     let ready (reads writes : List LineRange) : Prop := FinReady f i reads writes (s.tile t)
     (Issues (.finFma t ⟨f, i⟩) t s → ready (xRanges f x ++ yRanges f x ++ dRanges f x) (dRanges f x) →
       fmaBody f x = (fl, .ok o) → Executes (.finFma t ⟨f, i⟩) t s out) ∧
     (Issues (.finLanesum t ⟨f, i⟩) t s → ready (xRanges f x ++ acc 16) (reduceRange f 16 x) →
       sumBody f false x = (fl, .ok o) → Executes (.finLanesum t ⟨f, i⟩) t s out) ∧
     (Issues (.finSumsq t ⟨f, i⟩) t s → ready (xRanges f x ++ acc 16) (reduceRange f 16 x) →
       sumBody f true x = (fl, .ok o) → Executes (.finSumsq t ⟨f, i⟩) t s out) ∧
     (Issues (.finMaxidx t ⟨f, i⟩) t s → ready (xRanges f x ++ recRange f x ++ acc 8) (reduceRange f 8 x) →
       (if s.isRouter t then gateBody f x else pickBody f false x) = (fl, .ok o) → Executes (.finMaxidx t ⟨f, i⟩) t s out) ∧
     (Issues (.finMinidx t ⟨f, i⟩) t s → ready (xRanges f x ++ recRange f x ++ acc 8) (reduceRange f 8 x) →
       pickBody f true x = (fl, .ok o) → Executes (.finMinidx t ⟨f, i⟩) t s out) ∧
     (∀ xs ys, Issues (.finRms t ⟨f, i⟩) t s → ready (xRanges f x ++ yRanges f x) (dRanges f x) →
       xVectors f x = .ok xs → overVectors (finY f x) 0 (vectors f) = .ok ys →
       ∃ y, Executes (.finRms t ⟨f, i⟩) t s (putLines ((xs.zip ys).zipIdx.map (fun p => (x.line f.ad + 4 * p.2, vecLines
         (zipWords (fun a b => rmsLane a b (rmsFactor (x.sreg f.ss) (x.sreg (f.ss + 1)) f.opx.toNat)) p.1.1.1 p.1.2)))) y) ∧
         y = { x with finFlags := y.finFlags }) ∧
     (Issues (.finRope t ⟨f, i⟩) t s → ready (xRanges f x ++ [wbRange (x.line f.ay) (2 * vectors f)]) (dRanges f x) →
       ropeBody f x = (fl, .ok o) → Executes (.finRope t ⟨f, i⟩) t s out) ∧
     (Issues (.finQuant t ⟨f, i⟩) t s →
       ready (xRanges f x) [wbRange (x.line f.ad) ((if bitsAt f.opx 0 2 = 0 then 2 else 1) * vectors f)] →
       posNormal (x.sreg f.ss) = true →
       quantBody f (s.regThreshold t) x = (fl, .ok o) → Executes (.finQuant t ⟨f, i⟩) t s out) ∧
     (Issues (.finMask t ⟨f, i⟩) t s → ready (xRanges f x ++ [wbRange (x.line f.ay) 5]) (dRanges f x) →
       maskBody f x = (fl, .ok o) → Executes (.finMask t ⟨f, i⟩) t s out) ∧
     (Issues (.finKill t ⟨f, i⟩) t s → vectors f ≤ (x.sreg f.ss).toNat / 64 →
       exec (.finKill t ⟨f, i⟩) s =
         .next (takeFault t (.seq 0x2 unitFinisher) (Instr.finKill t ⟨f, i⟩).word (s.putTile t (s.tile t).fetch)))) ∧
  (∀ (t : TileId) (f : FinOps) (i : Intrusion) (s : State),
     let x := s.tile t
     let z := intrude (noSlots i) x
     (∀ ws, Issues (.finLoadtbl t ⟨f, i⟩) t s → x.line f.ax + 65 ≤ 4096 → x.lineBlocks [wbRange (x.line f.ax) 65] [] = false →
       intrusionStops i unitFinisher = none → readWords [fmtF32] z (x.line f.ax) 65 = .ok ws →
       ∃ y, Executes (.finLoadtbl t ⟨f, i⟩) t s y ∧ y = { z with tables := y.tables, finFlags := y.finFlags } ∧
         y.finFlags = x.finFlags ||| (if (ws.take 1026).all isFinite then 0 else flagNonfinite) ∧
         (∀ k, k < 1024 → Tbl.get 0 (Tbl.get {} y.tables (bitsAt f.opx 0 2)).ys k = nth 0 ws k) ∧
         (Tbl.get {} y.tables (bitsAt f.opx 0 2)).x0 = nth 0 ws 1024 ∧
         (Tbl.get {} y.tables (bitsAt f.opx 0 2)).inv = nth 0 ws 1025 ∧
         (∀ n, n ≠ bitsAt f.opx 0 2 → Tbl.get {} y.tables n = Tbl.get {} x.tables n)) ∧
     (Issues (.finClear t ⟨f, i⟩) t s → FinReady f i [] [wbRange (x.line f.ad) (vectors f)] x →
       Executes (.finClear t ⟨f, i⟩) t s ((intrude (finEvents f i) x).writeLines memWb (x.line f.ad) (List.replicate (vectors f)
         (if bitAt f.opx 0 then mkPairs (List.replicate 8 (negInf, 0xFFFFFFFF)) else mkWords fmtF32 (List.replicate 16 0))))))

/-! ## Moving data, waiting and signalling (R112 to R123, R233, R254 to R265) -/

/-- POST and REDUCE put one descriptor at the end of the queue, with the lines, template, position and context they name,
while the queue, the running ones counted, has room and no earlier TAKE or PASS that has not retired stands in the way.

DESCRIPTOR_START moves the head of the queue to the running descriptors where nothing holds it; DESCRIPTOR_RETIRE moves its
lines and, with the last one gone, drops it; a copy of one line puts that line at its destination.

The model's choices (log entries) in it: the ranges of a POST checked at issue (46), queued and running descriptors apart
(51). -/
def Obligations.PostsAndDescriptors : Prop :=
  (∀ (t : TileId) (f : PostOps) (g : ReduceOps) (s : State),
     let x := s.tile t
     let w := Instr.word
     let free (src dst : List LineRange) : Prop := rangesFault unitPost (src ++ dst) = none ∧ x.unretired src dst = false ∧
       x.descq.length + x.running.length < 16
     let queues (i : Instr) (d : Desc) : Prop := Executes i t s { x with descq := x.descq ++ [d] }
     (Issues (.postCopy t f) t s →
       free [⟨f.smem, x.line f.as, f.lines.toNat + 1⟩] [⟨f.dmem, x.line f.ad, f.lines.toNat + 1⟩] →
       queues (.postCopy t f) (copyDesc f (w (.postCopy t f)) x)) ∧
     (∀ n, Issues (.postSend t f) t s → templateNo f x = some n →
       free [⟨f.smem, x.line f.as, (f.lines.toNat + 1) * (if f.reg then 2 else 1)⟩] [] →
       queues (.postSend t f) (sendDesc f .send n (w (.postSend t f)) x)) ∧
     (∀ n, Issues (.postPull t f) t s → templateNo f x = some n → free [] [] →
       queues (.postPull t f) (sendDesc f .pull n (w (.postPull t f)) x)) ∧
     (∀ n, Issues (.postCircularRequest t f) t s → templateNo f x = some n → free [] [] →
       queues (.postCircularRequest t f) (sendDesc f .circular n (w (.postCircularRequest t f)) x)) ∧
     (Issues (.reduce t g) t s → 1 ≤ envKind (Tbl.get 0 x.templates g.tmpl.toNat) →
       envKind (Tbl.get 0 x.templates g.tmpl.toNat) ≤ 3 → free [wbRange (x.line g.as) (g.lines.toNat + 1)] [] →
       queues (.reduce t g)
         { op := .reduce, smem := memWb, dmem := 0, src := x.line g.as, dst := 0, blocks := g.lines.toNat + 1, reg := false
           last := false, bypass := x.ctx.bypass, position := positionOf g.sp x, tmpl := g.tmpl.toNat, ctx := x.ctx
           pc := x.pc, word := w (.reduce t g) }) ∧
     (∀ i, i = .postSend t f ∨ i = .postPull t f ∨ i = .postCircularRequest t f → Issues i t s → templateNo f x = none →
       exec i s = .next (takeFault t (.seq 0x2 unitPost) (w i) (s.putTile t x.fetch))) ∧
     (Issues (.reduce t g) t s → (envKind (Tbl.get 0 x.templates g.tmpl.toNat) = 0 ∨
       3 < envKind (Tbl.get 0 x.templates g.tmpl.toNat)) →
       exec (.reduce t g) s = .next (takeFault t (.seq 0x1 unitSequencer) (w (.reduce t g)) (s.putTile t x.fetch)))) ∧
  (∀ (t : TileId) (i : Intrusion) (k : Fin 4) (s : State) (d : Desc) (rest : List Desc),
     let x := s.tile t
     (x.descq = d :: rest → s.postRuns t = true → x.running.length < 4 → descEnvFault d x = none →
       rangesFault unitPost (descSource d ++ descDest d) = none → descOwnFault (s.familyOf d.ctx.session) d x = none →
       x.sbBlocks (descSource d) (descDest d) = false → creditReady d x = true → intrusionStops i unitPost = none →
       d.circ = none →
       ∃ u, exec (.descriptorStart t i) s = .next u ∧ (u.tile t).descq = rest ∧
         (u.tile t).running = x.running ++ [{ d with stalled := false }] ∧ SameMemories x (u.tile t)) ∧
     ((s.block (tileBlock t)).pstate = .active → x.running[k.val]? = some d → d.op = .copy → d.blocks = 1 → d.done = 0 →
       intrusionStops i unitPost = none →
       ∃ u, exec (.descriptorRetire t ⟨k, i⟩) s = .next u ∧ (u.tile t).running = x.running.eraseIdx k.val ∧
         (u.tile t).readLine d.dmem d.dst = x.readLine d.smem d.src))

/-- TAKE with an entry waiting: the wave context loads under CTX, s[SE] to s[SE + 3] take the envelope under ENV, and the
take runs as far as its queue goes; with an empty queue it waits.

CLAIM takes the lowest free scoreboard entry and names it in s[SD]; with all 16 in use it faults. RELEASE frees the entry
s[SR] names; a number above 15 is out of range. Their words are those of R258.

The model's choices (log entries) in it: the two lines of a TAKE with REG by the A16 format (49); none in what R258 is
cited for. -/
def Obligations.TakesAndClaims : Prop :=
  (∀ (t : TileId) (f : TakeOps) (i : Intrusion) (s : State),
     let x := s.tile t
     let r : TakeRun := ⟨f.queue, x.line f.ad, f.count.toNat + 1, f.reg, x.line f.ad, f.count.toNat + 1⟩
     let j := noSlots i
     Issues (.take t f i) t s → rangesFault unitTake [takeRange r] = none →
     (∀ h rest, x.hole f.queue.toNat = h :: rest → x.lineBlocks [] [takeRange r] = false →
       x.takes.any (fun k => k.queue == f.queue) = false → intrusionStops i unitTake = none →
       let y := if f.ctx then loadCtx h.env (intrude j x) else intrude j x
       let z := if f.env then loadEnv f.se h.env y else y
       Executes (.take t f i) t s (runTakes t { z with takes := z.takes ++ [r] })) ∧
     (x.hole f.queue.toNat = [] → exec (.take t f i) s =
       .next (s.putTile t { x.fetch with wait := .pigeonhole, waitWord := (Instr.take t f i).word }))) ∧
  (∀ (t : TileId) (f : ClaimOps) (sr : BitVec 5) (s : State),
     let x := s.tile t
     let l := (x.areg f.ar).toNat
     (∀ e, Issues (.claim t f) t s → rangesFault unitSequencer [⟨f.mem, l, f.lines.toNat + 1⟩] = none → x.sbFree = some e →
       Executes (.claim t f) t s
         ({ x with sb := Tbl.set {} x.sb e ⟨true, f.drain, f.mem, l, f.lines.toNat + 1, 0, true⟩ }.setS f.sd (BitVec.ofNat 32 e))) ∧
     (Issues (.claim t f) t s → rangesFault unitSequencer [⟨f.mem, l, f.lines.toNat + 1⟩] = none → x.sbFree = none →
       exec (.claim t f) s = .next (takeFault t (.mem 4 f.mem (BitVec.ofNat 16 l) unitSequencer) (Instr.claim t f).word
         (s.putTile t x.fetch))) ∧
     (Instr.claim t f).word = BitVec.ofNat 64 (0x44 * 2 ^ 56 + f.drain.toNat * 2 ^ 55 + f.mem.toNat * 2 ^ 53 +
       f.ar.toNat * 2 ^ 49 + f.lines.toNat * 2 ^ 37 + f.sd.toNat * 2 ^ 32) ∧
     (Instr.release t sr).word = BitVec.ofNat 64 (0x45 * 2 ^ 56 + sr.toNat * 2 ^ 51) ∧
     (∀ e, x.sbFree = some e → (Tbl.get ({} : SbEntry) x.sb e).used = false ∧
       ∀ k, k < e → (Tbl.get ({} : SbEntry) x.sb k).used = true) ∧
     (Issues (.release t sr) t s → (x.sreg sr).toNat ≤ 15 →
       Executes (.release t sr) t s { x with sb := Tbl.set {} x.sb (x.sreg sr).toNat {} }) ∧
     (Issues (.release t sr) t s → 15 < (x.sreg sr).toNat →
       exec (.release t sr) s = .next (takeFault t (.seq 0x2 unitSequencer) (Instr.release t sr).word (s.putTile t x.fetch))))

/-- WAIT goes on where its condition of R259 holds and otherwise leaves the tile waiting; a USER card's payload goes to s[SD].

CARD sends a BARRIER_ARRIVE card to the field's hub, or a USER card with payload s[SP], and SENT counts it; it waits while the
block's node takes no more cards of the tile; a barrier without an entry faults and sends nothing but the fault note.

The model's choices (log entries) in it: waiting at issue (40), queued and running descriptors apart (51), arrivals of
cards by rows of their own (67), entries kept for a low parcel (136), five cards in a microsecond (167). -/
def Obligations.WaitsAndCards : Prop :=
  (∀ (t : TileId) (f : WaitOps) (s : State),
     let x := s.tile t
     let either (i : Instr) (c : Prop) (k : WaitKind) : Prop := Issues i t s →
       (c → Executes i t s x) ∧ (¬ c → exec i s = .next (s.putTile t { x.fetch with wait := k, waitWord := i.word }))
     either (.waitPigeonhole t f) (f.id.toNat ≤ (x.hole f.arg.toNat).length) .pigeonhole ∧
     either (.waitScoreboard t f) ((Tbl.get ({} : SbEntry) x.sb f.arg.toNat).used = false) .entry ∧
     (∀ n, s.barrierIndex (tileField t) f.id = some n →
       either (.waitBarrier t f) (Tbl.get none x.latches n = some x.ctx.wave) .barrier) ∧
     either (.waitDescriptors t f) (x.descq = [] ∧ x.running = []) .descriptors ∧
     either (.waitSlots t f) (x.slotBusy f.arg.toNat (f.n.toNat + 1) = false) .slotsIdle ∧
     (∀ c cs, Issues (.waitUserCard t f) t s → x.inbox = c :: cs → Executes (.waitUserCard t f) t s
       ({ x with inbox := cs ++ x.cardHold.take 1, cardHold := x.cardHold.drop 1 }.setS f.sd (Card.payload c))) ∧
     (Issues (.waitUserCard t f) t s → x.inbox = [] → exec (.waitUserCard t f) s =
       .next (s.putTile t { x.fetch with wait := .userCard, waitWord := (Instr.waitUserCard t f).word })) ∧
     (Issues (.waitBarrier t f) t s → s.barrierIndex (tileField t) f.id = none → exec (.waitBarrier t f) s =
       .next (takeFault t (.seq 0x2 unitSequencer) (Instr.waitBarrier t f).word (s.putTile t x.fetch)))) ∧
  (∀ (t : TileId) (f : CardOps) (s : State),
     let x := s.tile t
     let sends (i : Instr) (c : Card) : Prop :=
       (x.cardsAt s.dev.time < 5 → ∃ u, exec i s = .next u ∧ u.dev.cards = s.dev.cards ++ [⟨srcTile t, c⟩] ∧
         u.tile t = { x.advance with sent := x.sent + 1, cardTime := s.dev.time, cardsThen := x.cardsAt s.dev.time + 1 }) ∧
       (5 ≤ x.cardsAt s.dev.time → exec i s = .next (s.putTile t { x.fetch with wait := .card, waitWord := i.word }))
     (Issues (.cardBarrierArrive t f) t s → (s.barrierIndex (tileField t) f.barrier).isSome = true →
       sends (.cardBarrierArrive t f) (mkCard (BitVec.ofNat 32 (f.barrier.toNat + 256 * x.ctx.wave.toNat)) cardArrive 2
         (BitVec.ofNat 16 (tileField t)))) ∧
     (Issues (.cardUser t f) t s → sends (.cardUser t f) (mkCard (x.sreg f.sp) cardUserType f.dclass f.dest)) ∧
     (Issues (.cardBarrierArrive t f) t s → s.barrierIndex (tileField t) f.barrier = none →
       exec (.cardBarrierArrive t f) s =
         .next (takeFault t (.seq 0x2 unitSequencer) (Instr.cardBarrierArrive t f).word (s.putTile t x.fetch))))

/-! ## The folio unit and the sampler (R185 to R190, R221, R226 to R230, R261 to R263) -/

/-- FOLIO under a legal layer: LIST writes the records and their count, the holder's APPEND writes the frame and answers 1,
any other tile's APPEND answers 0, WEEVIL queues an update, BOUND answers the frame's bound, COMMIT applies the queued updates
of the layer and keeps the others; an unknown layer is out of range.

A FOLIO whose LAYER is no attention stage of the tile is out of range.

The model's choices (log entries) in it: frames in the slab (60), queued weevil updates (61), what COMMIT drops (62), the lines of
a query with registered pairs (149). -/
def Obligations.FolioInstructions : Prop :=
  (∀ (t : TileId) (f : FolioOps) (i : Intrusion) (s : State) (g : Stage),
     let x := s.tile t
     let z := intrude (noSlots i) x
     let ls := s.localFrames t x.ctx f.layer
     let fam := s.familyOf x.ctx.session
     let heads := s.stageHeads g x.ctx
     let openFrame := heads.find? (fun e => !e.2.2.isSealed && !e.2.2.full)
     s.attentionStage t f.layer = some g → intrusionStops i unitFolio = none →
     (∀ fs, Issues (.folioList t ⟨f, i⟩) t s →
       let src := ls.map (fun l => (⟨memSlab, l, 5⟩ : LineRange))
       ownChecks (readsAs x) fam x src = none → x.line f.ad + 5 * ls.length ≤ 4096 →
       x.lineBlocks src [wbRange (x.line f.ad) (5 * ls.length)] = false → readHeads z ls = .ok fs →
       Executes (.folioList t ⟨f, i⟩) t s ((z.writeLines memWb (x.line f.ad) ((sortFrames fs).flatMap
         (listRecord (s.retained g x.ctx) (s.session x.ctx.session.toNat).adapt))).setS f.sd (BitVec.ofNat 32 fs.length))) ∧
     (∀ e hs, Issues (.folioAppend t ⟨f, i⟩) t s → readHeads x ls = .ok hs → openFrame = some e → e.1 ≠ t →
       Executes (.folioAppend t ⟨f, i⟩) t s (z.setS f.sd 0)) ∧
     (∀ hs, Issues (.folioAppend t ⟨f, i⟩) t s → readHeads x ls = .ok hs → openFrame = none →
       if heads.any (fun e => e.1 != t && e.2.2.positions.contains (posOf f.ss x))
       then Executes (.folioAppend t ⟨f, i⟩) t s (z.setS f.sd 0)
       else exec (.folioAppend t ⟨f, i⟩) s =
         .next (s.putTile t { x.fetch with wait := .frame, waitWord := (Instr.folioAppend t ⟨f, i⟩).word })) ∧
     (∀ e hs fr0 k xs fr, Issues (.folioAppend t ⟨f, i⟩) t s → readHeads x ls = .ok hs → openFrame = some e → e.1 = t →
       let n := (g.kdims + if g.vShared then 0 else g.vdims) / 16
       let frame := s.frameRange g t e.2.1
       ownChecks (writesAs x) fam x [frame] = none → x.line f.ax + n ≤ 4096 →
       (∀ q ∈ heads.flatMap (fun e => e.2.2.positions), q < posOf f.ss x) →
       x.lineBlocks [wbRange (x.line f.ax) n, frame] [frame] = false →
       s.frameOf g t x.ctx.session e.2.1 = .ok fr0 → readWords [fmtF32] z (x.line f.ax) n = .ok xs →
       fr0.freeSlot = some k → appendFrame fr0 k (posOf f.ss x) xs = .ok fr →
       Executes (.folioAppend t ⟨f, i⟩) t s ((storeFrame g e.2.1 fr z).setS f.sd 1)) ∧
     (let frame := s.frameRange g t (x.line f.af)
      rangesFault unitFolio [frame] = none → ownChecks (readsAs x) fam x [frame] = none → x.line f.af ∈ ls →
      (Issues (.folioWeevil t ⟨f, i⟩) t s → f.zero = true → Executes (.folioWeevil t ⟨f, i⟩) t s
        { z with weevils := x.weevils ++ [⟨x.line f.af, BitVec.ofNat 24 (posOf f.ss x), []⟩] }) ∧
      (∀ ws, Issues (.folioWeevil t ⟨f, i⟩) t s → f.zero = false → x.line f.ax + 4 * g.heads ≤ 4096 →
        x.lineBlocks [wbRange (x.line f.ax) (4 * g.heads)] [] = false →
        readWords [fmtF32] z (x.line f.ax) (4 * g.heads) = .ok ws → Executes (.folioWeevil t ⟨f, i⟩) t s
          { z with weevils := x.weevils ++ [⟨x.line f.af, BitVec.ofNat 24 (posOf f.ss x), chunks 64 (g.heads + 1) ws⟩] }) ∧
      (∀ fr qs, Issues (.folioBound t ⟨f, i⟩) t s →
        let n := (sheetWidths g.kdims).length
        let src := wbRange (x.line f.ax) (queryLines x (x.line f.ax) n)
        rangesFault unitFolio [src] = none → x.lineBlocks [src, frame] [] = false → posNormal (x.sreg f.ss) = true →
        s.frameOf g t x.ctx.session (x.line f.af) = .ok fr → queryBlocks z (x.line f.ax) n = .ok qs →
        Executes (.folioBound t ⟨f, i⟩) t s (z.setS f.sd (boundValue (x.sreg f.ss) qs fr)))) ∧
     (∀ fs, Issues (.folioCommit t ⟨f, i⟩) t s → commitOwns s g t x ls = none →
       x.lineBlocks (ls.map (s.frameRange g t)) (ls.map (s.frameRange g t)) = false →
       s.readFrames g t x.ctx.session ls = .ok fs →
       ∃ y, Executes (.folioCommit t ⟨f, i⟩) t s y ∧
         y.weevils = x.weevils.filter (fun u => !ls.contains u.frame) ∧
         (∀ a, Mem.readByte y.wb a = Mem.readByte x.wb a ∧ Mem.readByte y.ws a = Mem.readByte x.ws a))) ∧
  (∀ (t : TileId) (f : FolioOps) (j : Intrusion) (s : State) (i : Instr),
     i = .folioList t ⟨f, j⟩ ∨ i = .folioAppend t ⟨f, j⟩ ∨ i = .folioWeevil t ⟨f, j⟩ ∨ i = .folioBound t ⟨f, j⟩ ∨ i = .folioCommit t ⟨f, j⟩ →
     Issues i t s → s.attentionStage t f.layer = none →
     exec i s = .next (takeFault t (.seq 0x2 unitFolio) i.word (s.putTile t (s.tile t).fetch)))

/-- The sampler's instructions on readable operands: SETUP stores the settings block and the grammar's start state; GMASK,
PENALTY and TEMP rewrite the logits at AX in place, TEMP with TEMP = 0 to a one-hot distribution; UNIFORM, DRAW, ACCEPT and GSTEP
answer in s[SD]; RESID writes max(0, p − q).

The model's choices (log entries) in it: rounding and the order of the sampler's arithmetic (58), the constants of Philox
(56), a session without sampler state (59), the settings line's format code (147), TEMP = 0 over the tile's own range (148). -/
def Obligations.SamplerInstructions : Prop :=
  ∀ (t : TileId) (f : SampleOps) (i : Intrusion) (s : State),
    let x := intrude (noSlots i) (s.tile t)
    let n := 4 * (f.count.toNat + 1)
    let l := x.line f.ax
    let inPlace (c : Instr) (more : List LineRange) (ws vs : List Word) : Prop := Issues c t s →
      rangesFault unitSampler (wbRange l n :: more ++ [wbRange l n]) = none →
      (s.tile t).lineBlocks (wbRange l n :: more) [wbRange l n] = false →
      readWords [fmtF32] x l n = .ok ws → ws.any isNaN = false → Executes c t s (x.writeLines memWb l (vecLines vs))
    intrusionStops i unitSampler = none →
    (∀ p, Issues (.sampleSetup t ⟨f, i⟩) t s → l + 1 ≤ 4096 → (s.tile t).lineBlocks [wbRange l 1] [] = false →
      p = x.readLine memWb l → parcelCheck [fmtU32, fmtBYTES] p = none →
      s.settingsOk (readSettings (bytesOf 32 (p.setWidth 256))) = true →
      Executes (.sampleSetup t ⟨f, i⟩) t s (x.setSampler ⟨p,
        match s.sessionGrammar x.ctx.session (readSettings (bytesOf 32 (p.setWidth 256))).grammar with
        | some g => grammarStart g
        | none => 0⟩)) ∧
    (∀ ws g p, s.sessionGrammar x.ctx.session x.settings.grammar = some g → s.dev.placement = some p →
      inPlace (.sampleGmask t ⟨f, i⟩) [] ws (ws.zipIdx.map (fun e =>
        if grammarAllows g p.vocab x.samplerOf.grammarState (s.tokenBase t + e.2) then e.1 else negInf))) ∧
    (∀ ws, s.sessionGrammar x.ctx.session x.settings.grammar = none → inPlace (.sampleGmask t ⟨f, i⟩) [] ws ws) ∧
    (∀ ws ids, readWords [fmtU32] x (x.line f.ay) (((x.sreg f.ss).toNat + 15) / 16) = .ok ids →
      inPlace (.samplePenalty t ⟨f, i⟩) [wbRange (x.line f.ay) (((x.sreg f.ss).toNat + 15) / 16)] ws (ws.zipIdx.map (fun e =>
        if (ids.take (x.sreg f.ss).toNat).any (fun i => i.toNat == s.tokenBase t + e.2)
        then penalise x.settings.penalty e.1 else e.1))) ∧
    (∀ ws, inPlace (.sampleTemp t ⟨f, i⟩) [] ws
      (if isZeroF x.settings.temp then oneHot ws else ws.map (fun v => fmul v (frecip x.settings.temp)))) ∧
    (Issues (.sampleUniform t ⟨f, i⟩) t s → Executes (.sampleUniform t ⟨f, i⟩) t s (x.setS f.sd
      (uniformF32 (s.session x.ctx.session.toNat).seed (x.ctx.position + (x.sreg f.ss).setWidth 24) (f.purpose.setWidth 32)))) ∧
    (∀ ws, Issues (.sampleDraw t ⟨f, i⟩) t s → l + n ≤ 4096 → (s.tile t).lineBlocks [wbRange l n] [] = false →
      readWords [fmtF32] x l n = .ok ws → Executes (.sampleDraw t ⟨f, i⟩) t s (x.setS f.sd
        (match drawIndex (x.sreg f.ss) (x.sreg (f.ss + 1)) 0 ws with
          | some i => BitVec.ofNat 32 (s.tokenBase t + i)
          | none => 0xFFFFFFFF))) ∧
    (Issues (.sampleAccept t ⟨f, i⟩) t s → Executes (.sampleAccept t ⟨f, i⟩) t s (x.setS f.sd
      (if acceptTest (x.sreg f.ss) (x.sreg (f.ss + 1)) (x.sreg (f.ss + 2)) then 1 else 0))) ∧
    (∀ ps qs, Issues (.sampleResid t ⟨f, i⟩) t s →
      rangesFault unitSampler [wbRange l n, wbRange (x.line f.ay) n, wbRange (x.line f.ad) n] = none →
      (s.tile t).lineBlocks [wbRange l n, wbRange (x.line f.ay) n] [wbRange (x.line f.ad) n] = false →
      readWords [fmtF32] x l n = .ok ps → readWords [fmtF32] x (x.line f.ay) n = .ok qs →
      Executes (.sampleResid t ⟨f, i⟩) t s (x.writeLines memWb (x.line f.ad)
        (vecLines (zipWords (fun p q => fmax 0 (fsub p q)) ps qs)))) ∧
    (∀ g st, Issues (.sampleGstep t ⟨f, i⟩) t s → s.sessionGrammar x.ctx.session x.settings.grammar = some g →
      s.walkToken g x.samplerOf.grammarState (x.sreg f.ss).toNat = some st →
      Executes (.sampleGstep t ⟨f, i⟩) t s ((x.setSampler { x.samplerOf with grammarState := st }).setS f.sd 1)) ∧
    (∀ g, Issues (.sampleGstep t ⟨f, i⟩) t s → s.sessionGrammar x.ctx.session x.settings.grammar = some g →
      s.walkToken g x.samplerOf.grammarState (x.sreg f.ss).toNat = none →
      Executes (.sampleGstep t ⟨f, i⟩) t s (x.setS f.sd 0)) ∧
    (Issues (.sampleGstep t ⟨f, i⟩) t s → s.sessionGrammar x.ctx.session x.settings.grammar = none →
      Executes (.sampleGstep t ⟨f, i⟩) t s (x.setS f.sd 1))

/-! ## The mesh (R112, R128 to R154, R283, R449, R566, R567) -/

/-- UNICAST_FLIT moves the head of an input one hop, X first and then Y, when the output serves it: it leaves the input, spends a
hop credit and enters the neighbour's input, or its boundary FIFO in another field; an output serves a flit only under a credit,
and one of VCs 0 to 2 only while no flit of VC 3 can go. A bad side-band CRC leaves it and counts a retry (R129, R135, R138, R449).

HOP_CREDIT_RETURN gives back one spent credit where a buffer beyond has come free; BOUNDARY_FIFO_ARRIVAL moves the oldest
flit of a FIFO into the input buffer while the field's generator runs, and knocks for it otherwise (R129, R141, R143).

The model's choices (log entries) in it: one hop a row (63), the turn before any turn (64). -/
def Obligations.FlitsHop : Prop :=
  (∀ (t : TileId) (p : Port) (vc : BitVec 2) (s : State) (f : Flit),
     let v := vc.toNat
     let out := routePort t (envDest f.env)
     let rest := ((popBuf t p v s).tile t).buf p v
     (p ≠ .loc → rest = ((s.tile t).buf p v).tail) ∧
     (granted t p out v s = true →
       hasCredit t out v s = true ∧ (v ≠ 3 → hasCredit t out 3 s = false ∨ askers t out 3 s = [])) ∧
     (s.routerOn t = true → s.head t p v = some f →
       (∀ n, byTable f = false → out ≠ .loc → neighbour t out = some n → granted t p out v s = true →
         ∃ u, exec (.unicastFlit t p vc false) s = .next u ∧ (u.tile t).buf p v = rest ∧
           (u.tile t).spentOn out v = (s.tile t).spentOn out v + 1 ∧
           (if tileField t = tileField n then (u.tile n).buf (opposite out) v = (s.tile n).buf (opposite out) v ++ [f]
            else (u.tile n).fifo (opposite out) v = (s.tile n).fifo (opposite out) v ++ [f]) ∧
           SameMemories (s.tile t) (u.tile t) ∧ SameMemories (s.tile n) (u.tile n)) ∧
       (byTable f = false → out ≠ .loc → granted t p out v s = false → exec (.unicastFlit t p vc false) s = .next s) ∧
       (∃ u, exec (.unicastFlit t p vc true) s = .next u ∧ (u.tile t).buf p v = (s.tile t).buf p v ∧
         (u.field (tileField t)).hopRetries = satAdd (s.field (tileField t)).hopRetries 1))) ∧
  (∀ (t : TileId) (p : Port) (vc : BitVec 2) (s : State) (f : Flit) (rest : List Flit),
     let v := vc.toNat
     let back := s.updTile t (fun x => x.setSpent p v (x.spentOn p v - 1))
     let moved := s.putTile t (((s.tile t).setFifo p v rest).setBuf p v ((s.tile t).buf p v ++ [f]))
     (p ≠ .loc → heldBeyond t p v s < (s.tile t).spentOn p v →
       exec (.hopCreditReturn t p vc) s = .next (if vc = 3 then retryGroups t p back else back)) ∧
     ((back.tile t).spentOn p v = (s.tile t).spentOn p v - 1 ∧ SameMemories (s.tile t) (back.tile t)) ∧
     ((s.tile t).fifo p v = f :: rest → (s.field (tileField t)).genRunning = true → ((s.tile t).buf p v).length < 8 →
       exec (.boundaryFifoArrival t p vc) s = .next (match vc, neighbour t p with
         | 3, some n => retryGroups n (opposite p) moved
         | _, _ => moved)) ∧
     ((moved.tile t).fifo p v = rest ∧ (moved.tile t).buf p v = (s.tile t).buf p v ++ [f]) ∧
     ((s.tile t).fifo p v = f :: rest → (s.field (tileField t)).genRunning = false →
       ∃ u, exec (.boundaryFifoArrival t p vc) s = .next u ∧ u.tile t = s.tile t ∧
         u.dev.cards = s.dev.cards ++ [⟨srcRouter t, knockCard 2 (BitVec.ofNat 16 (tileField t)) 0x03⟩]))

/-- PIGEONHOLE_ARRIVAL and LANDING_ARRIVAL at an awake tile that does not purge the wave: a good parcel takes its entry, or is
written at the landing's pointer, which moves on; a parcel of a purged wave is removed; a bad CRC is dropped with a fault
note of cause 0x3 (R109, R110, R283, R451, R455).

CREDIT_PARCEL gives the (tile, queue) entry one credit more; GROUP_CREDIT counts one on the branch it came from, up to 32,
and goes no further while another branch holds none (R112, R153).

The model's choices (log entries) in it: reserved queue numbers (66), which credit is a group's (65), a halted sequencer
that stays halted (47). -/
def Obligations.ParcelsArriveAndCreditsReturn : Prop :=
  (∀ (t : TileId) (p : Port) (vc : BitVec 2) (i : Intrusion) (s : State) (f : Flit),
     let v := vc.toNat
     let q := (envQueue f.env).toNat
     let e := Tbl.get ({} : Landing) (s.tile t).landings (q - 16)
     let rest := ((popBuf t p v s).tile t).buf p v
     arrived t p v s = some f → isControl f = false → (s.block (tileBlock t)).awake = true →
     (∀ l, q < 16 → purges t (envWave f.env) s = false → crcGood f.line = true → (s.tile t).takes = [] →
       enterHole f ((s.tile t).hole q) = some l →
       ∃ u, exec (.pigeonholeArrival t p vc) s = .next u ∧ (u.tile t).hole q = l ∧
         (u.tile t).buf p v = rest ∧ SameMemories (s.tile t) (u.tile t)) ∧
     (q < 16 → purges t (envWave f.env) s = true →
       exec (.pigeonholeArrival t p vc) s = .next ((popBuf t p v s).updTile t (returnCredit t f))) ∧
     (16 ≤ q → q < 32 → purges t (envWave f.env) s = false → crcGood f.line = true → e.valid = true → e.mem = memWb →
       (e.lastWave = none ∨ e.lastWave = some (envWave f.env)) → e.ptr < e.count → e.first + e.ptr < 4096 →
       intrusionStops i unitPost = none →
       ∃ u, exec (.landingArrival t p vc i) s = .next u ∧ Mem.readLine (u.tile t).wb (e.first + e.ptr) = f.line ∧
         (Tbl.get ({} : Landing) (u.tile t).landings (q - 16)).ptr = e.ptr + 1 ∧
         (u.tile t).buf p v = rest) ∧
     (16 ≤ q → q < 32 → purges t (envWave f.env) s = false → crcGood f.line = false →
       ∃ u, exec (.landingArrival t p vc i) s = .next u ∧ SameMemories (s.tile t) (u.tile t) ∧
         u.dev.cards = s.dev.cards ++ [⟨srcTile t, faultNoteCard 0x3 (envWave f.env) t⟩]) ∧
     (16 ≤ q → q < 32 → purges t (envWave f.env) s = true →
       exec (.landingArrival t p vc i) s = .next (popBuf t p v s))) ∧
  (∀ (t : TileId) (p : Port) (s : State) (f : Flit), arrived t p 3 s = some f → envKind f.env = 5 →
     let rest := ((popBuf t p 3 s).tile t).buf p 3
     (∀ i, envGroup f.env = 0 → creditIndex (s.tile t) (envSource f.env) (envQueue f.env) = some i →
       ∃ u, exec (.creditParcel t p) s = .next u ∧ (Tbl.get ({} : CreditEntry) (u.tile t).credits i).held =
         (Tbl.get ({} : CreditEntry) (s.tile t).credits i).held + 1 ∧ (u.tile t).buf p 3 = rest) ∧
     (∀ b, let e := forkEntry (s.tile t) (envGroup f.env)
       (envGroup f.env ≠ 0 ∨ creditIndex (s.tile t) (envSource f.env) (envQueue f.env) = none) → e.valid = true →
       bitAt e.out (portNo p) = true → b ∈ branches e.out → b ≠ p → Tbl.get 0 e.credits (portNo b) = 0 →
       ∃ u, exec (.groupCredit t p) s = .next u ∧ Tbl.get 0 (forkEntry (u.tile t) (envGroup f.env)).credits (portNo p) =
         min 32 (Tbl.get 0 e.credits (portNo p) + 1) ∧ (u.tile t).buf p 3 = rest))

/-- REDUCTION_PART at a router with one child goes on toward the parent; MULTICAST_FLIT with one branch, and
MULTICAST_BRANCH_TAKE of the last waiting branch, send the copy across the link and free the input (R144, R145, R151, R152).

PULL_REQUEST queues the reply's descriptor at the remote post engine, behind the replies that wait for room, and CIRCULAR_REQUEST
counts a reader; a malformed request is consumed with a network fault of cause 0x6 (R154, R567).

A parcel for a rim queue leaves to the die of the tile's port, the last of its inbound parcels, and one from a die enters
through the port that attaches it while a buffer is free; a field whose generator is stopped is knocked (R140, R143, R528, R566).

The model's choices (log entries) in it: one hop a row (63), the turn before any turn (64), notes and slots of a rim
parcel (134), a parcel at a stopped field's rim (150). -/
def Obligations.TreesPullsAndTheRim : Prop :=
  (∀ (t : TileId) (p b : Port) (s : State) (f : Flit),
     let popped := (popPart t p s).updTile t id
     (∀ e q, s.head t p 1 = some f → s.routerOn t = true → 1 ≤ envKind f.env → envKind f.env ≤ 3 →
       purges t (envWave f.env) s = false → treeEntry (s.tile t) (envGroup f.env) = some e → branches e.children = [p] →
       portOf e.parent.toNat = some q → q ≠ .loc → granted t p q 1 popped = true →
       exec (.reductionPart t p) s = .next (hopFrom t p q 1 f popped)) ∧
     (s.head t p 2 = some f → s.routerOn t = true → envKind f.env = 4 →
       Tbl.get [] (s.tile t).router.waiting (portNo p) = [] → (forkEntry (s.tile t) (envGroup f.env)).valid = true →
       (forkEntry (s.tile t) (envGroup f.env)).up = portCode p →
       branches (forkEntry (s.tile t) (envGroup f.env)).out = [b] → b ≠ .loc → granted t p b 2 s = true →
       exec (.multicastFlit t p) s = .next (popBuf t p 2 (hopFrom t p b 2 f s))) ∧
     (s.head t p 2 = some f → Tbl.get [] (s.tile t).router.waiting (portNo p) = [portNo b] → b ≠ .loc →
       granted t p b 2 s = true →
       ∃ u, exec (.multicastBranchTake t p b) s = .next u ∧ Tbl.get [] (u.tile t).router.waiting (portNo p) = [] ∧
         (u.tile t).spentOn b 2 = (s.tile t).spentOn b 2 + 1)) ∧
  (∀ (t : TileId) (p : Port) (s : State) (f : Flit), arrived t p 3 s = some f → envKind f.env = 9 →
     (s.block (tileBlock t)).awake = true → crcGood f.line = true →
     let x := s.tile t
     let rest := ((popBuf t p 3 s).tile t).buf p 3
     (bitsAt (wordAt f.line 0) 0 8 = 1 → pullOk f.line = true →
       ∃ u d, exec (.pullRequest t p) s = .next u ∧
         (u.tile t).descq ++ (u.tile t).served = x.descq ++ x.served ++ [d] ∧
         (x.served = [] → x.descq.length + x.running.length < 16 → (u.tile t).descq = x.descq ++ [d]) ∧
         d.smem = fieldAt (wordAt f.line 0) 8 2 ∧ d.src = (wordAt f.line 1).toNat ∧ d.blocks = (wordAt f.line 2).toNat + 1 ∧
         d.env = some (replyEnv t f.env (bitsAt (wordAt f.line 0) 16 8)) ∧ (u.tile t).buf p 3 = rest) ∧
     (bitsAt (wordAt f.line 0) 0 8 = 2 → circularOk x f.line = true →
       exec (.circularRequest t p) s = .next ((popBuf t p 3 s).updTile t (askCircular t (wordAt f.line 1).toNat f.env))) ∧
     (∀ i, (i = .pullRequest t p ∧ bitsAt (wordAt f.line 0) 0 8 ≠ 2 ∧ pullOk f.line = false) ∨
         (i = .circularRequest t p ∧ bitsAt (wordAt f.line 0) 0 8 = 2 ∧ circularOk x f.line = false) →
       bitAt x.netFault 31 = false →
       ∃ u, exec i s = .next u ∧ (u.tile t).netFault = netFaultWord 6 0 (envSource f.env) ∧
         (u.tile t).buf p 3 = rest ∧
         u.dev.cards = s.dev.cards ++ [⟨srcTile t, faultNoteCard 0x1 (envWave f.env) t⟩])) ∧
  (∀ (t : TileId) (p : Port) (vc : BitVec 2) (s : State) (f : Flit),
     (∀ c, arrived t p vc.toNat s = some f → rimTarget t (envQueue f.env) = some (.chiplet c) →
       ∃ u, exec (.rimExit t p vc) s = .next u ∧ (u.chiplet c).rimIn = (s.chiplet c).rimIn ++ [f]) ∧
     (∀ n, arrived t p vc.toNat s = some f → rimTarget t (envQueue f.env) = some (.stack n) →
       ∃ u, exec (.rimExit t p vc) s = .next u ∧ (u.stk n).rimIn = (s.stk n).rimIn ++ [f]) ∧
     (∀ k, arrived t p vc.toNat s = some f → rimTarget t (envQueue f.env) = some (.keeper k) →
       ∃ u, exec (.rimExit t p vc) s = .next u ∧ (u.keeper k).rimIn = (s.keeper k).rimIn ++ [f]) ∧
     (∀ secondary e d, s.routerOn t = true → (if secondary then secondaryPort t else primaryPort t) = some (e, d) →
       rimDie e d ≠ .idle →
       ((s.field (tileField t)).genRunning = true → ((s.tile t).buf (edgePort e) (envVc f.env)).length < 8 →
         ∃ u, exec (.rimEntry t secondary f.env f.line) s = .next u ∧
           (u.tile t).buf (edgePort e) (envVc f.env) = (s.tile t).buf (edgePort e) (envVc f.env) ++ [f]) ∧
       ((s.field (tileField t)).genRunning = false →
         ∃ u, exec (.rimEntry t secondary f.env f.line) s = .next u ∧ u.tile t = s.tile t ∧
           u.dev.cards = s.dev.cards ++ [⟨srcRouter t, knockCard 2 (BitVec.ofNat 16 (tileField t)) 0x03⟩])))

/-! ## Postcards (R155 to R161, R268, R390, R393, R451 to R456, R466, R467, R569) and slab refresh (R104 to R107) -/

/-- The four orders of a WAVE_ORDER card on a tile of an ACTIVE block: HOLD stops the wave the tile holds, DISCARD and REPLAY
discard and purge it, RESUME goes on with it or ends the purge; no other tile changes.

After a DISCARD of the wave a tile holds: the PC is the wave entry with an empty issue queue, the slots written in the
wave are closed, no descriptor waits to start but replies to other waves, no weevil update is queued, every landing pointer is at FIRST, no pigeonhole
holds a parcel of the wave, and the wave is in the purge mask; the memories stay (R268, R283, R455).

The model's choices (log entries) in it: a halted sequencer that stays halted (47), STATE between waves after a discard
(48), replies owed to other waves (146). -/
def Obligations.WaveOrdersActOnTiles : Prop :=
  (∀ (t : TileId) (w : Byte) (s : State), (s.block (tileBlock t)).pstate = .active →
     exec (.waveOrderHold t w) s = .next (s.updTile t (holdTile w)) ∧
     exec (.waveOrderDiscard t w) s = .next (s.updTile t (discardTile t w)) ∧
     exec (.waveOrderReplay t w) s = .next (s.updTile t (discardTile t w)) ∧
     exec (.waveOrderResume t w) s = .next (s.updTile t (resumeTile w))) ∧
  (∀ (t : TileId) (w : Byte) (s : State), (s.block (tileBlock t)).pstate = .active → (s.tile t).holdsWave w = true →
     ∃ u, exec (.waveOrderDiscard t w) s = .next u ∧ (u.tile t).pc = (s.tile t).entry ∧ (u.tile t).issueq = [] ∧
       (∀ k, k < 16 → bitAt (s.tile t).written k = true → (u.tile t).slot k = {}) ∧
       (∀ d ∈ (u.tile t).descq, d.env.isSome = true ∧ d.ctx.wave ≠ w) ∧
       (u.tile t).weevils = [] ∧ (∀ n, (Tbl.get ({} : Landing) (u.tile t).landings n).ptr = 0) ∧
       (∀ q, q < 16 → ∀ f ∈ (u.tile t).hole q, envWave f.env ≠ w) ∧ w ∈ (u.tile t).purge ∧
       SameMemories (s.tile t) (u.tile t))

/-- A card takes effect in its turn on its lane; out of its turn it is still on its way. KNOCK wakes what it names: a sleeping block
is asked to wake, a field's generator starts while its rail is on. USER and BARRIER_RELEASE reach an ACTIVE tile's inbox and
latch, a release only as the root hub sent it. SLEEPING_BLOCK_CARD keeps a user card and asks for the wake.

BARRIER_ARRIVE counts an arrival of the ID and wave short of the expected count, and releases the barrier to every field
that takes part when the last field's last tile arrives (R160, R286).

A tile's FIREFLY leaves with its ID and the last wave it began and is noted with the time at its field controller; a
retried postcard hop is counted; a stalled tile's watchdog card leaves (R161, R162, R466).

FAULT_NOTE at the Postmaster: causes 0x2 to 0x4 discard the wave for its replay, causes 0x6 to 0x8 are journalled, and
what a transition lets go on runs after it.

The model's choices (log entries) in it: cards at sleeping blocks (68), outcomes by cause of a FAULT_NOTE (69), cards of senders
outside the model (168). -/
def Obligations.CardsReachTheirReceivers : Prop :=
  (∀ (s : State) (reason : Byte) (t : TileId) (id w : Byte) (payload : Word) (b : Fin 1024) (f : Fin 64) (c : Card),
     let due (c : Card) : Prop := cardDue c s = true
     (due (knockCard 1 (BitVec.ofNat 16 b.val) reason) → 1 ≤ reason.toNat → reason.toNat ≤ 5 → reason ≠ 1 →
       (s.block b.val).pstate ≠ .active → (s.block b.val).pstate ≠ .dark →
       ∃ u, exec (.knock 1 (BitVec.ofNat 16 b.val) reason) s = .next u ∧ (u.block b.val).wakeAsked = true) ∧
     (due (knockCard 2 (BitVec.ofNat 16 f.val) reason) → 1 ≤ reason.toNat → reason.toNat ≤ 5 → (s.field f.val).railOn = true →
       ∃ u, exec (.knock 2 (BitVec.ofNat 16 f.val) reason) s = .next u ∧ (u.field f.val).genRunning = true ∧
         (u.field f.val).mhz = (s.field f.val).mhz) ∧
     (due (userCard t payload) → (s.block (tileBlock t)).pstate = .active →
       ((s.tile t).inbox.length < 8 → (s.tile t).cardHold = [] →
         ∃ u, exec (.user t payload) s = .next u ∧ (u.tile t).inbox = (s.tile t).inbox ++ [userCard t payload]) ∧
       ((s.tile t).inbox.length = 8 →
         ∃ u, exec (.user t payload) s = .next u ∧ (u.tile t).inbox = (s.tile t).inbox ∧
           (u.tile t).cardHold = (s.tile t).cardHold ++ [userCard t payload])) ∧
     (∀ n, (s.block (tileBlock t)).pstate = .active → s.barrierIndex (tileField t) id = some n →
       (id, w) ∈ (s.field (tileField t)).releases →
       ∃ u, exec (.barrierRelease t id w) s = .next u ∧ Tbl.get none (u.tile t).latches n = some w) ∧
     ((id, w) ∉ (s.field (tileField t)).releases → exec (.barrierRelease t id w) s = .next s) ∧
     ((s.block b.val).pstate = .diapause ∨ (s.block b.val).pstate = .chrysalis → due c → Card.good c = true →
       Card.typ c = cardUserType → Card.dclass c = 0 → tileBlock (Card.dest c) = b.val →
       ∃ u, exec (.sleepingBlockCard b c) s = .next u ∧ (u.block b.val).nodeCards = (s.block b.val).nodeCards ++ [c] ∧
         u.dev.cards = dropCard c [] s.dev.cards ++ [⟨srcNode b.val, knockCard 1 (BitVec.ofNat 16 b.val) 0x05⟩]) ∧
     (cardDue (userCard t payload) s = false → exec (.user t payload) s = .next s)) ∧
  (∀ (f : Fin 64) (id w : Byte) (s : State) (e : BarrierEntry),
     let old := (s.field f.val).arrivals.find? (fun a => a.1 == id && a.2.1 == w)
     let n := match old with | some a => a.2.2 | none => 0
     s.barrier f.val id = some e → cardDue (arriveCard id w f.val) s = true →
     (n + 1 < e.expected → ∃ u, exec (.barrierArrive f id w) s = .next u ∧ (id, w, n + 1) ∈ (u.field f.val).arrivals ∧
       (u.field f.val).releases = (if old.isNone then (s.field f.val).releases.filter (fun r => r != (id, w))
         else (s.field f.val).releases)) ∧
     (e.expected ≤ n + 1 → e.root.toNat = f.val → reporters s id e.mask = [BitVec.ofNat 6 f.val] →
       ∃ u, exec (.barrierArrive f id w) s = .next u ∧
         ∀ g, g < 64 → bitAt e.mask g = true → (id, w) ∈ (u.field g).releases)) ∧
  (∀ (t : TileId) (w : Byte) (f : Fin 64) (cause : BitVec 4) (s : State),
     ((s.block (tileBlock t)).pstate = .active → ∃ u, exec (.fireflySend t) s = .next u ∧
       u.dev.cards = s.dev.cards ++ [⟨srcTile t, fireflyCard t (s.tile t).ctx.wave⟩] ∧ (u.tile t).sent = (s.tile t).sent + 1) ∧
     (cardDue (fireflyCard t w) s = true → ∃ u, exec (.firefly t w) s = .next u ∧ (u.tile t).lastFirefly = s.dev.time ∧
       u.dev.cards = dropCard (fireflyCard t w) [] s.dev.cards) ∧
     (∃ u, exec (.postcardHopRetry f) s = .next u ∧ (u.field f.val).cardRetries = satAdd (s.field f.val).cardRetries 1) ∧
     ((s.block (tileBlock t)).awake = true → (s.tile t).stalledBy cause = true →
       ∃ u, exec (.stallWatchdog t cause) s = .next u ∧
         u.dev.cards = s.dev.cards ++ [⟨srcTile t, watchdogCard t (s.tile t).ctx.wave cause⟩]) ∧
     ((s.tile t).stalledBy 0 = true ↔ (s.tile t).begun = true ∧ (s.tile t).wait ≠ .none) ∧
     ((s.field (tileField t)).restarting = false → cardDue (watchdogCard t w cause) s = true →
       Tbl.get 0 s.dev.dumps w.toNat < 64 → s.journal.throttled = false →
       inWindow s.dev.time 1000 s.dev.notes ≠ [] → s.wave w = none →
       ∃ u, exec (.watchdog t w cause) s = .next u ∧
         Tbl.get 0 u.dev.dumps w.toNat = Tbl.get 0 s.dev.dumps w.toNat + 1 ∧
         u.journal.records = s.journal.records ++ [newRecord kindDump (t.setWidth 32) (dumpBody (s.tile t)) s])) ∧
  (∀ (cause : BitVec 4) (w : Byte) (source : BitVec 16) (s : State), cardDue (faultNoteCard cause w source) s = true →
     ∃ v, exec (.faultNote cause w source) s = .next (proceed v) ∧
       (∀ x, (cause = 2 ∨ cause = 3 ∨ cause = 4) → s.wave w = some x →
         v.wave w = some { x with discarded := true } ∧ v.dev.orders = s.dev.orders ++ [(w, orderReplay)] ∧ w ∈ v.dev.purged) ∧
       (∀ x, cause = 1 → s.wave w = some x → v.wave w = none) ∧
       ((cause = 6 ∨ cause = 7 ∨ cause = 8) → v.journal.records =
         s.journal.records ++ [newRecord kindFault (source.setWidth 32) (noteBody cause w source s) s]))

/-- Where nothing waits, what a transition lets go on is nothing: no queued letter, no CLOSE, no load, no flow stop, no drain.

The model's choices (log entries) in it: what a transition lets go on at once (1, 4). -/
def Obligations.NothingGoesOnInAQuietDevice : Prop := ∀ s : State, Quiet s → proceed s = s

/-! ## Letters (R331 to R340, R349, R350, R359) -/

/-- The checks that come before a letter's own, in the order of R350: none before host ports accept letters; then the CRC, the
version, a LETTER_ID in flight, and the bridge for another member.

The rows of the letters that never enter flight, of a letter for another member (past the checks that come before DEVICE and
below the limit of R335), and of the accepted receipt.

A letter whose deadline passes before its first progress ends with 0x0402.

The model's choices (log entries) in it: checks without a step in R350 (70), bare receipts (77); none in what R338 is
cited for. -/
def Obligations.LettersAreCheckedInOrder : Prop :=
  (∀ (i : Instr) (op : BitVec 16) (l : Letter) (s : State), letterRow i = some (op, l) →
     (s.accepting = false → exec i s = .next (rowAfter i s)) ∧
     (s.accepting = true → letterCrcOk op l = false → exec i s = .next (rowAfter i (refuseBare op l 0x0101 s))) ∧
     (s.accepting = true → letterCrcOk op l = true → l.version ≠ 1 → exec i s = .next (rowAfter i (refuseBare op l 0x0102 s))) ∧
     (s.accepting = true → letterCrcOk op l = true → l.version = 1 → s.inFlight (letterKey l) = true →
       exec i s = .next (rowAfter i (refuseBare op l 0x0103 s))) ∧
     (s.accepting = true → letterCrcOk op l = true → l.version = 1 → s.inFlight (letterKey l) = false →
       letterDevice l ≠ s.dev.member → exec i s = .next (rowAfter i (forwardLetter op l s)))) ∧
  (∀ (op : BitVec 16) (l : Letter) (k : LetterKey) (r : LetterRec) (s : State), s.accepting = true → portOpen s l.port →
     (letterCrcOk op l = false → ∃ u x, exec (.letterCrcFailure op l) s = .next u ∧ u.dev.receipts = s.dev.receipts ++ [x] ∧
       x.letterId = l.id ∧ x.opcode = op ∧ x.session = l.session ∧ x.status = 0x0101 ∧ x.final = true ∧ x.results = []) ∧
     (letterCrcOk op l = true → op ∉ knownOpcodes → ∃ u x, exec (.letterReservedOpcode op l) s = .next u ∧
       u.dev.receipts = s.dev.receipts ++ [x] ∧ x.letterId = l.id ∧ x.status = 0x0102 ∧ x.final = true) ∧
     (letterCrcOk op l = true → l.version = 1 → op ∈ knownOpcodes → letterDevice l ≠ s.dev.member →
       s.inFlight (letterKey l) = false → s.isMember (letterDevice l) = true → s.reaches (letterDevice l) = true →
       s.portLoad l.port < 4096 →
       ∃ u, exec (.letterForward op l) s = .next u ∧ u.dev.forwarded = s.dev.forwarded ++ [(letterDevice l, op, l)] ∧
         u.dev.letters = s.dev.letters ∧ u.dev.receipts = s.dev.receipts) ∧
     (s.letter k = some r → r.acceptedSent = false → k.port = l.port →
       ∃ u x, exec (.acceptedReceipt k) s = .next u ∧ u.dev.receipts = s.dev.receipts ++ [x] ∧ x.letterId = k.id ∧
         x.status = stAccepted ∧ x.final = false ∧ (u.letter k).isSome = true)) ∧
  (∀ (k : LetterKey) (r : LetterRec) (s : State), s.letter k = some r → r.progressed = false → r.finalStatus = none →
     r.audit = false → r.journalWait = false → portOpen s k.port →
     ∃ v x, exec (.deadlineExpiry k) s = .next (settleAll v) ∧ v.letter k = none ∧ v.dev.receipts = s.dev.receipts ++ [x] ∧
       x.letterId = k.id ∧ x.status = 0x0402 ∧ x.final = true)

/-! ## Sessions (R300 to R306, R316 to R324, R341 to R343, R352) -/

/-- OPEN makes a RESIDENT session of the letter's tenant with its seed, budget and adapter, and completes.

APPEND, GENERATE, PARK, RESUME, FORK, the three TRIM rows and MIGRATE_OUT, accepted, join the end of their session's queue,
and the queue goes on; CLOSE waits beside the queue; ADAPT runs beside it.

The letters at the head of the queue of a settled session that need no wave: PARK begins to park a RESIDENT session and
completes at once on a PARKED one, RESUME begins to resume a PARKED one, TRIM sets the budget and the dead-letter option.

The model's choices (log entries) in it: sub-operations and parameters (71, 73), the end of MIGRATE_OUT (74). -/
def Obligations.SessionLettersQueueAndRun : Prop :=
  (∀ (l : Letter) (s : State), Accepted opOpen l (openRule l s) s →
     ∃ u, exec (.open l) s = .next u ∧ Finished l 0x0000 s u ∧
       (u.session l.session.toNat).state = .resident ∧ (u.session l.session.toNat).tenant = letterTenant l ∧
       (u.session l.session.toNat).seed = BitVec.ofNat 64 (letterNum l 0 8) ∧
       (u.session l.session.toNat).budget = (if letterNum l 8 4 = 0 then 16384 else letterNum l 8 4) ∧
       (u.session l.session.toNat).highest = none ∧ (u.session l.session.toNat).tokens = []) ∧
  (∀ (l : Letter) (s : State),
     let n := l.session.toNat
     let k := letterKey l
     let joins (i : Instr) (op : BitVec 16) : Prop := ∃ v, exec i s = .next (settle n v) ∧
       (v.session n).queue = (s.session n).queue ++ [k] ∧ (v.session n).state = (s.session n).state ∧
       v.dev.letters.any (fun r => r.key == k && r.opcode == op) = true ∧ v.dev.receipts = s.dev.receipts
     (Accepted opAppend l (appendRule l s) s → joins (.append l) opAppend) ∧
     (Accepted opGenerate l (generateRule l s) s → joins (.generate l) opGenerate) ∧
     (Accepted opPark l (plainRule l s) s → joins (.park l) opPark) ∧
     (Accepted opResume l (plainRule l s) s → joins (.resume l) opResume) ∧
     (Accepted opFork l (forkRule l s) s → joins (.fork l) opFork) ∧
     (Accepted opTrim l (trimRule l 1 (budgetOk (letterNum l 4 4) && letterZeros l 8 4) s) s →
       joins (.trimSetBudget l) opTrim) ∧
     (Accepted opTrim l (trimRule l 2 (decide (letterNum l 4 4 ≤ letterNum l 8 4)) s) s →
       joins (.trimRestoreDeadLetter l) opTrim) ∧
     (Accepted opTrim l (trimRule l 3 (decide (letterNum l 4 4 ≤ 1) && letterZeros l 8 4) s) s →
       joins (.trimSetDeadLetter l) opTrim) ∧
     (Accepted opMigrateOut l (migrateOutRule l s) s → joins (.migrateOut l) opMigrateOut) ∧
     (Accepted opClose l (closeRule l s) s → ∃ v, exec (.close l) s = .next (settle n v) ∧
       (v.session n).closeKey = some k ∧ (v.session n).queue = (s.session n).queue) ∧
     (Accepted opAdapt l (adaptRule l s) s → ∃ v, exec (.adapt l) s = .next (settle n v) ∧
       (v.session n).adapt = some { key := k, first := letterNum l 0 4, last := letterNum l 4 4, nth := s.dev.adapts } ∧
       v.dev.adapts = s.dev.adapts + 1 ∧ (v.session n).queue = (s.session n).queue)) ∧
  (∀ (l : Letter) (s : State),
     let n := l.session.toNat
     let x := s.session n
     x.queue = [] → x.closeKey = none → x.adapt = none → s.dev.loadFor = none → s.coolant.flowStop = false →
     (Accepted opPark l (plainRule l s) s → x.state = .resident → ∃ u, exec (.park l) s = .next u ∧
       (u.session n).state = .parking) ∧
     (Accepted opPark l (plainRule l s) s → x.state = .parked → ∃ u, exec (.park l) s = .next u ∧ Finished l 0x0000 s u ∧
       (u.session n).state = .parked) ∧
     (Accepted opResume l (plainRule l s) s → x.state = .parked → ∃ u, exec (.resume l) s = .next u ∧
       (u.session n).state = .resuming) ∧
     (Accepted opTrim l (trimRule l 1 (budgetOk (letterNum l 4 4) && letterZeros l 8 4) s) s → x.state = .resident →
       ∃ u, exec (.trimSetBudget l) s = .next u ∧ Finished l 0x0000 s u ∧ (u.session n).budget = letterNum l 4 4) ∧
     (Accepted opTrim l (trimRule l 3 (decide (letterNum l 4 4 ≤ 1) && letterZeros l 8 4) s) s → x.state = .resident →
       ∃ u, exec (.trimSetDeadLetter l) s = .next u ∧ Finished l 0x0000 s u ∧
         (u.session n).deadOpt = decide (letterNum l 4 4 = 1)))

/-- MIGRATE_IN, with every check but the free one of 0x0304 passed: where the arriving session fits the placement it stands
here PARKED for the letter's tenant and the letter completes, and otherwise it ends with 0x0304.

The transitions of a session end: parked with no frame in a slab; resident, or rebuilding with positions to recompute, when
every frame has been filled from a good record; closed and free; migrated away to CLOSING; back in the prior state after a
failed migration (R304, R305, R320, R323).

ADAPTER_SWAP, with the passes done, flips the adapter of a standing session between its waves to the updated copy and ends the
ADAPT with its loss (R200, R380).

The model's choices (log entries) in it: an arriving session from a peer (28, 29), the end of MIGRATE_OUT (74), the Adam rule's
order (158). -/
def Obligations.SessionsMoveAndEnd : Prop :=
  (∀ (l : Letter) (s : State) (i : Instr) (keeper : Bool) (r : LetterRule),
     (i = .migrateInPeer l ∧ keeper = false ∧ r = migrateInRule l 1 (letterNum l 1 1 == 0) s) ∨
     (i = .migrateInKeeper l ∧ keeper = true ∧
       r = migrateInRule l 2 (decide (letterNum l 1 1 ≤ 15) || letterNum l 1 1 == 0xFE) s) →
     AcceptedBut 0x0304 opMigrateIn l r s →
     (s.dev.placement.isSome = true ∧ Config.arrivalFits s.dev.arrivals = true → ∃ u, exec i s = .next u ∧ Finished l 0x0000 s u ∧
       (u.session l.session.toNat).state = .parked ∧ (u.session l.session.toNat).tenant = letterTenant l ∧
       u.dev.arrivals = s.dev.arrivals + 1) ∧
     (¬ (s.dev.placement.isSome = true ∧ Config.arrivalFits s.dev.arrivals = true) → ∃ u, exec i s = .next u ∧
       Finished l 0x0304 s u ∧
       (u.session l.session.toNat).state = (s.session l.session.toNat).state ∧ u.dev.arrivals = s.dev.arrivals + 1)) ∧
  (∀ (id : BitVec 16) (bad : List (BitVec 16 × Word)) (retried : Bool) (s : State),
     let n := id.toNat
     let x := s.session n
     (x.state = .parking → x.queue = [] → ∃ v, exec (.parkComplete id) s = .next (proceed (settle n v)) ∧
       (v.session n).state = .parked ∧ ∀ f ∈ (v.session n).folios, f.tile = none) ∧
     (∀ r, x.state = .resuming → residenceFull n x.tenant s = false → (∀ f ∈ x.folios, (f.layer, f.seqNo) ∉ bad) →
       x.rebuildFrom = none → residentAll n x.folios s = some r →
       ∃ v, exec (.resumeComplete ⟨id, bad⟩) s = .next (proceed (settle n v)) ∧ (v.session n).state = .resident) ∧
     (∀ r p, x.state = .resuming → residenceFull n x.tenant s = false → (∀ f ∈ x.folios, (f.layer, f.seqNo) ∉ bad) →
       x.rebuildFrom = some p → residentAll n x.folios s = some r →
       ∃ u, exec (.resumeComplete ⟨id, bad⟩) s = .next u ∧ (u.session n).state = .rebuilding ∧ (u.session n).prior = .resident) ∧
     (x.state = .closing → x.closeKey = none → ∃ v, exec (.closeComplete id) s = .next (proceed v) ∧
       v.session n = {}) ∧
     (x.state = .migrating → x.queue = [] → ∃ u, exec (.migrationReceipt ⟨id, retried⟩) s = .next u ∧
       (u.session n).state = .closing ∧ ∀ e ∈ u.dev.migrateOut, e.1 ≠ id) ∧
     (x.state = .migrating → x.queue = [] → x.rebuildFrom = none → ∃ v, exec (.migrationFailure id) s = .next (proceed (settle n v)) ∧
       (v.session n).state = x.prior ∧ (v.session n).peer = none)) ∧
  (∀ (id : BitVec 16) (run : AdaptRun) (a : AdapterInst) (g : Word × List Word) (r : LetterRec) (s : State),
     let n := id.toNat
     let b := updateAdapter (adamRule r.params) run.nth g.2 a
     (s.session n).adapt = some run → (s.session n).adapter = some a → run.result = some g → s.letter run.key = some r →
     s.standing n = true → s.betweenWaves n = true →
     ∃ v, exec (.adapterSwap id) s = .next (settle n v) ∧ (v.session n).adapt = none ∧ (v.session n).adapter = some b ∧
       b.useB = !a.useB ∧ b.id = a.id ∧ (if a.useB then b.w8b = a.w8b else b.w8a = a.w8a) ∧ b.steps = a.steps + 1 ∧
       (r.finalStatus = none → r.audit = false → r.journalWait = false → v.letter run.key = none ∧
         (portOpen s run.key.port → ∃ q ∈ v.dev.receipts, q.letterId = run.key.id ∧ q.final = true ∧
           q.results = bytesOf 4 g.1)))

/-! ## Waves (R325, R329, R342, R402, R455, R456, R461) -/

/-- WAVE_ADMISSION of the session that goes first among those ready issues its next wave under the first free number, with the
session RUNNING and the wave's inputs held until it commits.

FIXED_SLOT_BOUNDARY counts an overrun of a fixed-time wave that still runs, once; WAVE_COMMIT in such a slot keeps its
results for the boundary (R329).

WAVE_COMMIT of an APPEND's wave whose letter goes on adds the wave's inputs to the session's tokens, and that of a GENERATE's
wave the tokens that R220 verifies, at most 8 and none after a stop token; either frees the wave number (R220, R221, R313, R342).

WAVE_REPLAY reissues a discarded wave from its held inputs under a new number with REPLAY set, and leaves one of a fixed slot to
its boundary; PURGE_RESUME_TIMER orders RESUME and frees the number (R329, R455, R456).

OPEN_FOLIO_RECOMPUTE: a REBUILDING session whose frames find room is back in its prior state (R461).

The model's choices (log entries) in it: what commits (79), a replay (80), the order of ready sessions (81), RUNNING between
waves (83), the logits a wave comes with (169), drafts that end early (170). -/
def Obligations.WavesAreIssuedAndCommitted : Prop :=
  (∀ (id : BitVec 16) (nymph : List (List Word)) (e : Nat × LetterRec) (p : Placement) (w : Byte) (i : List Word × Nat)
     (s0 s : State),
     let x := s.session e.1
     let ds := if e.2.opcode = opGenerate ∧ x.tokens ≠ [] then waveDrafts s x e.2 nymph else []
     s.admits = true → firstReady s (readySessions s (fun x => !s.fixedSlots x.tenant)) = some e → e.1 = id.toNat →
     s.dev.placement = some p → badGate p = false → s.freeWave = some w → nextInputs s x e.2 ds = some i →
     statsFor e.1 e.2 i.1.length s = some s0 →
     ∃ u, exec (.waveAdmission ⟨id, nymph⟩) s = .next u ∧
       u.wave w = some { session := id, letter := some e.2.key, inputs := i.1, first := i.2, drafts := ds
                         adapt := e.2.opcode == opAdapt, fixedSlot := false } ∧
       (u.session id.toNat).state = .running ∧ u.dev.nextWave = w + 1 ∧ (∀ x, x ≠ w → u.wave x = s.wave x)) ∧
  (∀ (tenant : BitVec 12) (w : Byte) (v : Wave) (nymph logits : List (List Word)) (s : State),
     (s.fixedSlots tenant = true → s.admits = false → wavesOfTenant s tenant = [(w, v)] → v.result = none → v.late = false →
       v.discarded = false → ∃ u, exec (.fixedSlotBoundary ⟨tenant, nymph⟩) s = .next u ∧ u.wave w = some { v with late := true } ∧
         Tbl.get 0 u.dev.overruns tenant.toNat = Tbl.get 0 s.dev.overruns tenant.toNat + 1) ∧
     (s.wave w = some v → v.discarded = false → v.result = none → v.fixedSlot = true → logitsOk s v logits = true →
       ∃ u, exec (.waveCommit w logits) s = .next u ∧ u.wave w = some { v with result := some logits } ∧
         u.session v.session.toNat = s.session v.session.toNat)) ∧
  (∀ (w : Byte) (v : Wave) (k : LetterKey) (r : LetterRec) (logits : List (List Word)) (s : State),
     let n := v.session.toNat
     let x := s.session n
     s.wave w = some v → v.discarded = false → v.result = none → v.fixedSlot = false → v.adapt = false → v.letter = some k →
     s.letter k = some r → s.dev.draining = false →
     (r.opcode = opAppend → r.emitted + v.inputs.length < leAt r.params 0 4 → v.inputs ≠ [] →
       ∃ u, exec (.waveCommit w logits) s = .next (proceed (settle n (restSession v.session u))) ∧ u.wave w = none ∧
         (u.session n).tokens = x.tokens ++ v.inputs ∧
         (u.session n).highest = some (x.tokens.length + v.inputs.length - 1)) ∧
     (r.opcode = opGenerate → logitsOk s v logits = true →
       let s0 := clearWave w s
       let g := readSettings (r.params.take 32)
       let ts := (verify s0 x g (decide (g.depth ≤ 7)) x.nextPos (grammarOf s0 x r) x.tokens v.drafts logits).1
       let out := (cutAtStop (stopTokens r.params) ((ts.take (emitLimit r)).take (leAt r.params 32 4 - r.emitted))).1
       ∃ u, exec (.waveCommit w logits) s = .next (proceed (settle n (restSession v.session u))) ∧ u.wave w = none ∧
         (u.session n).tokens = x.tokens ++ out ∧ out.length ≤ 8)) ∧
  (∀ (w n : Byte) (v : Wave) (s : State),
     (s.wave w = some v → v.discarded = true → v.fixedSlot = false → s.serves = true → s.dev.wavesHeld = false →
       s.standing v.session.toNat = true → s.freeWave = some n → n ≠ w →
       ∃ u, exec (.waveReplay w) s = .next u ∧ u.wave w = none ∧
         u.wave n = some { v with discarded := false, replay := true, result := none } ∧ u.dev.nextWave = n + 1) ∧
     (s.wave w = some v → v.fixedSlot = true → exec (.waveReplay w) s = .next s) ∧
     (w ∈ s.dev.purged → ∃ u, exec (.purgeResumeTimer w) s = .next u ∧ w ∉ u.dev.purged ∧
       u.dev.orders = s.dev.orders ++ [(w, orderResume)])) ∧
  (∀ (id : BitVec 16) (r s : State),
     let x := s.session id.toNat
     x.state = .rebuilding → s.serves = true → s.dev.wavesHeld = false → x.rebuildFrom = none →
     residentAll id.toNat x.folios s = some r →
     ∃ v, exec (.openFolioRecompute id) s = .next (proceed (settle id.toNat v)) ∧ (v.session id.toNat).state = x.prior ∧
       (v.session id.toNat).rebuildFrom = none)

/-! ## Tiers, pages and trails (R171 to R174, R180, R189 to R194, R310 to R314, R321, R326, R327) -/

/-- FRAME_ALLOCATION for a new open folio, due and with room in the stacks, in the tenant's quota and on a tile: the pages are the
session's, head first, and the session lists the folio.

FOLIO_SEALING of a full, committed open folio between waves: a KV8 stage seals it where it stands; any other moves it into the
frame reserved for it and uses the reservation up, and without one leaves it.

COMPACTION_STEP runs one step where it is due between the waves of a standing session, parks a session first where pages are
missing, and leaves anything else.

PAGE_SCRUB on an awake block zeroes a page that waits for scrubbing and gives it back to the pool; every other byte stays. A
sleeping block is woken first (R401).

TRAIL_WRITE_BEHIND and KEEPER_STREAM: the look is counted; the token log goes out and the
keeper holds the session. KEEPER_LAG_ALARM raises the alarm with a lag above 1,000 ms. TENANT_RESEAL forgets the older key
generation (R314, R321, R327).

The model's choices (log entries) in it: sequence numbers and the reserve (84), sealed bodies as plain lines (86),
counters (87), the lag (32, 88). -/
def Obligations.FramesAndTrails : Prop :=
  (∀ (id layer : BitVec 16) (g : Stage) (c : TileId × Nat) (s0 s : State),
     let x := s.session id.toNat
     let k := newFrame g id x.tenant (nextSeqNo x g.layer)
     s.layerStage layer = some g → s.standing id.toNat = true → openDue (layerFolios s id.toNat g) = true →
     s.stackRoom (openPages g * 32) = true → residenceFull id.toNat x.tenant s = false → residentAdapter id.toNat s = some s0 →
     chooseFrame s0 x g (openPages g) 0 none = some c →
     ∃ u f, exec (.frameAllocation id layer false) s = .next u ∧ (u.session id.toNat).folios = x.folios ++ [f] ∧
       f.layer = g.layer ∧ f.tile = some c.1 ∧ f.page = c.2 ∧ f.pages = openPages g ∧ f.sealed = false ∧ f.shared = false ∧
       f.seqNo = nextSeqNo x g.layer ∧
       ∀ i, i < ((frameLines g.cacheFmt k).length + 31) / 32 → (u.tile c.1).owner (c.2 + i) = headBody 1 x.tenant id i) ∧
  (∀ (t : TileId) (frame : BitVec 16) (g : Stage) (f : FolioRef) (c : BitVec 16 × TileId × Nat × Nat) (k : Frame) (s : State),
     let n := (ownEntry ((s.tile t).owner (frame.toNat / 32))).toNat
     let x := s.session n
     x.folios.find? (fun f => f.tile == some t && 32 * f.page == frame.toNat && !f.shared) = some f →
     s.layerStage f.layer = some g → folioFrame s n g f = some k → s.standing n = true → s.betweenWaves n = true →
     k.isSealed = false → k.full = true → (∀ p ∈ k.positions, (p : Int) ≤ x.top) →
     (g.cacheFmt = fmtKV8 → ∃ u, exec (.folioSealing t frame) s = .next u ∧
       ∃ h ∈ (u.session n).folios, h.layer = f.layer ∧ h.seqNo = k.seqNo ∧ h.sealed = true ∧ h.tile = some t ∧
         h.page = f.page ∧ h.pages = f.pages) ∧
     (g.cacheFmt ≠ fmtKV8 → x.sealing.find? (fun c => c.1 == f.layer) = some c →
       ∃ u, exec (.folioSealing t frame) s = .next u ∧ (∀ e ∈ (u.session n).sealing, e.1 ≠ f.layer) ∧
         ∃ h ∈ (u.session n).folios, h.layer = f.layer ∧ h.seqNo = k.seqNo ∧ h.sealed = true ∧ h.tile = some c.2.1 ∧
           h.page = c.2.2.1 ∧ h.pages = c.2.2.2) ∧
     (g.cacheFmt ≠ fmtKV8 → x.sealing.find? (fun c => c.1 == f.layer) = none → exec (.folioSealing t frame) s = .next s)) ∧
  (∀ (id layer : BitVec 16) (g : Stage) (s : State), s.layerStage layer = some g →
     let due : Prop := s.standing id.toNat = true ∧ s.betweenWaves id.toNat = true ∧
       compactionDue (s.session id.toNat).budget (s.session id.toNat).adapt (layerFolios s id.toNat g) = true
     (∀ u, due → compactLayer id.toNat g s = some u → exec (.compactionStep id layer) s = .next u) ∧
     (due → compactLayer id.toNat g s = none →
       exec (.compactionStep id layer) s = .next (autoPark id.toNat (s.session id.toNat).tenant s)) ∧
     (¬ due → exec (.compactionStep id layer) s = .next s)) ∧
  (∀ (t : TileId) (p : Fin 2016) (s : State), (s.block (tileBlock t)).awake = false →
     exec (.pageScrub t p) s = .next (settleAll (askWake (tileBlock t) s))) ∧
  (∀ (t : TileId) (p : Fin 2016) (s : State), (s.block (tileBlock t)).awake = true → ownState ((s.tile t).owner p.val) = 8 →
     ∃ v, exec (.pageScrub t p) s = .next (settleAll v) ∧ ownState ((v.tile t).owner p.val) = 7 ∧
       (∀ a, 2304 * p.val ≤ a → a < 2304 * p.val + 2304 → Mem.readByte (v.tile t).slab a = 0) ∧
       (∀ a, (a < 2304 * p.val ∨ 2304 * p.val + 2304 ≤ a) →
         Mem.readByte (v.tile t).slab a = Mem.readByte (s.tile t).slab a) ∧
       (v.tile t).wb = (s.tile t).wb ∧ (v.tile t).ws = (s.tile t).ws ∧
       (∀ q, q ≠ p.val → (v.tile t).owner q = (s.tile t).owner q)) ∧
  (∀ (id : BitVec 16) (tenant : BitVec 12) (s : State),
     let n := id.toNat
     let x := s.session n
     (x.holdsFrames = true → ∃ u, exec (.trailWriteBehind id) s = .next u ∧ u.dev.trailLooks = s.dev.trailLooks + 1 ∧
       (u.session n).tokens = x.tokens ∧ (u.session n).folios.length = x.folios.length) ∧
     (s.dev.keeperTo ≠ 0xFF → x.state ≠ .free → ∃ v, exec (.keeperStream id) s = .next (proceed v) ∧
       (v.session n).keeperLog = x.tokens.length ∧ (∀ f ∈ (v.session n).folios, f.sealed = true → f.streamed = true) ∧
       Tbl.get none v.dev.keeperStore n = some (keptSession (streamedSession x)) ∧ v.dev.keeperLagMs = 0) ∧
     (s.dev.keeperTo ≠ 0xFF → ∃ u, exec .keeperLagAlarm s = .next u ∧ u.dev.keeperLagAlarm = true ∧
       1000 < u.dev.keeperLagMs.toNat) ∧
     ((Tbl.get {} s.dev.tenantKeys tenant.toNat).older.isSome = true →
       ∃ u, exec (.tenantReseal tenant) s = .next u ∧ (Tbl.get {} u.dev.tenantKeys tenant.toNat).older = none ∧
         (Tbl.get {} u.dev.tenantKeys tenant.toNat).key = (Tbl.get {} s.dev.tenantKeys tenant.toNat).key))

/-! ## Lodging (R210, R213 to R217, R344) -/

/-- DISPATCH_NOTE of a listed expert, the one its note names: a LODGED expert takes the token, a LODGING one lets it wait, one
without a stage begins to lodge in a free one, and with no stage to take it the token queues. LODGING_COMPLETE makes the stage
LODGED and lets its tokens in.

The model's choices (log entries) in it: the expert's counts (89, 161). -/
def Obligations.LodgingServesExperts : Prop :=
  ∀ (stack : Fin 24) (stage : Fin 16) (note : Line) (token : Word) (e : LodgeEntry) (i : Nat) (s : State),
    let x := s.stk stack.val
    let count (u : State) : ExpertCount := Tbl.get {} u.dev.experts e.expert.toNat
    (s.lodgeEntry stack.val (noteExpert note) = some e → holder x .lodged e.expert = some i →
      ∃ u, exec (.dispatchNote stack note token) s = .next u ∧
        ((u.stk stack.val).stage i).pending = (x.stage i).pending + 1 ∧ ((u.stk stack.val).stage i).lastUse = x.uses) ∧
    (s.lodgeEntry stack.val (noteExpert note) = some e → holder x .lodged e.expert = none →
      holder x .lodging e.expert = some i →
      ∃ u, exec (.dispatchNote stack note token) s = .next u ∧
        ((u.stk stack.val).stage i).waiting = (x.stage i).waiting ++ [(token, s.dev.time)]) ∧
    (s.lodgeEntry stack.val (noteExpert note) = some e → holder x .lodged e.expert = none →
      holder x .lodging e.expert = none → s.mastered = true → freeStage x (s.mayTake e) = some i →
      ∃ u, exec (.dispatchNote stack note token) s = .next u ∧ ((u.stk stack.val).stage i).st = .lodging ∧
        ((u.stk stack.val).stage i).expert = e.expert ∧ ((u.stk stack.val).stage i).waiting = [(token, s.dev.time)] ∧
        (count u).lodgings = (count s).lodgings + 1) ∧
    (s.lodgeEntry stack.val (noteExpert note) = some e → dispatch e token s.dev.time s = none → x.queue.length < 256 →
      ∃ u, exec (.dispatchNote stack note token) s = .next u ∧
        (u.stk stack.val).queue = x.queue ++ [(e.expert, token, s.dev.time)]) ∧
    ((x.stage stage.val).st = .lodging → s.mastered = true →
      ∃ u, exec (.lodgingComplete stack stage) s = .next u ∧ ((u.stk stack.val).stage stage.val).st = .lodged ∧
        ((u.stk stack.val).stage stage.val).pending = (x.stage stage.val).waiting.length ∧
        ((u.stk stack.val).stage stage.val).waiting = []) ∧
    ((x.stage stage.val).st = .lodged → x.queue = [] →
      ∃ u, exec (.lodgingRetry stack stage) s = .next u ∧ ((u.stk stack.val).stage stage.val).pending = 0 ∧
        ((u.stk stack.val).stage stage.val).st = .lodged)

/-! ## Images, placements and live swap (R344, R354, R355, R367 to R383) -/

/-- STAGE_IMAGE from OFFSET 0 with at most 8 lines: a file whose header is legal, whose key the device holds and that fits
stays in the gate, and the letter completes with the lines held; a bad header drops it with 0x0108. Discarding removes a held
image.

GATE_CHUNK_END of a whole chunk: without the content key the staging is dropped; a bad record or a bad tag keeps what came
before the chunk; a good chunk's records are held, and the last one makes the image held (R371, R372).

The model's choices (log entries) in it: stagings and the order of their checks (97). -/
def Obligations.ImagesPassTheGate : Prop :=
  (∀ (l : Letter) (s : State),
     let id := stageId l
     let ls := l.train.map imageLine
     let h := nth 0 ls 0
     let g : Staging := { kind := stageKind l, slot := BitVec.ofNat 8 (letterNum l 9 1), lines := ls }
     (Accepted opStageImage l (stageRule l s) s → letterNum l 12 4 = 0 → l.train ≠ [] → l.train.length ≤ 8 →
       fileHeadOk (stageKind l) id h = true → s.holdsKey (fileWrap h) (fileKeyId h) = true →
       (putStaging id (some g) s).stackFits = true →
       ∃ u, exec (.stageImage l) s = .next u ∧ Answered l 0x0000 (countBytes ls.length) [] s u ∧ u.stagingOf id = some g) ∧
     (Accepted opStageImage l (stageRule l s) s → letterNum l 12 4 = 0 → l.train ≠ [] →
       fileHeadOk (stageKind l) id h = false →
       ∃ u, exec (.stageImage l) s = .next u ∧ Ends l 0x0108 s u ∧ u.stagingOf id = none) ∧
     (Accepted opStageImage l (discardRule l s) s →
       ∃ u, exec (.stageImageDiscard l) s = .next u ∧ Ends l 0x0000 s u ∧ u.image id = none)) ∧
  (∀ (image : BitVec 64) (g : Staging) (s : State), s.stagingOf image = some g → g.chunkReady = true → g.key.isSome = true →
     ∃ u, exec (.gateChunkEnd image) s = .next u ∧
       (contentKey image g.lines = none → u.stagingOf image = none) ∧
       ∀ key, contentKey image g.lines = some key →
         let p := openChunk image g.lines key g.chunk
         let rs := recordsOf p.1
         let good := gateChecks g.records.getLast? (decide (g.chunk + 1 < fileChunks (nth 0 g.lines 0))) rs
         let start := chunkStart (nth 0 g.lines 0) g.chunk
         (good = false ∨ p.2 = false → ∃ h, u.stagingOf image = some h ∧ h.lines = g.lines.take start ∧ h.chunk = g.chunk ∧
           h.records = g.records ∧ h.key = none) ∧
         (good = true → p.2 = true → g.chunk + 1 ≠ fileChunks (nth 0 g.lines 0) →
           ∃ h, u.stagingOf image = some h ∧ h.chunk = g.chunk + 1 ∧ h.records = g.records ++ rs) ∧
         (good = true → p.2 = true → g.chunk + 1 = fileChunks (nth 0 g.lines 0) →
           u = becomeHeld image { g with chunk := g.chunk + 1, records := g.records ++ rs }
             (putStaging image (some { g with chunk := g.chunk + 1, records := g.records ++ rs }) s)))

/-- LOAD_PLACEMENT, accepted, holds new waves, cancels a swap build and waits for the sessions; with no wave and no session the
image's placement is in force at once and the letter is done. ADAPTER_LOAD binds the image to its ID. LODGE_POLICY sets the
classes it lists. COMMIT_SWAP waits for the build of its candidate, or closes admission where it is built.

The model's choices (log entries) in it: the checks of a load (92), stores of a load (94), what a load waits for (96),
builds (98), adapters (99). -/
def Obligations.PlacementsAndAdaptersLoad : Prop :=
  ∀ (l : Letter) (s : State),
    let id := stageId l
    let k := letterKey l
    (Accepted opLoadPlacement l (loadRule l s) s → ∃ v, exec (.loadPlacement l) s = .next (proceed v) ∧
      v.dev.loadFor = some k ∧ v.dev.exclusive = some k ∧ v.dev.swap = {} ∧ v.dev.placement = s.dev.placement) ∧
    (∀ g w, Accepted opLoadPlacement l (loadRule l s) s → s.image id = some g → s.master (placementOf g.records none) = some w →
      s.dev.sessions = [] → s.dev.waves = [] → s.coolant.flowStop = false → s.dev.draining = false →
      ∃ u, exec (.loadPlacement l) s = .next u ∧ Ends l 0x0000 s u ∧ u.dev.loadFor = none ∧
        u.dev.placement = some (placementOf g.records none)) ∧
    (Accepted opAdapterLoad l (adapterRule l s) s → ∃ u, exec (.adapterLoad l) s = .next u ∧ Ends l 0x0000 s u ∧
      Tbl.get 0 u.dev.adapters (letterNum l 0 1) = adapterLoadId l) ∧
    (Accepted opLodgePolicy l (policyRule l s) s → ∃ u, exec (.lodgePolicy l) s = .next u ∧ Ends l 0x0000 s u ∧
      u.dev.pinned = setClasses (policyEntries l) s.dev.pinned) ∧
    (Accepted opCommitSwap l (swapRule l s) s → s.dev.swap.candidate = some id → ∃ u, exec (.commitSwap l) s = .next u ∧
      u.dev.swap.letter = some k ∧ u.dev.exclusive = some k ∧ u.dev.swap.flipping = (s.dev.swap.built || s.dev.swap.flipping) ∧
      u.dev.admissionClosed = (s.dev.swap.built || s.dev.admissionClosed))

/-- A swap's build begins in the free halves, completes with every tile built and none flipped, flips to the candidate's
placement with no wave in flight and every tile past its YIELD, and reopens admission; a member's report is awaited first
(R376, R377, R383).

The model's choices (log entries) in it: builds and losses (98), members (36, 37). -/
def Obligations.SwapsBuildAndFlip : Prop :=
  ∀ (id : BitVec 64) (m : BitVec 4) (p q : Placement) (g : Image) (s : State),
    let w := s.dev.swap
    (w.candidate = some id → w.building = false → w.built = false → s.isCandidate id = true → s.weightsHeld id = true →
      s.candidatePlacement id = some q → s.dev.placement = some p → halfOnly p = true → halfOnly q = true →
      ∃ u, exec .swapBuildStart s = .next u ∧ u.dev.swap.building = true ∧ u.dev.swap.half = true ∧ u.tiles = s.tiles) ∧
    (w.candidate = some id → w.building = true → s.candidatePlacement id = some q → s.master q = some g → w.letter = none →
      ∃ u, exec .swapBuildComplete s = .next u ∧ u.dev.swap.building = false ∧ u.dev.swap.built = true ∧
        u.dev.placement = s.dev.placement ∧
        ∀ t, (u.tile t).facing = (s.tile t).facing ∧ (u.tile t).wb = (s.tile t).wb ∧
          (t ∉ sectionTiles q.sections → u.tile t = s.tile t)) ∧
    (w.candidate = some id → s.dev.placement = some p → w.flipping = true → s.dev.waves = [] → w.members = [] →
      s.betweenAll (placedTiles p.lines p.sections) = true →
      s.candidatePlacement id = some q → s.master q = some g → s.splitMembers = [] →
      ∃ u, exec .swapFlip s = .next u ∧ u.dev.placement = some q ∧ u.dev.admissionClosed = false ∧
        u.dev.swap.candidate = none ∧ u.dev.swap.previous = (if w.half then some p.imageId else none)) ∧
    (w.members = [m] → ∃ u, exec (.splitSwapReport m) s = .next u ∧ u.dev.admissionClosed = false ∧ u.dev.swap.members = []) ∧
    (m ∉ w.members → exec (.splitSwapReport m) s = .next s)

/-! ## The device: answers, settings, drain (R27, R210, R308, R328, R345 to R348, R357, R428, R445, R486, R513) -/

/-- The letters that read the device answer with its own records: the status, the current and thermal rings, experts, tenants,
distances, the journal, the attestation report and a self-test's measurement.

The model's choices (log entries) in it: telemetry (109), measured values (26), digests and signatures (14, 19),
attestation (117). -/
def Obligations.ReadingLettersAnswer : Prop :=
  ∀ (l : Letter) (s : State),
    let a := telemetryFirst l
    let n := telemetryCount l
    let answers (i : Instr) (results : List Byte) (train : List Line) : Prop :=
      ∃ u, exec i s = .next u ∧ Answered l 0x0000 results train s u
    (Accepted opStatus l (statusRule l) s → answers (.status l) (statusBytes l.session s) []) ∧
    (Accepted opTelemetry l (telemetryRule l 1 0) s → answers (.telemetryCurrent l) [] (ringLines s.power.currentRing a n)) ∧
    (Accepted opTelemetry l (telemetryRule l 2 0) s → answers (.telemetryExperts l) [] (bytesLines (expertRange s a n))) ∧
    (Accepted opTelemetry l (telemetryRule l 3 (tenantsRole l)) s →
      answers (.telemetryTenants l) [] (bytesLines (tenantRange s a n))) ∧
    (Accepted opTelemetry l (telemetryRule l 4 0) s → answers (.telemetryThermal l) [] (ringLines s.power.thermalRing a n)) ∧
    (Accepted opDistances l (distancesRule l) s → answers (.distances l) (bytesOf 2 s.dev.distGen)
      (bytesLines ((List.range (letterNum l 2 2 + 1)).flatMap (fun i => s.distance (letterNum l 0 2 + i))))) ∧
    (Accepted opJournalRead l (readRule l) s → answers (.journalRead l) []
      (bytesLines (readRecords (letterNum l 0 8) (letterNum l 8 4) (letterNum l 12 1 == 1) s))) ∧
    (Accepted opAttest l (attestRule l) s → answers (.attest l)
      (attestReport l.params (entered opAttest l (attestRule l) s)) (bytesLines (Config.certificate s.dev.activeKeeper.val))) ∧
    (Accepted opDiag l (diagRule l 1 2 true true) s → answers (.diagSelfTest l) []
      (bytesLines (bytesOf 4 (Config.measured s.dev.measures))))

/-- POWER_CAP sets the cap in force, SET_PROFILE everything but PROFILE and EXPRESS_TENANT at once, DRAIN QUIESCE and SERVE
change DEVICE_STATE, and DRAIN REMOVE begins to empty the device: with no session it is empty and ends at once.

The model's choices (log entries) in it: DRAIN (111), device states (112). -/
def Obligations.DeviceSettingsTakeEffect : Prop :=
  ∀ (l : Letter) (s : State),
    (Accepted opPowerCap l (powerCapRule l) s → ∃ u, exec (.powerCap l) s = .next u ∧
      Answered l 0x0000 (leBytes 4 (letterNum l 0 4)) [] s u ∧ u.power.capW.toNat = letterNum l 0 4) ∧
    (Accepted opSetProfile l (profileRule l s) s → ∃ u, exec (.setProfile l) s = .next u ∧ Ends l 0x0000 s u ∧
      u.dev.profile = s.dev.profile ∧ u.dev.expressTenant = s.dev.expressTenant ∧
      u.dev.nextProfile.toNat = letterNum l 0 1 ∧ u.dev.nextTenant.toNat = letterNum l 2 2 ∧
      u.dev.keeperTo = BitVec.ofNat 8 (letterNum l 1 1) ∧ u.dev.favoured = BitVec.ofNat 16 (letterNum l 4 2) ∧
      u.dev.slotUs.toNat = letterNum l 8 4 ∧ u.dev.quotas = newQuotas l s) ∧
    (Accepted opDrain l (drainRule l 2 s) s → ∃ u, exec (.drainQuiesce l) s = .next u ∧ Answered l 0x0000 noMoves [] s u ∧
      u.dev.deviceState = 3 ∧ u.dev.quiesced = true) ∧
    (Accepted opDrain l (drainRule l 3 s) s → ∃ u, exec (.drainServe l) s = .next u ∧ Answered l 0x0000 noMoves [] s u ∧
      u.dev.quiesced = false ∧
      u.dev.deviceState = (if s.dev.deviceState = 3 ∧ s.coolant.flowStop = false then 2 else s.dev.deviceState)) ∧
    (Accepted opDrain l (drainRule l 1 s) s → ∃ v, exec (.drainRemove l) s = .next (proceed v) ∧ v.dev.draining = true ∧
      v.dev.drainLetter = some (letterKey l) ∧ v.dev.deviceState = 4) ∧
    (Accepted opDrain l (drainRule l 1 s) s → s.dev.sessions = [] → s.dev.loadFor = none → s.coolant.flowStop = false →
      ∃ u, exec (.drainRemove l) s = .next u ∧ u.dev.deviceState = 5 ∧ Answered l 0x0000 noMoves [] s u)

/-! ## Firmware (R348, R411, R487 to R491, R510) -/

/-- FW_STAGE keeps the lines of an image that is not complete and makes the slot invalid; FW_ACTIVATE boots the first instance
in order into its other slot; a healthy last instance makes the image's SVN the minimum; a failed boot returns to the old
slot and stops the activation. Microcode that waits for its block to sleep reports neither.

The model's choices (log entries) in it: instances and their order (121). -/
def Obligations.FirmwareIsStagedAndActivated : Prop :=
  ∀ (l : Letter) (agent : BitVec 3) (inst : BitVec 16) (s : State),
    let a := fwAgentOf l
    let x := s.agent a
    let b := agent.toNat
    let y := s.agent b
    (Accepted opFwStage l (fwStageRule l s) s → fwComplete (stagedAfter l x) = false → ∃ u, exec (.fwStage l) s = .next u ∧
      Answered l 0x0000 (leBytes 4 (stagedAfter l x).length) [] s u ∧
      u.agent a = { x with staged := stagedAfter l x, valid := false }) ∧
    (∀ i is, Accepted opFwActivate l (activateRule l s) s → fwTargets a (fwInstance l) s = i :: is →
      ∃ u, exec (.fwActivate l) s = .next u ∧ (u.agent a).booting = some i ∧ (u.agent a).pendingInst = is ∧
        (u.agent a).letter = some (letterKey l) ∧ Tbl.get false (u.agent a).active i = !Tbl.get false x.active i) ∧
    (y.booting = some inst.toNat → y.pendingInst = [] → (b = 2 → (s.field inst.toNat).repairs = []) →
      (b = 3 → (s.block inst.toNat).microWait = false) →
      ∃ u, exec (.instanceReportedHealthy agent inst) s = .next u ∧ (u.agent b).minSvn = y.stagedSvn ∧
        (u.agent b).booting = none ∧ (u.agent b).letter = none ∧ (u.agent b).active = y.active ∧
        inst.toNat ∈ (u.agent b).newer) ∧
    (b = 3 → (s.block inst.toNat).microWait = true → exec (.instanceReportedHealthy agent inst) s = .next s ∧
      exec (.fwHealthTimeout agent inst) s = .next s) ∧
    (y.booting = some inst.toNat → (b = 2 → (s.field inst.toNat).repairs = []) →
      (b = 3 → (s.block inst.toNat).microWait = false) →
      ∃ u, exec (.fwHealthTimeout agent inst) s = .next u ∧ (u.agent b).booting = none ∧ (u.agent b).pendingInst = [] ∧
        (u.agent b).minSvn = y.minSvn ∧ Tbl.get false (u.agent b).active inst.toNat = !Tbl.get false y.active inst.toNat)

/-! ## Repair and maintenance (R22, R295, R348, R410 to R413, R420, R438, R452, R459 to R465, R492, R493, R504) -/

/-- A tile is retired on a cause that its field controller counts, on silence of an ACTIVE block's tile and on an ECC storm; a link
that fails again after such a retirement takes the field. The retirement names the tile's site in the spare map; where the row
group has no spare left its field is lost, and while the field's controllers restart it waits.

The outcome of a field's loss, of a lockstep disagreement, of a controller's restart, and of a stack's retirement, loss and
copy (R462 to R465).

The model's choices (log entries) in it: substitution (101), one step a repair (102), losses of stacks and breaker trips
(103 to 106), who counts an ECC storm (151). -/
def Obligations.TilesFieldsAndStacksAreRetired : Prop :=
  (∀ (t : TileId) (s : State),
     (s.retireDue t = true → s.failingLinks t = [] → exec (.tileRetirement t) s = .next (retireTile t s)) ∧
     (s.failingLinks t ≠ [] → exec (.tileRetirement t) s = .next (retireLink t (s.failingLinks t) s)) ∧
     (s.retireDue t = false → exec (.tileRetirement t) s = .next s) ∧
     ((s.block (tileBlock t)).pstate = .active → 30 ≤ s.silentUs t →
       exec (.fireflySilence t) s = .next (retireTile t (noteCause 8 t s))) ∧
     exec (.eccStorm t) s = .next (retireTile t (noteCause 6 t s))) ∧
  (∀ (t : TileId) (ps : List Nat) (s : State),
     let f := tileField t
     let x := s.field f
     (x.lost = false → x.restarting = false → spareCode x.spareMap (spareIndex t) = 0xF →
       ∃ v, retireTile t s = proceed v ∧
         spareCode (v.field f).spareMap (spareIndex t) = BitVec.ofNat 4 (tileXIn t % 8) ∧
         ∀ k, k ≠ spareIndex t → spareCode (v.field f).spareMap k = spareCode x.spareMap k) ∧
     (x.lost = false → x.restarting = false → spareCode x.spareMap (spareIndex t) ≠ 0xF →
       ((retireTile t s).field f).lost = true ∧ ((retireTile t s).field f).retired = true ∧
         ((retireTile t s).field f).railOn = false ∧ ∀ i, i < 16 → ((retireTile t s).block (16 * f + i)).pstate = .dark) ∧
     (x.lost = false → x.restarting = true → retireTile t s = s.putField f { x with repairs := x.repairs ++ [t] }) ∧
     (x.lost = true → retireTile t s = s) ∧
     (x.lost = false → x.restarting = false → ps.any (fun p => (s.tile t).router.badLinks.contains p) = true →
       ((retireLink t ps s).field f).lost = true ∧ ((retireLink t ps s).field f).retired = true)) ∧
  (∀ (f : Fin 64) (n : Fin 24) (s : State),
     let x := s.field f.val
     let near := inWindow s.dev.time dayUs x.lockstepTimes
     (x.lost = true → x.lossDone = false → s.dev.placement = none → ∃ u, exec (.fieldLoss f) s = .next u ∧
       (u.field f.val).retired = true ∧ (u.field f.val).lossDone = true ∧ u.dev.distGen = s.dev.distGen + 1) ∧
     (x.lost = false → x.restarting = false → near = [] → ∃ u, exec (.lockstepDisagreement f) s = .next u ∧
       (u.field f.val).restarting = true ∧ (u.field f.val).lockstepTimes = [s.dev.time] ∧ (u.field f.val).lost = false) ∧
     (x.lost = false → x.restarting = false → near ≠ [] → ∃ u, exec (.lockstepDisagreement f) s = .next u ∧
       (u.field f.val).lost = true ∧ (u.field f.val).retired = true) ∧
     (x.repairs = [] → exec (.fieldControllerRestart f) s =
       .next (s.putField f.val { x with restarting := false, repairs := [] })) ∧
     ((s.stk n.val).st = 2 → s.fitsWithout = true →
       ∃ v, exec (.stackRetirementAuto n) s = .next (proceed v) ∧ (v.stk n.val).st = 3) ∧
     ((s.stk n.val).st = 2 ∨ (s.stk n.val).st = 3 →
       ∃ v, exec (.stackUnreadable n) s = .next (proceed v) ∧ (v.stk n.val).st = 5) ∧
     ((s.stk n.val).st = 3 ∨ (s.stk n.val).st = 5 → ∃ u, exec (.stackCopyComplete n) s = .next u ∧ (u.stk n.val).st = 4 ∧
       u.dev.distGen = s.dev.distGen + 1))

/-- The RETIRE letters retire what they name as the events do, and end: a tile, a segment, a field, a stack that fits on the
others, and a link chiplet, whose ports go down.

The model's choices (log entries) in it: retirements in one step (130), losses of stacks and fields (103 to 106). -/
def Obligations.RetireLettersRetire : Prop :=
  ∀ (l : Letter) (s : State),
    let i := unitIndex l
    let k := letterKey l
    (Accepted opRetire l (retireRule l 1 65536 []) s → exec (.retireTile l) s = .next (finishLetter k stDone [] []
      (retireTile (BitVec.ofNat 16 i) (progress k (entered opRetire l (retireRule l 1 65536 []) s))))) ∧
    (Accepted opRetire l (retireRule l 2 1024 []) s → ∃ u, exec (.retireSegment l) s = .next u ∧ Ends l 0x0000 s u ∧
      (u.block i).segFailed = (s.block i).segFailed ||| ((1 : Byte) <<< letterNum l 1 1)) ∧
    (Accepted opRetire l (retireRule l 3 64 [exclusiveCheck s]) s → (s.field i).lost = true → (s.field i).retired = false →
      ∃ u, exec (.retireField l) s = .next u ∧ Ends l 0x0000 s u ∧ (u.field i).retired = true) ∧
    (Accepted opRetire l (retireRule l 3 64 [exclusiveCheck s]) s → (s.field i).lost = false →
      ∃ v, exec (.retireField l) s = .next (finishLetter k stDone [] [] (fieldLoss i v)) ∧
        (v.field i).lost = true ∧ (v.field i).retired = true) ∧
    (Accepted opRetire l (retireRule l 4 24 [exclusiveCheck s]) s → (s.stk i).st = 2 → s.fitsWithout = true →
      ∃ v, exec (.retireStack l) s = .next (proceed v) ∧ (v.stk i).st = 3 ∧ (v.letter k).isSome = true) ∧
    (Accepted opRetire l (retireRule l 5 12 [(s.onlyHostPath i, 0x0107)]) s → ∃ u, exec (.retireChiplet l) s = .next u ∧
      Ends l 0x0000 s u ∧ (u.chiplet i).retired = true ∧ ∀ q, q < 4 → (u.port (4 * i + q)).st = .down)

/-- RECALIBRATE journals what it measures and ends, a breaker retry closes the breaker with its one retry spent, and the DIAG
letters write a spare map and arm the reseal.

The model's choices (log entries) in it: measured values (26), the spare map of a letter (129), RECALIBRATE, BREAKER_RETRY
and DIAG (130). -/
def Obligations.RecalibrationAndDiagnosis : Prop :=
  ∀ (l : Letter) (s : State),
    let i := unitIndex l
    let key := BitVec.ofNat 32 (65536 * letterNum l 0 1 + i)
    let measured (c : Instr) : Prop := ∃ u, exec c s = .next u ∧ Ends l 0x0000 s u ∧ (overridden l = false →
      ∃ j ∈ u.journal.records, j.kind = kindCalibration ∧ j.key = key ∧ j.committed = false)
    let retry := decide (0x8000 ≤ i) && decide (i < 0x8040) && !overridden l
    (Accepted opRecalibrate l (recalRule l 1 (indexOk l 64) []) s → measured (.recalibrateSensors l)) ∧
    (Accepted opRecalibrate l (recalRule l 2 (indexOk l 1024) []) s → measured (.recalibrateRegulators l)) ∧
    (Accepted opRecalibrate l (recalRule l 3 (indexOk l 48) []) s → measured (.recalibrateLinks l)) ∧
    (Accepted opRecalibrate l (recalRule l 2 retry [(retrySpent (retryField l) s, 0x0107)]) s →
      ∃ u, exec (.breakerRetry l) s = .next u ∧ Ends l 0x0000 s u ∧ (u.field (retryField l)).breaker = false ∧
        (u.field (retryField l)).retryUsed = true ∧ (u.field (retryField l)).railOn = true ∧
        (u.field (retryField l)).selfTested = false) ∧
    (Accepted opDiag l (diagRule l 2 3 (decide (i < 64) && mapLegal (editMap l)) (l.train.length == 1)) s →
      ∃ u, exec (.diagSpareMapEdit l) s = .next u ∧ Ends l 0x0000 s u ∧ (u.field i).spareMap = editMap l ∧
        u.dev.distGen = s.dev.distGen + 1) ∧
    (Accepted opDiag l (diagRule l 3 4 (letterZeros l 2 2) (l.train == [])) s →
      ∃ u, exec (.diagReseal l) s = .next u ∧ Ends l 0x0000 s u ∧ u.dev.resealArmed = true ∧ u.dev.resealAt = s.dev.time)

/-! ## Roles, keys and the seal (R326, R361, R497 to R512) -/

/-- ROLE_OPEN of the installer waits for a press, which opens the role of the oldest request; the maker's opens on a valid
authorisation; a role that is open already needs neither, and no other port's role opens (R499); roles close by letter, after an hour without use, at the end of an authorisation and with J7 removed.

The model's choices (log entries) in it: closing a role that is not open (115); none in what R499 is cited for. -/
def Obligations.RolesOpenAndClose : Prop :=
  ∀ (l : Letter) (k : LetterKey) (port : Fin 48) (maker : Bool) (r : OpenRole) (w : RoleWait) (ws : List RoleWait) (s : State),
    let p := l.port.val
    (Accepted opRoleOpen l (roleOpenRule l s) s → s.roleOf p false = none → ∃ u, exec (.roleOpenInstaller l) s = .next u ∧
      u.dev.roleWaits = s.dev.roleWaits ++ [⟨letterKey l⟩] ∧ (u.letter (letterKey l)).isSome = true) ∧
    (Accepted opRoleOpen l (roleOpenRule l s) s → (s.roleOf p false).isSome = true →
      ∃ u, exec (.roleOpenInstaller l) s = .next u ∧ Ends l 0x0000 s u ∧ u.dev.roles = s.dev.roles ∧
        u.dev.roleWaits = s.dev.roleWaits) ∧
    (Accepted opRoleOpen l (makerRule l s) s → (s.roleOf p true).isSome = true →
      ∃ u, exec (.roleOpenMaker l) s = .next u ∧ Ends l 0x0000 s u ∧ u.dev.roles = s.dev.roles) ∧
    (s.dev.roleWaits = w :: ws → ∃ u, exec .presencePress s = .next u ∧ u.dev.roleWaits = ws ∧
      u.roleOf w.key.port.val false = some ⟨false, s.dev.time, 0, 0⟩ ∧
      ∀ q b, q ≠ w.key.port.val → u.roleOf q b = s.roleOf q b) ∧
    (s.dev.roleWaits.any (fun w => w.key == k) = true → ∃ u, exec (.presenceTimeout k) s = .next u ∧
      u.dev.roles = s.dev.roles ∧ ∀ v ∈ u.dev.roleWaits, v.key ≠ k) ∧
    (Accepted opRoleOpen l (makerRule l s) s → s.roleOf p true = none → ∃ u, exec (.roleOpenMaker l) s = .next u ∧
      (authOk l s = true → Ends l 0x0000 s u ∧ (u.roleOf p true).isSome = true ∧
        u.dev.authSeq = BitVec.ofNat 64 (leAt (authBody l) 8 8) ∧ ∀ q b, q ≠ p → u.roleOf q b = s.roleOf q b) ∧
      (authOk l s = false → Ends l 0x0205 s u ∧ u.dev.roles = s.dev.roles ∧ u.dev.authSeq = s.dev.authSeq)) ∧
    (Accepted opRoleClose l (roleCloseRule l) s → ∃ u, exec (.roleClose l) s = .next u ∧ Ends l 0x0000 s u ∧
      u.roleOf p (letterNum l 0 1 == 2) = none) ∧
    (s.roleOf port.val maker = some r → 3600000000 ≤ (s.dev.time - r.lastUse).toNat →
      ∃ u, exec (.roleIdleTimeout port maker) s = .next u ∧ u.roleOf port.val maker = none ∧
        u.roleOf port.val (!maker) = s.roleOf port.val (!maker)) ∧
    (s.roleOf port.val true = some r → r.until_.toNat ≤ s.dev.time.toNat → ∃ u, exec (.makerAuthExpiry port) s = .next u ∧
      u.roleOf port.val true = none ∧ u.roleOf port.val false = s.roleOf port.val false) ∧
    (exec .j7Fit s = .next (s.updDev (fun d => { d with j7 := true }))) ∧
    (∃ u, exec .j7Remove s = .next u ∧ u.dev.j7 = false ∧ ∀ q, q < 48 → u.roleOf q true = none)

/-- A break of the closed loop is recorded and a completed reseal is too; an armed reseal lapses after 600 s; the standby keeper
takes the Postmaster over with the mailboxes as they are (R361, R502 to R504).

The model's choices (log entries) in it: seal states (118). -/
def Obligations.SealAndTakeover : Prop :=
  ∀ (s : State),
    let a := s.dev.activeKeeper
    (s.dev.loopClosed = true → ∃ u, exec .sealBreak s = .next u ∧ u.dev.sealState = 2 ∧ u.dev.sealBreaks = s.dev.sealBreaks + 1 ∧
      u.dev.sealTime = s.dev.time ∧ u.dev.loopClosed = false ∧
      ∃ j, u.journal.records = s.journal.records ++ [j] ∧ j.kind = kindSeal) ∧
    (s.dev.resealArmed = true → s.dev.j7 = false → (s.dev.time - s.dev.resealAt).toNat ≤ 600000000 →
      ∃ u, exec .resealComplete s = .next u ∧ u.dev.sealState = 3 ∧ u.dev.loopClosed = true ∧ u.dev.resealArmed = false ∧
        ∃ j, u.journal.records = s.journal.records ++ [j] ∧ j.kind = kindSeal) ∧
    (s.dev.resealArmed = true → 600000000 ≤ (s.dev.time - s.dev.resealAt).toNat →
      exec .resealTimeout s = .next (s.updDev (fun d => { d with resealArmed := false }))) ∧
    (s.dev.standbyLost = false → ∃ u, exec .postmasterTakeover s = .next u ∧ u.dev.activeKeeper = 1 - a ∧
      (u.keeper (1 - a).val).role = 1 ∧ (u.keeper a.val).role = 2 ∧ u.mailboxes = s.mailboxes ∧ u.dev.letters = s.dev.letters)

/-- The key letters: an image ID enters or leaves the list; a wrapping key and a tenant key are stored where their blocks open,
and end with 0x0205 where they do not; rotation keeps the older generation, revocation forgets the key.

The model's choices (log entries) in it: headers of the key letters (116), the opened blocks and KEY_IDs as free functions
(17, 20, 22), salts (23). -/
def Obligations.KeysAreEnrolled : Prop :=
  ∀ (l : Letter) (s : State),
    let n := keysTenant l
    let x := s.tenantKey n
    let wrap := decide (1 ≤ keySlot l) && decide (keySlot l ≤ 4)
    (Accepted opKeyEnrol l (enrolRule l 2 2 (keySlot l == 1 || keySlot l == 2)
        [(decide (256 < (newAuthList l s.dev.authImages).length), 0x0301)] s) s →
      ∃ u, exec (.keyEnrolImageId l) s = .next u ∧ Ends l 0x0000 s u ∧ u.dev.authImages = newAuthList l s.dev.authImages) ∧
    (Accepted opKeyEnrol l (enrolRule l 1 (9 + (keyLength l + 16 + 63) / 64) wrap [(slotTaken l s, 0x0301)] s) s →
      ∃ u, exec (.keyEnrolWrappingKey l) s = .next u ∧
        (unwrapDer l s = none → Ends l 0x0205 s u ∧ u.dev.wrapKeys = s.dev.wrapKeys) ∧
        (∀ der, unwrapDer l s = some der → Ends l 0x0000 s u ∧
          Tbl.get none u.dev.wrapKeys (keySlot l) = some (Config.keyIdOf der))) ∧
    (Accepted opTenantKeys l (tenantRule l 1 [(x.gen != 0, 0x0107)] s) s → ∃ u, exec (.tenantKeysEnrol l) s = .next u ∧
      (unwrapTenant l s = none → Ends l 0x0205 s u ∧ u.dev.tenantKeys = s.dev.tenantKeys) ∧
      (∀ key, unwrapTenant l s = some key → Answered l 0x0000 (leBytes 1 1) [] s u ∧ (u.tenantKey n).gen = 1 ∧
        (u.tenantKey n).key = key ∧ (u.tenantKey n).older = none)) ∧
    (Accepted opTenantKeys l (tenantRule l 2 [(x.gen == 0, 0x0107), (x.older.isSome, 0x0401)] s) s →
      ∃ u, exec (.tenantKeysRotate l) s = .next u ∧
        (unwrapTenant l s = none → Ends l 0x0205 s u ∧ u.dev.tenantKeys = s.dev.tenantKeys) ∧
        (∀ key, unwrapTenant l s = some key → Ends l 0x0000 s u ∧ (u.tenantKey n).gen = nextGen x.gen ∧
          (u.tenantKey n).key = key ∧ (u.tenantKey n).older = some (x.gen, x.key, x.salt))) ∧
    (Accepted opTenantKeys l (tenantRule l 3 [(s.tenantOpen n, 0x0107)] s) s →
      ∃ u, exec (.tenantKeysRevoke l) s = .next u ∧ Ends l 0x0000 s u ∧ u.tenantKey n = {})

/-! ## Mailboxes and control registers (R361 to R366, R521, R534 to R543) -/

/-- A message enters the far end's queue whole where it fits and is refused otherwise; an acknowledgement of the oldest message
frees it, any other is a mismatch (R364); the letter messages go between the Postmaster and a host-port adapter.

The model's choices (log entries) in it: words of letters and refusals of lengths (123); none in what R364 is cited for. -/
def Obligations.MailboxesCarryMessages : Prop :=
  ∀ (e : MailEnd) (v : Word) (c : Fin 12) (buffer : BitVec 16) (port : Byte) (id : Word) (m : List (BitVec 64))
      (ms : List (List (BitVec 64))) (s : State),
    let n := bitsAt v 0 4
    let p := endPeer e
    let A : MailEnd := .dev (adapterBox c) true
    let B : MailEnd := .dev (adapterBox c) false
    let bs := (s.chiplet c.val).buffers
    (1 ≤ n → n ≤ 8 → (s.mbx p).rxWords + n ≤ 8 → ∃ u, exec (.mbxSend e v) s = .next u ∧
      (u.mbx p).inq = (s.mbx p).inq ++ [(List.range n).map (s.mbx e).staged]) ∧
    (1 ≤ n → n ≤ 8 → 8 < (s.mbx p).rxWords + n → ∃ u, exec (.mbxSend e v) s = .next u ∧ (u.mbx e).refused = true ∧
      (u.mbx p).inq = (s.mbx p).inq) ∧
    ((s.mbx e).inq = m :: ms → ∀ j, j < 16 → mbxWord s e (0xD0 + j) = wordAt (nth 0 m (j / 2)) (j % 2)) ∧
    ((s.mbx e).inq = m :: ms → messageSeq m = (fieldAt v 16 16 : BitVec 16) → ∃ u, exec (.mbxAck e v) s = .next u ∧
      (u.mbx e).inq = ms ∧ (u.mbx p).peerAck = v) ∧
    ((s.mbx e).inq = [] ∨ ((s.mbx e).inq = m :: ms ∧ messageSeq m ≠ (fieldAt v 16 16 : BitVec 16)) →
      ∃ u, exec (.mbxAck e v) s = .next u ∧ (u.mbx e).ackMismatch = true ∧ (u.mbx e).inq = (s.mbx e).inq ∧
        (u.mbx p).peerAck = (s.mbx p).peerAck) ∧
    (buffer.toNat < 256 → port.toNat < 48 → bs.any (fun b => b.1 == buffer) = false → (s.mbx A).rxWords + 2 ≤ 8 →
      ∃ u, exec (.letterArrived c buffer port id) s = .next u ∧ (u.chiplet c.val).buffers = bs ++ [(buffer, port, id)] ∧
        (u.mbx A).inq = (s.mbx A).inq ++ [letterMessage 0x0001 (s.mbx B).nextSeq buffer port id]) ∧
    ((s.mbx B).rxWords + 2 ≤ 8 → ∃ u, exec (.receiptReady c buffer port id) s = .next u ∧
      (u.mbx B).inq = (s.mbx B).inq ++ [letterMessage 0x0002 (s.mbx A).nextSeq buffer port id]) ∧
    ((s.mbx B).rxWords + 2 ≤ 8 → ∃ u, exec (.letterBufferFreed c buffer port id) s = .next u ∧
      (u.mbx B).inq = (s.mbx B).inq ++ [letterMessage 0x0003 (s.mbx A).nextSeq buffer port id] ∧
      ∀ b ∈ (u.chiplet c.val).buffers, b.1 ≠ buffer)

/-- CSR_WRITE answers each failed access with its kind, the first one held until VALID is cleared: a reserved address, a
register out of the agent's reach, a unit without power, a register without a writable field; any other write changes the
register. KP_TIME_LO_READ latches the upper half of device time for the Postmaster.

The model's choices (log entries) in it: the order of failures (124), the latch per agent (125). -/
def Obligations.RegistersAreWritten : Prop :=
  ∀ (g : Agent) (a v : Word) (r : Csr) (k : Fin 2) (b f : Nat) (e : MailEnd) (t : TileId) (s : State),
    let fails (kind : Nat) : Prop := bitAt s.dev.csrErr 31 = false → ∃ u, exec (.csrWrite g a v) s = .next u ∧
      u.dev.csrErr = BitVec.ofNat 32 (2 ^ 31 + agentCode g * 2 ^ 28 + kind * 2 ^ 25) ∧ u.dev.csrAddr = a ∧ u.tiles = s.tiles ∧
      u.blocks = s.blocks ∧ u.fieldCtls = s.fieldCtls ∧ u.mailboxes = s.mailboxes
    let passes : Prop := csrAt a = some r ∧ mayWrite g r = true ∧ s.csrPowered r = true ∧ csrWritable r = true
    (csrAt a = none → fails 0) ∧
    (csrAt a = some r → mayWrite g r = false → fails 2) ∧
    (csrAt a = some r → mayWrite g r = true → s.csrPowered r = false → fails 4) ∧
    (csrAt a = some r → mayWrite g r = true → s.csrPowered r = true → csrWritable r = false → fails 1) ∧
    (csrAt a = none ∨ (csrAt a = some r ∧ mayWrite g r = false) → bitAt s.dev.csrErr 31 = true →
      exec (.csrWrite g a v) s = .next s) ∧
    (passes → exec (.csrWrite g a v) s = .next (csrApply g a r v s)) ∧
    (passes → r = .dm 0x12 → ∃ u, exec (.csrWrite g a v) s = .next u ∧ u.dev.csrErr = clearValid v s.dev.csrErr) ∧
    (passes → r = .bs b 0x12 → ∃ u, exec (.csrWrite g a v) s = .next u ∧ (u.block b).delay = fieldAt v 16 16 ∧
      (u.block b).gateCycles = fieldAt v 0 16 ∧ (u.block b).pstate = (s.block b).pstate) ∧
    (passes → r = .ts t 0x10 → ∃ u, exec (.csrWrite g a v) s = .next u ∧
      (u.tile t).seqFault = clearValid v (s.tile t).seqFault ∧ SameMemories (s.tile t) (u.tile t)) ∧
    (passes → r = .ts t 0x11 → ∃ u, exec (.csrWrite g a v) s = .next u ∧
      (u.tile t).finFlags = (s.tile t).finFlags &&& ~~~(fieldAt v 0 3 : BitVec 3)) ∧
    (passes → r = .fc f 0x11 → ∃ u, exec (.csrWrite g a v) s = .next u ∧
      (u.field f).clkTarget = fieldAt v 0 11 ∧ u.tiles = s.tiles ∧ u.blocks = s.blocks) ∧
    (passes → r = .mbx e 0xE4 → ∃ u, exec (.csrWrite g a v) s = .next u ∧ (u.mbx e).ctrl = fieldAt v 0 3 ∧
      (u.mbx e).inq = (s.mbx e).inq) ∧
    (∃ u, exec (.kpTimeLoRead k .postmaster) s = .next u ∧
      Tbl.get none (u.keeper k.val).timeHigh (agentKey .postmaster) = some (fieldAt s.dev.time 32 32) ∧ u.dev = s.dev ∧
      u.tiles = s.tiles) ∧
    (g ≠ .postmaster → bitAt s.dev.csrErr 31 = false → ∃ u, exec (.kpTimeLoRead k g) s = .next u ∧
      u.dev.csrErr = BitVec.ofNat 32 (2 ^ 31 + agentCode g * 2 ^ 28 + 2 * 2 ^ 25) ∧ u.keepers = s.keepers)

/-! ## Block power states and clocks (R386 to R404, R414 to R418, R541) -/

/-- The way down: an idle block is GATED, then shut down in five steps into CHRYSALIS or, ordered, DIAPAUSE, which keeps each
tile's slab and loses its working buffer and weight store; DARK keeps the powered router alone.

The model's choices (log entries) in it: idle tiles (127), when DIAPAUSE may be ordered (163). -/
def Obligations.BlocksFallAsleep : Prop :=
  ∀ (b : Fin 1024) (s : State),
    let x := s.block b.val
    let starts (i : Instr) (into : PState) : Prop := ∃ u, exec i s = .next u ∧ (u.block b.val).step = 1 ∧
      (u.block b.val).shutTo = into ∧ (u.block b.val).pstate = x.pstate ∧ u.tiles = s.tiles
    (x.pstate = .active → x.gateCycles ≠ 0 → x.wakeAsked = false → s.blockIdle b.val = true →
      ∃ u, exec (.gateEntry b) s = .next u ∧ (u.block b.val).pstate = .gated ∧ (u.block b.val).step = 0 ∧
        (u.block b.val).microLoad = (x.microLoad || x.microWait) ∧ u.tiles = s.tiles) ∧
    (x.delay ≠ 0 → s.mayChrysalis b.val = true → starts (.chrysalisDelayExpiry b) .chrysalis) ∧
    (s.mayChrysalis b.val = true → starts (.bsPorderChrysalis b) .chrysalis) ∧
    (s.mayChrysalis b.val = false → exec (.bsPorderChrysalis b) s = .next s) ∧
    (x.pstate = .chrysalis → x.step = 0 → x.ramping = false → x.tied = false → x.feeding = false →
      s.mayDiapause b.val = true → (∀ t ∈ blockTiles b.val, (s.tile t).restable = true) →
      starts (.bsPorderDiapause b) .diapause) ∧
    (s.mayDiapause b.val = false → exec (.bsPorderDiapause b) s = .next s) ∧
    (x.closing = true → x.step < 5 → ∃ u, exec (.chrysalisEntry b) s = .next u ∧ (u.block b.val).step = x.step + 1 ∧
      (u.block b.val).pstate = x.pstate) ∧
    (x.closing = true → x.step = 5 → x.wakeAsked = false → x.shutTo = .chrysalis →
      ∃ u, exec (.shutdownComplete b) s = .next u ∧ (u.block b.val).pstate = .chrysalis ∧ (u.block b.val).step = 0 ∧
        u.tiles = s.tiles) ∧
    (x.closing = true → x.step = 5 → x.wakeAsked = false → x.shutTo = .diapause →
      ∃ u, exec (.shutdownComplete b) s = .next u ∧ (u.block b.val).pstate = .diapause ∧ (u.block b.val).step = 0 ∧
        ∀ t ∈ blockTiles b.val, (u.tile t).slab = (s.tile t).slab ∧ (u.tile t).owners = (s.tile t).owners ∧
          (u.tile t).wb = [] ∧ (u.tile t).ws = [] ∧ (u.tile t).router = (s.tile t).router) ∧
    (x.tied = false → ∃ u, exec (.bsPorderDark b) s = .next u ∧ (u.block b.val).pstate = .dark ∧
      ∀ t ∈ blockTiles b.val, u.tile t = { router := (s.tile t).router }) ∧
    (x.tied = true → exec (.bsPorderDark b) s = .next s)

/-- The way up: a GATED block is ACTIVE at once; a sleeping one waits for its admission, is admitted where its recorded current
fits and deferred otherwise, ramps, and is ACTIVE again; a deferral's end trims the clock for its batch.

The model's choices (log entries) in it: the admitted batch (127). -/
def Obligations.BlocksWake : Prop :=
  ∀ (b : Fin 1024) (f : Fin 64) (m : Nat) (p : Placement) (g : Image) (s : State),
    let x := s.block b.val
    let y := s.field (b.val / 16)
    let wakes (i : Instr) : Prop := ∃ u, exec i s = .next u ∧ b ∈ (u.field (b.val / 16)).pendingWakes ∧
      (u.block b.val).pstate = x.pstate
    let ramps (i : Instr) : Prop := ∃ u, exec i s = .next u ∧ (u.block b.val).ramping = true ∧ (u.block b.val).step = 1 ∧
      (u.block b.val).wakes = satAdd x.wakes 1 ∧ (u.block b.val).pstate = x.pstate
    (x.pstate = .gated → x.step = 0 → x.microLoad = false → ∃ u, exec (.gatedWake b) s = .next u ∧
      (u.block b.val).pstate = .active ∧ (u.block b.val).wakeAsked = false) ∧
    (x.ramping = false → x.step = 0 → x.pstate = .chrysalis ∨ x.pstate = .diapause →
      wakes (.wakeRequest b) ∧ wakes (.bsPorderWake b)) ∧
    (x.closing = true → x.step ≤ 2 → x.pstate = .gated → ∃ u, exec (.wakeRequest b) s = .next u ∧
      (u.block b.val).pstate = .active ∧ (u.block b.val).races = satAdd x.races 1) ∧
    (y.restarting = false → x.microLoad = false → b ∈ y.pendingWakes → lowest y.pendingWakes = some b →
      admitFits s (b.val / 16) [b.val] = true → ramps (.wakeAdmission b)) ∧
    (y.restarting = false → x.microLoad = false → b ∈ y.pendingWakes → admitFits s (b.val / 16) [b.val] = false →
      exec (.wakeAdmission b) s = .next (s.putField (b.val / 16) { y with deferrals := satAdd y.deferrals 1 })) ∧
    (b.val / 16 = f.val → y.restarting = false → x.microLoad = false → y.pendingWakes = [b] →
      admitFits s (b.val / 16) [b.val] = true → ramps (.admissionRetry f)) ∧
    (b.val / 16 = f.val → y.restarting = false → y.batch = [] → y.pendingWakes = [b] →
      trimStep s f.val [b.val] ((y.mhz.toNat - 200) / 25) = some m → ramps (.admissionDeferralExpiry f) ∧
        ∃ u, exec (.admissionDeferralExpiry f) s = .next u ∧ (u.field f.val).trimMhz = some (BitVec.ofNat 11 m) ∧
          (u.field f.val).batch = [b]) ∧
    (x.ramping = true → ∃ u, exec (.rampComplete b) s = .next u ∧ (u.block b.val).pstate = .active ∧
      (u.block b.val).ramping = false ∧ (u.block b.val).reload = decide (x.pstate = .diapause) ∧
      (u.block b.val).nodeCards = (if x.pstate = .diapause then x.nodeCards else [])) ∧
    (x.pstate = .active → x.reload = true → (s.dev.placement = none ∨ (s.dev.placement = some p ∧ s.master p = some g)) →
      ∃ u, exec (.diapauseReload b) s = .next u ∧ (u.block b.val).reload = false ∧ (u.block b.val).nodeCards = [])

/-- A new clock target takes effect at once where the field need not wait for a higher voltage, and with the voltage otherwise;
a sleeping, quiet field's generator stops; a calibration is counted.

The power budget and its reports: a measurement above 510 A at the input's voltage lowers every field's target, an exhausted
credit ends boost, a sample is one microsecond and a field's current, a record enters the ring under the next number.

The model's choices (log entries) in it: one tick a sample (5, 126). -/
def Obligations.ClocksAndPower : Prop :=
  (∀ (f : Fin 64) (v : Word) (m : BitVec 11) (s : State),
     let x := s.field f.val
     let y : FieldCtl := { x with clkTarget := fieldAt v 0 11, boostGrant := bitAt v 16 && s.mayBoost }
     (∃ u, exec (.fcClkTargetWrite f v) s = .next u ∧ (u.field f.val).clkTarget = fieldAt v 0 11 ∧
       (u.field f.val).boostGrant = (bitAt v 16 && s.mayBoost) ∧
       (operatingMv (clockLimit y).1 ≤ x.settingMv.toNat → (u.field f.val).mhz = BitVec.ofNat 11 (clockLimit y).1) ∧
       (x.mhz.toNat < (clockLimit y).1 → x.settingMv.toNat < operatingMv (clockLimit y).1 → (u.field f.val).mhz = x.mhz ∧
         (u.field f.val).newMhz = some (BitVec.ofNat 11 (clockLimit y).1))) ∧
     (x.newMhz = some m → ∃ u, exec (.voltageReached f) s = .next u ∧ (u.field f.val).mhz = m ∧ (u.field f.val).newMhz = none) ∧
     (x.genRunning = true → x.stopDelay ≠ 0 → s.fieldAsleep f.val = true → s.fieldQuiet f.val = true →
       exec (.generatorStop f) s = .next (s.putField f.val { x with genRunning := false })) ∧
     (∃ u, exec (.drowseCalibration f) s = .next u ∧ (u.field f.val).drowseCalibrations = x.drowseCalibrations + 1)) ∧
  (∀ (watts vin : BitVec 16) (f : Fin 64) (ma : BitVec 32) (record : List Line) (s : State),
     (∃ u, exec (.powerMeasure watts vin) s = .next u ∧ u.power.watts = watts.toNat ∧ u.power.vin = vin ∧
       u.power.outOfRange = decide (vin.toNat < 4000 ∨ vin.toNat > 6000) ∧
       (510 * vin.toNat / 100 < watts.toNat → ∀ g, g < 64 → u.field g = lowerTarget (s.field g) ∨
         ((s.field g).boostGrant = true ∧ u.field g = lowerTarget (setClock { s.field g with boostGrant := false }))) ∧
       (s.mayBoost = false → ∀ g, g < 64 → (u.field g).boostGrant = false)) ∧
     (s.power.credit = 0 → ∃ u, exec .peakCreditExhausted s = .next u ∧
       ∀ g, g < 64 → u.field g = lowerTarget { s.field g with boostGrant := false }) ∧
     (s.power.credit ≠ 0 → exec .peakCreditExhausted s = .next s) ∧
     (∃ u, exec (.currentSample [(f, ma)] []) s = .next u ∧ u.dev.time = s.dev.time + 1 ∧ (u.field f.val).measuredMa = ma ∧
       u.blocks = s.blocks) ∧
     (∃ u x, exec (.currentRecord record) s = .next u ∧ u.power.currentSeq = s.power.currentSeq + 1 ∧
       u.power.currentRing.getLast? = some (s.power.currentSeq, x) ∧
       (s.power.currentRing.length ≤ 60000 → u.power.currentRing.length ≤ 60000)))

/-! ## Power delivery and cooling (R389, R405 to R428, R433 to R445, R495, R496) -/

/-- The input mates and opens, and a loss of the input writes the ledger and the shutdown record, commits the journal and takes
every rail but the keepers'.

The model's choices (log entries) in it: reset and presence of rails (9, 119), measurements as operands (126). -/
def Obligations.InputPowerComesAndGoes : Prop :=
  ∀ (straps : BitVec 4) (vin : BitVec 16) (s : State),
    let lost (i : Instr) : Prop := ∃ u, exec i s = .next u ∧ u.power.otherRailsOn = false ∧ u.tiles = [] ∧ u.ports = [] ∧
      (∀ j ∈ u.journal.records, j.committed = true) ∧ u.bring.step = 0 ∧ u.bring.warmable = true ∧ u.bring.keepersUp = true
    (∃ u, exec (.prechargeMate straps) s = .next u ∧ u.power.precharge = true ∧ u.dev.member = straps) ∧
    (s.power.precharge = true → ∃ u, exec .prechargeComplete s = .next u ∧ u.power.charged = true ∧
      u.power.mainClosed = s.power.presence) ∧
    (∃ u, exec .presenceMate s = .next u ∧ u.power.presence = true ∧ u.power.mainClosed = s.power.charged) ∧
    (s.power.otherRailsOn = false → ∃ u, exec .presenceOpen s = .next u ∧ u.power.presence = false ∧
      u.power.mainClosed = false) ∧
    (s.power.otherRailsOn = true → lost .presenceOpen) ∧
    (vin.toNat < 4000 ∨ 6000 < vin.toNat → lost (.inputOutOfRange vin)) ∧
    (4000 ≤ vin.toNat → vin.toNat ≤ 6000 → exec (.inputOutOfRange vin) s = .next s) ∧
    (∃ u j, exec .wearLedgerWrite s = .next u ∧ u.journal.records = s.journal.records ++ [j] ∧ j.kind = kindWear ∧
      j.body = wearBody s)

/-- Rails, segments and phases: a trip, a second failed phase or a short loses the field, its blocks DARK; one failed segment or
phase derates; the twin power controller takes over; droops stretch the clock and are logged.

The model's choices (log entries) in it: breaker trips and lost fields (104, 105). -/
def Obligations.RailsFailAndDerate : Prop :=
  ∀ (f : Fin 64) (b : Fin 1024) (phase : Fin 8) (failed : Byte) (cycles : BitVec 16) (ended : Bool) (p : Fin 2) (s : State),
    let x := s.field f.val
    let y := s.block b.val
    let m := x.phasesFailed ||| ((1 : Byte) <<< phase.val)
    let seg := y.segFailed ||| failed
    let dark (u : State) (g : Nat) : Prop := (u.field g).lost = true ∧ (u.field g).railOn = false ∧
      ∀ i, i < 16 → (u.block (16 * g + i)).pstate = .dark
    (x.lost = false → ∃ u, exec (.fieldOvercurrent f) s = .next u ∧ (u.field f.val).breaker = true ∧
      (u.field f.val).retired = (x.retired || x.retryUsed) ∧ dark u f.val) ∧
    ((s.field (b.val / 16)).lost = false → ∃ u, exec (.blockShort b) s = .next u ∧ dark u (b.val / 16) ∧
      (u.field (b.val / 16)).retired = true ∧ (u.field (b.val / 16)).railRetired = true ∧ (u.block b.val).segFailed = 0xFF) ∧
    (popCount m < 2 → ∃ u, exec (.phaseFailure f phase) s = .next u ∧ (u.field f.val).phasesFailed = m ∧
      (u.field f.val).lost = x.lost ∧ (u.field f.val).breaker = x.breaker) ∧
    (2 ≤ popCount m → x.lost = false → ∃ u, exec (.phaseFailure f phase) s = .next u ∧ (u.field f.val).phasesFailed = m ∧
      (u.field f.val).breaker = true ∧ dark u f.val) ∧
    (seg ≠ y.segFailed → ∃ u j, exec (.segmentCheck b failed) s = .next u ∧ (u.block b.val).segFailed = seg ∧
      u.journal.records = s.journal.records ++ [j] ∧ j.kind = kindRetirement ∧ j.key = retireKey 2 b.val ∧
      (2 ≤ popCount seg → (u.block b.val).tied = true ∧ (u.block b.val).skip = true ∧
        ∀ n ∈ ringNeighbours b.val, (u.block n).feeding = true) ∧
      (popCount seg < 2 → (u.block b.val).tied = y.tied ∧ (u.block b.val).skip = y.skip)) ∧
    (s.power.active = some p → ∃ u, exec .powerControllerTakeover s = .next u ∧ u.power.active = some (1 - p) ∧
      u.power.twinOk = false ∧ u.fieldCtls = s.fieldCtls) ∧
    (x.genRunning = true → ∃ u, exec (.railDroop f cycles ended) s = .next u ∧ (u.field f.val).stretching = !ended ∧
      (u.field f.val).stretch = satAdd x.stretch cycles.toNat) ∧
    (s.journal.throttled = false → ∃ u j, exec (.droopEventLog b) s = .next u ∧
      u.journal.records = s.journal.records ++ [j] ∧ j.kind = kindPower ∧ j.key = BitVec.ofNat 32 b.val)

/-- Block sensors: good readings are kept and above 95 °C the slabs refresh twice; a reading out of range retires its sensor;
two samples at 110 °C shut the device down; the limit steps down above 95 °C and up at or below 93 °C; suspects are judged
against the model.

SLAB_REFRESH_WINDOW of an awake tile steals the slots that accesses did not leave free, two groups under double refresh,
and scrubs on; DOUBLE_REFRESH_END at a reading of at most 93 °C ends double refresh on the block's tiles (R104 to R106).

The model's choices (log entries) in it: stolen slots by count (52), packings of sensor registers (129). -/
def Obligations.BlockTemperatures : Prop :=
  (∀ (b : Fin 1024) (f : Fin 64) (a c : Byte) (s : State),
     let x := s.block b.val
     let y := s.field f.val
     let m := y.thermalMhz.toNat
     (x.diodeRetired = false → x.ringRetired = false → max a.toNat c.toNat < 110 →
       ∃ u, exec (.sensorSample b (some a) (some c) none) s = .next u ∧ (u.block b.val).diode = a ∧ (u.block b.val).ring = c ∧
         (u.block b.val).hotSamples = 0 ∧
         (95 < max a.toNat c.toNat → ∀ t ∈ blockTiles b.val, (u.tile t).double = true)) ∧
     (x.diodeRetired = false → x.ringRetired = false → c.toNat < 110 →
       ∃ u j, exec (.sensorSample b none (some c) none) s = .next u ∧ (u.block b.val).diodeRetired = true ∧
         (u.block b.val).ringRetired = false ∧ u.journal.records = s.journal.records ++ [j] ∧ j.kind = kindRetirement) ∧
     (x.diodeRetired = false → x.ringRetired = false → 110 ≤ max a.toNat c.toNat → 1 ≤ x.hotSamples →
       ∃ u, exec (.sensorSample b (some a) (some c) none) s = .next u ∧ u.bring.hardShutdown = true ∧
         u.power.otherRailsOn = false) ∧
     (95 < y.tjmax.toNat → ∃ u, exec (.thermalLimitStep f) s = .next u ∧
       (u.field f.val).thermalMhz = BitVec.ofNat 11 (max 200 (m - 25))) ∧
     (y.tjmax.toNat ≤ 93 → ∃ u, exec (.thermalLimitStep f) s = .next u ∧
       (u.field f.val).thermalMhz = BitVec.ofNat 11 (min (if 85 < y.tjmax.toNat then 1000 else 1150) (m + 25))) ∧
     (93 < y.tjmax.toNat → y.tjmax.toNat ≤ 95 → ∃ u, exec (.thermalLimitStep f) s = .next u ∧ u.field f.val = y) ∧
     (x.diodeRetired = false → x.ringRetired = false → 4 < gap x.diode x.ring →
       ∃ u, exec (.sensorSuspect b) s = .next u ∧ (u.block b.val).suspect = true ∧ (u.block b.val).suspectSamples = 0) ∧
     (gap x.diode x.ring ≤ 4 → ∃ u, exec (.sensorSuspect b) s = .next u ∧ u.block b.val = x) ∧
     (x.suspect = true → x.diodeRetired = false → 6 < gap x.diode x.model →
       ∃ u, exec (.sensorModelCompare b) s = .next u ∧ (u.block b.val).diodeRetired = true) ∧
     (x.suspect = true → gap x.diode x.model ≤ 6 → gap x.ring x.model ≤ 6 → 9999 ≤ x.suspectSamples →
       ∃ u, exec (.sensorModelCompare b) s = .next u ∧ (u.block b.val).suspect = false ∧
         (u.block b.val).diodeRetired = x.diodeRetired)) ∧
  (∀ (t : TileId) (freeSlots : BitVec 7) (corrected : Fin 3) (b : Fin 1024) (s : State),
     ((s.block (tileBlock t)).awake = true → ∃ u, exec (.slabRefreshWindow t freeSlots corrected) s = .next u ∧
       (u.tile t).steals = satAdd (s.tile t).steals ((if (s.tile t).double then 2 else 1) - freeSlots.toNat) ∧
       (u.tile t).scrubGroup = ((s.tile t).scrubGroup + (if (s.tile t).double then 2 else 1)) % 8192 ∧
       (u.tile t).eccSlab = satAdd (s.tile t).eccSlab (min corrected.val (if (s.tile t).double then 2 else 1)) ∧
       SameMemories (s.tile t) (u.tile t)) ∧
     ((s.block b.val).reading ≤ 93 → ∃ u, exec (.doubleRefreshEnd b) s = .next u ∧
       ∀ v ∈ blockTiles b.val, (u.tile v).double = false))

/-- The coolant: readings are kept and raise the flow alarm below 32 L/min; a fall below 8 L/min stops the flow outcome, clocks
at 200 MHz and waves held, and recovery ends it; meters, outlet term, alarm, thermal record and warm restart.

The model's choices (log entries) in it: alarms and suspect meters (128), device state of a flow stop (112). -/
def Obligations.CoolantIsWatched : Prop :=
  ∀ (fi fo i o : BitVec 16) (s : State),
    let c := s.coolant
    let n := min fi.toNat fo.toNat
    (c.sensorFailed = false → 800 ≤ n → i.toInt ≤ 4500 → ∃ u, exec (.coolantSample fi fo (some i) (some o)) s = .next u ∧
      u.coolant.flowIn = fi ∧ u.coolant.flowOut = fo ∧ u.coolant.inlet = i ∧ u.coolant.outlet = o ∧
      u.coolant.flowStop = c.flowStop ∧ u.coolant.flowAlarm = (c.flowAlarm || decide (n < 3200))) ∧
    (n < 3200 → ∀ a b, ∃ v, v.coolant.flowAlarm = true ∧
      (exec (.coolantSample fi fo a b) s = .next v ∨ exec (.coolantSample fi fo a b) s = .next (proceed v))) ∧
    (800 ≤ c.flow → n < 800 → c.flowStop = false →
      ∃ v, exec (.coolantSample fi fo (some i) (some o)) s = .next (proceed v) ∧ v.coolant.flowStop = true ∧
        ∀ g, g < 64 → (v.field g).clkTarget = 200 ∧ (v.field g).boostGrant = false) ∧
    (c.flowStop = true → 3200 ≤ c.flow → c.inletGood = true → ∃ v, exec .flowRecovery s = .next (proceed v) ∧
      v.coolant.flowStop = false ∧ (s.dev.deviceState = 3 → s.dev.quiesced = false → v.dev.deviceState = 2)) ∧
    (c.flow < 10 * (max c.flowIn.toNat c.flowOut.toNat - c.flow) → ∃ u, exec .meterSuspect s = .next u ∧
      u.coolant.meterSuspect = true) ∧
    (5200 < c.outlet.toInt → ∃ u, exec .outletTermStep s = .next u ∧ u.coolant.outletTermW = min c.outletTermW c.baseTerm - 1000 ∧
      u.coolant.outletActing = true) ∧
    (c.outlet.toInt < 5100 → c.outletActing = true → c.outletTermW + 1000 < c.baseTerm →
      ∃ u, exec .outletTermStep s = .next u ∧ u.coolant.outletTermW = c.outletTermW + 1000 ∧ u.coolant.outletActing = true) ∧
    (c.outlet.toInt ≤ 5200 → 5100 ≤ c.outlet.toInt → ∃ u, exec .outletTermStep s = .next u ∧ u.coolant = c) ∧
    (3400 ≤ c.flow → ∃ u, exec .flowAlarmClear s = .next u ∧ u.coolant.flowAlarm = false) ∧
    (c.flow < 3400 → exec .flowAlarmClear s = .next s) ∧
    (∃ u, exec .thermalRecord s = .next u ∧ u.power.thermalSeq = s.power.thermalSeq + 1 ∧
      u.power.thermalRing.getLast? = some (s.power.thermalSeq, bytesLines (thermalBytes s))) ∧
    (s.bring.warmable = true → s.bring.keepersUp = true → s.bring.step = 0 → s.power.mainClosed = true →
      s.power.outOfRange = false → s.bring.hardShutdown = false ∨ cooledDown s = true →
      ∃ u, exec .warmRestart s = .next u ∧ u.bring.step = 2 ∧ u.bring.warm = true)

/-! ## Bring-up and the journal (R471 to R486) -/

/-- The steps of R473 in their order, from power-on with a good keeper to serving, and a field's self-test.

The model's choices (log entries) in it: steps (119), the map of a self-test (120). -/
def Obligations.BringUpGoesStepByStep : Prop :=
  ∀ (straps : BitVec 4) (ka kb closed : Bool) (ring : Fin 4) (f : Fin 64) (blocks : List BlockFail)
      (failed : List SiteFail) (bad : Bool) (s : State),
    let x := s.field f.val
    let warm := s.bring.warm && !mapReserved x.spareMap && !x.lost
    (s.power.otherRailsOn = false → ∃ u, exec (.powerOn straps ka kb closed) s = .next u ∧ u.tiles = [] ∧
      u.bring.step = (if ka || kb then 1 else 0) ∧ u.dev.member = straps ∧ u.journal.mounted = false ∧
      (u.keeper 0).role = (if ka then 1 else 0) ∧ (u.keeper 1).role = (if kb then (if ka then 2 else 1) else 0)) ∧
    (s.power.otherRailsOn = true → exec (.powerOn straps ka kb closed) s = .next s) ∧
    (s.bring.step = 2 → 3200 ≤ s.coolant.flow → s.coolant.inletGood = true →
      ∃ u, exec .coolantVerified s = .next u ∧ u.bring.step = 3) ∧
    (s.bring.step = 3 → s.power.mainClosed = true → ∃ u, exec .rimBringUp s = .next u ∧ u.bring.step = 4 ∧
      u.power.otherRailsOn = true ∧ ∀ n, n < 24 → (u.stk n).st = (if (s.stk n).st = 4 then 4 else 2)) ∧
    (4 ≤ s.bring.step → s.bring.ringsStarted = ring.val → ring.val = 0 ∨ s.ringDone (ring.val - 1) = true →
      ∃ u, exec (.ringStart ring) s = .next u ∧ u.bring.ringsStarted = ring.val + 1 ∧
        ∀ g ∈ ringFields ring.val, (s.field g).retired = false → (u.field g).railOn = true ∧ (u.field g).genRunning = true ∧
          ∀ i, i < 16 → (u.block (16 * g + i)).pstate = .active) ∧
    (∀ m, x.railOn = true → x.selfTested = false → x.retired = false → buildMap warm x.spareMap failed = some m → bad = false →
      ∃ u, exec (.fieldSelfTest f ⟨blocks, failed⟩ bad) s = .next u ∧ (u.field f.val).selfTested = true ∧
        (u.field f.val).spareMap = m ∧ (u.field f.val).lost = false) ∧
    (x.railOn = true → x.selfTested = false → x.retired = false →
      buildMap warm x.spareMap failed = none ∨ bad = true →
      ∃ u, exec (.fieldSelfTest f ⟨blocks, failed⟩ bad) s = .next u ∧ (u.field f.val).selfTested = true ∧
        (u.field f.val).retired = true ∧ (u.field f.val).railOn = false ∧ ∀ i, i < 16 → (u.block (16 * f.val + i)).pstate = .dark) ∧
    (s.bring.step = 8 → ∃ u, exec .bringUpComplete s = .next u ∧ u.bring.step = 9 ∧ u.dev.published = true ∧
      u.dev.distGen = s.dev.distGen + 1 ∧ u.dev.deviceState = (if s.coolant.flowStop then 3 else 2) ∧
      (u.keeper 0).statusLight = 1 ∧ (u.keeper 1).statusLight = 1)

/-- The journal: a legal record is appended under the next number; a commit commits the oldest open one; the active keeper's
mount completes step 2; a compaction leaves nothing committed below its begin; the last 16 segments throttle history; a lost
standby leaves the active keeper alone.

The model's choices (log entries) in it: commits, mounts and compaction (114), bodies without a layout (113). -/
def Obligations.TheJournalKeepsRecords : Prop :=
  ∀ (kind : BitVec 16) (key : Word) (body : List Byte) (cut : BitVec 64) (s : State),
    let j := s.journal
    let a := s.dev.activeKeeper
    (1 ≤ kind.toNat → kind.toNat ≤ 15 → (paddedBytes body).length ≤ 4064 → j.throttled = false →
      ∃ u, exec (.journalAppend kind key body) s = .next u ∧ u.journal.records = j.records ++ [newRecord kind key body s] ∧
        u.journal.nextSeq = j.nextSeq + 1) ∧
    (j.throttled = true → (paddedBytes body).length ≤ 4064 → kind = kindDump ∨ kind = kindPower →
      ∃ u, exec (.journalAppend kind key body) s = .next u ∧ u.journal.records = j.records ∧
        u.journal.withheld = j.withheld + 1) ∧
    (Quiet s → s.dev.letters = [] → s.dev.drainLetter = none → exec .journalCommit s =
      .next { s with journal := { j with records := commitFirst j.records } }) ∧
    ((s.keeper a.val).role ≠ 0 → s.bring.step = 1 → ∃ u, exec (.journalMount a cut) s = .next u ∧ u.bring.step = 2 ∧
      u.journal.mounted = true ∧ u.journal.records = mountRecords cut s.dev.standbyLost j.records) ∧
    (j.segments < 1536 → exec .journalCompaction s = .next s) ∧
    (1536 ≤ j.segments → j.throttled = false → ∃ u, exec .journalCompaction s = .next u ∧ u.journal.commitBegin = j.nextSeq ∧
      ∀ r ∈ u.journal.records, j.nextSeq.toNat ≤ r.seqNo.toNat ∨ (r.committed = false ∧ r.obsolete = false)) ∧
    (2032 ≤ j.segments → exec .historyThrottle s = .next { s with journal := { j with throttled := true } }) ∧
    (j.segments < 2032 → exec .historyThrottle s = .next s) ∧
    (s.dev.standbyLost = false → ∃ u, exec .standbyKeeperLoss s = .next u ∧ u.dev.standbyLost = true ∧
      (u.keeper (1 - a).val).role = 0 ∧ (u.keeper a.val).role = (s.keeper a.val).role)

/-! ## Denor links (R515 to R530) -/

/-- Ports: a cable trains the port at the width of its good lanes, or leaves it unpowered; IDENT brings it UP or into CONFLICT;
retraining, failure, going down and the removal of the cable; the receipts held for it are discarded after 10 s.

Frames and their control words: a good frame in order is taken and acknowledged, a bad one is answered by a NAK and not
taken; ACK frees the replay buffer, NAK starts the replay, CREDIT adds slots; a port that is not live takes none.

Sending: a replay sends the frame of its SEQ and goes on with the next; with 64 frames unacknowledged no new one goes out; a new
frame carries the SEQ, is kept for replay, takes its slots against credit of their kinds, and drops none (R520, R521).

Link sends: a good note toward an UP peer opens; a parcel under an open note crosses with the note's DEST and QUEUE; a bad
note stays at the rim; a delivered parcel enters at its edge tile (R528 to R530).

The model's choices (log entries) in it: frames and streams sent while no command waits (131), receiving them (132), IDENT (133), notes (134), ends of
ports (135). -/
def Obligations.LinksCarryFramesAndParcels : Prop :=
  (∀ (port : Fin 48) (lanes watts pol : Byte) (rev host : Bool) (member : BitVec 4) (keyId : BitVec 48) (s : State),
     let p := port.val
     let x := s.port p
     (x.st = .down → (s.chiplet (portChiplet p)).retired = false → watts.toNat ≤ 16 → laneWidth lanes ≠ 0 →
       ∃ u, exec (.cableInsert port watts lanes rev pol) s = .next u ∧ (u.port p).st = .training ∧
         (u.port p).width = laneWidth lanes ∧ (u.port p).powered = true ∧ (u.port p).reversed = rev ∧
         (u.port p).polarity = pol) ∧
     (x.st = .down → (s.chiplet (portChiplet p)).retired = false → 16 < watts.toNat →
       ∃ u, exec (.cableInsert port watts lanes rev pol) s = .next u ∧ (u.port p).powered = false ∧ (u.port p).st = .down) ∧
     (x.live = true → s.identBad p member host keyId = false → ∃ u, exec (.ident port member host keyId) s = .next u ∧
       (u.port p).st = .up ∧ (u.port p).host = host ∧ (u.port p).peer = member ∧ (u.port p).keyId = keyId ∧
       (u.port p).heldReceipts = [] ∧ u.dev.receipts = s.dev.receipts ++ x.heldReceipts) ∧
     (x.live = true → s.identBad p member host keyId = true → ∃ u, exec (.ident port member host keyId) s = .next u ∧
       (u.port p).st = .conflict) ∧
     (x.st = .up ∨ x.st = .training ∨ x.st = .conflict → laneWidth lanes ≠ 0 →
       ∃ u, exec (.portRetrain port lanes) s = .next u ∧ (u.port p).st = .training ∧ (u.port p).width = laneWidth lanes ∧
         (u.port p).retrains = satAdd x.retrains 1) ∧
     (x.st = .up ∨ x.st = .training ∨ x.st = .conflict → laneWidth lanes = 0 →
       ∃ u, exec (.portRetrain port lanes) s = .next u ∧ (u.port p).st = .failed) ∧
     (x.st = .training → ∃ u, exec (.portFail port) s = .next u ∧ (u.port p).st = .failed ∧ (u.port p).width = 0) ∧
     (∃ u, exec (.portDown port) s = .next u ∧ (u.port p).st = .down ∧ Tbl.get [] u.dev.roles p = []) ∧
     (∃ u, exec (.cableRemove port) s = .next u ∧ (u.port p).st = .down ∧ (u.port p).lanesGood = 0) ∧
     (x.st ≠ .up → ∃ u, exec (.receiptHoldExpiry port) s = .next u ∧ (u.port p).heldReceipts = [] ∧
       u.dev.receipts = s.dev.receipts)) ∧
  (∀ (port : Fin 48) (frame : BitVec 20560) (fec : Bool) (seq slots : BitVec 16) (kind : BitVec 4) (s : State),
     let p := port.val
     let x := s.port p
     (x.live = true → fec = false → frameCrcOk frame = true → frameKindsOk frame = true → frameSeq frame = x.rxSeq →
       ∃ u, exec (.linkFrameRx port frame fec) s = .next u ∧ (u.port p).rxSeq = x.rxSeq + 1 ∧ (u.port p).nakSent = none ∧
         (∃ ws, (u.port p).acks = x.acks ++ controlWord 1 (x.rxSeq.setWidth 56) :: ws)) ∧
     (x.live = true → fec = true ∨ frameCrcOk frame = false ∨ frameKindsOk frame = false →
       ∃ u, exec (.linkFrameRx port frame fec) s = .next u ∧ (u.port p).rxSeq = x.rxSeq ∧ (u.port p).nakSent = some x.rxSeq ∧
         (u.port p).naks = satAdd x.naks 1 ∧ (u.port p).delivered = x.delivered) ∧
     (x.live = false → exec (.linkFrameRx port frame fec) s = .next s ∧ exec (.ack port seq) s = .next s) ∧
     (∀ pre f post, x.live = true → x.replayBuf = pre ++ f :: post → frameSeq f = seq → (∀ g ∈ pre, frameSeq g ≠ seq) →
       ∃ u, exec (.ack port seq) s = .next u ∧ (u.port p).replayBuf = post) ∧
     (x.live = true → seq ∈ x.replayBuf.map frameSeq → ∃ u, exec (.nak port seq) s = .next u ∧ (u.port p).replayFrom = some seq ∧
       (u.port p).replayBuf = x.replayBuf) ∧
     (x.live = true → kind.toNat ≤ 5 → ∃ u, exec (.credit port kind slots) s = .next u ∧
       Tbl.get 0 (u.port p).credit kind.toNat = Tbl.get 0 x.credit kind.toNat + slots.toNat) ∧
     (5 < kind.toNat → exec (.credit port kind slots) s = .next s)) ∧
  (∀ (p : Nat) (seq : BitVec 16) (f : DenorFrame) (post : List DenorFrame) (e : BitVec 4 × BitVec 704) (q : List (BitVec 4 × BitVec 704))
      (s : State),
     let x := s.port p
     let y := (sendFrame s p).port p
     (x.live = true → x.replayFrom = some seq → x.replayBuf.dropWhile (fun g => frameSeq g != seq) = f :: post →
       y = { x with line := some f, replayFrom := post.head?.map frameSeq }) ∧
     (x.live = true → x.replayFrom = none → 64 ≤ x.replayBuf.length → sendFrame s p = s) ∧
     (x.live = false → sendFrame s p = s) ∧
     (x.st = .up → x.replayFrom = none → x.replayBuf.length < 64 → x.txSlots = e :: q → 0 < Tbl.get 0 x.credit e.1.toNat →
       ∃ slots words, y.txSeq = x.txSeq + 1 ∧ y.replayBuf = x.replayBuf ++ [makeFrame x.txSeq (e :: slots) words] ∧
         y.line = some (makeFrame x.txSeq (e :: slots) words) ∧ slots.length < 27 ∧
         (e :: slots ++ y.txSlots).Perm x.txSlots ∧
         (∀ k : BitVec 4, Tbl.get 0 x.credit k.toNat =
           Tbl.get 0 y.credit k.toNat + ((e :: slots).filter (fun a => a.1 == k)).length)) ∧
     (∀ p' : Nat, p' ≠ p → (sendFrame s p).port p' = s.port p')) ∧
  (∀ (seq : BitVec 16) (slots : List (BitVec 4 × BitVec 704)) (words : List (BitVec 64)),
     frameSeq (makeFrame seq slots words) = seq ∧ frameCrcOk (makeFrame seq slots words) = true) ∧
  (∀ (c : Fin 12) (k : Fin 16) (env : Env) (l : Line) (port q : Fin 48) (n : TileId × BitVec 4 × Byte × TileId) (e
         d : Nat) (s : State),
     let x := s.chiplet c.val
     let t := deliveryTile port.val env
     (envKind env = 0 → x.notes.find? (fun n => n.1 == envSource env) = none → noteOk l = true →
       s.peerPorts c.val (notePeer l) ≠ [] → x.notes.length < 1024 →
       ∃ u, exec (.linkNote c k env l) s = .next u ∧
         (u.chiplet c.val).notes = x.notes ++ [(envSource env, notePeer l, noteQueue l, noteDest l)]) ∧
     (envKind env = 0 → x.notes.find? (fun n => n.1 == envSource env) = some n → s.sendPort c.val k.val n.2.1 = some q →
       ∃ u, exec (.linkNote c k env l) s = .next u ∧ (u.chiplet c.val).outbound =
         x.outbound ++ [(q, ⟨setQueue (setDest env n.2.2.2) n.2.2.1, l⟩)] ∧
         (envLast env = false → (u.chiplet c.val).notes = x.notes)) ∧
     (envKind env ≠ 0 ∨ (x.notes.find? (fun n => n.1 == envSource env) = none ∧ noteOk l = false) →
       ∃ u, exec (.linkNote c k env l) s = .next u ∧ (⟨env, l⟩ : Flit) ∈ (u.chiplet c.val).rimIn ∧
         (u.chiplet c.val).notes = x.notes) ∧
     (primaryPort t = some (e, d) → s.routerOn t = true → (s.field (tileField t)).genRunning = true →
       ((s.tile t).buf (edgePort e) (envVc env)).length < 8 →
       ∃ u, exec (.linkParcelDelivery port env l) s = .next u ∧
         (u.tile t).buf (edgePort e) (envVc env) = (s.tile t).buf (edgePort e) (envVc env) ++ [⟨env, l⟩]))

/-! ## The management port (R531 to R533, R560) -/

/-- The endpoint answers once it is up and not before: IDs, MCTP's and PLDM's own messages, unsupported commands, sensors,
events and the receiver.

The model's choices (log entries) in it: the endpoint (122), bodies of replies as free values (25). -/
def Obligations.TheEndpointAnswers : Prop :=
  ∀ (b : Byte) (sensor : BitVec 16) (w : Word) (r : Byte) (e : PlatformEvent) (es : List PlatformEvent) (t : Byte) (s : State),
    let m := s.mgmt
    let own := MgmtReply.body (Config.mgmtBody m.bodies)
    let replies (i : Instr) (x : MgmtReply) : Prop := ∃ u, exec i s = .next u ∧ u.mgmt.replies = m.replies ++ [x]
    (s.mgmtUp = true →
      (∃ u, exec (.setEndpointId b) s = .next u ∧ u.mgmt.eid = b ∧ u.mgmt.replies = m.replies ++ [own]) ∧
      (∃ u, exec (.setTid b) s = .next u ∧ u.mgmt.tid = b ∧ u.mgmt.replies = m.replies ++ [own]) ∧
      (∃ u, exec (.setEventReceiver b) s = .next u ∧ u.mgmt.receiver = some b ∧ u.mgmt.replies = m.replies ++ [own]) ∧
      replies .getEndpointId (.value (m.eid.setWidth 32)) ∧ replies .getTid (.value (m.tid.setWidth 32)) ∧
      replies (.unsupportedPldmCmd b t) .unsupported ∧
      replies (.getMctpVersionSupport b) own ∧ replies .getMessageTypeSupport own ∧ replies (.getPldmVersion b) own ∧
      replies .getPldmTypes own ∧ replies (.getPldmCommands b) own ∧ replies .getPdrRepositoryInfo own ∧
      replies (.getPdr w) own ∧ replies .queryDeviceIdentifiers own ∧ replies .getFirmwareParameters own ∧
      replies .getStatus own ∧
      (sensorValue s sensor.toNat = some w → replies (.getSensorReading sensor) (.value w)) ∧
      (stateSensorValue s sensor.toNat = some w → replies (.getStateSensorReadings sensor) (.value w)) ∧
      (m.events = e :: es → m.receiver = some r → ∃ u, exec .platformEventMessage s = .next u ∧ u.mgmt.events = es ∧
        u.mgmt.sentEvents = m.sentEvents ++ [(r, e)] ∧ u.mgmt.alert = (es != []))) ∧
    (s.mgmtUp = false → exec .getTid s = .next s ∧ exec (.setTid b) s = .next s ∧ exec .platformEventMessage s = .next s)

/-- A PLDM firmware update goes through its states: learn, ready, download, verify, apply, and back; it begins only while no
side updates; a good image fills the agent's slot, a bad one stays in its check; cancelling ends it.

The model's choices (log entries) in it: the update beside a host's staging and verification (122), signatures as a free
function (18). -/
def Obligations.UpdatesGoThroughTheirStates : Prop :=
  ∀ (component : BitVec 16) (lines : List Line) (s : State),
    let m := s.mgmt
    let a := component.toNat
    let g := s.agent m.agentNo
    let good := fwComplete m.updLines && fwValid m.agentNo g.minSvn m.updLines
    let goes (i : Instr) (into : UpdState) : Prop := ∃ u, exec i s = .next u ∧ u.mgmt.upd = into
    s.mgmtUp = true →
    (m.upd = .idle → (∀ n, 1 ≤ n → n ≤ 5 → s.hostStages n = false) → goes .requestUpdate .learn) ∧
    (m.upd ≠ .idle → ∃ u, exec .requestUpdate s = .next u ∧ u.mgmt.upd = m.upd ∧
      u.mgmt.replies = m.replies ++ [.alreadyInUpdateMode]) ∧
    (m.upd = .learn → goes (.passComponentTable component) .ready) ∧
    (m.upd = .ready → 1 ≤ a → a ≤ 5 → s.hostStages a = false → (s.agent a).activating = false →
      ∃ u, exec (.updateComponent component) s = .next u ∧ u.mgmt.upd = .download ∧ u.mgmt.component = some component ∧
        u.mgmt.updLines = [] ∧ (u.agent a).valid = false ∧ (u.agent a).onMgmt = true) ∧
    (m.upd = .download → ∃ u, exec (.requestFirmwareData lines) s = .next u ∧ u.mgmt.updLines = m.updLines ++ lines ∧
      u.mgmt.upd = .download) ∧
    (m.upd = .download → goes (.transferComplete 0) .verify) ∧
    (m.upd = .verify → ∃ u, exec .verifyComplete s = .next u ∧ (good = true → u.mgmt.upd = .apply ∧
      (u.agent m.agentNo).valid = true) ∧ (good = false → u.mgmt.upd = .verify ∧ u.agent m.agentNo = g)) ∧
    (m.upd = .apply → ∃ u, exec .applyComplete s = .next u ∧ u.mgmt.upd = .ready ∧ u.mgmt.component = none ∧
      (u.agent m.agentNo).onMgmt = false) ∧
    (m.inComponent = true → ∃ u, exec .cancelUpdateComponent s = .next u ∧ u.mgmt.upd = .ready ∧
      (u.agent m.agentNo).onMgmt = false) ∧
    (∃ u, exec .cancelUpdate s = .next u ∧ u.mgmt.upd = .idle)
end

