-- ==== Sys2Proof/Laws/Table.lean ====
section
/-! SUPPORT. The laws of sparse tables and memories: reading after writing, writing elsewhere, and that every operation keeps
the canonical form. -/

namespace Sys2Proof.Machine

variable {α : Type}

/-! ## Reading after writing -/

theorem Tbl.get_erase_same (d : α) (t : Tbl α) (i : Nat) : Tbl.get d (Tbl.erase t i) i = d := by
  induction t with
  | nil => rfl
  | cons e t ih =>
    by_cases h : i = e.1
    · rw [Tbl.erase, if_pos h, ih]
    · simp [Tbl.erase, Tbl.get, h, ih]

theorem Tbl.get_erase_other (d : α) (t : Tbl α) {i j : Nat} (h : j ≠ i) : Tbl.get d (Tbl.erase t i) j = Tbl.get d t j := by
  induction t with
  | nil => rfl
  | cons e t ih =>
    by_cases h1 : i = e.1
    · have h2 : j ≠ e.1 := by omega
      rw [Tbl.erase, if_pos h1, ih, Tbl.get, if_neg h2]
    · by_cases h2 : j = e.1
      · simp [Tbl.erase, Tbl.get, h1, h2]
      · simp [Tbl.erase, Tbl.get, h1, h2, ih]

theorem Tbl.get_insert_same (d : α) (t : Tbl α) (i : Nat) (v : α) : Tbl.get d (Tbl.insert t i v) i = v := by
  induction t with
  | nil => simp [Tbl.insert, Tbl.get]
  | cons e t ih =>
    unfold Tbl.insert
    split
    · simp [Tbl.get]
    · split
      · simp [Tbl.get]
      · rename_i h; simp [Tbl.get, h, ih]

theorem Tbl.get_insert_other (d : α) (t : Tbl α) {i j : Nat} (v : α) (h : j ≠ i) :
    Tbl.get d (Tbl.insert t i v) j = Tbl.get d t j := by
  induction t with
  | nil => simp [Tbl.insert, Tbl.get, h]
  | cons e t ih =>
    unfold Tbl.insert
    split
    · simp [Tbl.get, h]
    · split
      · rename_i h1; simp [Tbl.get, h, ← h1]
      · by_cases h2 : j = e.1 <;> simp [Tbl.get, h2, ih]

section
variable [DecidableEq α]

@[simp] theorem Tbl.get_set_same (d : α) (t : Tbl α) (i : Nat) (v : α) : Tbl.get d (Tbl.set d t i v) i = v := by
  unfold Tbl.set
  split
  · rename_i h; rw [h, Tbl.get_erase_same]
  · exact Tbl.get_insert_same d t i v

theorem Tbl.get_set_other (d : α) (t : Tbl α) {i j : Nat} (v : α) (h : j ≠ i) :
    Tbl.get d (Tbl.set d t i v) j = Tbl.get d t j := by
  unfold Tbl.set
  split
  · exact Tbl.get_erase_other d t h
  · exact Tbl.get_insert_other d t v h

theorem Tbl.get_set (d : α) (t : Tbl α) (i j : Nat) (v : α) :
    Tbl.get d (Tbl.set d t i v) j = if j = i then v else Tbl.get d t j := by
  by_cases h : j = i
  · simp [h]
  · simp [h, Tbl.get_set_other d t v h]

/-! ## The canonical form -/

/-- The form, entry by entry. -/
theorem Tbl.wf_cons (d : α) (e : Nat × α) (t : Tbl α) :
    Tbl.wf d (e :: t) = true ↔ e.2 ≠ d ∧ (∀ x ∈ t.head?, e.1 < x.1) ∧ Tbl.wf d t = true := by
  cases t with
  | nil => simp [Tbl.wf]
  | cons x t => simp [Tbl.wf, and_assoc]

/-- The form is a strictly sorted list of entries that differ from the default. -/
theorem Tbl.wf_iff (d : α) (t : Tbl α) :
    Tbl.wf d t = true ↔ (t.Pairwise (fun a b => a.1 < b.1)) ∧ ∀ e ∈ t, e.2 ≠ d := by
  induction t with
  | nil => simp [Tbl.wf]
  | cons e t ih =>
    rw [Tbl.wf_cons, ih]
    constructor
    · rintro ⟨h1, h2, h3, h4⟩
      refine ⟨List.pairwise_cons.2 ⟨?_, h3⟩, ?_⟩
      · intro x hx
        cases t with
        | nil => cases hx
        | cons y t =>
          have hy : e.1 < y.1 := h2 y rfl
          rcases List.mem_cons.1 hx with rfl | hx
          · exact hy
          · exact Nat.lt_trans hy ((List.pairwise_cons.1 h3).1 x hx)
      · intro x hx
        rcases List.mem_cons.1 hx with rfl | hx
        · exact h1
        · exact h4 x hx
    · rintro ⟨h1, h2⟩
      have hp := List.pairwise_cons.1 h1
      refine ⟨h2 e (by simp), ?_, hp.2, fun x hx => h2 x (by simp [hx])⟩
      intro x hx
      exact hp.1 x (List.mem_of_mem_head? hx)

omit [DecidableEq α] in
theorem Tbl.erase_eq_filter (t : Tbl α) (i : Nat) : Tbl.erase t i = t.filter (fun e => decide (e.1 ≠ i)) := by
  induction t with
  | nil => rfl
  | cons e t ih =>
    by_cases h : i = e.1
    · rw [Tbl.erase, if_pos h, ih, List.filter_cons_of_neg (by simp [h])]
    · have h' : e.1 ≠ i := fun x => h x.symm
      simp [Tbl.erase, h, h', ih]

omit [DecidableEq α] in
theorem Tbl.mem_insert (t : Tbl α) (i : Nat) (v : α) (e : Nat × α) (h : e ∈ Tbl.insert t i v) : e = (i, v) ∨ e ∈ t := by
  induction t with
  | nil => simpa [Tbl.insert] using h
  | cons x t ih =>
    unfold Tbl.insert at h
    split at h
    · simpa using h
    · split at h
      · rcases List.mem_cons.1 h with h | h
        · exact .inl h
        · exact .inr (by simp [h])
      · rcases List.mem_cons.1 h with h | h
        · exact .inr (by simp [h])
        · rcases ih h with h | h
          · exact .inl h
          · exact .inr (by simp [h])

omit [DecidableEq α] in
theorem Tbl.insert_sorted (t : Tbl α) (i : Nat) (v : α) (h : t.Pairwise (fun a b => a.1 < b.1)) :
    (Tbl.insert t i v).Pairwise (fun a b => a.1 < b.1) := by
  induction t with
  | nil => simp [Tbl.insert]
  | cons x t ih =>
    have hp := List.pairwise_cons.1 h
    unfold Tbl.insert
    split
    · rename_i h1
      refine List.pairwise_cons.2 ⟨?_, h⟩
      intro y hy
      rcases List.mem_cons.1 hy with rfl | hy
      · exact h1
      · exact Nat.lt_trans h1 (hp.1 y hy)
    · split
      · rename_i h1 h2
        exact List.pairwise_cons.2 ⟨fun y hy => by simpa [h2] using hp.1 y hy, hp.2⟩
      · rename_i h1 h2
        refine List.pairwise_cons.2 ⟨?_, ih hp.2⟩
        intro y hy
        rcases Tbl.mem_insert t i v y hy with rfl | hy
        · exact Nat.lt_of_le_of_ne (Nat.le_of_not_lt h1) (Ne.symm h2)
        · exact hp.1 y hy

theorem Tbl.wf_set (d : α) (t : Tbl α) (i : Nat) (v : α) (h : Tbl.wf d t = true) : Tbl.wf d (Tbl.set d t i v) = true := by
  rw [Tbl.wf_iff] at h ⊢
  unfold Tbl.set
  split
  · rw [Tbl.erase_eq_filter]
    exact ⟨h.1.filter _, fun e he => h.2 e (List.mem_filter.1 he).1⟩
  · rename_i hv
    refine ⟨Tbl.insert_sorted t i v h.1, fun e he => ?_⟩
    rcases Tbl.mem_insert t i v e he with rfl | he
    · exact hv
    · exact h.2 e he

theorem Tbl.wf_upd (d : α) (t : Tbl α) (i : Nat) (f : α → α) (h : Tbl.wf d t = true) : Tbl.wf d (Tbl.upd d t i f) = true :=
  Tbl.wf_set d t i _ h

theorem Tbl.wf_mapV (d : α) (f : α → α) (t : Tbl α) (h : Tbl.wf d t = true) : Tbl.wf d (Tbl.mapV d f t) = true := by
  rw [Tbl.wf_iff] at h ⊢
  refine ⟨?_, fun e he => by simpa using (List.mem_filter.1 he).2⟩
  have hm : (t.map (fun e => (e.1, f e.2))).Pairwise (fun a b => a.1 < b.1) :=
    List.pairwise_map.2 (h.1.imp (fun hab => hab))
  exact hm.filter _

theorem Tbl.wf_filter (d : α) (p : Nat × α → Bool) (t : Tbl α) (h : Tbl.wf d t = true) : Tbl.wf d (t.filter p) = true := by
  rw [Tbl.wf_iff] at h ⊢
  exact ⟨h.1.filter _, fun e he => h.2 e (List.mem_filter.1 he).1⟩

omit [DecidableEq α] in
/-- A listed entry is what its key reads as. -/
theorem Tbl.get_of_mem (d : α) (t : Tbl α) (h : t.Pairwise (fun a b => a.1 < b.1)) (e : Nat × α) (he : e ∈ t) :
    Tbl.get d t e.1 = e.2 := by
  induction t with
  | nil => cases he
  | cons x t ih =>
    have hp := List.pairwise_cons.1 h
    rcases List.mem_cons.1 he with rfl | he
    · simp [Tbl.get]
    · have : e.1 ≠ x.1 := Nat.ne_of_gt (hp.1 e he)
      simp [Tbl.get, this, ih hp.2 he]

end

/-! ## Memories -/

@[simp] theorem Mem.readByte_writeByte_same (m : Mem) (a : Nat) (b : Byte) : Mem.readByte (Mem.writeByte m a b) a = b :=
  Tbl.get_set_same _ _ _ _

theorem Mem.readByte_writeByte_other (m : Mem) {a c : Nat} (b : Byte) (h : c ≠ a) :
    Mem.readByte (Mem.writeByte m a b) c = Mem.readByte m c := Tbl.get_set_other _ _ _ h

theorem Mem.wf_writeByte (m : Mem) (a : Nat) (b : Byte) (h : Memory.wf m = true) : Memory.wf (Mem.writeByte m a b) = true :=
  Tbl.wf_set _ _ _ _ h

theorem Mem.wf_writeBytes (m : Mem) (a : Nat) (bs : List Byte) (h : Memory.wf m = true) :
    Memory.wf (Mem.writeBytes m a bs) = true := by
  induction bs generalizing m a with
  | nil => exact h
  | cons b bs ih => exact ih _ _ (Mem.wf_writeByte m a b h)

theorem Mem.wf_writeLine (m : Mem) (l : Nat) (x : Line) (h : Memory.wf m = true) : Memory.wf (Mem.writeLine m l x) = true :=
  Mem.wf_writeBytes _ _ _ h

theorem Mem.wf_writeLines (m : Mem) (l : Nat) (xs : List Line) (h : Memory.wf m = true) :
    Memory.wf (Mem.writeLines m l xs) = true := by
  induction xs generalizing m l with
  | nil => exact h
  | cons x xs ih => exact ih _ _ (Mem.wf_writeLine m l x h)

/-- Writing bytes from `a` upward leaves every other byte. -/
theorem Mem.readByte_writeBytes_outside (m : Mem) (a : Nat) (bs : List Byte) (c : Nat) (h : c < a ∨ a + bs.length ≤ c) :
    Mem.readByte (Mem.writeBytes m a bs) c = Mem.readByte m c := by
  induction bs generalizing m a with
  | nil => rfl
  | cons b bs ih =>
    have h1 : c < a + 1 ∨ a + 1 + bs.length ≤ c := by simp at h; omega
    have h2 : c ≠ a := by simp at h; omega
    rw [Mem.writeBytes, ih _ _ h1, Mem.readByte_writeByte_other _ _ h2]

/-- Byte k of the bytes written reads back at its address. -/
theorem Mem.readByte_writeBytes_inside (m : Mem) (a : Nat) (bs : List Byte) (k : Nat) (h : k < bs.length) :
    Mem.readByte (Mem.writeBytes m a bs) (a + k) = bs[k] := by
  induction bs generalizing m a k with
  | nil => simp at h
  | cons b bs ih =>
    cases k with
    | zero =>
      rw [Mem.writeBytes, Mem.readByte_writeBytes_outside _ _ _ _ (by omega)]
      simp
    | succ k =>
      have h' : k < bs.length := by simpa using h
      have e : a + (k + 1) = a + 1 + k := by omega
      rw [Mem.writeBytes, e, ih _ _ _ h']
      simp

theorem leBytes_length (n x : Nat) : (leBytes n x).length = n := by
  induction n generalizing x with
  | zero => rfl
  | succ n ih => simp [leBytes, ih]

/-- A line write leaves every byte outside its 72. -/
theorem Mem.readByte_writeLine_outside (m : Mem) (l : Nat) (x : Line) (c : Nat)
    (h : c < lineAddr l ∨ lineAddr l + 72 ≤ c) : Mem.readByte (Mem.writeLine m l x) c = Mem.readByte m c :=
  Mem.readByte_writeBytes_outside _ _ _ _ (by simpa [bytesOf, leBytes_length] using h)

theorem leNat_leBytes (n x : Nat) (h : x < 256 ^ n) : leNat (leBytes n x) = x := by
  induction n generalizing x with
  | zero => simp at h; simp [leBytes, leNat, h]
  | succ n ih =>
    have h1 : x / 256 < 256 ^ n := Nat.div_lt_of_lt_mul (by rwa [Nat.pow_succ, Nat.mul_comm] at h)
    simp [leBytes, leNat, ih _ h1]
    omega

/-- A line reads back as it was written. -/
theorem Mem.readLine_writeLine_same (m : Mem) (l : Nat) (x : Line) : Mem.readLine (Mem.writeLine m l x) l = x := by
  have hlen : (bytesOf 72 x).length = 72 := leBytes_length _ _
  have hl : (List.range 72).map (fun i => Mem.readByte (Mem.writeLine m l x) (lineAddr l + i)) = bytesOf 72 x := by
    apply List.ext_getElem
    · simp [hlen]
    · intro i h1 h2
      have hi : i < (bytesOf 72 x).length := h2
      simpa [Mem.writeLine] using Mem.readByte_writeBytes_inside m (lineAddr l) (bytesOf 72 x) i hi
  unfold Mem.readLine lineOfBytes
  rw [hl]
  unfold bytesOf
  rw [leNat_leBytes _ _ (by have := x.isLt; norm_num at this ⊢; omega)]
  simp

/-- A line write leaves every other line. -/
theorem Mem.readLine_writeLine_other (m : Mem) {l k : Nat} (x : Line) (h : k ≠ l) :
    Mem.readLine (Mem.writeLine m l x) k = Mem.readLine m k := by
  unfold Mem.readLine
  congr 1
  apply List.map_congr_left
  intro i hi
  have hi' : i < 72 := List.mem_range.1 hi
  apply Mem.readByte_writeLine_outside
  unfold lineAddr
  omega

/-- A write of lines leaves every other line. -/
theorem Mem.readLine_writeLines_outside (m : Mem) (l : Nat) (xs : List Line) (k : Nat) (h : k < l ∨ l + xs.length ≤ k) :
    Mem.readLine (Mem.writeLines m l xs) k = Mem.readLine m k := by
  induction xs generalizing m l with
  | nil => rfl
  | cons x xs ih =>
    simp only [List.length_cons] at h
    rw [Mem.writeLines, ih _ _ (by omega), Mem.readLine_writeLine_other _ _ (by omega)]

/-- Written lines read back, each at its place. -/
theorem Mem.readLine_writeLines_inside (m : Mem) (l : Nat) (xs : List Line) (i : Nat) (h : i < xs.length) :
    Mem.readLine (Mem.writeLines m l xs) (l + i) = xs[i] := by
  induction xs generalizing m l i with
  | nil => simp at h
  | cons x xs ih =>
    cases i with
    | zero => simpa [Mem.writeLines, Mem.readLine_writeLine_same] using
        Mem.readLine_writeLines_outside (Mem.writeLine m l x) (l + 1) xs l (by omega)
    | succ k =>
      have e : l + (k + 1) = l + 1 + k := by omega
      rw [Mem.writeLines, e, ih _ _ _ (by simpa using h)]
      rfl

end Sys2Proof.Machine
end

