-- ==== Sys2Proof/Laws/State.lean ====
section
/-! SUPPORT. One lemma per field per update of the device's state and of a tile: what each update leaves and what it writes, so
that no proof unfolds a record update. -/

namespace Sys2Proof.Machine

/-! ## The device -/

@[simp] theorem State.putTile_pending (s : State) (t : TileId) (x : Tile) : (s.putTile t x).pending = s.pending := rfl
@[simp] theorem State.putTile_blocks (s : State) (t : TileId) (x : Tile) : (s.putTile t x).blocks = s.blocks := rfl
@[simp] theorem State.putTile_fieldCtls (s : State) (t : TileId) (x : Tile) : (s.putTile t x).fieldCtls = s.fieldCtls := rfl
@[simp] theorem State.putTile_stackCtls (s : State) (t : TileId) (x : Tile) : (s.putTile t x).stackCtls = s.stackCtls := rfl
@[simp] theorem State.putTile_chiplets (s : State) (t : TileId) (x : Tile) : (s.putTile t x).chiplets = s.chiplets := rfl
@[simp] theorem State.putTile_ports (s : State) (t : TileId) (x : Tile) : (s.putTile t x).ports = s.ports := rfl
@[simp] theorem State.putTile_mailboxes (s : State) (t : TileId) (x : Tile) : (s.putTile t x).mailboxes = s.mailboxes := rfl
@[simp] theorem State.putTile_keepers (s : State) (t : TileId) (x : Tile) : (s.putTile t x).keepers = s.keepers := rfl
@[simp] theorem State.putTile_fw (s : State) (t : TileId) (x : Tile) : (s.putTile t x).fw = s.fw := rfl
@[simp] theorem State.putTile_dev (s : State) (t : TileId) (x : Tile) : (s.putTile t x).dev = s.dev := rfl
@[simp] theorem State.putTile_power (s : State) (t : TileId) (x : Tile) : (s.putTile t x).power = s.power := rfl
@[simp] theorem State.putTile_coolant (s : State) (t : TileId) (x : Tile) : (s.putTile t x).coolant = s.coolant := rfl
@[simp] theorem State.putTile_wear (s : State) (t : TileId) (x : Tile) : (s.putTile t x).wear = s.wear := rfl
@[simp] theorem State.putTile_journal (s : State) (t : TileId) (x : Tile) : (s.putTile t x).journal = s.journal := rfl
@[simp] theorem State.putTile_bring (s : State) (t : TileId) (x : Tile) : (s.putTile t x).bring = s.bring := rfl
@[simp] theorem State.putTile_mgmt (s : State) (t : TileId) (x : Tile) : (s.putTile t x).mgmt = s.mgmt := rfl
@[simp] theorem State.updTile_pending (s : State) (t : TileId) (f : Tile → Tile) : (s.updTile t f).pending = s.pending := rfl
@[simp] theorem State.updTile_blocks (s : State) (t : TileId) (f : Tile → Tile) : (s.updTile t f).blocks = s.blocks := rfl
@[simp] theorem State.updTile_fieldCtls (s : State) (t : TileId) (f : Tile → Tile) : (s.updTile t f).fieldCtls = s.fieldCtls := rfl
@[simp] theorem State.updTile_stackCtls (s : State) (t : TileId) (f : Tile → Tile) : (s.updTile t f).stackCtls = s.stackCtls := rfl
@[simp] theorem State.updTile_chiplets (s : State) (t : TileId) (f : Tile → Tile) : (s.updTile t f).chiplets = s.chiplets := rfl
@[simp] theorem State.updTile_ports (s : State) (t : TileId) (f : Tile → Tile) : (s.updTile t f).ports = s.ports := rfl
@[simp] theorem State.updTile_mailboxes (s : State) (t : TileId) (f : Tile → Tile) : (s.updTile t f).mailboxes = s.mailboxes := rfl
@[simp] theorem State.updTile_keepers (s : State) (t : TileId) (f : Tile → Tile) : (s.updTile t f).keepers = s.keepers := rfl
@[simp] theorem State.updTile_fw (s : State) (t : TileId) (f : Tile → Tile) : (s.updTile t f).fw = s.fw := rfl
@[simp] theorem State.updTile_dev (s : State) (t : TileId) (f : Tile → Tile) : (s.updTile t f).dev = s.dev := rfl
@[simp] theorem State.updTile_power (s : State) (t : TileId) (f : Tile → Tile) : (s.updTile t f).power = s.power := rfl
@[simp] theorem State.updTile_coolant (s : State) (t : TileId) (f : Tile → Tile) : (s.updTile t f).coolant = s.coolant := rfl
@[simp] theorem State.updTile_wear (s : State) (t : TileId) (f : Tile → Tile) : (s.updTile t f).wear = s.wear := rfl
@[simp] theorem State.updTile_journal (s : State) (t : TileId) (f : Tile → Tile) : (s.updTile t f).journal = s.journal := rfl
@[simp] theorem State.updTile_bring (s : State) (t : TileId) (f : Tile → Tile) : (s.updTile t f).bring = s.bring := rfl
@[simp] theorem State.updTile_mgmt (s : State) (t : TileId) (f : Tile → Tile) : (s.updTile t f).mgmt = s.mgmt := rfl
@[simp] theorem State.putBlock_pending (s : State) (b : Nat) (x : Block) : (s.putBlock b x).pending = s.pending := rfl
@[simp] theorem State.putBlock_tiles (s : State) (b : Nat) (x : Block) : (s.putBlock b x).tiles = s.tiles := rfl
@[simp] theorem State.putBlock_fieldCtls (s : State) (b : Nat) (x : Block) : (s.putBlock b x).fieldCtls = s.fieldCtls := rfl
@[simp] theorem State.putBlock_stackCtls (s : State) (b : Nat) (x : Block) : (s.putBlock b x).stackCtls = s.stackCtls := rfl
@[simp] theorem State.putBlock_chiplets (s : State) (b : Nat) (x : Block) : (s.putBlock b x).chiplets = s.chiplets := rfl
@[simp] theorem State.putBlock_ports (s : State) (b : Nat) (x : Block) : (s.putBlock b x).ports = s.ports := rfl
@[simp] theorem State.putBlock_mailboxes (s : State) (b : Nat) (x : Block) : (s.putBlock b x).mailboxes = s.mailboxes := rfl
@[simp] theorem State.putBlock_keepers (s : State) (b : Nat) (x : Block) : (s.putBlock b x).keepers = s.keepers := rfl
@[simp] theorem State.putBlock_fw (s : State) (b : Nat) (x : Block) : (s.putBlock b x).fw = s.fw := rfl
@[simp] theorem State.putBlock_dev (s : State) (b : Nat) (x : Block) : (s.putBlock b x).dev = s.dev := rfl
@[simp] theorem State.putBlock_power (s : State) (b : Nat) (x : Block) : (s.putBlock b x).power = s.power := rfl
@[simp] theorem State.putBlock_coolant (s : State) (b : Nat) (x : Block) : (s.putBlock b x).coolant = s.coolant := rfl
@[simp] theorem State.putBlock_wear (s : State) (b : Nat) (x : Block) : (s.putBlock b x).wear = s.wear := rfl
@[simp] theorem State.putBlock_journal (s : State) (b : Nat) (x : Block) : (s.putBlock b x).journal = s.journal := rfl
@[simp] theorem State.putBlock_bring (s : State) (b : Nat) (x : Block) : (s.putBlock b x).bring = s.bring := rfl
@[simp] theorem State.putBlock_mgmt (s : State) (b : Nat) (x : Block) : (s.putBlock b x).mgmt = s.mgmt := rfl
@[simp] theorem State.updBlock_pending (s : State) (b : Nat) (f : Block → Block) : (s.updBlock b f).pending = s.pending := rfl
@[simp] theorem State.updBlock_tiles (s : State) (b : Nat) (f : Block → Block) : (s.updBlock b f).tiles = s.tiles := rfl
@[simp] theorem State.updBlock_fieldCtls (s : State) (b : Nat) (f : Block → Block) : (s.updBlock b f).fieldCtls = s.fieldCtls := rfl
@[simp] theorem State.updBlock_stackCtls (s : State) (b : Nat) (f : Block → Block) : (s.updBlock b f).stackCtls = s.stackCtls := rfl
@[simp] theorem State.updBlock_chiplets (s : State) (b : Nat) (f : Block → Block) : (s.updBlock b f).chiplets = s.chiplets := rfl
@[simp] theorem State.updBlock_ports (s : State) (b : Nat) (f : Block → Block) : (s.updBlock b f).ports = s.ports := rfl
@[simp] theorem State.updBlock_mailboxes (s : State) (b : Nat) (f : Block → Block) : (s.updBlock b f).mailboxes = s.mailboxes := rfl
@[simp] theorem State.updBlock_keepers (s : State) (b : Nat) (f : Block → Block) : (s.updBlock b f).keepers = s.keepers := rfl
@[simp] theorem State.updBlock_fw (s : State) (b : Nat) (f : Block → Block) : (s.updBlock b f).fw = s.fw := rfl
@[simp] theorem State.updBlock_dev (s : State) (b : Nat) (f : Block → Block) : (s.updBlock b f).dev = s.dev := rfl
@[simp] theorem State.updBlock_power (s : State) (b : Nat) (f : Block → Block) : (s.updBlock b f).power = s.power := rfl
@[simp] theorem State.updBlock_coolant (s : State) (b : Nat) (f : Block → Block) : (s.updBlock b f).coolant = s.coolant := rfl
@[simp] theorem State.updBlock_wear (s : State) (b : Nat) (f : Block → Block) : (s.updBlock b f).wear = s.wear := rfl
@[simp] theorem State.updBlock_journal (s : State) (b : Nat) (f : Block → Block) : (s.updBlock b f).journal = s.journal := rfl
@[simp] theorem State.updBlock_bring (s : State) (b : Nat) (f : Block → Block) : (s.updBlock b f).bring = s.bring := rfl
@[simp] theorem State.updBlock_mgmt (s : State) (b : Nat) (f : Block → Block) : (s.updBlock b f).mgmt = s.mgmt := rfl
@[simp] theorem State.putField_pending (s : State) (n : Nat) (x : FieldCtl) : (s.putField n x).pending = s.pending := rfl
@[simp] theorem State.putField_tiles (s : State) (n : Nat) (x : FieldCtl) : (s.putField n x).tiles = s.tiles := rfl
@[simp] theorem State.putField_blocks (s : State) (n : Nat) (x : FieldCtl) : (s.putField n x).blocks = s.blocks := rfl
@[simp] theorem State.putField_stackCtls (s : State) (n : Nat) (x : FieldCtl) : (s.putField n x).stackCtls = s.stackCtls := rfl
@[simp] theorem State.putField_chiplets (s : State) (n : Nat) (x : FieldCtl) : (s.putField n x).chiplets = s.chiplets := rfl
@[simp] theorem State.putField_ports (s : State) (n : Nat) (x : FieldCtl) : (s.putField n x).ports = s.ports := rfl
@[simp] theorem State.putField_mailboxes (s : State) (n : Nat) (x : FieldCtl) : (s.putField n x).mailboxes = s.mailboxes := rfl
@[simp] theorem State.putField_keepers (s : State) (n : Nat) (x : FieldCtl) : (s.putField n x).keepers = s.keepers := rfl
@[simp] theorem State.putField_fw (s : State) (n : Nat) (x : FieldCtl) : (s.putField n x).fw = s.fw := rfl
@[simp] theorem State.putField_dev (s : State) (n : Nat) (x : FieldCtl) : (s.putField n x).dev = s.dev := rfl
@[simp] theorem State.putField_power (s : State) (n : Nat) (x : FieldCtl) : (s.putField n x).power = s.power := rfl
@[simp] theorem State.putField_coolant (s : State) (n : Nat) (x : FieldCtl) : (s.putField n x).coolant = s.coolant := rfl
@[simp] theorem State.putField_wear (s : State) (n : Nat) (x : FieldCtl) : (s.putField n x).wear = s.wear := rfl
@[simp] theorem State.putField_journal (s : State) (n : Nat) (x : FieldCtl) : (s.putField n x).journal = s.journal := rfl
@[simp] theorem State.putField_bring (s : State) (n : Nat) (x : FieldCtl) : (s.putField n x).bring = s.bring := rfl
@[simp] theorem State.putField_mgmt (s : State) (n : Nat) (x : FieldCtl) : (s.putField n x).mgmt = s.mgmt := rfl
@[simp] theorem State.updField_pending (s : State) (n : Nat) (f : FieldCtl → FieldCtl) : (s.updField n f).pending = s.pending := rfl
@[simp] theorem State.updField_tiles (s : State) (n : Nat) (f : FieldCtl → FieldCtl) : (s.updField n f).tiles = s.tiles := rfl
@[simp] theorem State.updField_blocks (s : State) (n : Nat) (f : FieldCtl → FieldCtl) : (s.updField n f).blocks = s.blocks := rfl
@[simp] theorem State.updField_stackCtls (s : State) (n : Nat) (f : FieldCtl → FieldCtl) : (s.updField n f).stackCtls = s.stackCtls := rfl
@[simp] theorem State.updField_chiplets (s : State) (n : Nat) (f : FieldCtl → FieldCtl) : (s.updField n f).chiplets = s.chiplets := rfl
@[simp] theorem State.updField_ports (s : State) (n : Nat) (f : FieldCtl → FieldCtl) : (s.updField n f).ports = s.ports := rfl
@[simp] theorem State.updField_mailboxes (s : State) (n : Nat) (f : FieldCtl → FieldCtl) : (s.updField n f).mailboxes = s.mailboxes := rfl
@[simp] theorem State.updField_keepers (s : State) (n : Nat) (f : FieldCtl → FieldCtl) : (s.updField n f).keepers = s.keepers := rfl
@[simp] theorem State.updField_fw (s : State) (n : Nat) (f : FieldCtl → FieldCtl) : (s.updField n f).fw = s.fw := rfl
@[simp] theorem State.updField_dev (s : State) (n : Nat) (f : FieldCtl → FieldCtl) : (s.updField n f).dev = s.dev := rfl
@[simp] theorem State.updField_power (s : State) (n : Nat) (f : FieldCtl → FieldCtl) : (s.updField n f).power = s.power := rfl
@[simp] theorem State.updField_coolant (s : State) (n : Nat) (f : FieldCtl → FieldCtl) : (s.updField n f).coolant = s.coolant := rfl
@[simp] theorem State.updField_wear (s : State) (n : Nat) (f : FieldCtl → FieldCtl) : (s.updField n f).wear = s.wear := rfl
@[simp] theorem State.updField_journal (s : State) (n : Nat) (f : FieldCtl → FieldCtl) : (s.updField n f).journal = s.journal := rfl
@[simp] theorem State.updField_bring (s : State) (n : Nat) (f : FieldCtl → FieldCtl) : (s.updField n f).bring = s.bring := rfl
@[simp] theorem State.updField_mgmt (s : State) (n : Nat) (f : FieldCtl → FieldCtl) : (s.updField n f).mgmt = s.mgmt := rfl
@[simp] theorem State.putStk_pending (s : State) (n : Nat) (x : Stack) : (s.putStk n x).pending = s.pending := rfl
@[simp] theorem State.putStk_tiles (s : State) (n : Nat) (x : Stack) : (s.putStk n x).tiles = s.tiles := rfl
@[simp] theorem State.putStk_blocks (s : State) (n : Nat) (x : Stack) : (s.putStk n x).blocks = s.blocks := rfl
@[simp] theorem State.putStk_fieldCtls (s : State) (n : Nat) (x : Stack) : (s.putStk n x).fieldCtls = s.fieldCtls := rfl
@[simp] theorem State.putStk_chiplets (s : State) (n : Nat) (x : Stack) : (s.putStk n x).chiplets = s.chiplets := rfl
@[simp] theorem State.putStk_ports (s : State) (n : Nat) (x : Stack) : (s.putStk n x).ports = s.ports := rfl
@[simp] theorem State.putStk_mailboxes (s : State) (n : Nat) (x : Stack) : (s.putStk n x).mailboxes = s.mailboxes := rfl
@[simp] theorem State.putStk_keepers (s : State) (n : Nat) (x : Stack) : (s.putStk n x).keepers = s.keepers := rfl
@[simp] theorem State.putStk_fw (s : State) (n : Nat) (x : Stack) : (s.putStk n x).fw = s.fw := rfl
@[simp] theorem State.putStk_dev (s : State) (n : Nat) (x : Stack) : (s.putStk n x).dev = s.dev := rfl
@[simp] theorem State.putStk_power (s : State) (n : Nat) (x : Stack) : (s.putStk n x).power = s.power := rfl
@[simp] theorem State.putStk_coolant (s : State) (n : Nat) (x : Stack) : (s.putStk n x).coolant = s.coolant := rfl
@[simp] theorem State.putStk_wear (s : State) (n : Nat) (x : Stack) : (s.putStk n x).wear = s.wear := rfl
@[simp] theorem State.putStk_journal (s : State) (n : Nat) (x : Stack) : (s.putStk n x).journal = s.journal := rfl
@[simp] theorem State.putStk_bring (s : State) (n : Nat) (x : Stack) : (s.putStk n x).bring = s.bring := rfl
@[simp] theorem State.putStk_mgmt (s : State) (n : Nat) (x : Stack) : (s.putStk n x).mgmt = s.mgmt := rfl
@[simp] theorem State.updStk_pending (s : State) (n : Nat) (f : Stack → Stack) : (s.updStk n f).pending = s.pending := rfl
@[simp] theorem State.updStk_tiles (s : State) (n : Nat) (f : Stack → Stack) : (s.updStk n f).tiles = s.tiles := rfl
@[simp] theorem State.updStk_blocks (s : State) (n : Nat) (f : Stack → Stack) : (s.updStk n f).blocks = s.blocks := rfl
@[simp] theorem State.updStk_fieldCtls (s : State) (n : Nat) (f : Stack → Stack) : (s.updStk n f).fieldCtls = s.fieldCtls := rfl
@[simp] theorem State.updStk_chiplets (s : State) (n : Nat) (f : Stack → Stack) : (s.updStk n f).chiplets = s.chiplets := rfl
@[simp] theorem State.updStk_ports (s : State) (n : Nat) (f : Stack → Stack) : (s.updStk n f).ports = s.ports := rfl
@[simp] theorem State.updStk_mailboxes (s : State) (n : Nat) (f : Stack → Stack) : (s.updStk n f).mailboxes = s.mailboxes := rfl
@[simp] theorem State.updStk_keepers (s : State) (n : Nat) (f : Stack → Stack) : (s.updStk n f).keepers = s.keepers := rfl
@[simp] theorem State.updStk_fw (s : State) (n : Nat) (f : Stack → Stack) : (s.updStk n f).fw = s.fw := rfl
@[simp] theorem State.updStk_dev (s : State) (n : Nat) (f : Stack → Stack) : (s.updStk n f).dev = s.dev := rfl
@[simp] theorem State.updStk_power (s : State) (n : Nat) (f : Stack → Stack) : (s.updStk n f).power = s.power := rfl
@[simp] theorem State.updStk_coolant (s : State) (n : Nat) (f : Stack → Stack) : (s.updStk n f).coolant = s.coolant := rfl
@[simp] theorem State.updStk_wear (s : State) (n : Nat) (f : Stack → Stack) : (s.updStk n f).wear = s.wear := rfl
@[simp] theorem State.updStk_journal (s : State) (n : Nat) (f : Stack → Stack) : (s.updStk n f).journal = s.journal := rfl
@[simp] theorem State.updStk_bring (s : State) (n : Nat) (f : Stack → Stack) : (s.updStk n f).bring = s.bring := rfl
@[simp] theorem State.updStk_mgmt (s : State) (n : Nat) (f : Stack → Stack) : (s.updStk n f).mgmt = s.mgmt := rfl
@[simp] theorem State.putChiplet_pending (s : State) (n : Nat) (x : Chiplet) : (s.putChiplet n x).pending = s.pending := rfl
@[simp] theorem State.putChiplet_tiles (s : State) (n : Nat) (x : Chiplet) : (s.putChiplet n x).tiles = s.tiles := rfl
@[simp] theorem State.putChiplet_blocks (s : State) (n : Nat) (x : Chiplet) : (s.putChiplet n x).blocks = s.blocks := rfl
@[simp] theorem State.putChiplet_fieldCtls (s : State) (n : Nat) (x : Chiplet) : (s.putChiplet n x).fieldCtls = s.fieldCtls := rfl
@[simp] theorem State.putChiplet_stackCtls (s : State) (n : Nat) (x : Chiplet) : (s.putChiplet n x).stackCtls = s.stackCtls := rfl
@[simp] theorem State.putChiplet_ports (s : State) (n : Nat) (x : Chiplet) : (s.putChiplet n x).ports = s.ports := rfl
@[simp] theorem State.putChiplet_mailboxes (s : State) (n : Nat) (x : Chiplet) : (s.putChiplet n x).mailboxes = s.mailboxes := rfl
@[simp] theorem State.putChiplet_keepers (s : State) (n : Nat) (x : Chiplet) : (s.putChiplet n x).keepers = s.keepers := rfl
@[simp] theorem State.putChiplet_fw (s : State) (n : Nat) (x : Chiplet) : (s.putChiplet n x).fw = s.fw := rfl
@[simp] theorem State.putChiplet_dev (s : State) (n : Nat) (x : Chiplet) : (s.putChiplet n x).dev = s.dev := rfl
@[simp] theorem State.putChiplet_power (s : State) (n : Nat) (x : Chiplet) : (s.putChiplet n x).power = s.power := rfl
@[simp] theorem State.putChiplet_coolant (s : State) (n : Nat) (x : Chiplet) : (s.putChiplet n x).coolant = s.coolant := rfl
@[simp] theorem State.putChiplet_wear (s : State) (n : Nat) (x : Chiplet) : (s.putChiplet n x).wear = s.wear := rfl
@[simp] theorem State.putChiplet_journal (s : State) (n : Nat) (x : Chiplet) : (s.putChiplet n x).journal = s.journal := rfl
@[simp] theorem State.putChiplet_bring (s : State) (n : Nat) (x : Chiplet) : (s.putChiplet n x).bring = s.bring := rfl
@[simp] theorem State.putChiplet_mgmt (s : State) (n : Nat) (x : Chiplet) : (s.putChiplet n x).mgmt = s.mgmt := rfl
@[simp] theorem State.updChiplet_pending (s : State) (n : Nat) (f : Chiplet → Chiplet) : (s.updChiplet n f).pending = s.pending := rfl
@[simp] theorem State.updChiplet_tiles (s : State) (n : Nat) (f : Chiplet → Chiplet) : (s.updChiplet n f).tiles = s.tiles := rfl
@[simp] theorem State.updChiplet_blocks (s : State) (n : Nat) (f : Chiplet → Chiplet) : (s.updChiplet n f).blocks = s.blocks := rfl
@[simp] theorem State.updChiplet_fieldCtls (s : State) (n : Nat) (f : Chiplet → Chiplet) : (s.updChiplet n f).fieldCtls = s.fieldCtls := rfl
@[simp] theorem State.updChiplet_stackCtls (s : State) (n : Nat) (f : Chiplet → Chiplet) : (s.updChiplet n f).stackCtls = s.stackCtls := rfl
@[simp] theorem State.updChiplet_ports (s : State) (n : Nat) (f : Chiplet → Chiplet) : (s.updChiplet n f).ports = s.ports := rfl
@[simp] theorem State.updChiplet_mailboxes (s : State) (n : Nat) (f : Chiplet → Chiplet) : (s.updChiplet n f).mailboxes = s.mailboxes := rfl
@[simp] theorem State.updChiplet_keepers (s : State) (n : Nat) (f : Chiplet → Chiplet) : (s.updChiplet n f).keepers = s.keepers := rfl
@[simp] theorem State.updChiplet_fw (s : State) (n : Nat) (f : Chiplet → Chiplet) : (s.updChiplet n f).fw = s.fw := rfl
@[simp] theorem State.updChiplet_dev (s : State) (n : Nat) (f : Chiplet → Chiplet) : (s.updChiplet n f).dev = s.dev := rfl
@[simp] theorem State.updChiplet_power (s : State) (n : Nat) (f : Chiplet → Chiplet) : (s.updChiplet n f).power = s.power := rfl
@[simp] theorem State.updChiplet_coolant (s : State) (n : Nat) (f : Chiplet → Chiplet) : (s.updChiplet n f).coolant = s.coolant := rfl
@[simp] theorem State.updChiplet_wear (s : State) (n : Nat) (f : Chiplet → Chiplet) : (s.updChiplet n f).wear = s.wear := rfl
@[simp] theorem State.updChiplet_journal (s : State) (n : Nat) (f : Chiplet → Chiplet) : (s.updChiplet n f).journal = s.journal := rfl
@[simp] theorem State.updChiplet_bring (s : State) (n : Nat) (f : Chiplet → Chiplet) : (s.updChiplet n f).bring = s.bring := rfl
@[simp] theorem State.updChiplet_mgmt (s : State) (n : Nat) (f : Chiplet → Chiplet) : (s.updChiplet n f).mgmt = s.mgmt := rfl
@[simp] theorem State.putPort_pending (s : State) (n : Nat) (x : LinkPort) : (s.putPort n x).pending = s.pending := rfl
@[simp] theorem State.putPort_tiles (s : State) (n : Nat) (x : LinkPort) : (s.putPort n x).tiles = s.tiles := rfl
@[simp] theorem State.putPort_blocks (s : State) (n : Nat) (x : LinkPort) : (s.putPort n x).blocks = s.blocks := rfl
@[simp] theorem State.putPort_fieldCtls (s : State) (n : Nat) (x : LinkPort) : (s.putPort n x).fieldCtls = s.fieldCtls := rfl
@[simp] theorem State.putPort_stackCtls (s : State) (n : Nat) (x : LinkPort) : (s.putPort n x).stackCtls = s.stackCtls := rfl
@[simp] theorem State.putPort_chiplets (s : State) (n : Nat) (x : LinkPort) : (s.putPort n x).chiplets = s.chiplets := rfl
@[simp] theorem State.putPort_mailboxes (s : State) (n : Nat) (x : LinkPort) : (s.putPort n x).mailboxes = s.mailboxes := rfl
@[simp] theorem State.putPort_keepers (s : State) (n : Nat) (x : LinkPort) : (s.putPort n x).keepers = s.keepers := rfl
@[simp] theorem State.putPort_fw (s : State) (n : Nat) (x : LinkPort) : (s.putPort n x).fw = s.fw := rfl
@[simp] theorem State.putPort_dev (s : State) (n : Nat) (x : LinkPort) : (s.putPort n x).dev = s.dev := rfl
@[simp] theorem State.putPort_power (s : State) (n : Nat) (x : LinkPort) : (s.putPort n x).power = s.power := rfl
@[simp] theorem State.putPort_coolant (s : State) (n : Nat) (x : LinkPort) : (s.putPort n x).coolant = s.coolant := rfl
@[simp] theorem State.putPort_wear (s : State) (n : Nat) (x : LinkPort) : (s.putPort n x).wear = s.wear := rfl
@[simp] theorem State.putPort_journal (s : State) (n : Nat) (x : LinkPort) : (s.putPort n x).journal = s.journal := rfl
@[simp] theorem State.putPort_bring (s : State) (n : Nat) (x : LinkPort) : (s.putPort n x).bring = s.bring := rfl
@[simp] theorem State.putPort_mgmt (s : State) (n : Nat) (x : LinkPort) : (s.putPort n x).mgmt = s.mgmt := rfl
@[simp] theorem State.updPort_pending (s : State) (n : Nat) (f : LinkPort → LinkPort) : (s.updPort n f).pending = s.pending := rfl
@[simp] theorem State.updPort_tiles (s : State) (n : Nat) (f : LinkPort → LinkPort) : (s.updPort n f).tiles = s.tiles := rfl
@[simp] theorem State.updPort_blocks (s : State) (n : Nat) (f : LinkPort → LinkPort) : (s.updPort n f).blocks = s.blocks := rfl
@[simp] theorem State.updPort_fieldCtls (s : State) (n : Nat) (f : LinkPort → LinkPort) : (s.updPort n f).fieldCtls = s.fieldCtls := rfl
@[simp] theorem State.updPort_stackCtls (s : State) (n : Nat) (f : LinkPort → LinkPort) : (s.updPort n f).stackCtls = s.stackCtls := rfl
@[simp] theorem State.updPort_chiplets (s : State) (n : Nat) (f : LinkPort → LinkPort) : (s.updPort n f).chiplets = s.chiplets := rfl
@[simp] theorem State.updPort_mailboxes (s : State) (n : Nat) (f : LinkPort → LinkPort) : (s.updPort n f).mailboxes = s.mailboxes := rfl
@[simp] theorem State.updPort_keepers (s : State) (n : Nat) (f : LinkPort → LinkPort) : (s.updPort n f).keepers = s.keepers := rfl
@[simp] theorem State.updPort_fw (s : State) (n : Nat) (f : LinkPort → LinkPort) : (s.updPort n f).fw = s.fw := rfl
@[simp] theorem State.updPort_dev (s : State) (n : Nat) (f : LinkPort → LinkPort) : (s.updPort n f).dev = s.dev := rfl
@[simp] theorem State.updPort_power (s : State) (n : Nat) (f : LinkPort → LinkPort) : (s.updPort n f).power = s.power := rfl
@[simp] theorem State.updPort_coolant (s : State) (n : Nat) (f : LinkPort → LinkPort) : (s.updPort n f).coolant = s.coolant := rfl
@[simp] theorem State.updPort_wear (s : State) (n : Nat) (f : LinkPort → LinkPort) : (s.updPort n f).wear = s.wear := rfl
@[simp] theorem State.updPort_journal (s : State) (n : Nat) (f : LinkPort → LinkPort) : (s.updPort n f).journal = s.journal := rfl
@[simp] theorem State.updPort_bring (s : State) (n : Nat) (f : LinkPort → LinkPort) : (s.updPort n f).bring = s.bring := rfl
@[simp] theorem State.updPort_mgmt (s : State) (n : Nat) (f : LinkPort → LinkPort) : (s.updPort n f).mgmt = s.mgmt := rfl
@[simp] theorem State.updKeeper_pending (s : State) (n : Nat) (f : Keeper → Keeper) : (s.updKeeper n f).pending = s.pending := rfl
@[simp] theorem State.updKeeper_tiles (s : State) (n : Nat) (f : Keeper → Keeper) : (s.updKeeper n f).tiles = s.tiles := rfl
@[simp] theorem State.updKeeper_blocks (s : State) (n : Nat) (f : Keeper → Keeper) : (s.updKeeper n f).blocks = s.blocks := rfl
@[simp] theorem State.updKeeper_fieldCtls (s : State) (n : Nat) (f : Keeper → Keeper) : (s.updKeeper n f).fieldCtls = s.fieldCtls := rfl
@[simp] theorem State.updKeeper_stackCtls (s : State) (n : Nat) (f : Keeper → Keeper) : (s.updKeeper n f).stackCtls = s.stackCtls := rfl
@[simp] theorem State.updKeeper_chiplets (s : State) (n : Nat) (f : Keeper → Keeper) : (s.updKeeper n f).chiplets = s.chiplets := rfl
@[simp] theorem State.updKeeper_ports (s : State) (n : Nat) (f : Keeper → Keeper) : (s.updKeeper n f).ports = s.ports := rfl
@[simp] theorem State.updKeeper_mailboxes (s : State) (n : Nat) (f : Keeper → Keeper) : (s.updKeeper n f).mailboxes = s.mailboxes := rfl
@[simp] theorem State.updKeeper_fw (s : State) (n : Nat) (f : Keeper → Keeper) : (s.updKeeper n f).fw = s.fw := rfl
@[simp] theorem State.updKeeper_dev (s : State) (n : Nat) (f : Keeper → Keeper) : (s.updKeeper n f).dev = s.dev := rfl
@[simp] theorem State.updKeeper_power (s : State) (n : Nat) (f : Keeper → Keeper) : (s.updKeeper n f).power = s.power := rfl
@[simp] theorem State.updKeeper_coolant (s : State) (n : Nat) (f : Keeper → Keeper) : (s.updKeeper n f).coolant = s.coolant := rfl
@[simp] theorem State.updKeeper_wear (s : State) (n : Nat) (f : Keeper → Keeper) : (s.updKeeper n f).wear = s.wear := rfl
@[simp] theorem State.updKeeper_journal (s : State) (n : Nat) (f : Keeper → Keeper) : (s.updKeeper n f).journal = s.journal := rfl
@[simp] theorem State.updKeeper_bring (s : State) (n : Nat) (f : Keeper → Keeper) : (s.updKeeper n f).bring = s.bring := rfl
@[simp] theorem State.updKeeper_mgmt (s : State) (n : Nat) (f : Keeper → Keeper) : (s.updKeeper n f).mgmt = s.mgmt := rfl
@[simp] theorem State.updDev_pending (s : State) (f : Dev → Dev) : (s.updDev f).pending = s.pending := rfl
@[simp] theorem State.updDev_tiles (s : State) (f : Dev → Dev) : (s.updDev f).tiles = s.tiles := rfl
@[simp] theorem State.updDev_blocks (s : State) (f : Dev → Dev) : (s.updDev f).blocks = s.blocks := rfl
@[simp] theorem State.updDev_fieldCtls (s : State) (f : Dev → Dev) : (s.updDev f).fieldCtls = s.fieldCtls := rfl
@[simp] theorem State.updDev_stackCtls (s : State) (f : Dev → Dev) : (s.updDev f).stackCtls = s.stackCtls := rfl
@[simp] theorem State.updDev_chiplets (s : State) (f : Dev → Dev) : (s.updDev f).chiplets = s.chiplets := rfl
@[simp] theorem State.updDev_ports (s : State) (f : Dev → Dev) : (s.updDev f).ports = s.ports := rfl
@[simp] theorem State.updDev_mailboxes (s : State) (f : Dev → Dev) : (s.updDev f).mailboxes = s.mailboxes := rfl
@[simp] theorem State.updDev_keepers (s : State) (f : Dev → Dev) : (s.updDev f).keepers = s.keepers := rfl
@[simp] theorem State.updDev_fw (s : State) (f : Dev → Dev) : (s.updDev f).fw = s.fw := rfl
@[simp] theorem State.updDev_power (s : State) (f : Dev → Dev) : (s.updDev f).power = s.power := rfl
@[simp] theorem State.updDev_coolant (s : State) (f : Dev → Dev) : (s.updDev f).coolant = s.coolant := rfl
@[simp] theorem State.updDev_wear (s : State) (f : Dev → Dev) : (s.updDev f).wear = s.wear := rfl
@[simp] theorem State.updDev_journal (s : State) (f : Dev → Dev) : (s.updDev f).journal = s.journal := rfl
@[simp] theorem State.updDev_bring (s : State) (f : Dev → Dev) : (s.updDev f).bring = s.bring := rfl
@[simp] theorem State.updDev_mgmt (s : State) (f : Dev → Dev) : (s.updDev f).mgmt = s.mgmt := rfl
@[simp] theorem State.putSession_pending (s : State) (n : Nat) (x : Session) : (s.putSession n x).pending = s.pending := rfl
@[simp] theorem State.putSession_tiles (s : State) (n : Nat) (x : Session) : (s.putSession n x).tiles = s.tiles := rfl
@[simp] theorem State.putSession_blocks (s : State) (n : Nat) (x : Session) : (s.putSession n x).blocks = s.blocks := rfl
@[simp] theorem State.putSession_fieldCtls (s : State) (n : Nat) (x : Session) : (s.putSession n x).fieldCtls = s.fieldCtls := rfl
@[simp] theorem State.putSession_stackCtls (s : State) (n : Nat) (x : Session) : (s.putSession n x).stackCtls = s.stackCtls := rfl
@[simp] theorem State.putSession_chiplets (s : State) (n : Nat) (x : Session) : (s.putSession n x).chiplets = s.chiplets := rfl
@[simp] theorem State.putSession_ports (s : State) (n : Nat) (x : Session) : (s.putSession n x).ports = s.ports := rfl
@[simp] theorem State.putSession_mailboxes (s : State) (n : Nat) (x : Session) : (s.putSession n x).mailboxes = s.mailboxes := rfl
@[simp] theorem State.putSession_keepers (s : State) (n : Nat) (x : Session) : (s.putSession n x).keepers = s.keepers := rfl
@[simp] theorem State.putSession_fw (s : State) (n : Nat) (x : Session) : (s.putSession n x).fw = s.fw := rfl
@[simp] theorem State.putSession_power (s : State) (n : Nat) (x : Session) : (s.putSession n x).power = s.power := rfl
@[simp] theorem State.putSession_coolant (s : State) (n : Nat) (x : Session) : (s.putSession n x).coolant = s.coolant := rfl
@[simp] theorem State.putSession_wear (s : State) (n : Nat) (x : Session) : (s.putSession n x).wear = s.wear := rfl
@[simp] theorem State.putSession_journal (s : State) (n : Nat) (x : Session) : (s.putSession n x).journal = s.journal := rfl
@[simp] theorem State.putSession_bring (s : State) (n : Nat) (x : Session) : (s.putSession n x).bring = s.bring := rfl
@[simp] theorem State.putSession_mgmt (s : State) (n : Nat) (x : Session) : (s.putSession n x).mgmt = s.mgmt := rfl
@[simp] theorem State.updSession_pending (s : State) (n : Nat) (f : Session → Session) : (s.updSession n f).pending = s.pending := rfl
@[simp] theorem State.updSession_tiles (s : State) (n : Nat) (f : Session → Session) : (s.updSession n f).tiles = s.tiles := rfl
@[simp] theorem State.updSession_blocks (s : State) (n : Nat) (f : Session → Session) : (s.updSession n f).blocks = s.blocks := rfl
@[simp] theorem State.updSession_fieldCtls (s : State) (n : Nat) (f : Session → Session) : (s.updSession n f).fieldCtls = s.fieldCtls := rfl
@[simp] theorem State.updSession_stackCtls (s : State) (n : Nat) (f : Session → Session) : (s.updSession n f).stackCtls = s.stackCtls := rfl
@[simp] theorem State.updSession_chiplets (s : State) (n : Nat) (f : Session → Session) : (s.updSession n f).chiplets = s.chiplets := rfl
@[simp] theorem State.updSession_ports (s : State) (n : Nat) (f : Session → Session) : (s.updSession n f).ports = s.ports := rfl
@[simp] theorem State.updSession_mailboxes (s : State) (n : Nat) (f : Session → Session) : (s.updSession n f).mailboxes = s.mailboxes := rfl
@[simp] theorem State.updSession_keepers (s : State) (n : Nat) (f : Session → Session) : (s.updSession n f).keepers = s.keepers := rfl
@[simp] theorem State.updSession_fw (s : State) (n : Nat) (f : Session → Session) : (s.updSession n f).fw = s.fw := rfl
@[simp] theorem State.updSession_power (s : State) (n : Nat) (f : Session → Session) : (s.updSession n f).power = s.power := rfl
@[simp] theorem State.updSession_coolant (s : State) (n : Nat) (f : Session → Session) : (s.updSession n f).coolant = s.coolant := rfl
@[simp] theorem State.updSession_wear (s : State) (n : Nat) (f : Session → Session) : (s.updSession n f).wear = s.wear := rfl
@[simp] theorem State.updSession_journal (s : State) (n : Nat) (f : Session → Session) : (s.updSession n f).journal = s.journal := rfl
@[simp] theorem State.updSession_bring (s : State) (n : Nat) (f : Session → Session) : (s.updSession n f).bring = s.bring := rfl
@[simp] theorem State.updSession_mgmt (s : State) (n : Nat) (f : Session → Session) : (s.updSession n f).mgmt = s.mgmt := rfl
@[simp] theorem State.updDev_dev (s : State) (f : Dev → Dev) : (s.updDev f).dev = f s.dev := rfl

/-! ## Reading a unit after writing it -/

@[simp] theorem State.tile_putTile (s : State) (t : TileId) (x : Tile) : (s.putTile t x).tile t = x := Tbl.get_set_same _ _ _ _

theorem State.tile_putTile_other (s : State) {t v : TileId} (x : Tile) (h : v ≠ t) : (s.putTile t x).tile v = s.tile v :=
  Tbl.get_set_other _ _ _ (fun e => h (BitVec.eq_of_toNat_eq e))

@[simp] theorem State.tile_updTile (s : State) (t : TileId) (f : Tile → Tile) : (s.updTile t f).tile t = f (s.tile t) :=
  State.tile_putTile s t _

theorem State.tile_updTile_other (s : State) {t v : TileId} (f : Tile → Tile) (h : v ≠ t) :
    (s.updTile t f).tile v = s.tile v := State.tile_putTile_other s _ h

@[simp] theorem State.tile_updDev (s : State) (f : Dev → Dev) (t : TileId) : (s.updDev f).tile t = s.tile t := rfl
@[simp] theorem State.block_updBlock (s : State) (b : Nat) (f : Block → Block) : (s.updBlock b f).block b = f (s.block b) :=
  Tbl.get_set_same _ _ _ _
theorem State.block_updBlock_other (s : State) {b c : Nat} (f : Block → Block) (h : c ≠ b) :
    (s.updBlock b f).block c = s.block c := Tbl.get_set_other _ _ _ h
@[simp] theorem State.block_putBlock (s : State) (b : Nat) (x : Block) : (s.putBlock b x).block b = x :=
  Tbl.get_set_same _ _ _ _
@[simp] theorem State.field_updField (s : State) (n : Nat) (f : FieldCtl → FieldCtl) : (s.updField n f).field n = f (s.field n) :=
  Tbl.get_set_same _ _ _ _
theorem State.field_updField_other (s : State) {n m : Nat} (f : FieldCtl → FieldCtl) (h : m ≠ n) :
    (s.updField n f).field m = s.field m := Tbl.get_set_other _ _ _ h
@[simp] theorem State.stk_updStk (s : State) (n : Nat) (f : Stack → Stack) : (s.updStk n f).stk n = f (s.stk n) :=
  Tbl.get_set_same _ _ _ _
@[simp] theorem State.chiplet_updChiplet (s : State) (n : Nat) (f : Chiplet → Chiplet) :
    (s.updChiplet n f).chiplet n = f (s.chiplet n) := Tbl.get_set_same _ _ _ _
@[simp] theorem State.port_updPort (s : State) (n : Nat) (f : LinkPort → LinkPort) : (s.updPort n f).port n = f (s.port n) :=
  Tbl.get_set_same _ _ _ _
theorem State.port_updPort_other (s : State) {n m : Nat} (f : LinkPort → LinkPort) (h : m ≠ n) :
    (s.updPort n f).port m = s.port m := Tbl.get_set_other _ _ _ h
@[simp] theorem State.keeper_updKeeper (s : State) (n : Nat) (f : Keeper → Keeper) :
    (s.updKeeper n f).keeper n = f (s.keeper n) := Tbl.get_set_same _ _ _ _
@[simp] theorem State.session_putSession (s : State) (n : Nat) (x : Session) : (s.putSession n x).session n = x :=
  Tbl.get_set_same _ _ _ _
@[simp] theorem State.session_updSession (s : State) (n : Nat) (f : Session → Session) :
    (s.updSession n f).session n = f (s.session n) := Tbl.get_set_same _ _ _ _
theorem State.session_putSession_other (s : State) {n m : Nat} (x : Session) (h : m ≠ n) :
    (s.putSession n x).session m = s.session m := Tbl.get_set_other _ _ _ h

@[simp] theorem State.block_updDev (s : State) (f : Dev → Dev) (b : Nat) : (s.updDev f).block b = s.block b := rfl
@[simp] theorem State.field_updDev (s : State) (f : Dev → Dev) (b : Nat) : (s.updDev f).field b = s.field b := rfl
@[simp] theorem State.stk_updDev (s : State) (f : Dev → Dev) (b : Nat) : (s.updDev f).stk b = s.stk b := rfl
@[simp] theorem State.chiplet_updDev (s : State) (f : Dev → Dev) (b : Nat) : (s.updDev f).chiplet b = s.chiplet b := rfl
@[simp] theorem State.port_updDev (s : State) (f : Dev → Dev) (b : Nat) : (s.updDev f).port b = s.port b := rfl
@[simp] theorem State.keeper_updDev (s : State) (f : Dev → Dev) (b : Nat) : (s.updDev f).keeper b = s.keeper b := rfl
@[simp] theorem State.block_putTile (s : State) (t : TileId) (x : Tile) (b : Nat) : (s.putTile t x).block b = s.block b := rfl
@[simp] theorem State.block_updTile (s : State) (t : TileId) (f : Tile → Tile) (b : Nat) : (s.updTile t f).block b = s.block b := rfl
@[simp] theorem State.field_putTile (s : State) (t : TileId) (x : Tile) (b : Nat) : (s.putTile t x).field b = s.field b := rfl
@[simp] theorem State.field_updTile (s : State) (t : TileId) (f : Tile → Tile) (b : Nat) : (s.updTile t f).field b = s.field b := rfl
@[simp] theorem State.stk_putTile (s : State) (t : TileId) (x : Tile) (b : Nat) : (s.putTile t x).stk b = s.stk b := rfl
@[simp] theorem State.stk_updTile (s : State) (t : TileId) (f : Tile → Tile) (b : Nat) : (s.updTile t f).stk b = s.stk b := rfl
@[simp] theorem State.chiplet_putTile (s : State) (t : TileId) (x : Tile) (b : Nat) : (s.putTile t x).chiplet b = s.chiplet b := rfl
@[simp] theorem State.chiplet_updTile (s : State) (t : TileId) (f : Tile → Tile) (b : Nat) : (s.updTile t f).chiplet b = s.chiplet b := rfl
@[simp] theorem State.port_putTile (s : State) (t : TileId) (x : Tile) (b : Nat) : (s.putTile t x).port b = s.port b := rfl
@[simp] theorem State.port_updTile (s : State) (t : TileId) (f : Tile → Tile) (b : Nat) : (s.updTile t f).port b = s.port b := rfl
@[simp] theorem State.keeper_putTile (s : State) (t : TileId) (x : Tile) (b : Nat) : (s.putTile t x).keeper b = s.keeper b := rfl
@[simp] theorem State.keeper_updTile (s : State) (t : TileId) (f : Tile → Tile) (b : Nat) : (s.updTile t f).keeper b = s.keeper b := rfl
@[simp] theorem State.session_putTile (s : State) (t : TileId) (x : Tile) (b : Nat) : (s.putTile t x).session b = s.session b := rfl
@[simp] theorem State.session_updTile (s : State) (t : TileId) (f : Tile → Tile) (b : Nat) : (s.updTile t f).session b = s.session b := rfl

/-! ## A tile -/

@[simp] theorem Tile.putSlot_s (x : Tile) (n : Nat) (v : Slot) : (x.putSlot n v).s = x.s := rfl
@[simp] theorem Tile.putSlot_a (x : Tile) (n : Nat) (v : Slot) : (x.putSlot n v).a = x.a := rfl
@[simp] theorem Tile.putSlot_pc (x : Tile) (n : Nat) (v : Slot) : (x.putSlot n v).pc = x.pc := rfl
@[simp] theorem Tile.putSlot_loops (x : Tile) (n : Nat) (v : Slot) : (x.putSlot n v).loops = x.loops := rfl
@[simp] theorem Tile.putSlot_ctx (x : Tile) (n : Nat) (v : Slot) : (x.putSlot n v).ctx = x.ctx := rfl
@[simp] theorem Tile.putSlot_begun (x : Tile) (n : Nat) (v : Slot) : (x.putSlot n v).begun = x.begun := rfl
@[simp] theorem Tile.putSlot_entry (x : Tile) (n : Nat) (v : Slot) : (x.putSlot n v).entry = x.entry := rfl
@[simp] theorem Tile.putSlot_issueq (x : Tile) (n : Nat) (v : Slot) : (x.putSlot n v).issueq = x.issueq := rfl
@[simp] theorem Tile.putSlot_seq (x : Tile) (n : Nat) (v : Slot) : (x.putSlot n v).seq = x.seq := rfl
@[simp] theorem Tile.putSlot_test (x : Tile) (n : Nat) (v : Slot) : (x.putSlot n v).test = x.test := rfl
@[simp] theorem Tile.putSlot_wait (x : Tile) (n : Nat) (v : Slot) : (x.putSlot n v).wait = x.wait := rfl
@[simp] theorem Tile.putSlot_waitWord (x : Tile) (n : Nat) (v : Slot) : (x.putSlot n v).waitWord = x.waitWord := rfl
@[simp] theorem Tile.putSlot_heldWave (x : Tile) (n : Nat) (v : Slot) : (x.putSlot n v).heldWave = x.heldWave := rfl
@[simp] theorem Tile.putSlot_imem (x : Tile) (n : Nat) (v : Slot) : (x.putSlot n v).imem = x.imem := rfl
@[simp] theorem Tile.putSlot_wb (x : Tile) (n : Nat) (v : Slot) : (x.putSlot n v).wb = x.wb := rfl
@[simp] theorem Tile.putSlot_slab (x : Tile) (n : Nat) (v : Slot) : (x.putSlot n v).slab = x.slab := rfl
@[simp] theorem Tile.putSlot_ws (x : Tile) (n : Nat) (v : Slot) : (x.putSlot n v).ws = x.ws := rfl
@[simp] theorem Tile.putSlot_blockEnds (x : Tile) (n : Nat) (v : Slot) : (x.putSlot n v).blockEnds = x.blockEnds := rfl
@[simp] theorem Tile.putSlot_passes (x : Tile) (n : Nat) (v : Slot) : (x.putSlot n v).passes = x.passes := rfl
@[simp] theorem Tile.putSlot_written (x : Tile) (n : Nat) (v : Slot) : (x.putSlot n v).written = x.written := rfl
@[simp] theorem Tile.putSlot_tables (x : Tile) (n : Nat) (v : Slot) : (x.putSlot n v).tables = x.tables := rfl
@[simp] theorem Tile.putSlot_killed (x : Tile) (n : Nat) (v : Slot) : (x.putSlot n v).killed = x.killed := rfl
@[simp] theorem Tile.putSlot_pigeonholes (x : Tile) (n : Nat) (v : Slot) : (x.putSlot n v).pigeonholes = x.pigeonholes := rfl
@[simp] theorem Tile.putSlot_takes (x : Tile) (n : Nat) (v : Slot) : (x.putSlot n v).takes = x.takes := rfl
@[simp] theorem Tile.putSlot_credits (x : Tile) (n : Nat) (v : Slot) : (x.putSlot n v).credits = x.credits := rfl
@[simp] theorem Tile.putSlot_templates (x : Tile) (n : Nat) (v : Slot) : (x.putSlot n v).templates = x.templates := rfl
@[simp] theorem Tile.putSlot_landings (x : Tile) (n : Nat) (v : Slot) : (x.putSlot n v).landings = x.landings := rfl
@[simp] theorem Tile.putSlot_circulars (x : Tile) (n : Nat) (v : Slot) : (x.putSlot n v).circulars = x.circulars := rfl
@[simp] theorem Tile.putSlot_descq (x : Tile) (n : Nat) (v : Slot) : (x.putSlot n v).descq = x.descq := rfl
@[simp] theorem Tile.putSlot_running (x : Tile) (n : Nat) (v : Slot) : (x.putSlot n v).running = x.running := rfl
@[simp] theorem Tile.putSlot_served (x : Tile) (n : Nat) (v : Slot) : (x.putSlot n v).served = x.served := rfl
@[simp] theorem Tile.putSlot_sb (x : Tile) (n : Nat) (v : Slot) : (x.putSlot n v).sb = x.sb := rfl
@[simp] theorem Tile.putSlot_router (x : Tile) (n : Nat) (v : Slot) : (x.putSlot n v).router = x.router := rfl
@[simp] theorem Tile.putSlot_inbox (x : Tile) (n : Nat) (v : Slot) : (x.putSlot n v).inbox = x.inbox := rfl
@[simp] theorem Tile.putSlot_cardHold (x : Tile) (n : Nat) (v : Slot) : (x.putSlot n v).cardHold = x.cardHold := rfl
@[simp] theorem Tile.putSlot_latches (x : Tile) (n : Nat) (v : Slot) : (x.putSlot n v).latches = x.latches := rfl
@[simp] theorem Tile.putSlot_lastFirefly (x : Tile) (n : Nat) (v : Slot) : (x.putSlot n v).lastFirefly = x.lastFirefly := rfl
@[simp] theorem Tile.putSlot_cardTime (x : Tile) (n : Nat) (v : Slot) : (x.putSlot n v).cardTime = x.cardTime := rfl
@[simp] theorem Tile.putSlot_cardsThen (x : Tile) (n : Nat) (v : Slot) : (x.putSlot n v).cardsThen = x.cardsThen := rfl
@[simp] theorem Tile.putSlot_purge (x : Tile) (n : Nat) (v : Slot) : (x.putSlot n v).purge = x.purge := rfl
@[simp] theorem Tile.putSlot_owners (x : Tile) (n : Nat) (v : Slot) : (x.putSlot n v).owners = x.owners := rfl
@[simp] theorem Tile.putSlot_weevils (x : Tile) (n : Nat) (v : Slot) : (x.putSlot n v).weevils = x.weevils := rfl
@[simp] theorem Tile.putSlot_shareScores (x : Tile) (n : Nat) (v : Slot) : (x.putSlot n v).shareScores = x.shareScores := rfl
@[simp] theorem Tile.putSlot_sampler (x : Tile) (n : Nat) (v : Slot) : (x.putSlot n v).sampler = x.sampler := rfl
@[simp] theorem Tile.putSlot_regBlocks (x : Tile) (n : Nat) (v : Slot) : (x.putSlot n v).regBlocks = x.regBlocks := rfl
@[simp] theorem Tile.putSlot_maxDwell (x : Tile) (n : Nat) (v : Slot) : (x.putSlot n v).maxDwell = x.maxDwell := rfl
@[simp] theorem Tile.putSlot_scrubGroup (x : Tile) (n : Nat) (v : Slot) : (x.putSlot n v).scrubGroup = x.scrubGroup := rfl
@[simp] theorem Tile.putSlot_seqFault (x : Tile) (n : Nat) (v : Slot) : (x.putSlot n v).seqFault = x.seqFault := rfl
@[simp] theorem Tile.putSlot_lastCause (x : Tile) (n : Nat) (v : Slot) : (x.putSlot n v).lastCause = x.lastCause := rfl
@[simp] theorem Tile.putSlot_finFlags (x : Tile) (n : Nat) (v : Slot) : (x.putSlot n v).finFlags = x.finFlags := rfl
@[simp] theorem Tile.putSlot_seqWord (x : Tile) (n : Nat) (v : Slot) : (x.putSlot n v).seqWord = x.seqWord := rfl
@[simp] theorem Tile.putSlot_overrun (x : Tile) (n : Nat) (v : Slot) : (x.putSlot n v).overrun = x.overrun := rfl
@[simp] theorem Tile.putSlot_hazards (x : Tile) (n : Nat) (v : Slot) : (x.putSlot n v).hazards = x.hazards := rfl
@[simp] theorem Tile.putSlot_tallyTotal (x : Tile) (n : Nat) (v : Slot) : (x.putSlot n v).tallyTotal = x.tallyTotal := rfl
@[simp] theorem Tile.putSlot_tallyTimes (x : Tile) (n : Nat) (v : Slot) : (x.putSlot n v).tallyTimes = x.tallyTimes := rfl
@[simp] theorem Tile.putSlot_facing (x : Tile) (n : Nat) (v : Slot) : (x.putSlot n v).facing = x.facing := rfl
@[simp] theorem Tile.putSlot_bankConflicts (x : Tile) (n : Nat) (v : Slot) : (x.putSlot n v).bankConflicts = x.bankConflicts := rfl
@[simp] theorem Tile.putSlot_conflictLast (x : Tile) (n : Nat) (v : Slot) : (x.putSlot n v).conflictLast = x.conflictLast := rfl
@[simp] theorem Tile.putSlot_steals (x : Tile) (n : Nat) (v : Slot) : (x.putSlot n v).steals = x.steals := rfl
@[simp] theorem Tile.putSlot_double (x : Tile) (n : Nat) (v : Slot) : (x.putSlot n v).double = x.double := rfl
@[simp] theorem Tile.putSlot_memFault (x : Tile) (n : Nat) (v : Slot) : (x.putSlot n v).memFault = x.memFault := rfl
@[simp] theorem Tile.putSlot_creditStalls (x : Tile) (n : Nat) (v : Slot) : (x.putSlot n v).creditStalls = x.creditStalls := rfl
@[simp] theorem Tile.putSlot_deferrals (x : Tile) (n : Nat) (v : Slot) : (x.putSlot n v).deferrals = x.deferrals := rfl
@[simp] theorem Tile.putSlot_eccSlab (x : Tile) (n : Nat) (v : Slot) : (x.putSlot n v).eccSlab = x.eccSlab := rfl
@[simp] theorem Tile.putSlot_eccSram (x : Tile) (n : Nat) (v : Slot) : (x.putSlot n v).eccSram = x.eccSram := rfl
@[simp] theorem Tile.putSlot_netFault (x : Tile) (n : Nat) (v : Slot) : (x.putSlot n v).netFault = x.netFault := rfl
@[simp] theorem Tile.putSlot_nodeWaits (x : Tile) (n : Nat) (v : Slot) : (x.putSlot n v).nodeWaits = x.nodeWaits := rfl
@[simp] theorem Tile.putSlot_mcWaits (x : Tile) (n : Nat) (v : Slot) : (x.putSlot n v).mcWaits = x.mcWaits := rfl
@[simp] theorem Tile.putSlot_sent (x : Tile) (n : Nat) (v : Slot) : (x.putSlot n v).sent = x.sent := rfl
@[simp] theorem Tile.putSlot_ownFault (x : Tile) (n : Nat) (v : Slot) : (x.putSlot n v).ownFault = x.ownFault := rfl
@[simp] theorem Tile.putSlot_ownSession (x : Tile) (n : Nat) (v : Slot) : (x.putSlot n v).ownSession = x.ownSession := rfl
@[simp] theorem Tile.putSlot_overWaves (x : Tile) (n : Nat) (v : Slot) : (x.putSlot n v).overWaves = x.overWaves := rfl
@[simp] theorem Tile.putSlot_regCount (x : Tile) (n : Nat) (v : Slot) : (x.putSlot n v).regCount = x.regCount := rfl
@[simp] theorem Tile.putSlot_uncorrTimes (x : Tile) (n : Nat) (v : Slot) : (x.putSlot n v).uncorrTimes = x.uncorrTimes := rfl
@[simp] theorem Tile.addFlags_s (x : Tile) (f : BitVec 3) : (x.addFlags f).s = x.s := rfl
@[simp] theorem Tile.addFlags_a (x : Tile) (f : BitVec 3) : (x.addFlags f).a = x.a := rfl
@[simp] theorem Tile.addFlags_pc (x : Tile) (f : BitVec 3) : (x.addFlags f).pc = x.pc := rfl
@[simp] theorem Tile.addFlags_loops (x : Tile) (f : BitVec 3) : (x.addFlags f).loops = x.loops := rfl
@[simp] theorem Tile.addFlags_ctx (x : Tile) (f : BitVec 3) : (x.addFlags f).ctx = x.ctx := rfl
@[simp] theorem Tile.addFlags_begun (x : Tile) (f : BitVec 3) : (x.addFlags f).begun = x.begun := rfl
@[simp] theorem Tile.addFlags_entry (x : Tile) (f : BitVec 3) : (x.addFlags f).entry = x.entry := rfl
@[simp] theorem Tile.addFlags_issueq (x : Tile) (f : BitVec 3) : (x.addFlags f).issueq = x.issueq := rfl
@[simp] theorem Tile.addFlags_seq (x : Tile) (f : BitVec 3) : (x.addFlags f).seq = x.seq := rfl
@[simp] theorem Tile.addFlags_test (x : Tile) (f : BitVec 3) : (x.addFlags f).test = x.test := rfl
@[simp] theorem Tile.addFlags_wait (x : Tile) (f : BitVec 3) : (x.addFlags f).wait = x.wait := rfl
@[simp] theorem Tile.addFlags_waitWord (x : Tile) (f : BitVec 3) : (x.addFlags f).waitWord = x.waitWord := rfl
@[simp] theorem Tile.addFlags_heldWave (x : Tile) (f : BitVec 3) : (x.addFlags f).heldWave = x.heldWave := rfl
@[simp] theorem Tile.addFlags_imem (x : Tile) (f : BitVec 3) : (x.addFlags f).imem = x.imem := rfl
@[simp] theorem Tile.addFlags_wb (x : Tile) (f : BitVec 3) : (x.addFlags f).wb = x.wb := rfl
@[simp] theorem Tile.addFlags_slab (x : Tile) (f : BitVec 3) : (x.addFlags f).slab = x.slab := rfl
@[simp] theorem Tile.addFlags_ws (x : Tile) (f : BitVec 3) : (x.addFlags f).ws = x.ws := rfl
@[simp] theorem Tile.addFlags_slots (x : Tile) (f : BitVec 3) : (x.addFlags f).slots = x.slots := rfl
@[simp] theorem Tile.addFlags_blockEnds (x : Tile) (f : BitVec 3) : (x.addFlags f).blockEnds = x.blockEnds := rfl
@[simp] theorem Tile.addFlags_passes (x : Tile) (f : BitVec 3) : (x.addFlags f).passes = x.passes := rfl
@[simp] theorem Tile.addFlags_written (x : Tile) (f : BitVec 3) : (x.addFlags f).written = x.written := rfl
@[simp] theorem Tile.addFlags_tables (x : Tile) (f : BitVec 3) : (x.addFlags f).tables = x.tables := rfl
@[simp] theorem Tile.addFlags_killed (x : Tile) (f : BitVec 3) : (x.addFlags f).killed = x.killed := rfl
@[simp] theorem Tile.addFlags_pigeonholes (x : Tile) (f : BitVec 3) : (x.addFlags f).pigeonholes = x.pigeonholes := rfl
@[simp] theorem Tile.addFlags_takes (x : Tile) (f : BitVec 3) : (x.addFlags f).takes = x.takes := rfl
@[simp] theorem Tile.addFlags_credits (x : Tile) (f : BitVec 3) : (x.addFlags f).credits = x.credits := rfl
@[simp] theorem Tile.addFlags_templates (x : Tile) (f : BitVec 3) : (x.addFlags f).templates = x.templates := rfl
@[simp] theorem Tile.addFlags_landings (x : Tile) (f : BitVec 3) : (x.addFlags f).landings = x.landings := rfl
@[simp] theorem Tile.addFlags_circulars (x : Tile) (f : BitVec 3) : (x.addFlags f).circulars = x.circulars := rfl
@[simp] theorem Tile.addFlags_descq (x : Tile) (f : BitVec 3) : (x.addFlags f).descq = x.descq := rfl
@[simp] theorem Tile.addFlags_running (x : Tile) (f : BitVec 3) : (x.addFlags f).running = x.running := rfl
@[simp] theorem Tile.addFlags_served (x : Tile) (f : BitVec 3) : (x.addFlags f).served = x.served := rfl
@[simp] theorem Tile.addFlags_sb (x : Tile) (f : BitVec 3) : (x.addFlags f).sb = x.sb := rfl
@[simp] theorem Tile.addFlags_router (x : Tile) (f : BitVec 3) : (x.addFlags f).router = x.router := rfl
@[simp] theorem Tile.addFlags_inbox (x : Tile) (f : BitVec 3) : (x.addFlags f).inbox = x.inbox := rfl
@[simp] theorem Tile.addFlags_cardHold (x : Tile) (f : BitVec 3) : (x.addFlags f).cardHold = x.cardHold := rfl
@[simp] theorem Tile.addFlags_latches (x : Tile) (f : BitVec 3) : (x.addFlags f).latches = x.latches := rfl
@[simp] theorem Tile.addFlags_lastFirefly (x : Tile) (f : BitVec 3) : (x.addFlags f).lastFirefly = x.lastFirefly := rfl
@[simp] theorem Tile.addFlags_cardTime (x : Tile) (f : BitVec 3) : (x.addFlags f).cardTime = x.cardTime := rfl
@[simp] theorem Tile.addFlags_cardsThen (x : Tile) (f : BitVec 3) : (x.addFlags f).cardsThen = x.cardsThen := rfl
@[simp] theorem Tile.addFlags_purge (x : Tile) (f : BitVec 3) : (x.addFlags f).purge = x.purge := rfl
@[simp] theorem Tile.addFlags_owners (x : Tile) (f : BitVec 3) : (x.addFlags f).owners = x.owners := rfl
@[simp] theorem Tile.addFlags_weevils (x : Tile) (f : BitVec 3) : (x.addFlags f).weevils = x.weevils := rfl
@[simp] theorem Tile.addFlags_shareScores (x : Tile) (f : BitVec 3) : (x.addFlags f).shareScores = x.shareScores := rfl
@[simp] theorem Tile.addFlags_sampler (x : Tile) (f : BitVec 3) : (x.addFlags f).sampler = x.sampler := rfl
@[simp] theorem Tile.addFlags_regBlocks (x : Tile) (f : BitVec 3) : (x.addFlags f).regBlocks = x.regBlocks := rfl
@[simp] theorem Tile.addFlags_maxDwell (x : Tile) (f : BitVec 3) : (x.addFlags f).maxDwell = x.maxDwell := rfl
@[simp] theorem Tile.addFlags_scrubGroup (x : Tile) (f : BitVec 3) : (x.addFlags f).scrubGroup = x.scrubGroup := rfl
@[simp] theorem Tile.addFlags_seqFault (x : Tile) (f : BitVec 3) : (x.addFlags f).seqFault = x.seqFault := rfl
@[simp] theorem Tile.addFlags_lastCause (x : Tile) (f : BitVec 3) : (x.addFlags f).lastCause = x.lastCause := rfl
@[simp] theorem Tile.addFlags_seqWord (x : Tile) (f : BitVec 3) : (x.addFlags f).seqWord = x.seqWord := rfl
@[simp] theorem Tile.addFlags_overrun (x : Tile) (f : BitVec 3) : (x.addFlags f).overrun = x.overrun := rfl
@[simp] theorem Tile.addFlags_hazards (x : Tile) (f : BitVec 3) : (x.addFlags f).hazards = x.hazards := rfl
@[simp] theorem Tile.addFlags_tallyTotal (x : Tile) (f : BitVec 3) : (x.addFlags f).tallyTotal = x.tallyTotal := rfl
@[simp] theorem Tile.addFlags_tallyTimes (x : Tile) (f : BitVec 3) : (x.addFlags f).tallyTimes = x.tallyTimes := rfl
@[simp] theorem Tile.addFlags_facing (x : Tile) (f : BitVec 3) : (x.addFlags f).facing = x.facing := rfl
@[simp] theorem Tile.addFlags_bankConflicts (x : Tile) (f : BitVec 3) : (x.addFlags f).bankConflicts = x.bankConflicts := rfl
@[simp] theorem Tile.addFlags_conflictLast (x : Tile) (f : BitVec 3) : (x.addFlags f).conflictLast = x.conflictLast := rfl
@[simp] theorem Tile.addFlags_steals (x : Tile) (f : BitVec 3) : (x.addFlags f).steals = x.steals := rfl
@[simp] theorem Tile.addFlags_double (x : Tile) (f : BitVec 3) : (x.addFlags f).double = x.double := rfl
@[simp] theorem Tile.addFlags_memFault (x : Tile) (f : BitVec 3) : (x.addFlags f).memFault = x.memFault := rfl
@[simp] theorem Tile.addFlags_creditStalls (x : Tile) (f : BitVec 3) : (x.addFlags f).creditStalls = x.creditStalls := rfl
@[simp] theorem Tile.addFlags_deferrals (x : Tile) (f : BitVec 3) : (x.addFlags f).deferrals = x.deferrals := rfl
@[simp] theorem Tile.addFlags_eccSlab (x : Tile) (f : BitVec 3) : (x.addFlags f).eccSlab = x.eccSlab := rfl
@[simp] theorem Tile.addFlags_eccSram (x : Tile) (f : BitVec 3) : (x.addFlags f).eccSram = x.eccSram := rfl
@[simp] theorem Tile.addFlags_netFault (x : Tile) (f : BitVec 3) : (x.addFlags f).netFault = x.netFault := rfl
@[simp] theorem Tile.addFlags_nodeWaits (x : Tile) (f : BitVec 3) : (x.addFlags f).nodeWaits = x.nodeWaits := rfl
@[simp] theorem Tile.addFlags_mcWaits (x : Tile) (f : BitVec 3) : (x.addFlags f).mcWaits = x.mcWaits := rfl
@[simp] theorem Tile.addFlags_sent (x : Tile) (f : BitVec 3) : (x.addFlags f).sent = x.sent := rfl
@[simp] theorem Tile.addFlags_ownFault (x : Tile) (f : BitVec 3) : (x.addFlags f).ownFault = x.ownFault := rfl
@[simp] theorem Tile.addFlags_ownSession (x : Tile) (f : BitVec 3) : (x.addFlags f).ownSession = x.ownSession := rfl
@[simp] theorem Tile.addFlags_overWaves (x : Tile) (f : BitVec 3) : (x.addFlags f).overWaves = x.overWaves := rfl
@[simp] theorem Tile.addFlags_regCount (x : Tile) (f : BitVec 3) : (x.addFlags f).regCount = x.regCount := rfl
@[simp] theorem Tile.addFlags_uncorrTimes (x : Tile) (f : BitVec 3) : (x.addFlags f).uncorrTimes = x.uncorrTimes := rfl
@[simp] theorem Tile.advance_s (x : Tile) : (x.advance).s = x.s := rfl
@[simp] theorem Tile.advance_a (x : Tile) : (x.advance).a = x.a := rfl
@[simp] theorem Tile.advance_ctx (x : Tile) : (x.advance).ctx = x.ctx := rfl
@[simp] theorem Tile.advance_begun (x : Tile) : (x.advance).begun = x.begun := rfl
@[simp] theorem Tile.advance_entry (x : Tile) : (x.advance).entry = x.entry := rfl
@[simp] theorem Tile.advance_seq (x : Tile) : (x.advance).seq = x.seq := rfl
@[simp] theorem Tile.advance_test (x : Tile) : (x.advance).test = x.test := rfl
@[simp] theorem Tile.advance_waitWord (x : Tile) : (x.advance).waitWord = x.waitWord := rfl
@[simp] theorem Tile.advance_heldWave (x : Tile) : (x.advance).heldWave = x.heldWave := rfl
@[simp] theorem Tile.advance_imem (x : Tile) : (x.advance).imem = x.imem := rfl
@[simp] theorem Tile.advance_wb (x : Tile) : (x.advance).wb = x.wb := rfl
@[simp] theorem Tile.advance_slab (x : Tile) : (x.advance).slab = x.slab := rfl
@[simp] theorem Tile.advance_ws (x : Tile) : (x.advance).ws = x.ws := rfl
@[simp] theorem Tile.advance_slots (x : Tile) : (x.advance).slots = x.slots := rfl
@[simp] theorem Tile.advance_blockEnds (x : Tile) : (x.advance).blockEnds = x.blockEnds := rfl
@[simp] theorem Tile.advance_passes (x : Tile) : (x.advance).passes = x.passes := rfl
@[simp] theorem Tile.advance_written (x : Tile) : (x.advance).written = x.written := rfl
@[simp] theorem Tile.advance_tables (x : Tile) : (x.advance).tables = x.tables := rfl
@[simp] theorem Tile.advance_killed (x : Tile) : (x.advance).killed = x.killed := rfl
@[simp] theorem Tile.advance_pigeonholes (x : Tile) : (x.advance).pigeonholes = x.pigeonholes := rfl
@[simp] theorem Tile.advance_takes (x : Tile) : (x.advance).takes = x.takes := rfl
@[simp] theorem Tile.advance_credits (x : Tile) : (x.advance).credits = x.credits := rfl
@[simp] theorem Tile.advance_templates (x : Tile) : (x.advance).templates = x.templates := rfl
@[simp] theorem Tile.advance_landings (x : Tile) : (x.advance).landings = x.landings := rfl
@[simp] theorem Tile.advance_circulars (x : Tile) : (x.advance).circulars = x.circulars := rfl
@[simp] theorem Tile.advance_descq (x : Tile) : (x.advance).descq = x.descq := rfl
@[simp] theorem Tile.advance_running (x : Tile) : (x.advance).running = x.running := rfl
@[simp] theorem Tile.advance_served (x : Tile) : (x.advance).served = x.served := rfl
@[simp] theorem Tile.advance_sb (x : Tile) : (x.advance).sb = x.sb := rfl
@[simp] theorem Tile.advance_router (x : Tile) : (x.advance).router = x.router := rfl
@[simp] theorem Tile.advance_inbox (x : Tile) : (x.advance).inbox = x.inbox := rfl
@[simp] theorem Tile.advance_cardHold (x : Tile) : (x.advance).cardHold = x.cardHold := rfl
@[simp] theorem Tile.advance_latches (x : Tile) : (x.advance).latches = x.latches := rfl
@[simp] theorem Tile.advance_lastFirefly (x : Tile) : (x.advance).lastFirefly = x.lastFirefly := rfl
@[simp] theorem Tile.advance_cardTime (x : Tile) : (x.advance).cardTime = x.cardTime := rfl
@[simp] theorem Tile.advance_cardsThen (x : Tile) : (x.advance).cardsThen = x.cardsThen := rfl
@[simp] theorem Tile.advance_purge (x : Tile) : (x.advance).purge = x.purge := rfl
@[simp] theorem Tile.advance_owners (x : Tile) : (x.advance).owners = x.owners := rfl
@[simp] theorem Tile.advance_weevils (x : Tile) : (x.advance).weevils = x.weevils := rfl
@[simp] theorem Tile.advance_shareScores (x : Tile) : (x.advance).shareScores = x.shareScores := rfl
@[simp] theorem Tile.advance_sampler (x : Tile) : (x.advance).sampler = x.sampler := rfl
@[simp] theorem Tile.advance_regBlocks (x : Tile) : (x.advance).regBlocks = x.regBlocks := rfl
@[simp] theorem Tile.advance_maxDwell (x : Tile) : (x.advance).maxDwell = x.maxDwell := rfl
@[simp] theorem Tile.advance_scrubGroup (x : Tile) : (x.advance).scrubGroup = x.scrubGroup := rfl
@[simp] theorem Tile.advance_seqFault (x : Tile) : (x.advance).seqFault = x.seqFault := rfl
@[simp] theorem Tile.advance_lastCause (x : Tile) : (x.advance).lastCause = x.lastCause := rfl
@[simp] theorem Tile.advance_finFlags (x : Tile) : (x.advance).finFlags = x.finFlags := rfl
@[simp] theorem Tile.advance_seqWord (x : Tile) : (x.advance).seqWord = x.seqWord := rfl
@[simp] theorem Tile.advance_overrun (x : Tile) : (x.advance).overrun = x.overrun := rfl
@[simp] theorem Tile.advance_hazards (x : Tile) : (x.advance).hazards = x.hazards := rfl
@[simp] theorem Tile.advance_tallyTotal (x : Tile) : (x.advance).tallyTotal = x.tallyTotal := rfl
@[simp] theorem Tile.advance_tallyTimes (x : Tile) : (x.advance).tallyTimes = x.tallyTimes := rfl
@[simp] theorem Tile.advance_facing (x : Tile) : (x.advance).facing = x.facing := rfl
@[simp] theorem Tile.advance_bankConflicts (x : Tile) : (x.advance).bankConflicts = x.bankConflicts := rfl
@[simp] theorem Tile.advance_conflictLast (x : Tile) : (x.advance).conflictLast = x.conflictLast := rfl
@[simp] theorem Tile.advance_steals (x : Tile) : (x.advance).steals = x.steals := rfl
@[simp] theorem Tile.advance_double (x : Tile) : (x.advance).double = x.double := rfl
@[simp] theorem Tile.advance_memFault (x : Tile) : (x.advance).memFault = x.memFault := rfl
@[simp] theorem Tile.advance_creditStalls (x : Tile) : (x.advance).creditStalls = x.creditStalls := rfl
@[simp] theorem Tile.advance_deferrals (x : Tile) : (x.advance).deferrals = x.deferrals := rfl
@[simp] theorem Tile.advance_eccSlab (x : Tile) : (x.advance).eccSlab = x.eccSlab := rfl
@[simp] theorem Tile.advance_eccSram (x : Tile) : (x.advance).eccSram = x.eccSram := rfl
@[simp] theorem Tile.advance_netFault (x : Tile) : (x.advance).netFault = x.netFault := rfl
@[simp] theorem Tile.advance_nodeWaits (x : Tile) : (x.advance).nodeWaits = x.nodeWaits := rfl
@[simp] theorem Tile.advance_mcWaits (x : Tile) : (x.advance).mcWaits = x.mcWaits := rfl
@[simp] theorem Tile.advance_sent (x : Tile) : (x.advance).sent = x.sent := rfl
@[simp] theorem Tile.advance_ownFault (x : Tile) : (x.advance).ownFault = x.ownFault := rfl
@[simp] theorem Tile.advance_ownSession (x : Tile) : (x.advance).ownSession = x.ownSession := rfl
@[simp] theorem Tile.advance_overWaves (x : Tile) : (x.advance).overWaves = x.overWaves := rfl
@[simp] theorem Tile.advance_regCount (x : Tile) : (x.advance).regCount = x.regCount := rfl
@[simp] theorem Tile.advance_uncorrTimes (x : Tile) : (x.advance).uncorrTimes = x.uncorrTimes := rfl
@[simp] theorem Tile.branchTo_s (x : Tile) (p : BitVec 12) : (x.branchTo p).s = x.s := rfl
@[simp] theorem Tile.branchTo_a (x : Tile) (p : BitVec 12) : (x.branchTo p).a = x.a := rfl
@[simp] theorem Tile.branchTo_ctx (x : Tile) (p : BitVec 12) : (x.branchTo p).ctx = x.ctx := rfl
@[simp] theorem Tile.branchTo_begun (x : Tile) (p : BitVec 12) : (x.branchTo p).begun = x.begun := rfl
@[simp] theorem Tile.branchTo_entry (x : Tile) (p : BitVec 12) : (x.branchTo p).entry = x.entry := rfl
@[simp] theorem Tile.branchTo_seq (x : Tile) (p : BitVec 12) : (x.branchTo p).seq = x.seq := rfl
@[simp] theorem Tile.branchTo_test (x : Tile) (p : BitVec 12) : (x.branchTo p).test = x.test := rfl
@[simp] theorem Tile.branchTo_waitWord (x : Tile) (p : BitVec 12) : (x.branchTo p).waitWord = x.waitWord := rfl
@[simp] theorem Tile.branchTo_heldWave (x : Tile) (p : BitVec 12) : (x.branchTo p).heldWave = x.heldWave := rfl
@[simp] theorem Tile.branchTo_imem (x : Tile) (p : BitVec 12) : (x.branchTo p).imem = x.imem := rfl
@[simp] theorem Tile.branchTo_wb (x : Tile) (p : BitVec 12) : (x.branchTo p).wb = x.wb := rfl
@[simp] theorem Tile.branchTo_slab (x : Tile) (p : BitVec 12) : (x.branchTo p).slab = x.slab := rfl
@[simp] theorem Tile.branchTo_ws (x : Tile) (p : BitVec 12) : (x.branchTo p).ws = x.ws := rfl
@[simp] theorem Tile.branchTo_slots (x : Tile) (p : BitVec 12) : (x.branchTo p).slots = x.slots := rfl
@[simp] theorem Tile.branchTo_blockEnds (x : Tile) (p : BitVec 12) : (x.branchTo p).blockEnds = x.blockEnds := rfl
@[simp] theorem Tile.branchTo_passes (x : Tile) (p : BitVec 12) : (x.branchTo p).passes = x.passes := rfl
@[simp] theorem Tile.branchTo_written (x : Tile) (p : BitVec 12) : (x.branchTo p).written = x.written := rfl
@[simp] theorem Tile.branchTo_tables (x : Tile) (p : BitVec 12) : (x.branchTo p).tables = x.tables := rfl
@[simp] theorem Tile.branchTo_killed (x : Tile) (p : BitVec 12) : (x.branchTo p).killed = x.killed := rfl
@[simp] theorem Tile.branchTo_pigeonholes (x : Tile) (p : BitVec 12) : (x.branchTo p).pigeonholes = x.pigeonholes := rfl
@[simp] theorem Tile.branchTo_takes (x : Tile) (p : BitVec 12) : (x.branchTo p).takes = x.takes := rfl
@[simp] theorem Tile.branchTo_credits (x : Tile) (p : BitVec 12) : (x.branchTo p).credits = x.credits := rfl
@[simp] theorem Tile.branchTo_templates (x : Tile) (p : BitVec 12) : (x.branchTo p).templates = x.templates := rfl
@[simp] theorem Tile.branchTo_landings (x : Tile) (p : BitVec 12) : (x.branchTo p).landings = x.landings := rfl
@[simp] theorem Tile.branchTo_circulars (x : Tile) (p : BitVec 12) : (x.branchTo p).circulars = x.circulars := rfl
@[simp] theorem Tile.branchTo_descq (x : Tile) (p : BitVec 12) : (x.branchTo p).descq = x.descq := rfl
@[simp] theorem Tile.branchTo_running (x : Tile) (p : BitVec 12) : (x.branchTo p).running = x.running := rfl
@[simp] theorem Tile.branchTo_served (x : Tile) (p : BitVec 12) : (x.branchTo p).served = x.served := rfl
@[simp] theorem Tile.branchTo_sb (x : Tile) (p : BitVec 12) : (x.branchTo p).sb = x.sb := rfl
@[simp] theorem Tile.branchTo_router (x : Tile) (p : BitVec 12) : (x.branchTo p).router = x.router := rfl
@[simp] theorem Tile.branchTo_inbox (x : Tile) (p : BitVec 12) : (x.branchTo p).inbox = x.inbox := rfl
@[simp] theorem Tile.branchTo_cardHold (x : Tile) (p : BitVec 12) : (x.branchTo p).cardHold = x.cardHold := rfl
@[simp] theorem Tile.branchTo_latches (x : Tile) (p : BitVec 12) : (x.branchTo p).latches = x.latches := rfl
@[simp] theorem Tile.branchTo_lastFirefly (x : Tile) (p : BitVec 12) : (x.branchTo p).lastFirefly = x.lastFirefly := rfl
@[simp] theorem Tile.branchTo_cardTime (x : Tile) (p : BitVec 12) : (x.branchTo p).cardTime = x.cardTime := rfl
@[simp] theorem Tile.branchTo_cardsThen (x : Tile) (p : BitVec 12) : (x.branchTo p).cardsThen = x.cardsThen := rfl
@[simp] theorem Tile.branchTo_purge (x : Tile) (p : BitVec 12) : (x.branchTo p).purge = x.purge := rfl
@[simp] theorem Tile.branchTo_owners (x : Tile) (p : BitVec 12) : (x.branchTo p).owners = x.owners := rfl
@[simp] theorem Tile.branchTo_weevils (x : Tile) (p : BitVec 12) : (x.branchTo p).weevils = x.weevils := rfl
@[simp] theorem Tile.branchTo_shareScores (x : Tile) (p : BitVec 12) : (x.branchTo p).shareScores = x.shareScores := rfl
@[simp] theorem Tile.branchTo_sampler (x : Tile) (p : BitVec 12) : (x.branchTo p).sampler = x.sampler := rfl
@[simp] theorem Tile.branchTo_regBlocks (x : Tile) (p : BitVec 12) : (x.branchTo p).regBlocks = x.regBlocks := rfl
@[simp] theorem Tile.branchTo_maxDwell (x : Tile) (p : BitVec 12) : (x.branchTo p).maxDwell = x.maxDwell := rfl
@[simp] theorem Tile.branchTo_scrubGroup (x : Tile) (p : BitVec 12) : (x.branchTo p).scrubGroup = x.scrubGroup := rfl
@[simp] theorem Tile.branchTo_seqFault (x : Tile) (p : BitVec 12) : (x.branchTo p).seqFault = x.seqFault := rfl
@[simp] theorem Tile.branchTo_lastCause (x : Tile) (p : BitVec 12) : (x.branchTo p).lastCause = x.lastCause := rfl
@[simp] theorem Tile.branchTo_finFlags (x : Tile) (p : BitVec 12) : (x.branchTo p).finFlags = x.finFlags := rfl
@[simp] theorem Tile.branchTo_seqWord (x : Tile) (p : BitVec 12) : (x.branchTo p).seqWord = x.seqWord := rfl
@[simp] theorem Tile.branchTo_overrun (x : Tile) (p : BitVec 12) : (x.branchTo p).overrun = x.overrun := rfl
@[simp] theorem Tile.branchTo_hazards (x : Tile) (p : BitVec 12) : (x.branchTo p).hazards = x.hazards := rfl
@[simp] theorem Tile.branchTo_tallyTotal (x : Tile) (p : BitVec 12) : (x.branchTo p).tallyTotal = x.tallyTotal := rfl
@[simp] theorem Tile.branchTo_tallyTimes (x : Tile) (p : BitVec 12) : (x.branchTo p).tallyTimes = x.tallyTimes := rfl
@[simp] theorem Tile.branchTo_facing (x : Tile) (p : BitVec 12) : (x.branchTo p).facing = x.facing := rfl
@[simp] theorem Tile.branchTo_bankConflicts (x : Tile) (p : BitVec 12) : (x.branchTo p).bankConflicts = x.bankConflicts := rfl
@[simp] theorem Tile.branchTo_conflictLast (x : Tile) (p : BitVec 12) : (x.branchTo p).conflictLast = x.conflictLast := rfl
@[simp] theorem Tile.branchTo_steals (x : Tile) (p : BitVec 12) : (x.branchTo p).steals = x.steals := rfl
@[simp] theorem Tile.branchTo_double (x : Tile) (p : BitVec 12) : (x.branchTo p).double = x.double := rfl
@[simp] theorem Tile.branchTo_memFault (x : Tile) (p : BitVec 12) : (x.branchTo p).memFault = x.memFault := rfl
@[simp] theorem Tile.branchTo_creditStalls (x : Tile) (p : BitVec 12) : (x.branchTo p).creditStalls = x.creditStalls := rfl
@[simp] theorem Tile.branchTo_deferrals (x : Tile) (p : BitVec 12) : (x.branchTo p).deferrals = x.deferrals := rfl
@[simp] theorem Tile.branchTo_eccSlab (x : Tile) (p : BitVec 12) : (x.branchTo p).eccSlab = x.eccSlab := rfl
@[simp] theorem Tile.branchTo_eccSram (x : Tile) (p : BitVec 12) : (x.branchTo p).eccSram = x.eccSram := rfl
@[simp] theorem Tile.branchTo_netFault (x : Tile) (p : BitVec 12) : (x.branchTo p).netFault = x.netFault := rfl
@[simp] theorem Tile.branchTo_nodeWaits (x : Tile) (p : BitVec 12) : (x.branchTo p).nodeWaits = x.nodeWaits := rfl
@[simp] theorem Tile.branchTo_mcWaits (x : Tile) (p : BitVec 12) : (x.branchTo p).mcWaits = x.mcWaits := rfl
@[simp] theorem Tile.branchTo_sent (x : Tile) (p : BitVec 12) : (x.branchTo p).sent = x.sent := rfl
@[simp] theorem Tile.branchTo_ownFault (x : Tile) (p : BitVec 12) : (x.branchTo p).ownFault = x.ownFault := rfl
@[simp] theorem Tile.branchTo_ownSession (x : Tile) (p : BitVec 12) : (x.branchTo p).ownSession = x.ownSession := rfl
@[simp] theorem Tile.branchTo_overWaves (x : Tile) (p : BitVec 12) : (x.branchTo p).overWaves = x.overWaves := rfl
@[simp] theorem Tile.branchTo_regCount (x : Tile) (p : BitVec 12) : (x.branchTo p).regCount = x.regCount := rfl
@[simp] theorem Tile.branchTo_uncorrTimes (x : Tile) (p : BitVec 12) : (x.branchTo p).uncorrTimes = x.uncorrTimes := rfl
@[simp] theorem Tile.setS_a (x : Tile) (r : BitVec 5) (v : Word) : (x.setS r v).a = x.a := by unfold Tile.setS; split <;> rfl
@[simp] theorem Tile.setS_pc (x : Tile) (r : BitVec 5) (v : Word) : (x.setS r v).pc = x.pc := by unfold Tile.setS; split <;> rfl
@[simp] theorem Tile.setS_loops (x : Tile) (r : BitVec 5) (v : Word) : (x.setS r v).loops = x.loops := by unfold Tile.setS; split <;> rfl
@[simp] theorem Tile.setS_ctx (x : Tile) (r : BitVec 5) (v : Word) : (x.setS r v).ctx = x.ctx := by unfold Tile.setS; split <;> rfl
@[simp] theorem Tile.setS_begun (x : Tile) (r : BitVec 5) (v : Word) : (x.setS r v).begun = x.begun := by unfold Tile.setS; split <;> rfl
@[simp] theorem Tile.setS_entry (x : Tile) (r : BitVec 5) (v : Word) : (x.setS r v).entry = x.entry := by unfold Tile.setS; split <;> rfl
@[simp] theorem Tile.setS_issueq (x : Tile) (r : BitVec 5) (v : Word) : (x.setS r v).issueq = x.issueq := by unfold Tile.setS; split <;> rfl
@[simp] theorem Tile.setS_seq (x : Tile) (r : BitVec 5) (v : Word) : (x.setS r v).seq = x.seq := by unfold Tile.setS; split <;> rfl
@[simp] theorem Tile.setS_test (x : Tile) (r : BitVec 5) (v : Word) : (x.setS r v).test = x.test := by unfold Tile.setS; split <;> rfl
@[simp] theorem Tile.setS_wait (x : Tile) (r : BitVec 5) (v : Word) : (x.setS r v).wait = x.wait := by unfold Tile.setS; split <;> rfl
@[simp] theorem Tile.setS_waitWord (x : Tile) (r : BitVec 5) (v : Word) : (x.setS r v).waitWord = x.waitWord := by unfold Tile.setS; split <;> rfl
@[simp] theorem Tile.setS_heldWave (x : Tile) (r : BitVec 5) (v : Word) : (x.setS r v).heldWave = x.heldWave := by unfold Tile.setS; split <;> rfl
@[simp] theorem Tile.setS_imem (x : Tile) (r : BitVec 5) (v : Word) : (x.setS r v).imem = x.imem := by unfold Tile.setS; split <;> rfl
@[simp] theorem Tile.setS_wb (x : Tile) (r : BitVec 5) (v : Word) : (x.setS r v).wb = x.wb := by unfold Tile.setS; split <;> rfl
@[simp] theorem Tile.setS_slab (x : Tile) (r : BitVec 5) (v : Word) : (x.setS r v).slab = x.slab := by unfold Tile.setS; split <;> rfl
@[simp] theorem Tile.setS_ws (x : Tile) (r : BitVec 5) (v : Word) : (x.setS r v).ws = x.ws := by unfold Tile.setS; split <;> rfl
@[simp] theorem Tile.setS_slots (x : Tile) (r : BitVec 5) (v : Word) : (x.setS r v).slots = x.slots := by unfold Tile.setS; split <;> rfl
@[simp] theorem Tile.setS_blockEnds (x : Tile) (r : BitVec 5) (v : Word) : (x.setS r v).blockEnds = x.blockEnds := by unfold Tile.setS; split <;> rfl
@[simp] theorem Tile.setS_passes (x : Tile) (r : BitVec 5) (v : Word) : (x.setS r v).passes = x.passes := by unfold Tile.setS; split <;> rfl
@[simp] theorem Tile.setS_written (x : Tile) (r : BitVec 5) (v : Word) : (x.setS r v).written = x.written := by unfold Tile.setS; split <;> rfl
@[simp] theorem Tile.setS_tables (x : Tile) (r : BitVec 5) (v : Word) : (x.setS r v).tables = x.tables := by unfold Tile.setS; split <;> rfl
@[simp] theorem Tile.setS_killed (x : Tile) (r : BitVec 5) (v : Word) : (x.setS r v).killed = x.killed := by unfold Tile.setS; split <;> rfl
@[simp] theorem Tile.setS_pigeonholes (x : Tile) (r : BitVec 5) (v : Word) : (x.setS r v).pigeonholes = x.pigeonholes := by unfold Tile.setS; split <;> rfl
@[simp] theorem Tile.setS_takes (x : Tile) (r : BitVec 5) (v : Word) : (x.setS r v).takes = x.takes := by unfold Tile.setS; split <;> rfl
@[simp] theorem Tile.setS_credits (x : Tile) (r : BitVec 5) (v : Word) : (x.setS r v).credits = x.credits := by unfold Tile.setS; split <;> rfl
@[simp] theorem Tile.setS_templates (x : Tile) (r : BitVec 5) (v : Word) : (x.setS r v).templates = x.templates := by unfold Tile.setS; split <;> rfl
@[simp] theorem Tile.setS_landings (x : Tile) (r : BitVec 5) (v : Word) : (x.setS r v).landings = x.landings := by unfold Tile.setS; split <;> rfl
@[simp] theorem Tile.setS_circulars (x : Tile) (r : BitVec 5) (v : Word) : (x.setS r v).circulars = x.circulars := by unfold Tile.setS; split <;> rfl
@[simp] theorem Tile.setS_descq (x : Tile) (r : BitVec 5) (v : Word) : (x.setS r v).descq = x.descq := by unfold Tile.setS; split <;> rfl
@[simp] theorem Tile.setS_running (x : Tile) (r : BitVec 5) (v : Word) : (x.setS r v).running = x.running := by unfold Tile.setS; split <;> rfl
@[simp] theorem Tile.setS_served (x : Tile) (r : BitVec 5) (v : Word) : (x.setS r v).served = x.served := by unfold Tile.setS; split <;> rfl
@[simp] theorem Tile.setS_sb (x : Tile) (r : BitVec 5) (v : Word) : (x.setS r v).sb = x.sb := by unfold Tile.setS; split <;> rfl
@[simp] theorem Tile.setS_router (x : Tile) (r : BitVec 5) (v : Word) : (x.setS r v).router = x.router := by unfold Tile.setS; split <;> rfl
@[simp] theorem Tile.setS_inbox (x : Tile) (r : BitVec 5) (v : Word) : (x.setS r v).inbox = x.inbox := by unfold Tile.setS; split <;> rfl
@[simp] theorem Tile.setS_cardHold (x : Tile) (r : BitVec 5) (v : Word) : (x.setS r v).cardHold = x.cardHold := by unfold Tile.setS; split <;> rfl
@[simp] theorem Tile.setS_latches (x : Tile) (r : BitVec 5) (v : Word) : (x.setS r v).latches = x.latches := by unfold Tile.setS; split <;> rfl
@[simp] theorem Tile.setS_lastFirefly (x : Tile) (r : BitVec 5) (v : Word) : (x.setS r v).lastFirefly = x.lastFirefly := by unfold Tile.setS; split <;> rfl
@[simp] theorem Tile.setS_cardTime (x : Tile) (r : BitVec 5) (v : Word) : (x.setS r v).cardTime = x.cardTime := by unfold Tile.setS; split <;> rfl
@[simp] theorem Tile.setS_cardsThen (x : Tile) (r : BitVec 5) (v : Word) : (x.setS r v).cardsThen = x.cardsThen := by unfold Tile.setS; split <;> rfl
@[simp] theorem Tile.setS_purge (x : Tile) (r : BitVec 5) (v : Word) : (x.setS r v).purge = x.purge := by unfold Tile.setS; split <;> rfl
@[simp] theorem Tile.setS_owners (x : Tile) (r : BitVec 5) (v : Word) : (x.setS r v).owners = x.owners := by unfold Tile.setS; split <;> rfl
@[simp] theorem Tile.setS_weevils (x : Tile) (r : BitVec 5) (v : Word) : (x.setS r v).weevils = x.weevils := by unfold Tile.setS; split <;> rfl
@[simp] theorem Tile.setS_shareScores (x : Tile) (r : BitVec 5) (v : Word) : (x.setS r v).shareScores = x.shareScores := by unfold Tile.setS; split <;> rfl
@[simp] theorem Tile.setS_sampler (x : Tile) (r : BitVec 5) (v : Word) : (x.setS r v).sampler = x.sampler := by unfold Tile.setS; split <;> rfl
@[simp] theorem Tile.setS_regBlocks (x : Tile) (r : BitVec 5) (v : Word) : (x.setS r v).regBlocks = x.regBlocks := by unfold Tile.setS; split <;> rfl
@[simp] theorem Tile.setS_maxDwell (x : Tile) (r : BitVec 5) (v : Word) : (x.setS r v).maxDwell = x.maxDwell := by unfold Tile.setS; split <;> rfl
@[simp] theorem Tile.setS_scrubGroup (x : Tile) (r : BitVec 5) (v : Word) : (x.setS r v).scrubGroup = x.scrubGroup := by unfold Tile.setS; split <;> rfl
@[simp] theorem Tile.setS_seqFault (x : Tile) (r : BitVec 5) (v : Word) : (x.setS r v).seqFault = x.seqFault := by unfold Tile.setS; split <;> rfl
@[simp] theorem Tile.setS_lastCause (x : Tile) (r : BitVec 5) (v : Word) : (x.setS r v).lastCause = x.lastCause := by unfold Tile.setS; split <;> rfl
@[simp] theorem Tile.setS_finFlags (x : Tile) (r : BitVec 5) (v : Word) : (x.setS r v).finFlags = x.finFlags := by unfold Tile.setS; split <;> rfl
@[simp] theorem Tile.setS_seqWord (x : Tile) (r : BitVec 5) (v : Word) : (x.setS r v).seqWord = x.seqWord := by unfold Tile.setS; split <;> rfl
@[simp] theorem Tile.setS_overrun (x : Tile) (r : BitVec 5) (v : Word) : (x.setS r v).overrun = x.overrun := by unfold Tile.setS; split <;> rfl
@[simp] theorem Tile.setS_hazards (x : Tile) (r : BitVec 5) (v : Word) : (x.setS r v).hazards = x.hazards := by unfold Tile.setS; split <;> rfl
@[simp] theorem Tile.setS_tallyTotal (x : Tile) (r : BitVec 5) (v : Word) : (x.setS r v).tallyTotal = x.tallyTotal := by unfold Tile.setS; split <;> rfl
@[simp] theorem Tile.setS_tallyTimes (x : Tile) (r : BitVec 5) (v : Word) : (x.setS r v).tallyTimes = x.tallyTimes := by unfold Tile.setS; split <;> rfl
@[simp] theorem Tile.setS_facing (x : Tile) (r : BitVec 5) (v : Word) : (x.setS r v).facing = x.facing := by unfold Tile.setS; split <;> rfl
@[simp] theorem Tile.setS_bankConflicts (x : Tile) (r : BitVec 5) (v : Word) : (x.setS r v).bankConflicts = x.bankConflicts := by unfold Tile.setS; split <;> rfl
@[simp] theorem Tile.setS_conflictLast (x : Tile) (r : BitVec 5) (v : Word) : (x.setS r v).conflictLast = x.conflictLast := by unfold Tile.setS; split <;> rfl
@[simp] theorem Tile.setS_steals (x : Tile) (r : BitVec 5) (v : Word) : (x.setS r v).steals = x.steals := by unfold Tile.setS; split <;> rfl
@[simp] theorem Tile.setS_double (x : Tile) (r : BitVec 5) (v : Word) : (x.setS r v).double = x.double := by unfold Tile.setS; split <;> rfl
@[simp] theorem Tile.setS_memFault (x : Tile) (r : BitVec 5) (v : Word) : (x.setS r v).memFault = x.memFault := by unfold Tile.setS; split <;> rfl
@[simp] theorem Tile.setS_creditStalls (x : Tile) (r : BitVec 5) (v : Word) : (x.setS r v).creditStalls = x.creditStalls := by unfold Tile.setS; split <;> rfl
@[simp] theorem Tile.setS_deferrals (x : Tile) (r : BitVec 5) (v : Word) : (x.setS r v).deferrals = x.deferrals := by unfold Tile.setS; split <;> rfl
@[simp] theorem Tile.setS_eccSlab (x : Tile) (r : BitVec 5) (v : Word) : (x.setS r v).eccSlab = x.eccSlab := by unfold Tile.setS; split <;> rfl
@[simp] theorem Tile.setS_eccSram (x : Tile) (r : BitVec 5) (v : Word) : (x.setS r v).eccSram = x.eccSram := by unfold Tile.setS; split <;> rfl
@[simp] theorem Tile.setS_netFault (x : Tile) (r : BitVec 5) (v : Word) : (x.setS r v).netFault = x.netFault := by unfold Tile.setS; split <;> rfl
@[simp] theorem Tile.setS_nodeWaits (x : Tile) (r : BitVec 5) (v : Word) : (x.setS r v).nodeWaits = x.nodeWaits := by unfold Tile.setS; split <;> rfl
@[simp] theorem Tile.setS_mcWaits (x : Tile) (r : BitVec 5) (v : Word) : (x.setS r v).mcWaits = x.mcWaits := by unfold Tile.setS; split <;> rfl
@[simp] theorem Tile.setS_sent (x : Tile) (r : BitVec 5) (v : Word) : (x.setS r v).sent = x.sent := by unfold Tile.setS; split <;> rfl
@[simp] theorem Tile.setS_ownFault (x : Tile) (r : BitVec 5) (v : Word) : (x.setS r v).ownFault = x.ownFault := by unfold Tile.setS; split <;> rfl
@[simp] theorem Tile.setS_ownSession (x : Tile) (r : BitVec 5) (v : Word) : (x.setS r v).ownSession = x.ownSession := by unfold Tile.setS; split <;> rfl
@[simp] theorem Tile.setS_overWaves (x : Tile) (r : BitVec 5) (v : Word) : (x.setS r v).overWaves = x.overWaves := by unfold Tile.setS; split <;> rfl
@[simp] theorem Tile.setS_regCount (x : Tile) (r : BitVec 5) (v : Word) : (x.setS r v).regCount = x.regCount := by unfold Tile.setS; split <;> rfl
@[simp] theorem Tile.setS_uncorrTimes (x : Tile) (r : BitVec 5) (v : Word) : (x.setS r v).uncorrTimes = x.uncorrTimes := by unfold Tile.setS; split <;> rfl
@[simp] theorem Tile.setA_s (x : Tile) (r : BitVec 4) (v : Word) : (x.setA r v).s = x.s := by unfold Tile.setA; split <;> rfl
@[simp] theorem Tile.setA_pc (x : Tile) (r : BitVec 4) (v : Word) : (x.setA r v).pc = x.pc := by unfold Tile.setA; split <;> rfl
@[simp] theorem Tile.setA_loops (x : Tile) (r : BitVec 4) (v : Word) : (x.setA r v).loops = x.loops := by unfold Tile.setA; split <;> rfl
@[simp] theorem Tile.setA_ctx (x : Tile) (r : BitVec 4) (v : Word) : (x.setA r v).ctx = x.ctx := by unfold Tile.setA; split <;> rfl
@[simp] theorem Tile.setA_begun (x : Tile) (r : BitVec 4) (v : Word) : (x.setA r v).begun = x.begun := by unfold Tile.setA; split <;> rfl
@[simp] theorem Tile.setA_entry (x : Tile) (r : BitVec 4) (v : Word) : (x.setA r v).entry = x.entry := by unfold Tile.setA; split <;> rfl
@[simp] theorem Tile.setA_issueq (x : Tile) (r : BitVec 4) (v : Word) : (x.setA r v).issueq = x.issueq := by unfold Tile.setA; split <;> rfl
@[simp] theorem Tile.setA_seq (x : Tile) (r : BitVec 4) (v : Word) : (x.setA r v).seq = x.seq := by unfold Tile.setA; split <;> rfl
@[simp] theorem Tile.setA_test (x : Tile) (r : BitVec 4) (v : Word) : (x.setA r v).test = x.test := by unfold Tile.setA; split <;> rfl
@[simp] theorem Tile.setA_wait (x : Tile) (r : BitVec 4) (v : Word) : (x.setA r v).wait = x.wait := by unfold Tile.setA; split <;> rfl
@[simp] theorem Tile.setA_waitWord (x : Tile) (r : BitVec 4) (v : Word) : (x.setA r v).waitWord = x.waitWord := by unfold Tile.setA; split <;> rfl
@[simp] theorem Tile.setA_heldWave (x : Tile) (r : BitVec 4) (v : Word) : (x.setA r v).heldWave = x.heldWave := by unfold Tile.setA; split <;> rfl
@[simp] theorem Tile.setA_imem (x : Tile) (r : BitVec 4) (v : Word) : (x.setA r v).imem = x.imem := by unfold Tile.setA; split <;> rfl
@[simp] theorem Tile.setA_wb (x : Tile) (r : BitVec 4) (v : Word) : (x.setA r v).wb = x.wb := by unfold Tile.setA; split <;> rfl
@[simp] theorem Tile.setA_slab (x : Tile) (r : BitVec 4) (v : Word) : (x.setA r v).slab = x.slab := by unfold Tile.setA; split <;> rfl
@[simp] theorem Tile.setA_ws (x : Tile) (r : BitVec 4) (v : Word) : (x.setA r v).ws = x.ws := by unfold Tile.setA; split <;> rfl
@[simp] theorem Tile.setA_slots (x : Tile) (r : BitVec 4) (v : Word) : (x.setA r v).slots = x.slots := by unfold Tile.setA; split <;> rfl
@[simp] theorem Tile.setA_blockEnds (x : Tile) (r : BitVec 4) (v : Word) : (x.setA r v).blockEnds = x.blockEnds := by unfold Tile.setA; split <;> rfl
@[simp] theorem Tile.setA_passes (x : Tile) (r : BitVec 4) (v : Word) : (x.setA r v).passes = x.passes := by unfold Tile.setA; split <;> rfl
@[simp] theorem Tile.setA_written (x : Tile) (r : BitVec 4) (v : Word) : (x.setA r v).written = x.written := by unfold Tile.setA; split <;> rfl
@[simp] theorem Tile.setA_tables (x : Tile) (r : BitVec 4) (v : Word) : (x.setA r v).tables = x.tables := by unfold Tile.setA; split <;> rfl
@[simp] theorem Tile.setA_killed (x : Tile) (r : BitVec 4) (v : Word) : (x.setA r v).killed = x.killed := by unfold Tile.setA; split <;> rfl
@[simp] theorem Tile.setA_pigeonholes (x : Tile) (r : BitVec 4) (v : Word) : (x.setA r v).pigeonholes = x.pigeonholes := by unfold Tile.setA; split <;> rfl
@[simp] theorem Tile.setA_takes (x : Tile) (r : BitVec 4) (v : Word) : (x.setA r v).takes = x.takes := by unfold Tile.setA; split <;> rfl
@[simp] theorem Tile.setA_credits (x : Tile) (r : BitVec 4) (v : Word) : (x.setA r v).credits = x.credits := by unfold Tile.setA; split <;> rfl
@[simp] theorem Tile.setA_templates (x : Tile) (r : BitVec 4) (v : Word) : (x.setA r v).templates = x.templates := by unfold Tile.setA; split <;> rfl
@[simp] theorem Tile.setA_landings (x : Tile) (r : BitVec 4) (v : Word) : (x.setA r v).landings = x.landings := by unfold Tile.setA; split <;> rfl
@[simp] theorem Tile.setA_circulars (x : Tile) (r : BitVec 4) (v : Word) : (x.setA r v).circulars = x.circulars := by unfold Tile.setA; split <;> rfl
@[simp] theorem Tile.setA_descq (x : Tile) (r : BitVec 4) (v : Word) : (x.setA r v).descq = x.descq := by unfold Tile.setA; split <;> rfl
@[simp] theorem Tile.setA_running (x : Tile) (r : BitVec 4) (v : Word) : (x.setA r v).running = x.running := by unfold Tile.setA; split <;> rfl
@[simp] theorem Tile.setA_served (x : Tile) (r : BitVec 4) (v : Word) : (x.setA r v).served = x.served := by unfold Tile.setA; split <;> rfl
@[simp] theorem Tile.setA_sb (x : Tile) (r : BitVec 4) (v : Word) : (x.setA r v).sb = x.sb := by unfold Tile.setA; split <;> rfl
@[simp] theorem Tile.setA_router (x : Tile) (r : BitVec 4) (v : Word) : (x.setA r v).router = x.router := by unfold Tile.setA; split <;> rfl
@[simp] theorem Tile.setA_inbox (x : Tile) (r : BitVec 4) (v : Word) : (x.setA r v).inbox = x.inbox := by unfold Tile.setA; split <;> rfl
@[simp] theorem Tile.setA_cardHold (x : Tile) (r : BitVec 4) (v : Word) : (x.setA r v).cardHold = x.cardHold := by unfold Tile.setA; split <;> rfl
@[simp] theorem Tile.setA_latches (x : Tile) (r : BitVec 4) (v : Word) : (x.setA r v).latches = x.latches := by unfold Tile.setA; split <;> rfl
@[simp] theorem Tile.setA_lastFirefly (x : Tile) (r : BitVec 4) (v : Word) : (x.setA r v).lastFirefly = x.lastFirefly := by unfold Tile.setA; split <;> rfl
@[simp] theorem Tile.setA_cardTime (x : Tile) (r : BitVec 4) (v : Word) : (x.setA r v).cardTime = x.cardTime := by unfold Tile.setA; split <;> rfl
@[simp] theorem Tile.setA_cardsThen (x : Tile) (r : BitVec 4) (v : Word) : (x.setA r v).cardsThen = x.cardsThen := by unfold Tile.setA; split <;> rfl
@[simp] theorem Tile.setA_purge (x : Tile) (r : BitVec 4) (v : Word) : (x.setA r v).purge = x.purge := by unfold Tile.setA; split <;> rfl
@[simp] theorem Tile.setA_owners (x : Tile) (r : BitVec 4) (v : Word) : (x.setA r v).owners = x.owners := by unfold Tile.setA; split <;> rfl
@[simp] theorem Tile.setA_weevils (x : Tile) (r : BitVec 4) (v : Word) : (x.setA r v).weevils = x.weevils := by unfold Tile.setA; split <;> rfl
@[simp] theorem Tile.setA_shareScores (x : Tile) (r : BitVec 4) (v : Word) : (x.setA r v).shareScores = x.shareScores := by unfold Tile.setA; split <;> rfl
@[simp] theorem Tile.setA_sampler (x : Tile) (r : BitVec 4) (v : Word) : (x.setA r v).sampler = x.sampler := by unfold Tile.setA; split <;> rfl
@[simp] theorem Tile.setA_regBlocks (x : Tile) (r : BitVec 4) (v : Word) : (x.setA r v).regBlocks = x.regBlocks := by unfold Tile.setA; split <;> rfl
@[simp] theorem Tile.setA_maxDwell (x : Tile) (r : BitVec 4) (v : Word) : (x.setA r v).maxDwell = x.maxDwell := by unfold Tile.setA; split <;> rfl
@[simp] theorem Tile.setA_scrubGroup (x : Tile) (r : BitVec 4) (v : Word) : (x.setA r v).scrubGroup = x.scrubGroup := by unfold Tile.setA; split <;> rfl
@[simp] theorem Tile.setA_seqFault (x : Tile) (r : BitVec 4) (v : Word) : (x.setA r v).seqFault = x.seqFault := by unfold Tile.setA; split <;> rfl
@[simp] theorem Tile.setA_lastCause (x : Tile) (r : BitVec 4) (v : Word) : (x.setA r v).lastCause = x.lastCause := by unfold Tile.setA; split <;> rfl
@[simp] theorem Tile.setA_finFlags (x : Tile) (r : BitVec 4) (v : Word) : (x.setA r v).finFlags = x.finFlags := by unfold Tile.setA; split <;> rfl
@[simp] theorem Tile.setA_seqWord (x : Tile) (r : BitVec 4) (v : Word) : (x.setA r v).seqWord = x.seqWord := by unfold Tile.setA; split <;> rfl
@[simp] theorem Tile.setA_overrun (x : Tile) (r : BitVec 4) (v : Word) : (x.setA r v).overrun = x.overrun := by unfold Tile.setA; split <;> rfl
@[simp] theorem Tile.setA_hazards (x : Tile) (r : BitVec 4) (v : Word) : (x.setA r v).hazards = x.hazards := by unfold Tile.setA; split <;> rfl
@[simp] theorem Tile.setA_tallyTotal (x : Tile) (r : BitVec 4) (v : Word) : (x.setA r v).tallyTotal = x.tallyTotal := by unfold Tile.setA; split <;> rfl
@[simp] theorem Tile.setA_tallyTimes (x : Tile) (r : BitVec 4) (v : Word) : (x.setA r v).tallyTimes = x.tallyTimes := by unfold Tile.setA; split <;> rfl
@[simp] theorem Tile.setA_facing (x : Tile) (r : BitVec 4) (v : Word) : (x.setA r v).facing = x.facing := by unfold Tile.setA; split <;> rfl
@[simp] theorem Tile.setA_bankConflicts (x : Tile) (r : BitVec 4) (v : Word) : (x.setA r v).bankConflicts = x.bankConflicts := by unfold Tile.setA; split <;> rfl
@[simp] theorem Tile.setA_conflictLast (x : Tile) (r : BitVec 4) (v : Word) : (x.setA r v).conflictLast = x.conflictLast := by unfold Tile.setA; split <;> rfl
@[simp] theorem Tile.setA_steals (x : Tile) (r : BitVec 4) (v : Word) : (x.setA r v).steals = x.steals := by unfold Tile.setA; split <;> rfl
@[simp] theorem Tile.setA_double (x : Tile) (r : BitVec 4) (v : Word) : (x.setA r v).double = x.double := by unfold Tile.setA; split <;> rfl
@[simp] theorem Tile.setA_memFault (x : Tile) (r : BitVec 4) (v : Word) : (x.setA r v).memFault = x.memFault := by unfold Tile.setA; split <;> rfl
@[simp] theorem Tile.setA_creditStalls (x : Tile) (r : BitVec 4) (v : Word) : (x.setA r v).creditStalls = x.creditStalls := by unfold Tile.setA; split <;> rfl
@[simp] theorem Tile.setA_deferrals (x : Tile) (r : BitVec 4) (v : Word) : (x.setA r v).deferrals = x.deferrals := by unfold Tile.setA; split <;> rfl
@[simp] theorem Tile.setA_eccSlab (x : Tile) (r : BitVec 4) (v : Word) : (x.setA r v).eccSlab = x.eccSlab := by unfold Tile.setA; split <;> rfl
@[simp] theorem Tile.setA_eccSram (x : Tile) (r : BitVec 4) (v : Word) : (x.setA r v).eccSram = x.eccSram := by unfold Tile.setA; split <;> rfl
@[simp] theorem Tile.setA_netFault (x : Tile) (r : BitVec 4) (v : Word) : (x.setA r v).netFault = x.netFault := by unfold Tile.setA; split <;> rfl
@[simp] theorem Tile.setA_nodeWaits (x : Tile) (r : BitVec 4) (v : Word) : (x.setA r v).nodeWaits = x.nodeWaits := by unfold Tile.setA; split <;> rfl
@[simp] theorem Tile.setA_mcWaits (x : Tile) (r : BitVec 4) (v : Word) : (x.setA r v).mcWaits = x.mcWaits := by unfold Tile.setA; split <;> rfl
@[simp] theorem Tile.setA_sent (x : Tile) (r : BitVec 4) (v : Word) : (x.setA r v).sent = x.sent := by unfold Tile.setA; split <;> rfl
@[simp] theorem Tile.setA_ownFault (x : Tile) (r : BitVec 4) (v : Word) : (x.setA r v).ownFault = x.ownFault := by unfold Tile.setA; split <;> rfl
@[simp] theorem Tile.setA_ownSession (x : Tile) (r : BitVec 4) (v : Word) : (x.setA r v).ownSession = x.ownSession := by unfold Tile.setA; split <;> rfl
@[simp] theorem Tile.setA_overWaves (x : Tile) (r : BitVec 4) (v : Word) : (x.setA r v).overWaves = x.overWaves := by unfold Tile.setA; split <;> rfl
@[simp] theorem Tile.setA_regCount (x : Tile) (r : BitVec 4) (v : Word) : (x.setA r v).regCount = x.regCount := by unfold Tile.setA; split <;> rfl
@[simp] theorem Tile.setA_uncorrTimes (x : Tile) (r : BitVec 4) (v : Word) : (x.setA r v).uncorrTimes = x.uncorrTimes := by unfold Tile.setA; split <;> rfl

/-! ## Registers of a tile (R232) -/

theorem Tile.sreg_zero (x : Tile) : x.sreg 0 = 0 := rfl
theorem Tile.areg_zero (x : Tile) : x.areg 0 = 0 := rfl

theorem Tile.sreg_setS (x : Tile) (d r : BitVec 5) (v : Word) :
    (x.setS d v).sreg r = if r = d ∧ r ≠ 0 then v else x.sreg r := by
  unfold Tile.sreg
  by_cases h0 : r = 0
  · rw [if_pos h0, if_neg (fun h => h.2 h0), if_pos h0]
  · rw [if_neg h0, if_neg h0]
    by_cases h : r = d
    · have hd : d ≠ 0 := h ▸ h0
      rw [if_pos ⟨h, h0⟩, Tile.setS, if_neg hd, h]
      exact Tbl.get_set_same _ _ _ _
    · rw [if_neg (fun e : r = d ∧ r ≠ 0 => h e.1)]
      unfold Tile.setS
      split
      · rfl
      · exact Tbl.get_set_other _ _ _ (fun e => h (BitVec.eq_of_toNat_eq e))

theorem Tile.areg_setA (x : Tile) (d r : BitVec 4) (v : Word) :
    (x.setA d v).areg r = if r = d ∧ r ≠ 0 then v else x.areg r := by
  unfold Tile.areg
  by_cases h0 : r = 0
  · rw [if_pos h0, if_neg (fun h => h.2 h0), if_pos h0]
  · rw [if_neg h0, if_neg h0]
    by_cases h : r = d
    · have hd : d ≠ 0 := h ▸ h0
      rw [if_pos ⟨h, h0⟩, Tile.setA, if_neg hd, h]
      exact Tbl.get_set_same _ _ _ _
    · rw [if_neg (fun e : r = d ∧ r ≠ 0 => h e.1)]
      unfold Tile.setA
      split
      · rfl
      · exact Tbl.get_set_other _ _ _ (fun e => h (BitVec.eq_of_toNat_eq e))

@[simp] theorem Tile.areg_setS (x : Tile) (d : BitVec 5) (r : BitVec 4) (v : Word) : (x.setS d v).areg r = x.areg r := by
  simp [Tile.areg]
@[simp] theorem Tile.sreg_setA (x : Tile) (d : BitVec 4) (r : BitVec 5) (v : Word) : (x.setA d v).sreg r = x.sreg r := by
  simp [Tile.sreg]
@[simp] theorem Tile.sreg_advance (x : Tile) (r : BitVec 5) : x.advance.sreg r = x.sreg r := rfl
@[simp] theorem Tile.areg_advance (x : Tile) (r : BitVec 4) : x.advance.areg r = x.areg r := rfl

end Sys2Proof.Machine
end

