-- ==== Sys2Proof/Laws/Ops.lean ====
section
/-! SUPPORT. What the shared operations can do, each said once: issue and a tile's faults, sending a card, the journal, the
checks of a letter, and the end of a letter. -/

namespace Sys2Proof.Machine

/-! ## Issue of one instruction (R238, R240, R267) -/

theorem tileExec_off (i : Instr) (t : TileId) (f : Tile → Attempt) (s : State) (h : s.issues t = false) :
    tileExec i t f s = .next s := by
  simp [tileExec, issue, h]

theorem tileExec_done (i : Instr) (t : TileId) (f : Tile → Attempt) (s : State) (y : Tile) (h : Issues i t s)
    (hf : f (s.tile t) = .done y) : tileExec i t f s = .next (s.putTile t y.advance) := by
  obtain ⟨h1, h2, h3⟩ := h
  simp [tileExec, issue, h1, h2, h3, hf]

theorem tileExec_goto (i : Instr) (t : TileId) (f : Tile → Attempt) (s : State) (y : Tile) (p : BitVec 12)
    (h : Issues i t s) (hf : f (s.tile t) = .goto y p) :
    tileExec i t f s = .next (s.putTile t (y.branchTo p)) := by
  obtain ⟨h1, h2, h3⟩ := h
  simp [tileExec, issue, h1, h2, h3, hf]

theorem tileExec_wait (i : Instr) (t : TileId) (f : Tile → Attempt) (s : State) (y : Tile) (k : WaitKind)
    (h : Issues i t s) (hf : f (s.tile t) = .wait y k) :
    tileExec i t f s = .next (s.putTile t { y.fetch with wait := k, waitWord := i.word }) := by
  obtain ⟨h1, h2, h3⟩ := h
  simp [tileExec, issue, h1, h2, h3, hf]

theorem tileExec_fault (i : Instr) (t : TileId) (f : Tile → Attempt) (s : State) (y : Tile) (e : TileFault)
    (h : Issues i t s) (hf : f (s.tile t) = .fault y e) :
    tileExec i t f s = .next (takeFault t e i.word (s.putTile t y.fetch)) := by
  obtain ⟨h1, h2, h3⟩ := h
  simp [tileExec, issue, h1, h2, h3, hf]

/-! ## The events of an access (R77, R107, R125) -/

theorem countClash_eq (c : Clash) (x : Tile) : countClash c x = { x with
    bankConflicts := (countClash c x).bankConflicts, conflictLast := (countClash c x).conflictLast } := rfl

theorem countEcc_eq (e : EccEvent) (x : Tile) : countEcc e x = { x with
    eccSram := (countEcc e x).eccSram, eccSlab := (countEcc e x).eccSlab } := by
  cases e <;> rfl

theorem countClashes_eq (cs : List Clash) (x : Tile) : cs.foldl (fun y c => countClash c y) x = { x with
    bankConflicts := (cs.foldl (fun y c => countClash c y) x).bankConflicts
    conflictLast := (cs.foldl (fun y c => countClash c y) x).conflictLast } := by
  induction cs generalizing x with
  | nil => rfl
  | cons c cs ih =>
    rw [List.foldl_cons, ih, countClash_eq c x]

theorem countEccs_eq (es : List EccEvent) (x : Tile) : es.foldl (fun y e => countEcc e y) x = { x with
    eccSram := (es.foldl (fun y e => countEcc e y) x).eccSram
    eccSlab := (es.foldl (fun y e => countEcc e y) x).eccSlab } := by
  induction es generalizing x with
  | nil => rfl
  | cons e es ih =>
    rw [List.foldl_cons, ih, countEcc_eq e x]

/-- The events of an access change no more than the counters that count them. -/
theorem intrude_eq (i : Intrusion) (x : Tile) : intrude i x = { x with
    bankConflicts := (intrude i x).bankConflicts, conflictLast := (intrude i x).conflictLast
    eccSram := (intrude i x).eccSram, eccSlab := (intrude i x).eccSlab
    deferrals := (intrude i x).deferrals, hazards := (intrude i x).hazards } := by
  unfold intrude
  dsimp only
  rw [countEccs_eq, countClashes_eq]

@[simp] theorem intrude_wb (i : Intrusion) (x : Tile) : (intrude i x).wb = x.wb := by rw [intrude_eq]
@[simp] theorem intrude_slab (i : Intrusion) (x : Tile) : (intrude i x).slab = x.slab := by rw [intrude_eq]
@[simp] theorem intrude_ws (i : Intrusion) (x : Tile) : (intrude i x).ws = x.ws := by rw [intrude_eq]
@[simp] theorem intrude_slot (i : Intrusion) (x : Tile) (n : Nat) : (intrude i x).slot n = x.slot n := by rw [intrude_eq]; rfl
@[simp] theorem intrude_sreg (i : Intrusion) (x : Tile) (r : BitVec 5) : (intrude i x).sreg r = x.sreg r := by rw [intrude_eq]; rfl
@[simp] theorem intrude_areg (i : Intrusion) (x : Tile) (r : BitVec 4) : (intrude i x).areg r = x.areg r := by rw [intrude_eq]; rfl
@[simp] theorem intrude_line (i : Intrusion) (x : Tile) (r : BitVec 4) : (intrude i x).line r = x.line r := by rw [intrude_eq]; rfl
@[simp] theorem intrude_readLine (i : Intrusion) (x : Tile) (m : BitVec 2) (l : Nat) : (intrude i x).readLine m l = x.readLine m l := by
  rw [intrude_eq]; rfl

/-- An access that nothing stops goes on with its events counted. -/
theorem accessing_on (i : Intrusion) (unit : BitVec 4) (x : Tile) (op : Tile → Attempt) (h : intrusionStops i unit = none) :
    accessing i unit x op = op (intrude i x) := by
  simp [accessing, h]

/-! ## One tile and the cards -/

/-- `u` is `s` but for tile `t` and the cards under way. -/
def OneTile (t : TileId) (s u : State) : Prop := SameButTiles s u ∧ ∀ v : TileId, v ≠ t → u.tile v = s.tile v

theorem OneTile.refl (t : TileId) (s : State) : OneTile t s s := ⟨⟨rfl, fun _ => rfl⟩, fun _ _ => rfl⟩

theorem OneTile.trans {t : TileId} {s u w : State} (h : OneTile t s u) (k : OneTile t u w) : OneTile t s w := by
  obtain ⟨⟨h1, h3⟩, h2⟩ := h
  obtain ⟨⟨k1, k3⟩, k2⟩ := k
  refine ⟨⟨?_, fun f => ?_⟩, fun v hv => (k2 v hv).trans (h2 v hv)⟩
  · rw [h1] at k1
    exact k1
  · rw [← h3 f, ← k3 f]

theorem OneTile.putTile (t : TileId) (x : Tile) (s : State) : OneTile t s (s.putTile t x) :=
  ⟨⟨rfl, fun _ => rfl⟩, fun _ hv => State.tile_putTile_other s x hv⟩

theorem OneTile.updTile (t : TileId) (f : Tile → Tile) (s : State) : OneTile t s (s.updTile t f) := OneTile.putTile t _ s

theorem OneTile.sendCard (t : TileId) (n : Nat) (c : Card) (s : State) : OneTile t s (Machine.sendCard n c s) := ⟨⟨rfl, fun _ => rfl⟩, fun _ _ => rfl⟩

theorem OneTile.tileSends (t : TileId) (c : Card) (s : State) : OneTile t s (Machine.tileSends t c s) :=
  (OneTile.updTile t _ s).trans (OneTile.sendCard t _ c _)

theorem OneTile.copyNote (t : TileId) (f : Nat) (c : Card) (s : State) : OneTile t s (Machine.copyNote f c s) := by
  refine ⟨⟨rfl, fun g => ?_⟩, fun _ _ => rfl⟩
  by_cases h : g = f
  · subst h
    simp [Machine.copyNote]
  · simp [Machine.copyNote, State.field_updField_other _ _ h]

@[simp] theorem copyNote_tile (f : Nat) (c : Card) (s : State) (t : TileId) : (copyNote f c s).tile t = s.tile t := rfl

@[simp] theorem tileSends_tile (t : TileId) (c : Card) (s : State) :
    (tileSends t c s).tile t = { s.tile t with sent := (s.tile t).sent + 1 } :=
  State.tile_updTile s t (fun x => { x with sent := x.sent + 1 })

theorem OneTile.takeFault (t : TileId) (e : TileFault) (w : BitVec 64) (s : State) : OneTile t s (Machine.takeFault t e w s) :=
  (OneTile.putTile t _ s).trans ((OneTile.tileSends t _ _).trans (OneTile.copyNote t _ _ _))

theorem OneTile.issue (t : TileId) (w : BitVec 64) (f : Tile → Attempt) (s : State) : OneTile t s (Machine.issue t w f s) := by
  unfold Machine.issue
  split
  · split
    · exact OneTile.putTile t _ s
    · exact OneTile.putTile t _ s
    · exact OneTile.putTile t _ s
    · exact (OneTile.putTile t _ s).trans (OneTile.takeFault t _ _ _)
  · exact OneTile.refl t s

/-! ## Taking a tile's fault (R267) -/

theorem takeFault_cards (t : TileId) (e : TileFault) (w : BitVec 64) (s : State) :
    (takeFault t e w s).dev.cards =
    s.dev.cards ++ [⟨srcTile t, faultNoteCard e.noteCause (s.tile t).noteWave t⟩] := rfl

theorem takeFault_seq (t : TileId) (e : TileFault) (w : BitVec 64) (s : State) : ((takeFault t e w s).tile t).seq =
    if (s.tile t).seq = .halted then .halted else .held := by
  simp [takeFault, takeFaultAt, takeFaultFor, sendFaultNote]

/-! ## The journal (R481, R486) -/

theorem journalAdd_records (kind : BitVec 16) (key : Word) (body : List Byte) (s : State)
    (h : s.journal.throttled = false ∨ (kind ≠ kindDump ∧ kind ≠ kindPower)) :
    (journalAdd kind key body s).journal.records = s.journal.records ++ [newRecord kind key body s] := by
  unfold journalAdd newRecord
  rcases h with h | ⟨h1, h2⟩
  · simp [h]
  · simp [h1, h2]

@[simp] theorem journalAdd_dev (kind : BitVec 16) (key : Word) (body : List Byte) (s : State) :
    (journalAdd kind key body s).dev = s.dev := by
  unfold journalAdd
  dsimp only
  split <;> rfl

@[simp] theorem journalAdd_tiles (kind : BitVec 16) (key : Word) (body : List Byte) (s : State) :
    (journalAdd kind key body s).tiles = s.tiles := by
  unfold journalAdd
  dsimp only
  split <;> rfl

@[simp] theorem journalAdd_fieldCtls (kind : BitVec 16) (key : Word) (body : List Byte) (s : State) :
    (journalAdd kind key body s).fieldCtls = s.fieldCtls := by
  unfold journalAdd
  dsimp only
  split <;> rfl

@[simp] theorem journalAdd_blocks (kind : BitVec 16) (key : Word) (body : List Byte) (s : State) :
    (journalAdd kind key body s).blocks = s.blocks := by
  unfold journalAdd
  dsimp only
  split <;> rfl

/-! ## Taking a letter in (R350) -/

theorem receive_off (op : BitVec 16) (l : Letter) (r : LetterRule) (act : LetterKey → State → State) (s : State)
    (h : s.accepting = false) : receive op l r act s = s := by
  simp [receive, h]

/-- A letter that passes every check has its action run on the state with it in flight. -/
theorem receive_accepted (op : BitVec 16) (l : Letter) (r : LetterRule) (act : LetterKey → State → State) (s : State)
    (h : Accepted op l r s) : receive op l r act s = act (letterKey l) (entered op l r s) := by
  obtain ⟨h1, h2, h3, h4, h5, h6⟩ := h
  simp [receive, entered, h1, h2, h3, h4, h5, h6]

/-- A letter that fails a check enters flight and ends at once with the check's status. -/
theorem receive_refused (op : BitVec 16) (l : Letter) (r : LetterRule) (act : LetterKey → State → State) (s : State)
    (st : BitVec 16) (h1 : s.accepting = true) (h2 : letterCrcOk op l = true) (h3 : l.version = 1)
    (h4 : s.inFlight (letterKey l) = false) (h5 : letterDevice l = s.dev.member)
    (h6 : firstBad (commonChecks op l r s) = some st) :
    receive op l r act s = finishLetter (letterKey l) st [] [] (enterLetter op l r s) := by
  simp [receive, h1, h2, h3, h4, h5, h6]

/-! ## The end of a letter (R337, R483) -/

theorem finishLetter_gone (k : LetterKey) (st : BitVec 16) (rs : List Byte) (ls : List Line) (s : State)
    (h : s.letter k = none) : finishLetter k st rs ls s = s := by
  simp [finishLetter, h]

theorem finishLetter_over (k : LetterKey) (st : BitVec 16) (rs : List Byte) (ls : List Line) (s : State) (r : LetterRec)
    (h : s.letter k = some r) (hf : r.finalStatus.isSome = true) : finishLetter k st rs ls s = s := by
  simp [finishLetter, h, hf]

/-- A letter that nothing audits and that waits for no commit sends its final receipt at once. -/
theorem finishLetter_sends (k : LetterKey) (st : BitVec 16) (rs : List Byte) (ls : List Line) (s : State) (r : LetterRec)
    (h : s.letter k = some r) (hf : r.finalStatus = none) (ha : r.audit = false) (hj : r.journalWait = false) :
    finishLetter k st rs ls s = sendFinal k st rs ls s := by
  simp [finishLetter, h, hf, auditLetter, ha, State.waitsCommit, hj]

end Sys2Proof.Machine
end

