-- ==== Sys2Proof/Laws/Transmit.lean ====
section
/-! SUPPORT. What sending can do: frames leave and slots move on the ports; the queue of commands, the tiles and every unit
but ports, adapters and the Postmaster's counts stay. -/

namespace Sys2Proof.Machine

/-- `u` is `s` but for its ports, its chiplets and the Postmaster. -/
def SameButLinks (s u : State) : Prop := u = { s with ports := u.ports, chiplets := u.chiplets, dev := u.dev }

theorem SameButLinks.refl (s : State) : SameButLinks s s := rfl

theorem SameButLinks.trans {s u w : State} (h : SameButLinks s u) (k : SameButLinks u w) : SameButLinks s w := by
  unfold SameButLinks at *
  rw [k, h]

theorem SameButLinks.putPort (s : State) (p : Nat) (x : LinkPort) : SameButLinks s (s.putPort p x) := rfl
theorem SameButLinks.updPort (s : State) (p : Nat) (f : LinkPort → LinkPort) : SameButLinks s (s.updPort p f) := rfl
theorem SameButLinks.updChiplet (s : State) (c : Nat) (f : Chiplet → Chiplet) : SameButLinks s (s.updChiplet c f) := rfl
theorem SameButLinks.updDev (s : State) (f : Dev → Dev) : SameButLinks s (s.updDev f) := rfl

theorem SameButLinks.foldl {α : Type} (f : State → α → State) (h : ∀ s a, SameButLinks s (f s a)) (as : List α) :
    ∀ s, SameButLinks s (as.foldl f s) := by
  induction as with
  | nil => exact fun s => .refl s
  | cons a as ih => exact fun s => (h s a).trans (ih _)

theorem SameButLinks.moveSlots (p : Nat) (b : Bool) (s : State) : SameButLinks s (Machine.moveSlots p b s) := by
  unfold Machine.moveSlots
  split
  · exact .refl s
  · exact (SameButLinks.putPort s _ _).trans (.updPort _ _ _)

theorem SameButLinks.moveFailed (s : State) (p : Nat) : SameButLinks s (Machine.moveFailed s p) := by
  unfold Machine.moveFailed
  split
  · exact (SameButLinks.moveSlots _ _ _).trans (.moveSlots _ _ _)
  · exact .refl s

theorem SameButLinks.queueAll (s : State) : SameButLinks s (Machine.queueAll s) := by
  have parcels : ∀ s c, SameButLinks s (queueParcels c s) := fun s c =>
    (SameButLinks.foldl _ (fun s _ => SameButLinks.updPort s _ _) _ s).trans (.updChiplet _ _ _)
  have receipts : ∀ s, SameButLinks s (queueReceipts s) := fun s =>
    (SameButLinks.foldl _ (fun s _ => SameButLinks.updPort s _ _) _ s).trans (.updDev _ _)
  have keeper : ∀ s, SameButLinks s (queueKeeper s) := by
    intro s
    unfold queueKeeper
    split
    · exact .refl s
    · exact (SameButLinks.updPort s _ _).trans (.updDev _ _)
  exact (((SameButLinks.foldl _ parcels _ s).trans (receipts _)).trans (keeper _)).trans (.foldl _ .moveFailed _ _)

theorem putPort_or {c : Prop} [Decidable c] (p : Nat) (s : State) (y : LinkPort) :
    ∃ x, (if c then s else s.putPort p y) = s ∨ (if c then s else s.putPort p y) = s.putPort p x := by
  by_cases h : c
  · exact ⟨y, .inl (if_pos h)⟩
  · exact ⟨y, .inr (if_neg h)⟩

/-- Sending a frame moves its own port only. -/
theorem sendFrame_port (s : State) (p : Nat) : ∃ x, sendFrame s p = s ∨ sendFrame s p = s.putPort p x := by
  unfold sendFrame
  simp only
  split
  · exact ⟨{}, .inl rfl⟩
  · split
    · exact ⟨_, .inr rfl⟩
    · exact putPort_or p s _

theorem SameButLinks.sendFrame (s : State) (p : Nat) : SameButLinks s (Machine.sendFrame s p) := by
  obtain ⟨x, h | h⟩ := sendFrame_port s p
  · rw [h]; exact .refl s
  · rw [h]; exact .putPort s p x

theorem SameButLinks.sendFrames (s : State) : SameButLinks s (Machine.sendFrames s) :=
  (SameButLinks.queueAll s).trans (.foldl _ .sendFrame _ _)

@[simp] theorem sendFrames_pending (s : State) : (sendFrames s).pending = s.pending := by rw [SameButLinks.sendFrames s]

@[simp] theorem sendFrames_tile (s : State) (t : TileId) : (sendFrames s).tile t = s.tile t := by
  rw [State.tile, SameButLinks.sendFrames s]; rfl

/-! ## Bytes and numbers -/

/-- A byte string is read back from its number. -/
theorem leBytes_leNat (bs : List Byte) : leBytes bs.length (leNat bs) = bs := by
  induction bs with
  | nil => rfl
  | cons b bs ih =>
    have h : BitVec.ofNat 8 (b.toNat + 256 * leNat bs) = b := by
      apply BitVec.eq_of_toNat_eq
      rw [BitVec.toNat_ofNat]
      have := b.isLt
      omega
    have d : (b.toNat + 256 * leNat bs) / 256 = leNat bs := by
      have := b.isLt
      omega
    rw [List.length_cons, leBytes, leNat, h, d, ih]

end Sys2Proof.Machine
end

