-- ==== Sys2Proof/Tests/Slice0.lean ====
section
/-! SUPPORT. Tests: ill-formed operands are refused, words written out from the encodings decode, and single steps give the
results that the manual states. -/

set_option Elab.async false

namespace Sys2Proof.Tests

open Sys2Proof Sys2Proof.Machine

/-! ## WellFormed refuses one ill-formed term for each of its checks -/

def fin0 : FinOps := ⟨1, 2, 3, false, false, 4, 0, 0⟩
def post0 : PostOps := ⟨0, 0, 0, 0, 0, 0, false, false, 0, 0, false, 0⟩
def pass0 : PassOps := ⟨1, 2, 1, 0, 0, 4, false, false, false, true, 0, false⟩
def sample0 : SampleOps := ⟨1, 2, 3, 4, 5, 0, 0⟩

/-- Operand B with IMM; an unused operand; F32 of LDW; MOVC's fields; address registers above a15; JMP's registers
(R240 to R243). -/
theorem test_wf_scalar :
    (Instr.add 0 ⟨1, 2, 3, true, 4⟩).wf = false ∧ (Instr.add 0 ⟨1, 2, 0, true, 4⟩).wf = true ∧
    (Instr.frcp 0 ⟨1, 2, 0, false, 1⟩).wf = false ∧ (Instr.ldw 0 ⟨1, 2, 3, true, 0⟩ {}).wf = false ∧
    (Instr.movc 0 ⟨1, 0, 0, true, 7⟩).wf = false ∧ (Instr.movc 0 ⟨1, 0, 0, false, 0⟩).wf = false ∧
    (Instr.aset 0 ⟨16, 1, 2, false, 0⟩).wf = false ∧ (Instr.ainc 0 ⟨1, 1, 2, false, 0⟩).wf = false ∧
    (Instr.aget 0 ⟨1, 16, 0, false, 0⟩).wf = false ∧ (Instr.jmp 0 ⟨1, 0, 5⟩).wf = false := by decide

/-- PASS without steps, with a reserved format, with VIEW or HALF on weights, with SC where no codebook is used; FIN with
XSLOT, YSCAL, SS, COUNT or OPX where the operation takes none (R244, R251 to R253). -/
theorem test_wf_pane_and_finisher :
    (Instr.pass 0 pass0 {}).wf = true ∧ (Instr.pass 0 { pass0 with steps := 0 } {}).wf = false ∧
    (Instr.pass 0 { pass0 with wfmt := 6 } {}).wf = false ∧ (Instr.pass 0 { pass0 with view := true } {}).wf = false ∧
    (Instr.pass 0 { pass0 with half := true } {}).wf = false ∧ (Instr.pass 0 { pass0 with sc := 1 } {}).wf = false ∧
    (Instr.finAdd 0 ⟨fin0, {}⟩).wf = true ∧ (Instr.finAdd 0 ⟨{ fin0 with opx := 1 }, {}⟩).wf = false ∧
    (Instr.finLoadtbl 0 ⟨{ fin0 with xslot := true }, {}⟩).wf = false ∧ (Instr.finLoadtbl 0 ⟨{ fin0 with count := 1 }, {}⟩).wf = false ∧
    (Instr.finCopy 0 ⟨{ fin0 with yscal := true }, {}⟩).wf = false ∧ (Instr.finLookup 0 ⟨{ fin0 with opx := 4 }, {}⟩).wf = false ∧
    (Instr.finLanesum 0 ⟨{ fin0 with opx := 32 }, {}⟩).wf = false ∧ (Instr.finRms 0 ⟨fin0, {}⟩).wf = false ∧
    (Instr.finRms 0 ⟨{ fin0 with opx := 1, ss := 31 }, {}⟩).wf = false ∧ (Instr.finMaxidx 0 ⟨{ fin0 with opx := 16 }, {}⟩).wf = false ∧
    (Instr.finQuant 0 ⟨{ fin0 with opx := 3 }, {}⟩).wf = false ∧
    (Instr.finClear 0 ⟨{ fin0 with opx := 2 }, {}⟩).wf = false := by decide +kernel

/-- Fields of POST, TAKE, CLAIM, WAIT, CARD and SAMPLE (R254 to R263). -/
theorem test_wf_moving :
    (Instr.postCopy 0 post0).wf = true ∧ (Instr.postCopy 0 { post0 with reg := true }).wf = false ∧
    (Instr.postSend 0 { post0 with byp := 3 }).wf = false ∧ (Instr.postPull 0 { post0 with smem := 2 }).wf = false ∧
    (Instr.postCircularRequest 0 { post0 with lines := 1 }).wf = false ∧
    (Instr.take 0 ⟨0, 1, 0, false, false, true, 29⟩ {}).wf = false ∧ (Instr.claim 0 ⟨false, 3, 0, 0, 0⟩).wf = false ∧
    (Instr.waitPigeonhole 0 ⟨0, 0, 0, 0⟩).wf = false ∧ (Instr.waitPigeonhole 0 ⟨0, 0, 33, 0⟩).wf = false ∧
    (Instr.cardBarrierArrive 0 ⟨0, 1, 0, 0⟩).wf = false ∧ (Instr.cardUser 0 ⟨1, 0, 0, 0⟩).wf = false ∧
    (Instr.sampleUniform 0 ⟨{ sample0 with purpose := 4 }, {}⟩).wf = false ∧
    (Instr.sampleTemp 0 ⟨{ sample0 with purpose := 1 }, {}⟩).wf = false ∧ (Instr.sampleDraw 0 ⟨{ sample0 with ss := 31 }, {}⟩).wf = false ∧
    (Instr.sampleAccept 0 ⟨{ sample0 with ss := 30 }, {}⟩).wf = false := by decide

/-- The operands of the other commands: codes, bounds and lists. -/
theorem test_wf_operands :
    (Instr.illegalInstruction 0 0).wf = true ∧ (Instr.illegalInstruction 0 0xF000000000000000).wf = false ∧
    (Instr.knock 1 0 0).wf = false ∧ (Instr.knock 1 0 6).wf = false ∧ (Instr.faultNote 0 0 0).wf = false ∧
    (Instr.faultNote 9 0 0).wf = false ∧ (Instr.watchdog 0 0 8).wf = false ∧ (Instr.stallWatchdog 0 8).wf = false ∧
    (Instr.slabRefreshWindow 0 65 0).wf = false ∧ (Instr.currentSample [(0, 1), (0, 2)] []).wf = false ∧
    (Instr.fieldSelfTest 0 ⟨[], [⟨0, 0, 0⟩, ⟨0, 0, 0⟩]⟩ false).wf = false ∧ (Instr.journalAppend 0 0 []).wf = false ∧
    (Instr.journalAppend 16 0 []).wf = false ∧ (Instr.letterArrived 0 256 0 0).wf = false ∧
    (Instr.receiptReady 0 0 48 0).wf = false ∧ (Instr.letterBufferFreed 0 0 48 0).wf = false ∧
    (Instr.fwHealthTimeout 1 2).wf = false ∧ (Instr.instanceReportedHealthy 0 0).wf = false := by decide

/-- A letter's parameters beyond what PARAM_LEN can count, and a journal body beyond 4,064 bytes (R332, R481). -/
theorem test_wf_lengths (ps : List Byte) (h : ps.length = 65536) (bs : List Byte) (k : bs.length = 4065) :
    (Instr.open { port := 0, id := 1, crc := 0, params := ps }).wf = false ∧ (Instr.journalAppend 1 0 bs).wf = false := by
  simp [Instr.wf, Instr.encodingOk, Instr.dataOk, Instr.asLetter, Letter.fits, h, k]

/-! ## Words written out from the encodings of R239 to R263, one of each family -/

/-- ADD s3, s2, 7; LDW s1, a2 + 5, word 3; JMP 0x123; LOOP 4 to 0x20 (R239 to R243). -/
theorem test_decode_scalar :
    decodeTile 9 0x0118810000000007 = some (.add 9 ⟨3, 2, 0, true, 7⟩) ∧
    decodeTile 9 0x1009000000050003 = some (.ldw 9 ⟨1, 2, 5, false, 3⟩ {}) ∧
    decodeTile 9 0x2400000000000123 = some (.jmp 9 ⟨0, 0, 0x123⟩) ∧
    decodeTile 9 0x2500000400000020 = some (.loop 9 ⟨0, 4, 0x20⟩) := by decide

/-- PASS a1, a2, 1 step, W4, TALLY; PRELOAD slot 15 zero; DRAIN slot 1 to A8; FIN ADD at a1, a2, a3 (R244 to R250). -/
theorem test_decode_pane :
    decodeTile 9 0x3012001008200000 = some (.pass 9 pass0 {}) ∧
    decodeTile 9 0x31F0000000000000 = some (.preloadZero 9 ⟨⟨15, 0, 0, 0⟩, {}⟩) ∧
    decodeTile 9 0x3211000000000000 = some (.drainToA8 9 ⟨⟨1, 0, false, 0, 0⟩, {}⟩) ∧
    decodeTile 9 0x380048C200000000 = some (.finAdd 9 ⟨fin0, {}⟩) := by decide

/-- POST COPY; TAKE of queue 1 to a2; RELEASE s3; WAIT for the barrier 7; FOLIO COMMIT; SAMPLE ACCEPT; HALT
(R254 to R263). -/
theorem test_decode_moving :
    decodeTile 9 0x4000000000000000 = some (.postCopy 9 post0) ∧
    decodeTile 9 0x4112000000000000 = some (.take 9 ⟨1, 2, 0, false, false, false, 0⟩ {}) ∧
    decodeTile 9 0x4518000000000000 = some (.release 9 3) ∧
    decodeTile 9 0x484001C000000000 = some (.waitBarrier 9 ⟨0, 0, 7, 0⟩) ∧
    decodeTile 9 0x5040000000000000 = some (.folioCommit 9 ⟨⟨0, 0, 0, 0, 0, 0, false⟩, {}⟩) ∧
    decodeTile 9 0x5861232140000000 = some (.sampleAccept 9 ⟨sample0, {}⟩) ∧
    decodeTile 9 0xFF00000000000000 = some (.halt 9) := by decide

/-! ## Single steps -/

/-- A device whose tile 0 is `x`, on an ACTIVE block of a powered field with its generator running. -/
def dev0 (x : Tile) : State :=
  { tiles := Tbl.set {} [] 0 x, blocks := [(0, { pstate := .active })], fieldCtls := [(0, { railOn := true, genRunning := true })] }

/-- Tile 0 after a command, where the command answers a next state. -/
def tileAfter (o : Out) : Tile :=
  match o with
  | .next u => u.tile 0
  | _ => {}

/-- The state after a command, where the command answers a next state. -/
def after (o : Out) : State :=
  match o with
  | .next u => u
  | _ => {}

/-- Tile 0 running with s1 = 0x8000_0000 and s2 = 33. -/
def signs : State := dev0 { seq := .running, s := [(1, 0x80000000), (2, 33)] }

/-- Sums wrap; only the low 5 bits of a shift count; SRA copies the sign; SLT is signed and SLTU is not (R241). -/
theorem test_scalar_results :
    (tileAfter (exec (.add 0 ⟨3, 1, 1, false, 0⟩) signs)).sreg 3 = 0 ∧
    (tileAfter (exec (.shl 0 ⟨3, 2, 2, false, 0⟩) signs)).sreg 3 = 66 ∧
    (tileAfter (exec (.sra 0 ⟨3, 1, 2, false, 0⟩) signs)).sreg 3 = 0xC0000000 ∧
    (tileAfter (exec (.slt 0 ⟨3, 1, 2, false, 0⟩) signs)).sreg 3 = 1 ∧
    (tileAfter (exec (.sltu 0 ⟨3, 1, 2, false, 0⟩) signs)).sreg 3 = 0 := by decide +kernel

/-- s0 ignores writes and the PC moves on; so it does at HALT (R232, R265). -/
theorem test_s0_and_pc :
    (tileAfter (exec (.add 0 ⟨0, 1, 0, false, 0⟩) signs)).sreg 0 = 0 ∧
    (tileAfter (exec (.add 0 ⟨0, 1, 0, false, 0⟩) signs)).pc = 1 ∧ (tileAfter (exec (.halt 0) signs)).pc = 1 := by
  decide +kernel

/-- What STW stores LDW reads back, and the stored line's CRC is right (R38, R242). -/
theorem test_stw_then_ldw :
    let s := after (exec (.stw 0 ⟨2, 0, 5, false, 15⟩ {}) signs)
    (tileAfter (exec (.ldw 0 ⟨3, 0, 5, false, 15⟩ {}) s)).sreg 3 = 33 ∧ crcGood (Mem.readLine (s.tile 0).wb 5) = true := by
  decide +kernel

/-- The CRC checks of the manual's families on "123456789": CRC-16 of T10-DIF, CRC-8, CRC-32C, CRC-64/XZ (R37, R155, R333,
R517). -/
theorem test_check_codes :
    let b : List Byte := [0x31, 0x32, 0x33, 0x34, 0x35, 0x36, 0x37, 0x38, 0x39]
    crc16 b = 0xD0DB ∧ crc8 b = 0xF4 ∧ crc32c b = 0xE3069283 ∧ crc64 b = 0x995DC9BBDF1939FA := by decide +kernel

/-- 1 + 1 = 2 and 3 × 0.5 = 1.5 in binary32 (R87). -/
theorem test_float :
    fadd 0x3F800000 0x3F800000 = 0x40000000 ∧ fmul 0x40400000 0x3F000000 = 0x3FC00000 := by decide +kernel

end Sys2Proof.Tests
end

