-- ==== Sys2Proof/Tests/WitnessTile.lean ====
section
/-! SUPPORT. For every statement about a tile's instructions: concrete states and operands that meet its hypotheses, clause by
clause. -/

set_option Elab.async false

namespace Sys2Proof.Tests

open Sys2Proof Sys2Proof.Machine

/-- The answer is a value. -/
def okE {ε α : Type} : Except ε α → Bool
  | .ok _ => true
  | .error _ => false

/-- The command answers a next state. -/
def answers (o : Out) : Bool :=
  match o with
  | .next _ => true
  | _ => false

/-- A tile that runs, with nothing in it. -/
def run0 : Tile := { seq := .running }

/-- A device whose tile 0 runs with nothing in it. -/
def s0 : State := dev0 run0

/-- A line of binary32 zeros, and 16 of them: four vectors at lines 0 to 15. -/
def zeroLine : Line := mkWords fmtF32 []
def zeros (n : Nat) : Mem := Mem.writeLines [] 0 (List.replicate n zeroLine)

theorem witness_StepRunsTheFrontCommand :
    ({ s0 with pending := [.halt 0, .yield 0] } : State).pending = .halt 0 :: [.yield 0] ∧ s0.pending = [] := by decide

theorem witness_NothingToSend :
    (∀ c, c < 12 → (State.reset.chiplet c).outbound = []) ∧ State.reset.dev.receiptsOut = State.reset.dev.receipts.length ∧
    State.reset.dev.keeperSent = State.reset.dev.keeperOut.length ∧
    (∀ p, (State.reset.port p).txSlots = [] ∧ (State.reset.port p).live = false) :=
  ⟨fun _ _ => rfl, rfl, rfl, fun _ => ⟨rfl, rfl⟩⟩

theorem witness_EveryStepTakesOnlyTheFrontCommand : answers (step { s0 with pending := [.halt 0, .yield 0] }) = true := by
  decide +kernel

theorem witness_QueuedCommandsStayWellFormed :
    let s : State := { s0 with pending := [.halt 0, .yield 0] }
    (∀ c ∈ s.pending, c.wf = true) ∧ answers (step s) = true := by decide +kernel

/-- The operands at the ends of their ranges. -/
theorem witness_TileWordsReadBack :
    issuer (.add 5 ⟨31, 31, 0, true, 0xFFFFFFFF⟩) = some 5 ∧ (Instr.add 5 ⟨31, 31, 0, true, 0xFFFFFFFF⟩).encodingOk = true ∧
    issuer (.sampleAccept 5 ⟨⟨15, 15, 15, 29, 31, 0xFF, 0⟩, {}⟩) = some 5 ∧
    (Instr.sampleAccept 5 ⟨⟨15, 15, 15, 29, 31, 0xFF, 0⟩, {}⟩).encodingOk = true := by decide

theorem witness_TileInstructionsStayOnTheirTile :
    issuer (.halt 0) = some 0 ∧ answers (exec (.halt 0) s0) = true ∧ State.reset.issues 0 = false := by decide +kernel

theorem witness_IllegalWordsFault :
    issuer (.frcp 0 ⟨1, 1, 0, false, 1⟩) = some 0 ∧ s0.issues 0 = true ∧
    (Instr.frcp 0 ⟨1, 1, 0, false, 1⟩).encodingOk = false ∧ decodeTile 0 0 = none ∧ bitAt (s0.tile 0).seqFault 31 = false := by
  decide +kernel

/-- Every scalar and address form, with D at the top of its range and with D = 0. -/
theorem witness_RegisterInstructionsWriteD :
    let f : ScalarOps := ⟨31, 31, 31, false, 0⟩
    let u : ScalarOps := ⟨31, 31, 0, false, 0⟩
    let z : ScalarOps := ⟨0, 31, 0, true, 0xFFFFFFFF⟩
    Issues (.add 0 f) 0 s0 ∧ Issues (.add 0 z) 0 s0 ∧ Issues (.sub 0 f) 0 s0 ∧ Issues (.mul 0 f) 0 s0 ∧ Issues (.and 0 f) 0 s0 ∧
    Issues (.or 0 f) 0 s0 ∧ Issues (.xor 0 f) 0 s0 ∧ Issues (.shl 0 f) 0 s0 ∧ Issues (.shr 0 f) 0 s0 ∧ Issues (.sra 0 f) 0 s0 ∧
    Issues (.slt 0 f) 0 s0 ∧ Issues (.sltu 0 f) 0 s0 ∧ Issues (.fadd 0 f) 0 s0 ∧ Issues (.fmul 0 f) 0 s0 ∧
    Issues (.flt 0 f) 0 s0 ∧ Issues (.frcp 0 u) 0 s0 ∧ Issues (.movc 0 ⟨31, 0, 0, true, 6⟩) 0 s0 ∧
    Issues (.aset 0 ⟨15, 31, 31, false, 0⟩) 0 s0 ∧ Issues (.ainc 0 ⟨15, 0, 31, false, 0⟩) 0 s0 ∧
    Issues (.aget 0 ⟨31, 15, 0, false, 0⟩) 0 s0 := by
  simp only [Issues]
  decide +kernel

theorem witness_RegistersReadBack :
    Issues (.add 0 ⟨31, 1, 2, false, 0⟩) 0 s0 ∧ Issues (.add 0 ⟨0, 1, 2, false, 0⟩) 0 s0 ∧
    Issues (.aset 0 ⟨15, 1, 2, false, 0⟩) 0 s0 ∧ Issues (.aset 0 ⟨0, 1, 2, false, 0⟩) 0 s0 := by
  simp only [Issues]
  decide +kernel

/-- The last line of the working buffer, and the first beyond it. -/
theorem witness_WordsAreLoadedAndStored :
    let x : Tile := { run0 with wb := Mem.writeLine [] 4095 zeroLine, a := [(1, 4095)] }
    let s := dev0 x
    let f : LoadStoreOps := ⟨31, 1, 0, false, 15⟩
    let g : LoadStoreOps := ⟨31, 1, 1, false, 15⟩
    ((s.tile 0).areg f.a + f.offset.signExtend 32).toNat = 4095 ∧ intrusionStops {} unitSequencer = none ∧
    Issues (.ldw 0 f {}) 0 s ∧ Issues (.stw 0 f {}) 0 s ∧ x.lineBlocks [wbRange 4095 1] [] = false ∧
    x.lineBlocks [] [wbRange 4095 1] = false ∧ crcGood (Mem.readLine x.wb 4095) = true ∧
    Issues (.ldw 0 g {}) 0 s ∧ Issues (.stw 0 g {}) 0 s ∧ bitAt (s.tile 0).memFault 31 = false ∧
    ((s.tile 0).areg g.a + g.offset.signExtend 32).toNat = 4096 ∧ answers (exec (.stw 0 f {}) s) = true := by
  simp only [Issues]
  decide +kernel

/-- A body that ends one instruction on; no iterations; END at the PC; a fifth loop; an empty descriptor queue and one that
holds a descriptor. -/
theorem witness_ControlInstructionsSequence :
    let f : BranchOps := ⟨0, 0, 0xFFF⟩
    let s := dev0 { run0 with pc := 7 }
    let l : LoopFrame := ⟨0, 9, 1, 0⟩
    let s4 := dev0 { run0 with pc := 7, loops := [l, l, l, l] }
    let d : Desc := copyDesc ⟨0, 0, 0, 0, 0, 0, false, false, 0, 0, false, 0⟩ 0 {}
    let sd := dev0 { run0 with descq := [d] }
    Issues (.beq 0 f) 0 s ∧ Issues (.bne 0 f) 0 s ∧ Issues (.blt 0 f) 0 s ∧ Issues (.bge 0 f) 0 s ∧ Issues (.jmp 0 f) 0 s ∧
    Issues (.loop 0 ⟨0, 1, 8⟩) 0 s ∧ (s.tile 0).pc.toNat < (8 : BitVec 12).toNat ∧ (s.tile 0).loops.length < 4 ∧
    Issues (.loop 0 ⟨0, 0, 8⟩) 0 s ∧ ((s.tile 0).sreg 0).toNat = 0 ∧
    Issues (.loop 0 ⟨0, 1, 7⟩) 0 s ∧ (7 : BitVec 12).toNat ≤ (s.tile 0).pc.toNat ∧
    Issues (.loop 0 ⟨0, 1, 8⟩) 0 s4 ∧ 4 ≤ (s4.tile 0).loops.length ∧
    Issues (.yield 0) 0 s ∧ (s.tile 0).descq = [] ∧ Issues (.yield 0) 0 sd ∧ (sd.tile 0).descq ≠ [] ∧ Issues (.halt 0) 0 s := by
  simp only [Issues]
  decide +kernel

/-- Eight tokens under one W1 step into slots 8 to 15: a step of zero blocks. -/
def passOps : PassOps := ⟨0, 0, 1, 7, 8, 1, false, false, false, true, 0, false⟩
def openSlot : Slot := { isOpen := true, factor := 0x3F800000 }
def passTile : Tile :=
  { run0 with
    slots := (List.range 8).map (fun i => (8 + i, openSlot))
    ws := Mem.writeLines [] 0 (List.replicate 16 (mkParcel [] [] fmtW1 0))
    wb := Mem.writeLines [] 0 (List.replicate 16 (mkParcel [] [] fmtA8 0)) }

/-- A block end whose columns sum to its tally, and one whose tally differs. -/
def goodEnd : BlockEnd := { slot := 15, ints := List.replicate 64 1, tally := 64, wscales := List.replicate 64 0x38, ascale := 0x38, high := false }
def badEnd : BlockEnd := { goodEnd with tally := 65 }

/-- A PASS of one token that waits, and a TAKE that has yet to write line 0. -/
def waitingPass : PassRun := ⟨{ passOps with dwell := 0 }, 0, 0, 0, 0, 0, 0⟩
def takeAt0 : TakeRun := ⟨0, 0, 1, false, 0, 1⟩

theorem witness_PassesAndBlockEnds :
    let s := dev0 passTile
    let x := s.tile 0
    let st := dev0 { passTile with takes := [takeAt0] }
    let sp := dev0 { passTile with passes := [waitingPass] }
    Issues (.pass 0 passOps {}) 0 s ∧ passOps.tally = true ∧ passOps.slot.toNat + (passOps.dwell.toNat + 1) = 16 ∧
    (∀ k, k < passOps.dwell.toNat + 1 → (x.slot (passOps.slot.toNat + k)).isOpen = true) ∧
    rangesFault unitPane (passRanges passOps x) = none ∧ passOps.isCache = false ∧
    x.sbBlocks (passRanges passOps x) [] = false ∧ intrusionStops {} unitPane = none ∧
    x.takeBlocks (passRanges passOps x) = false ∧ x.passes = [] ∧
    okE (passSteps passOps (x.line passOps.aw) (x.line passOps.aa) (x.sreg passOps.sc) (intrude {} x) passOps.steps.toNat) = true ∧
    Issues (.pass 0 passOps {}) 0 st ∧ (st.tile 0).takeBlocks (passRanges passOps (st.tile 0)) = true ∧
    Issues (.pass 0 passOps {}) 0 sp ∧ (sp.tile 0).takeBlocks (passRanges passOps (sp.tile 0)) = false ∧ (sp.tile 0).passes ≠ [] := by
  simp only [Issues]
  decide +kernel

/-- Blocks of scale 1, so that a step has block ends. -/
def liveTile : Tile :=
  { passTile with
    ws := Mem.writeLines [] 0 (List.replicate 16 (mkParcel [] [0x38, 0x38, 0x38, 0x38] fmtW1 0))
    wb := Mem.writeLines [] 0 (List.replicate 2 (mkParcel [] [0x38] fmtA8 0)) }

/-- Block ends with no PASS waiting, a good and a bad one; a waiting PASS whose step is taken, and one whose step faults. -/
theorem witness_BlockEndsArrive :
    let fed (p : Tile → Bool) (r : Except (ParcelFault × PassRun) Tile) : Bool :=
      match r with | .ok y => p y | .error _ => false
    ((dev0 { run0 with blockEnds := [goodEnd, goodEnd] }).block (tileBlock 0)).pstate = .active ∧
    fed (fun y => y.blockEnds == goodEnd :: [goodEnd]) (feedPasses [] { run0 with blockEnds := [goodEnd, goodEnd] }) = true ∧
    blockEndFaults goodEnd .good = false ∧ goodEnd.ints.length = 64 ∧ goodEnd.wscales.length = 64 ∧
    fed (fun y => y.blockEnds == badEnd :: []) (feedPasses [] { run0 with blockEnds := [badEnd] }) = true ∧
    blockEndFaults badEnd .good = true ∧
    fed (fun y => y.blockEnds != [] && y.passes == []) (feedPasses [waitingPass] liveTile) = true ∧
    okE (feedPasses [waitingPass] { liveTile with wb := Mem.writeLines [] 0 (List.replicate 16 (mkParcel [] [] fmtF32 0)) }) = false := by
  decide +kernel

/-- Eight slots up to slot 15, and one more; a vector preload from the last lines of the working buffer; a drain of an open slot
to the last lines, and of a closed one. -/
theorem witness_SlotsOpenAndDrain :
    let one : Tile := { run0 with s := [(1, 0x3F800000)], a := [(1, 4092)], wb := Mem.writeLines [] 4092 (List.replicate 4 zeroLine) }
    let s := dev0 one
    let p : PreloadOps := ⟨8, 7, 0, 1⟩
    let v : PreloadOps := ⟨15, 0, 1, 1⟩
    let q : PreloadOps := ⟨9, 7, 0, 1⟩
    let sd := dev0 { one with slots := [(15, openSlot)] }
    let x := sd.tile 0
    let d : DrainOps := ⟨15, 0, false, 1, 1⟩
    let vals := (List.range 1).map (fun i => drainValues (x.slot (15 + i)))
    Issues (.preloadZero 0 ⟨p, {}⟩) 0 s ∧ p.slot.toNat + (p.n.toNat + 1) = 16 ∧ (s.tile 0).slotBusy 8 8 = false ∧
    posNormal ((s.tile 0).sreg p.sf) = true ∧
    Issues (.preloadVector 0 ⟨v, {}⟩) 0 s ∧ v.slot.toNat + (v.n.toNat + 1) = 16 ∧ ((s.tile 0).areg v.av).toNat + 4 * (v.n.toNat + 1) = 4096 ∧
    (s.tile 0).slotBusy 15 1 = false ∧ (s.tile 0).lineBlocks [wbRange 4092 4] [] = false ∧ posNormal ((s.tile 0).sreg v.sf) = true ∧
    preloadVectors v (s.tile 0) = .ok [List.replicate 64 0] ∧ [List.replicate 64 (0 : Word)].all (fun v => v.all isFinite) = true ∧
    Issues (.preloadZero 0 ⟨q, {}⟩) 0 s ∧ Issues (.preloadVector 0 ⟨q, {}⟩) 0 s ∧ q.slot.toNat + (q.n.toNat + 1) = 17 ∧
    Issues (.drainToF32 0 ⟨d, {}⟩) 0 sd ∧ Issues (.drainToA8r 0 ⟨d, {}⟩) 0 sd ∧ Issues (.drainToA8 0 ⟨d, {}⟩) 0 sd ∧
    d.slot.toNat + (d.n.toNat + 1) = 16 ∧ (∀ i, i < d.n.toNat + 1 → (x.slot (d.slot.toNat + i)).isOpen = true) ∧
    (x.areg d.ad).toNat + 4 * (d.n.toNat + 1) = 4096 ∧ x.slotBusy 15 1 = false ∧ x.lineBlocks [] [wbRange 4092 4] = false ∧
    x.lineBlocks [] [wbRange 4092 2] = false ∧ x.lineBlocks [] [wbRange 4092 1] = false ∧
    okE (drainQuant .a8r (sd.regThreshold 0) (x.sreg d.st) (nth [] vals 0)) = true ∧
    okE (drainQuant .a8 0 (x.sreg d.st) (nth [] vals 0)) = true ∧
    Issues (.drainToF32 0 ⟨d, {}⟩) 0 s ∧ Issues (.drainToA8r 0 ⟨d, {}⟩) 0 s ∧ Issues (.drainToA8 0 ⟨d, {}⟩) 0 s ∧ ((s.tile 0).slot 15).isOpen = false ∧
    Issues (.pass 0 passOps {}) 0 s ∧ passOps.tally = true ∧ passOps.slot.toNat + (passOps.dwell.toNat + 1) = 16 := by
  simp only [Issues]
  decide +kernel

end Sys2Proof.Tests
end

