-- ==== Sys2Proof/Tests/WitnessUnits.lean ====
section
/-! SUPPORT. For every statement about the finisher, the post engine, the folio unit and the sampler: concrete states and
operands that meet its hypotheses, clause by clause. -/

set_option Elab.async false

namespace Sys2Proof.Tests

open Sys2Proof Sys2Proof.Machine

/-! ## The finisher -/

/-- Vectors of zeros at lines 0 to 11; X at a1 = 0, Y at a2 = 4, the results at a3 = 4092. -/
def finTile : Tile := { run0 with wb := zeros 12, a := [(2, 4), (3, 4092)], s := [(1, 63)] }
def finF : FinOps := ⟨3, 1, 2, false, false, 1, 0, 0⟩

theorem witness_FinLaneOperations :
    let s := dev0 finTile
    let x := intrude (finEvents finF {}) (s.tile 0)
    okE (xVectors finF x) = true ∧ okE (overVectors (finY finF x) 0 (vectors finF)) = true ∧
    FinReady finF {} (xRanges finF x ++ yRanges finF x) (dRanges finF x) (s.tile 0) ∧
    FinReady finF {} (xRanges finF x) (dRanges finF x) (s.tile 0) ∧
    Issues (.finAdd 0 ⟨finF, {}⟩) 0 s ∧ Issues (.finSub 0 ⟨finF, {}⟩) 0 s ∧ Issues (.finMul 0 ⟨finF, {}⟩) 0 s ∧ Issues (.finMin 0 ⟨finF, {}⟩) 0 s ∧
    Issues (.finMax 0 ⟨finF, {}⟩) 0 s ∧ Issues (.finCmpgt 0 ⟨finF, {}⟩) 0 s ∧ Issues (.finCopy 0 ⟨finF, {}⟩) 0 s ∧ Issues (.finRecip 0 ⟨finF, {}⟩) 0 s ∧
    Issues (.finRsqrt 0 ⟨finF, {}⟩) 0 s ∧ Issues (.finExp 0 ⟨finF, {}⟩) 0 s ∧ Issues (.finExpm 0 ⟨finF, {}⟩) 0 s ∧
    Issues (.finLookup 0 ⟨{ finF with opx := 3 }, {}⟩) 0 s ∧ Issues (.finKill 0 ⟨finF, {}⟩) 0 s ∧ (x.sreg finF.ss).toNat / 64 < vectors finF := by
  simp only [Issues, FinReady]
  and_intros <;> decide +kernel

/-- Angular steps and positions for ROPE and MASK at line 0; a table of zeros in 65 lines. -/
def wordTile : Tile := { finTile with wb := Mem.writeLines (zeros 12) 4 (List.replicate 5 (mkWords fmtU32 [])) }
def quantTile : Tile := { finTile with s := [(1, 0x3F800000)] }
def killTile : Tile := { finTile with s := [(1, 64)] }

theorem witness_FinOtherOperations :
    let s := dev0 finTile
    let x := intrude (finEvents finF {}) (s.tile 0)
    let w := dev0 wordTile
    let y := intrude (finEvents finF {}) (w.tile 0)
    let q := dev0 quantTile
    let z := intrude (finEvents finF {}) (q.tile 0)
    let f := finF
    let r : FinOps := { finF with opx := 64 }
    let pl : FinOps := { finF with opx := 0 }
    Issues (.finFma 0 ⟨f, {}⟩) 0 s ∧ FinReady { f with ad := 2 } {} (xRanges { f with ad := 2 } x ++ yRanges { f with ad := 2 } x ++
      dRanges { f with ad := 2 } x) (dRanges { f with ad := 2 } x) (s.tile 0) ∧ Issues (.finFma 0 ⟨{ f with ad := 2 }, {}⟩) 0 s ∧
    okE (fmaBody { f with ad := 2 } x).2 = true ∧
    Issues (.finLanesum 0 ⟨pl, {}⟩) 0 s ∧ accOf pl = false ∧ FinReady pl {} (xRanges pl x ++ []) (reduceRange pl 16 x) (s.tile 0) ∧
    okE (sumBody pl false x).2 = true ∧ Issues (.finSumsq 0 ⟨pl, {}⟩) 0 s ∧ okE (sumBody pl true x).2 = true ∧
    Issues (.finMaxidx 0 ⟨pl, {}⟩) 0 s ∧
    FinReady pl {} (xRanges pl x ++ recRange pl x ++ []) (reduceRange pl 8 x) (s.tile 0) ∧
    s.isRouter 0 = false ∧ okE (pickBody pl false x).2 = true ∧ Issues (.finMinidx 0 ⟨pl, {}⟩) 0 s ∧ okE (pickBody pl true x).2 = true ∧
    Issues (.finRms 0 ⟨r, {}⟩) 0 s ∧ FinReady r {} (xRanges r x ++ yRanges r x) (dRanges r x) (s.tile 0) ∧ okE (xVectors r x) = true ∧
    okE (overVectors (finY r x) 0 (vectors r)) = true ∧
    Issues (.finRope 0 ⟨f, {}⟩) 0 w ∧ FinReady f {} (xRanges f y ++ [wbRange (y.line f.ay) (2 * vectors f)]) (dRanges f y) (w.tile 0) ∧
    Issues (.finQuant 0 ⟨f, {}⟩) 0 q ∧ FinReady f {} (xRanges f z)
      [wbRange (z.line f.ad) ((if bitsAt f.opx 0 2 = 0 then 2 else 1) * vectors f)] (q.tile 0) ∧ posNormal (z.sreg f.ss) = true ∧
    okE (quantBody f (q.regThreshold 0) z).2 = true ∧
    Issues (.finMask 0 ⟨f, {}⟩) 0 w ∧ FinReady f {} (xRanges f y ++ [wbRange (y.line f.ay) 5]) (dRanges f y) (w.tile 0) ∧
    okE (maskBody f y).2 = true ∧
    Issues (.finKill 0 ⟨f, {}⟩) 0 (dev0 killTile) ∧
    vectors f ≤ ((intrude (finEvents f {}) ((dev0 killTile).tile 0)).sreg f.ss).toNat / 64 ∧
    Issues (.finClear 0 ⟨{ f with opx := 1 }, {}⟩) 0 s ∧ FinReady f {} [] [wbRange ((s.tile 0).line f.ad) (vectors f)] (s.tile 0) := by
  simp only [Issues, FinReady]
  and_intros <;> decide +kernel

/-- MAXIDX of a router's tile, over gate logits without a fault. -/
theorem witness_FinOtherOperations_gate :
    let s : State := { dev0 finTile with dev := { placement := some { stages := [{ kind := 3, tiles := [(0, 0)] }] } } }
    let x := intrude (finEvents finF {}) (s.tile 0)
    Issues (.finMaxidx 0 ⟨finF, {}⟩) 0 s ∧ s.isRouter 0 = true ∧
    FinReady finF {} (xRanges finF x ++ recRange finF x ++ []) (reduceRange finF 8 x) (s.tile 0) ∧ okE (gateBody finF x).2 = true := by
  simp only [Issues, FinReady]
  and_intros <;> decide +kernel

/-- The phases of ROPE run for every value of the cosines and sines. -/
theorem witness_FinOtherOperations_rope : okE (ropeBody finF wordTile).2 = true := by decide +kernel

/-- A tile whose first `n` lines are F32 zeros. -/
def zeroTile (n : Nat) : Tile := { run0 with wb := zeros n }

theorem zeroTile_readLines (n : Nat) : (zeroTile n).readLines memWb 0 n = List.replicate n zeroLine := by
  apply List.ext_getElem
  · simp only [Tile.readLines, List.length_map, List.length_range, List.length_replicate]
  · intro i h1 h2
    have h : i < (List.replicate n zeroLine).length := h2
    have k := Mem.readLine_writeLines_inside [] 0 (List.replicate n zeroLine) i h
    simp only [Tile.readLines, List.getElem_map, List.getElem_range]
    exact k

theorem zeroTile_readWords (n : Nat) : okE (readWords [fmtF32] (zeroTile n) 0 n) = true := by
  have good : parcelCheck [fmtF32] zeroLine = none := by decide +kernel
  have all : ∀ n, checkAll [fmtF32] (List.replicate n zeroLine) = none := by
    intro n
    induction n with
    | zero => rfl
    | succ n ih => rw [List.replicate_succ, checkAll, good, ih]; rfl
  unfold readWords
  rw [zeroTile_readLines]
  simp only [all, okE]

theorem zeroTile_readWords_intrude (n : Nat) (i : Intrusion) : okE (readWords [fmtF32] (intrude i (zeroTile n)) 0 n) = true := by
  rw [← zeroTile_readWords n]
  simp only [readWords, Tile.readLines, intrude_readLine]

/-- LOADTBL from 65 F32 lines. -/
theorem witness_FinOtherOperations_table :
    let x : Tile := zeroTile 65
    let f : FinOps := { finF with opx := 3 }
    Issues (.finLoadtbl 0 ⟨f, {}⟩) 0 (dev0 x) ∧ x.line f.ax + 65 ≤ 4096 ∧ x.lineBlocks [wbRange (x.line f.ax) 65] [] = false ∧
    intrusionStops {} unitFinisher = none ∧ okE (readWords [fmtF32] (intrude (noSlots {}) x) (x.line f.ax) 65) = true :=
  ⟨⟨rfl, rfl, rfl⟩, by decide, rfl, rfl, zeroTile_readWords_intrude 65 _⟩

/-! ## Moving data -/

/-- Template 63 sends a kind-0 parcel, template 62 reduces. -/
def postTile : Tile := { run0 with templates := [(62, BitVec.ofNat 128 (2 ^ 24)), (63, 0)], s := [(1, 63), (2, 64)], a := [(1, 4095)] }
def postF : PostOps := ⟨0, 0, 1, 1, 0, 0, false, false, 0, 0, false, 0⟩
def sendF : PostOps := ⟨0, 0, 1, 0, 0, 0, false, false, 0, 0, true, 1⟩
def wildF : PostOps := { sendF with st := 2 }

theorem witness_PostsAndDescriptors :
    let s := dev0 postTile
    let x := s.tile 0
    let d : Desc := copyDesc postF 0 x
    let sd := dev0 { postTile with descq := [d] }
    let sr := dev0 { postTile with running := [d, d, d, d] }
    let free (src dst : List LineRange) : Bool := (rangesFault unitPost (src ++ dst)).isNone && !x.unretired src dst
    let most : Tile := { postTile with running := List.replicate 4 d, descq := List.replicate 11 d }
    Issues (.postCopy 0 postF) 0 (dev0 most) ∧ most.descq.length + most.running.length = 15 ∧
    x.descq.length + x.running.length < 16 ∧
    Issues (.postCopy 0 postF) 0 s ∧
    free [⟨postF.smem, x.line postF.as, postF.lines.toNat + 1⟩] [⟨postF.dmem, x.line postF.ad, postF.lines.toNat + 1⟩] = true ∧
    Issues (.postSend 0 sendF) 0 s ∧ templateNo sendF x = some 63 ∧
    free [⟨sendF.smem, x.line sendF.as, (sendF.lines.toNat + 1) * (if sendF.reg then 2 else 1)⟩] [] = true ∧
    Issues (.postPull 0 sendF) 0 s ∧ free [] [] = true ∧
    Issues (.postCircularRequest 0 sendF) 0 s ∧
    Issues (.reduce 0 ⟨1, 62, 0, 0⟩) 0 s ∧ envKind (Tbl.get 0 x.templates 62) = 1 ∧ free [wbRange (x.line 1) 1] [] = true ∧
    Issues (.postSend 0 wildF) 0 s ∧ Issues (.postPull 0 wildF) 0 s ∧ Issues (.postCircularRequest 0 wildF) 0 s ∧
    templateNo wildF x = none ∧ Issues (.reduce 0 ⟨1, 63, 0, 0⟩) 0 s ∧ envKind (Tbl.get 0 x.templates 63) = 0 ∧
    (sd.tile 0).descq = d :: [] ∧ sd.postRuns 0 = true ∧ (sd.tile 0).running.length < 4 ∧ descEnvFault d (sd.tile 0) = none ∧
    rangesFault unitPost (descSource d ++ descDest d) = none ∧ descOwnFault (sd.familyOf d.ctx.session) d (sd.tile 0) = none ∧
    (sd.tile 0).sbBlocks (descSource d) (descDest d) = false ∧ creditReady d (sd.tile 0) = true ∧
    intrusionStops {} unitPost = none ∧ d.circ = none ∧
    (sr.block (tileBlock 0)).pstate = .active ∧ (sr.tile 0).running[(3 : Fin 4).val]? = some d ∧ d.op = .copy ∧ d.blocks = 1 ∧
    d.done = 0 := by
  simp only [Issues]
  and_intros <;> decide +kernel

/-- The last queue and the last line; all sixteen entries in use; entry 15 and the number 16. -/
theorem witness_TakesAndClaims :
    let h : Flit := ⟨0, zeroLine⟩
    let x : Tile := { run0 with pigeonholes := [(15, [h])], a := [(1, 4095)], s := [(1, 15), (2, 16)] }
    let s := dev0 x
    let f : TakeOps := ⟨15, 1, 0, true, false, true, 28⟩
    let e : TakeOps := { f with queue := 14 }
    let c : ClaimOps := ⟨true, 0, 1, 0, 31⟩
    let full := dev0 { x with sb := (List.range 16).map (fun i => (i, { used := true })) }
    Issues (.take 0 f {}) 0 s ∧ rangesFault unitTake [takeRange ⟨f.queue, x.line f.ad, f.count.toNat + 1, f.reg, x.line f.ad, f.count.toNat + 1⟩] = none ∧
    (s.tile 0).hole f.queue.toNat = h :: [] ∧
    (s.tile 0).lineBlocks [] [takeRange ⟨f.queue, x.line f.ad, f.count.toNat + 1, f.reg, x.line f.ad, f.count.toNat + 1⟩] = false ∧
    (s.tile 0).takes.any (fun k => k.queue == f.queue) = false ∧ intrusionStops {} unitTake = none ∧
    Issues (.take 0 e {}) 0 s ∧ rangesFault unitTake [takeRange ⟨e.queue, x.line e.ad, e.count.toNat + 1, e.reg, x.line e.ad, e.count.toNat + 1⟩] = none ∧
    (s.tile 0).hole e.queue.toNat = [] ∧
    Issues (.claim 0 c) 0 s ∧ rangesFault unitSequencer [⟨c.mem, ((s.tile 0).areg c.ar).toNat, c.lines.toNat + 1⟩] = none ∧
    (s.tile 0).sbFree = some 0 ∧ Issues (.claim 0 c) 0 full ∧ (full.tile 0).sbFree = none ∧
    rangesFault unitSequencer [⟨c.mem, ((full.tile 0).areg c.ar).toNat, c.lines.toNat + 1⟩] = none ∧
    Issues (.release 0 1) 0 s ∧ ((s.tile 0).sreg 1).toNat = 15 ∧ Issues (.release 0 2) 0 s ∧ ((s.tile 0).sreg 2).toNat = 16 := by
  simp only [Issues]
  and_intros <;> decide +kernel

/-- Each condition met and not met. -/
theorem witness_WaitsAndCards :
    let f : WaitOps := ⟨15, 0, 1, 31⟩
    let b : BarrierEntry := { valid := true, id := 1, expected := 1 }
    let h : Flit := ⟨0, zeroLine⟩
    let d : Desc := copyDesc postF 0 {}
    let x : Tile := { run0 with pigeonholes := [(15, [h])], inbox := [0], latches := [(0, some 0)] }
    let y : Tile := { run0 with sb := [(15, { used := true })], descq := [d], blockEnds := [goodEnd] }
    let spent : Tile := { run0 with cardsThen := 5 }
    let hub (x : Tile) : State := { dev0 x with fieldCtls := [(0, { railOn := true, barriers := [(0, b)] })] }
    Issues (.waitPigeonhole 0 f) 0 (hub x) ∧ f.id.toNat ≤ (((hub x).tile 0).hole f.arg.toNat).length ∧
    Issues (.waitPigeonhole 0 f) 0 (hub y) ∧ ¬ f.id.toNat ≤ (((hub y).tile 0).hole f.arg.toNat).length ∧
    Issues (.waitScoreboard 0 f) 0 (hub x) ∧ (Tbl.get ({} : SbEntry) ((hub x).tile 0).sb f.arg.toNat).used = false ∧
    Issues (.waitScoreboard 0 f) 0 (hub y) ∧ (Tbl.get ({} : SbEntry) ((hub y).tile 0).sb f.arg.toNat).used = true ∧
    Issues (.waitBarrier 0 f) 0 (hub x) ∧ (hub x).barrierIndex (tileField 0) f.id = some 0 ∧
    Tbl.get none ((hub x).tile 0).latches 0 = some ((hub x).tile 0).ctx.wave ∧
    Issues (.waitBarrier 0 f) 0 (hub y) ∧ (hub y).barrierIndex (tileField 0) f.id = some 0 ∧
    Tbl.get none ((hub y).tile 0).latches 0 = none ∧
    Issues (.waitDescriptors 0 f) 0 (hub x) ∧ ((hub x).tile 0).descq = [] ∧ ((hub x).tile 0).running = [] ∧
    Issues (.waitDescriptors 0 f) 0 (hub y) ∧ ((hub y).tile 0).descq ≠ [] ∧
    Issues (.waitSlots 0 f) 0 (hub x) ∧ ((hub x).tile 0).slotBusy f.arg.toNat (f.n.toNat + 1) = false ∧
    Issues (.waitSlots 0 f) 0 (hub y) ∧ ((hub y).tile 0).slotBusy f.arg.toNat (f.n.toNat + 1) = true ∧
    Issues (.waitUserCard 0 f) 0 (hub x) ∧ ((hub x).tile 0).inbox = 0 :: [] ∧ Issues (.waitUserCard 0 f) 0 (hub y) ∧
    ((hub y).tile 0).inbox = [] ∧ Issues (.waitBarrier 0 { f with id := 2 }) 0 (hub x) ∧
    (hub x).barrierIndex (tileField 0) 2 = none ∧
    Issues (.cardBarrierArrive 0 ⟨0, 0, 0, 1⟩) 0 (hub x) ∧ ((hub x).barrierIndex (tileField 0) 1).isSome = true ∧
    Issues (.cardUser 0 ⟨3, 0xFFFF, 31, 0⟩) 0 (hub x) ∧ ((hub x).tile 0).cardsAt (hub x).dev.time < 5 ∧
    Issues (.cardUser 0 ⟨3, 0xFFFF, 31, 0⟩) 0 (hub spent) ∧ Issues (.cardBarrierArrive 0 ⟨0, 0, 0, 1⟩) 0 (hub spent) ∧
    5 ≤ ((hub spent).tile 0).cardsAt (hub spent).dev.time ∧ Issues (.cardBarrierArrive 0 ⟨0, 0, 0, 2⟩) 0 (hub x) := by
  simp only [Issues]
  and_intros <;> decide +kernel

end Sys2Proof.Tests
end

