-- ==== Sys2Proof/Tests/WitnessFolio.lean ====
section
/-! SUPPORT. For the statements about the folio unit and the sampler: concrete states and operands that meet their hypotheses. -/

set_option Elab.async false

namespace Sys2Proof.Tests

open Sys2Proof Sys2Proof.Machine

/-! ## The folio unit -/

/-- An attention stage of layer 0xFFFF on tiles 0 and 1, one half sheet of shared keys. -/
def folioStage : Stage :=
  { kind := 2, layer := 0xFFFF, cacheFmt := fmtKV8, kdims := 32, vShared := true, cacheTscale := 0x3F800000, heads := 1,
    tiles := [(0, 0), (1, 0)] }

/-- The lines of an empty open folio of session 0 and layer 0xFFFF: header, positions, scores, digest and one half sheet
(R168, R169). -/
def folioHead : Line := mkParcel (frameHeader (newFrame folioStage 0 0 0)) [] fmtU32 0
def folioLines : List Line :=
  folioHead :: List.replicate 4 (mkWords fmtU32 []) ++ List.replicate 4 zeroLine ++ [mkParcel [] [] fmtBYTES 0] ++
    List.replicate 32 (mkParcel [] [] fmtKV8 0)

/-- A tile with the empty open folio in its first pages, F32 zeros in its first lines and a query block after them. -/
def folioTile : Tile :=
  { run0 with owners := [(0, 0x10000000), (1, 0x20000000)], slab := Mem.writeLines [] 0 folioLines,
              wb := Mem.writeLines [] 0 (List.replicate 4 zeroLine ++ [mkParcel [] [] fmtA8 0]), a := [(1, 4)],
              s := [(1, 0x3F800000)] }

theorem readLine_empty (k : Nat) : Mem.readLine [] k = 0 := by
  have h : ∀ a, Mem.readByte [] a = 0 := fun _ => rfl
  simp only [Mem.readLine, h]
  decide +kernel

theorem folioTile_slab : folioTile.slab = Mem.writeLines [] 0 folioLines := by rw [folioTile]

theorem folioTile_line (i : Nat) : folioTile.readLine memSlab i = folioLines.getD i 0 := by
  rw [Tile.readLine, if_neg (by decide), if_pos rfl, folioTile_slab]
  by_cases h : i < folioLines.length
  · have k := Mem.readLine_writeLines_inside [] 0 folioLines i h
    rw [Nat.zero_add] at k
    rw [k, List.getD_eq_getElem _ _ h]
  · rw [Mem.readLine_writeLines_outside _ _ _ _ (by omega), readLine_empty, List.getD_eq_default _ _ (by omega)]

theorem folioTile_lines (l n : Nat) :
    folioTile.readLines memSlab l n = (List.range n).map (fun i => folioLines.getD (l + i) 0) := by
  simp only [Tile.readLines, folioTile_line]

theorem folioTile_checks :
    checkAll [fmtU32] (folioTile.readLines memSlab 0 5) = none ∧ checkAll [fmtF32] (folioTile.readLines memSlab 5 4) = none ∧
    checkAll [fmtBYTES] (folioTile.readLines memSlab 9 1) = none ∧ checkAll [fmtKV8] (folioTile.readLines memSlab 10 32) = none := by
  simp only [folioTile_lines]
  decide +kernel

theorem folioHead_fields :
    byteAt folioHead 6 = fmtKV8 ∧ bitsAt folioHead 128 16 = 32 ∧ bitsAt folioHead 144 15 = 0 ∧ bitAt folioHead 159 = true ∧
    bitsAt folioHead 56 1 = 0 ∧ fieldAt folioHead 64 64 = (0 : BitVec 64) := by decide +kernel

/-- A frame of one half sheet of keys without an entry reads. -/
theorem readFrame_empty (g : Stage) (t : Tile) (h : Line) (hd : t.readLine memSlab 0 = h) (gf : g.cacheFmt = fmtKV8)
    (e1 : checkAll [fmtU32] (t.readLines memSlab 0 5) = none) (e2 : checkAll [fmtF32] (t.readLines memSlab 5 4) = none)
    (e3 : checkAll [fmtBYTES] (t.readLines memSlab 9 1) = none) (e4 : checkAll [fmtKV8] (t.readLines memSlab 10 32) = none)
    (h1 : byteAt h 6 = fmtKV8) (h2 : bitsAt h 128 16 = 32) (h3 : bitsAt h 144 15 = 0) (h4 : bitAt h 159 = true)
    (h5 : bitsAt h 56 1 = 0) (h6 : fieldAt h 64 64 = (0 : BitVec 64)) :
    ∃ fr, readFrame g t 0 = .ok fr ∧ fr.isSealed = false ∧ fr.valid = 0 ∧ fr.tscale = wordAt h 6 ∧
      fr.sheets = [⟨match t.readLines memSlab 10 32 with | x :: _ => Line.scale x 0 | [] => 0,
        (t.readLines memSlab 10 32).map Line.signed⟩] ∧ fr.kd = 32 ∧ fr.pos = (t.readLines memSlab 1 4).flatMap Line.words := by
  have w : layoutWidths 32 0 true = [32] := rfl
  have n : headerLines (digestFormat g fmtKV8 ((0 : Nat) == 1)) 32 = 10 := by
    show headerLines g.cacheFmt 32 = 10
    rw [gf]
    decide
  have l : sheetLines fmtKV8 32 = 32 := rfl
  have k : ¬ fmtKV8 = fmtKV4 := by decide
  simp only [readFrame, hd, Nat.zero_add, e1, e2, Option.orElse, h1, h2, h3, h4, h5, n, w, e3, readSheets, l, e4,
    if_neg k, h6]
  exact ⟨_, rfl, rfl, rfl, rfl, rfl, rfl, rfl⟩

/-- The folio on tile 0, with tile 1 beside it; and the folio on tile 1, asked by tile 0. -/
def folioDev : Dev := { placement := some { stages := [folioStage] } }
def folioHere : State := { dev0 run0 with tiles := [(0, folioTile), (1, run0)], dev := folioDev }
def folioThere : State := { dev0 run0 with tiles := [(0, run0), (1, folioTile)], dev := folioDev }
def folioF : FolioOps := ⟨0, 0, 1, 0, 31, 0xFFFF, false⟩

theorem witness_FolioInstructions_stage :
    folioHere.attentionStage 0 folioF.layer = some folioStage ∧ folioThere.attentionStage 0 folioF.layer = some folioStage ∧
    Issues (.folioList 0 ⟨folioF, {}⟩) 0 folioHere ∧ Issues (.folioAppend 0 ⟨folioF, {}⟩) 0 folioThere ∧
    Issues (.folioAppend 0 ⟨folioF, {}⟩) 0 folioHere ∧ Issues (.folioWeevil 0 ⟨{ folioF with zero := true }, {}⟩) 0 folioHere ∧
    Issues (.folioWeevil 0 ⟨folioF, {}⟩) 0 folioHere ∧ Issues (.folioBound 0 ⟨{ folioF with ax := 1, ss := 1 }, {}⟩) 0 folioHere ∧
    Issues (.folioCommit 0 ⟨folioF, {}⟩) 0 folioHere ∧ Issues (.folioList 0 ⟨{ folioF with layer := 0 }, {}⟩) 0 folioHere ∧
    Issues (.folioAppend 0 ⟨{ folioF with layer := 0 }, {}⟩) 0 folioHere ∧ Issues (.folioWeevil 0 ⟨{ folioF with layer := 0 }, {}⟩) 0 folioHere ∧
    Issues (.folioBound 0 ⟨{ folioF with layer := 0 }, {}⟩) 0 folioHere ∧ Issues (.folioCommit 0 ⟨{ folioF with layer := 0 }, {}⟩) 0 folioHere ∧
    folioHere.attentionStage 0 0 = none := by
  simp only [Issues]
  decide +kernel

/-- The head of the folio, found by its owner entry and its header. -/
theorem folioTile_framesAt : folioTile.framesAt 0 0 0 0xFFFF = [0] := by
  simp only [Tile.framesAt, folioTile_line]
  decide +kernel

theorem folioTile_frame : ∃ fr, readFrame folioStage folioTile 0 = .ok fr ∧ fr.isSealed = false ∧ fr.valid = 0 ∧
    fr.keySheets.length = 1 ∧ okE (appendFrame fr 0 1 (List.replicate 32 0)) = true ∧ (listRecord [] none (0, fr)).length = 5 := by
  obtain ⟨e1, e2, e3, e4⟩ := folioTile_checks
  obtain ⟨h1, h2, h3, h4, h5, h6⟩ := folioHead_fields
  have hd : folioTile.readLine memSlab 0 = folioHead := by rw [folioTile_line, folioLines]; rfl
  obtain ⟨fr, r, s, v, ts, sh, kd, ps⟩ := readFrame_empty folioStage folioTile folioHead hd rfl e1 e2 e3 e4 h1 h2 h3 h4 h5 h6
  refine ⟨fr, r, s, v, ?_, ?_, ?_⟩
  · simp only [Frame.keySheets, sh, kd]
    rfl
  · simp only [appendFrame, sh, ts, folioTile_lines]
    have a : okE (appendSheets (wordAt folioHead 6) 0
        [⟨match (List.range 32).map (fun i => folioLines.getD (10 + i) 0) with | x :: _ => Line.scale x 0 | [] => 0,
          ((List.range 32).map (fun i => folioLines.getD (10 + i) 0)).map Line.signed⟩] (List.replicate 32 0)) = true := by
      decide +kernel
    split
    · rename_i e he
      rw [he] at a
      exact a
    · rfl
  · simp only [listRecord, ps, folioTile_lines, List.length_cons, List.length_map]
    decide +kernel

/-- A readable header without an entry. -/
theorem readHead_ok (t : Tile) (h : Line) (hd : t.readLine memSlab 0 = h) (e1 : checkAll [fmtU32] (t.readLines memSlab 0 5) = none)
    (h5 : bitsAt h 56 1 = 0) (h6 : fieldAt h 64 64 = (0 : BitVec 64)) :
    ∃ f, readHead t 0 = .ok f ∧ f.isSealed = false ∧ f.valid = 0 ∧ f.pos = (t.readLines memSlab 1 4).flatMap Line.words := by
  simp only [readHead, hd, e1, h5, h6, Nat.zero_add]
  exact ⟨_, rfl, rfl, rfl, rfl⟩

/-- The header of the empty folio reads. -/
theorem folioTile_head : ∃ h, readHead folioTile 0 = .ok h ∧ h.isSealed = false ∧ h.valid = 0 ∧
    h.pos = (folioTile.readLines memSlab 1 4).flatMap Line.words := by
  obtain ⟨e1, -, -, -⟩ := folioTile_checks
  obtain ⟨-, -, -, -, h5, h6⟩ := folioHead_fields
  exact readHead_ok folioTile folioHead (by rw [folioTile_line, folioLines]; rfl) e1 h5 h6

theorem readHead_intrude (i : Intrusion) (x : Tile) (l : Nat) : readHead (intrude i x) l = readHead x l := by
  simp only [readHead, Tile.readLines, intrude_readLine]

/-- A state with one folio tile `t` of two: what the folio unit finds of session 0. -/
theorem folio_found (s : State) (t v : TileId) (x : Tile) (ht : s.tile t = x) (hv : s.tile v = run0)
    (hf : s.familyOf 0 = 0) (hl : x.framesAt 0 0 0 0xFFFF = [0]) :
    s.localFrames t {} 0xFFFF = [0] ∧ s.localFrames v {} 0xFFFF = [] := by
  refine ⟨?_, ?_⟩
  · simp only [State.localFrames, ht, hf, hl]
  · simp only [State.localFrames, hv]
    rfl

/-- The headers of the stage's two tiles. -/
theorem folio_stage (s : State) (t : TileId) (fr : Frame) (g : Stage) (hg : g.layer = 0xFFFF)
    (hf : readHead (s.tile t) 0 = .ok fr) (hl : s.localFrames t {} 0xFFFF = [0]) (a b : List (TileId × Word))
    (he : g.tiles = a ++ [(t, 0)] ++ b) (ha : ∀ e ∈ a ++ b, s.localFrames e.1 {} 0xFFFF = []) :
    s.stageHeads g {} = [(t, 0, fr)] := by
  have none (l : List (TileId × Word)) (h : ∀ e ∈ l, s.localFrames e.1 {} 0xFFFF = []) :
      l.flatMap (fun e => (s.localFrames e.1 {} g.layer).filterMap (fun l => match readHead (s.tile e.1) l with
        | .ok f => some (e.1, l, f)
        | .error _ => none)) = [] := by
    rw [List.flatMap_eq_nil_iff]
    intro e he
    rw [hg, h e he]
    rfl
  show g.tiles.flatMap (fun e => (s.localFrames e.1 {} g.layer).filterMap (fun l => match readHead (s.tile e.1) l with
        | .ok f => some (e.1, l, f)
        | .error _ => Option.none)) = _
  rw [he, List.flatMap_append, List.flatMap_append, none a (fun e h => ha e (by simp [h])), none b (fun e h => ha e (by simp [h]))]
  simp only [List.flatMap_cons, List.flatMap_nil, List.nil_append, List.append_nil, hg, hl, List.filterMap_cons, hf,
    List.filterMap_nil]

theorem folioHere_found : folioHere.localFrames 0 {} 0xFFFF = [0] ∧ folioHere.localFrames 1 {} 0xFFFF = [] :=
  folio_found folioHere 0 1 folioTile rfl rfl rfl folioTile_framesAt

theorem folioThere_found : folioThere.localFrames 1 {} 0xFFFF = [0] ∧ folioThere.localFrames 0 {} 0xFFFF = [] :=
  folio_found folioThere 1 0 folioTile rfl rfl rfl folioTile_framesAt

theorem frameOf_own (s : State) (g : Stage) (t : TileId) (n : BitVec 16) (l : Nat) (x : Tile) (fr : Frame) (ht : s.tile t = x)
    (h : readFrame g x l = .ok fr) (ho : ownState (x.owner (l / 32)) = 1) : s.frameOf g t n l = .ok fr := by
  have ne : ¬ (1 : Nat) = 3 := by decide
  simp only [State.frameOf, ht, h, ho, if_neg ne]

theorem folioHere_frame (fr : Frame) (h : readFrame folioStage folioTile 0 = .ok fr) :
    folioHere.frameOf folioStage 0 0 0 = .ok fr :=
  frameOf_own folioHere folioStage 0 0 0 folioTile fr rfl h (by decide +kernel)

theorem folioHere_range : folioHere.frameRange folioStage 0 0 = ⟨memSlab, 0, 64⟩ := by
  have hd : folioTile.readLine memSlab 0 = folioHead := by rw [folioTile_line, folioLines]; rfl
  have ht : folioHere.tile 0 = folioTile := rfl
  rw [State.frameRange, State.frameExtent, ht, hd]
  decide +kernel

theorem folioHere_stage (fr : Frame) (h : readHead folioTile 0 = .ok fr) :
    folioHere.stageHeads folioStage {} = [(0, 0, fr)] := by
  obtain ⟨a, b⟩ := folioHere_found
  exact folio_stage folioHere 0 fr folioStage rfl h a [] [(1, 0)] rfl (by simpa using b)

theorem folioThere_stage (fr : Frame) (h : readHead folioTile 0 = .ok fr) :
    folioThere.stageHeads folioStage {} = [(1, 0, fr)] := by
  obtain ⟨a, b⟩ := folioThere_found
  exact folio_stage folioThere 1 fr folioStage rfl h a [(0, 0)] [] rfl (by simpa using b)

/-- No entry is used, no TAKE runs and no PASS waits: no line is held. -/
theorem lineBlocks_none (x : Tile) (rs ws : List LineRange) (h : x.sb = []) (k : x.takes = []) (p : x.passes = []) :
    x.lineBlocks rs ws = false := by
  simp [Tile.lineBlocks, Tile.sbBlocks, Tile.takeBlocks, Tile.passBlocks, h, k, p, Tbl.get]

theorem readFrames_one (s : State) (g : Stage) (t : TileId) (n : BitVec 16) (l : Nat) (fr : Frame)
    (h : s.frameOf g t n l = .ok fr) : s.readFrames g t n [l] = .ok [(l, fr)] := by
  simp only [State.readFrames, h]

/-- LIST: the header read, with its lines owned, fitting and free; COMMIT: the same frame, owned and free. -/
theorem witness_FolioInstructions_list : ∃ h fr,
    readHeads (intrude (noSlots {}) (folioHere.tile 0)) (folioHere.localFrames 0 {} 0xFFFF) = .ok [(0, h)] ∧
    ownChecks (readsAs folioTile) (folioHere.familyOf 0) folioTile [⟨memSlab, 0, 5⟩] = none ∧
    folioTile.line folioF.ad + 5 * (folioHere.localFrames 0 {} 0xFFFF).length ≤ 4096 ∧
    folioTile.lineBlocks [⟨memSlab, 0, 5⟩] [wbRange (folioTile.line folioF.ad) 5] = false ∧
    commitOwns folioHere folioStage 0 folioTile (folioHere.localFrames 0 {} 0xFFFF) = none ∧
    folioTile.lineBlocks [⟨memSlab, 0, 64⟩] [⟨memSlab, 0, 64⟩] = false ∧
    folioHere.readFrames folioStage 0 0 (folioHere.localFrames 0 {} 0xFFFF) = .ok [(0, fr)] := by
  obtain ⟨h, r, -, -, -⟩ := folioTile_head
  obtain ⟨fr, q, -⟩ := folioTile_frame
  have ht : folioHere.tile 0 = folioTile := rfl
  obtain ⟨l, -⟩ := folioHere_found
  refine ⟨h, fr, ?_, by decide +kernel, by rw [l]; decide +kernel, lineBlocks_none _ _ _ rfl rfl rfl, ?_,
    lineBlocks_none _ _ _ rfl rfl rfl, ?_⟩
  · simp only [l, readHeads, readHead_intrude, ht, r]
  · rw [l]
    simp only [commitOwns, List.map_cons, List.map_nil, folioHere_range]
    have e : [0].filter (fun l => ownState (folioTile.owner (l / 32)) != 3) = [0] := by decide +kernel
    rw [e]
    simp only [List.map_cons, List.map_nil, folioHere_range]
    decide +kernel
  · rw [l]
    exact readFrames_one _ _ _ _ _ _ (folioHere_frame fr q)

/-- APPEND: the open folio found on this tile with its slot free, and found on the other tile; no folio open at all. -/
theorem witness_FolioInstructions_append : ∃ h fr,
    readHeads folioTile (folioHere.localFrames 0 {} 0xFFFF) = .ok [(0, h)] ∧
    ((folioHere.stageHeads folioStage {}).find? (fun e => !e.2.2.isSealed && !e.2.2.full)) = some (0, 0, h) ∧
    readHeads run0 (folioThere.localFrames 0 {} 0xFFFF) = .ok [] ∧
    ((folioThere.stageHeads folioStage {}).find? (fun e => !e.2.2.isSealed && !e.2.2.full)) = some (1, 0, h) ∧
    (1 : TileId) ≠ 0 ∧
    (let s : State := { dev0 run0 with dev := folioDev }
     s.attentionStage 0 0xFFFF = some folioStage ∧ readHeads (s.tile 0) (s.localFrames 0 {} 0xFFFF) = .ok [] ∧
     (s.stageHeads folioStage {}).find? (fun e => !e.2.2.isSealed && !e.2.2.full) = none) ∧
    ownChecks (writesAs folioTile) (folioHere.familyOf 0) folioTile [⟨memSlab, 0, 64⟩] = none ∧
    folioTile.line folioF.ax + 2 ≤ 4096 ∧
    (∀ q ∈ (folioHere.stageHeads folioStage {}).flatMap (fun e => e.2.2.positions), q < 1) ∧
    folioTile.lineBlocks [wbRange 0 2, ⟨memSlab, 0, 64⟩] [⟨memSlab, 0, 64⟩] = false ∧
    folioHere.frameOf folioStage 0 0 0 = .ok fr ∧ okE (readWords [fmtF32] folioTile 0 2) = true ∧
    fr.freeSlot = some 0 ∧ okE (appendFrame fr 0 1 (List.replicate 32 0)) = true := by
  obtain ⟨h, r, s, v, -⟩ := folioTile_head
  obtain ⟨fr, q, -, u, -, a, -⟩ := folioTile_frame
  obtain ⟨l, -⟩ := folioHere_found
  obtain ⟨-, m⟩ := folioThere_found
  have full : h.full = false := by rw [Frame.full, v]; rfl
  have slots : h.slots = [] := by
    have e : h.has = fun i => bitAt (0 : BitVec 64) i := by
      funext i
      rw [Frame.has, v]
    rw [Frame.slots, e]
    decide +kernel
  have free : fr.freeSlot = some 0 := by
    have e : (fun i => !fr.has i) = fun i => !bitAt (0 : BitVec 64) i := by
      funext i
      rw [Frame.has, u]
    rw [Frame.freeSlot, e]
    decide +kernel
  refine ⟨h, fr, ?_, ?_, ?_, ?_, by decide, by decide +kernel, by decide +kernel, by decide +kernel, ?_,
    lineBlocks_none _ _ _ rfl rfl rfl, folioHere_frame fr q, by decide +kernel, free, a⟩
  · simp only [l, readHeads, r]
  · rw [folioHere_stage h r, List.find?_cons_of_pos (by simp [s, full])]
  · rw [m]
    rfl
  · rw [folioThere_stage h r, List.find?_cons_of_pos (by simp [s, full])]
  · rw [folioHere_stage h r]
    simp [Frame.positions, slots]

/-- WEEVIL and BOUND: the frame at line 0 is the session's, its words are readable, and so is a query block. -/
theorem witness_FolioInstructions_frame : ∃ fr,
    folioHere.frameRange folioStage 0 0 = ⟨memSlab, 0, 64⟩ ∧ rangesFault unitFolio [⟨memSlab, 0, 64⟩] = none ∧
    ownChecks (readsAs folioTile) (folioHere.familyOf 0) folioTile [⟨memSlab, 0, 64⟩] = none ∧
    0 ∈ folioHere.localFrames 0 {} 0xFFFF ∧ folioHere.frameOf folioStage 0 0 0 = .ok fr ∧
    folioTile.lineBlocks [wbRange 0 4] [] = false ∧ okE (readWords [fmtF32] folioTile 0 4) = true ∧
    (sheetWidths folioStage.kdims).length = 1 ∧ queryLines folioTile (folioTile.line 1) 1 = 1 ∧
    rangesFault unitFolio [wbRange (folioTile.line 1) 1] = none ∧
    folioTile.lineBlocks [wbRange (folioTile.line 1) 1, ⟨memSlab, 0, 64⟩] [] = false ∧
    posNormal (folioTile.sreg 1) = true ∧ okE (queryBlocks (intrude (noSlots {}) folioTile) (folioTile.line 1) 1) = true := by
  obtain ⟨fr, r, -⟩ := folioTile_frame
  obtain ⟨l, -⟩ := folioHere_found
  refine ⟨fr, folioHere_range, by decide, by decide +kernel, by rw [l]; decide, folioHere_frame fr r,
    lineBlocks_none _ _ _ rfl rfl rfl, by decide +kernel, by decide, by decide +kernel, by decide +kernel,
    lineBlocks_none _ _ _ rfl rfl rfl, by decide +kernel, by decide +kernel⟩

/-! ## The sampler -/

/-- A settings block that draws greedily under no grammar: TOP_P = 1, PENALTY = 1. -/
def settingsLine : Line := mkParcel (List.replicate 8 0 ++ [0, 0, 0x80, 0x3F, 0, 0, 0, 0, 0, 0, 0x80, 0x3F]) [] fmtBYTES 0

/-- F32 zeros at lines 0 to 7, a settings block at line 8, a line of words at line 9. -/
def sampleTile : Tile :=
  { run0 with wb := Mem.writeLines [] 0 (List.replicate 8 zeroLine ++ [settingsLine, mkWords fmtU32 []]),
              a := [(1, 4), (2, 8), (3, 9), (4, 4092)], s := [(1, 16)] }
def sampleF : SampleOps := ⟨4, 0, 1, 0, 31, 0, 0⟩

/-- A grammar with one state that allows every byte and token, installed under ID 1, and one whose state is DEAD on every byte. -/
def grammarImage (dead : Bool) : Image :=
  { kind := 4, slot := 1, digest := 0
    records := BitVec.ofNat 576 (2 ^ 16) :: List.replicate 8 (if dead then BitVec.ofNat 576 (2 ^ 512 - 1) else 0) }
def grammarState (dead : Bool) : State :=
  let x : Tile := { sampleTile with sampler := [(0, ⟨BitVec.ofNat 576 (2 ^ 56), 0⟩)] }
  (dev0 x).updDev (fun d => { d with
    grammars := [(1, 7)], images := [(7, some (grammarImage dead))]
    placement := some { vocab := 1, sections := [⟨0x15, 0xFFFF, 0xFF, 0, 1⟩], lines := [BitVec.ofNat 576 (2 ^ 26)] } })

theorem witness_SamplerInstructions :
    let s := dev0 sampleTile
    let x := intrude (noSlots {}) (s.tile 0)
    let f := sampleF
    let p := x.readLine memWb 8
    Issues (.sampleSetup 0 ⟨{ f with ax := 2 }, {}⟩) 0 s ∧ x.line 2 + 1 ≤ 4096 ∧ (s.tile 0).lineBlocks [wbRange (x.line 2) 1] [] = false ∧
    parcelCheck [fmtU32, fmtBYTES] p = none ∧ s.settingsOk (readSettings (bytesOf 32 (p.setWidth 256))) = true ∧
    Issues (.sampleGmask 0 ⟨f, {}⟩) 0 s ∧ rangesFault unitSampler (wbRange 0 4 :: [] ++ [wbRange 0 4]) = none ∧
    (s.tile 0).lineBlocks (wbRange 0 4 :: []) [wbRange 0 4] = false ∧ x.line f.ax = 0 ∧
    readWords [fmtF32] x 0 4 = .ok (List.replicate 64 0) ∧ (List.replicate 64 (0 : Word)).any isNaN = false ∧
    s.sessionGrammar x.ctx.session x.settings.grammar = none ∧
    Issues (.samplePenalty 0 ⟨{ f with ay := 3, ss := 1 }, {}⟩) 0 s ∧
    rangesFault unitSampler (wbRange 0 4 :: [wbRange 9 1] ++ [wbRange 0 4]) = none ∧
    (s.tile 0).lineBlocks (wbRange 0 4 :: [wbRange 9 1]) [wbRange 0 4] = false ∧ ((x.sreg 1).toNat + 15) / 16 = 1 ∧
    okE (readWords [fmtU32] x (x.line 3) 1) = true ∧ Issues (.sampleTemp 0 ⟨f, {}⟩) 0 s ∧
    Issues (.sampleUniform 0 ⟨{ f with purpose := 3 }, {}⟩) 0 s ∧ Issues (.sampleDraw 0 ⟨f, {}⟩) 0 s ∧ (s.tile 0).lineBlocks [wbRange 0 4] [] = false ∧
    Issues (.sampleAccept 0 ⟨{ f with ss := 29 }, {}⟩) 0 s ∧ Issues (.sampleResid 0 ⟨f, {}⟩) 0 s ∧
    rangesFault unitSampler [wbRange 0 4, wbRange (x.line f.ay) 4, wbRange (x.line f.ad) 4] = none ∧
    (s.tile 0).lineBlocks [wbRange 0 4, wbRange (x.line f.ay) 4] [wbRange (x.line f.ad) 4] = false ∧
    okE (readWords [fmtF32] x (x.line f.ay) 4) = true ∧ Issues (.sampleGstep 0 ⟨f, {}⟩) 0 s ∧ intrusionStops {} unitSampler = none ∧
    isZeroF x.settings.temp = true := by
  simp only [Issues]
  and_intros <;> decide +kernel

/-- Under a grammar: a token the grammar takes, and one it does not. -/
theorem witness_SamplerInstructions_grammar :
    let s := grammarState false
    let d := grammarState true
    let x := intrude (noSlots {}) (s.tile 0)
    s.sessionGrammar x.ctx.session x.settings.grammar = some (grammarImage false) ∧ s.dev.placement.isSome = true ∧
    Issues (.sampleGmask 0 ⟨sampleF, {}⟩) 0 s ∧ Issues (.sampleGstep 0 ⟨sampleF, {}⟩) 0 s ∧
    s.walkToken (grammarImage false) x.samplerOf.grammarState (x.sreg sampleF.ss).toNat = some 0 ∧
    d.sessionGrammar x.ctx.session x.settings.grammar = some (grammarImage true) ∧ Issues (.sampleGstep 0 ⟨sampleF, {}⟩) 0 d ∧
    d.walkToken (grammarImage true) x.samplerOf.grammarState (x.sreg sampleF.ss).toNat = none := by
  simp only [Issues]
  decide +kernel

end Sys2Proof.Tests
end

