-- ==== Sys2Proof/Tests/WitnessSessions.lean ====
section
/-! SUPPORT. For every statement about letters and sessions: concrete states and operands that meet its hypotheses, clause by
clause. -/

set_option Elab.async false

namespace Sys2Proof.Tests

open Sys2Proof Sys2Proof.Machine

/-- A letter of tenant 1 on port 47 with its CRC. -/
def letter (op session : BitVec 16) (ps : List Byte) (train : List Line) (role : Byte) : Letter :=
  let l : Letter := { port := 47, id := 1, session := session, paramLen := BitVec.ofNat 16 ps.length, role := role,
                      trainLines := BitVec.ofNat 32 train.length, crc := 0, params := ps, train := train }
  { l with crc := letterCrc op l }

/-- `n` parameter bytes of 0. -/
def pad (n : Nat) : List Byte := List.replicate n 0

/-- A device that serves, with both roles open on port 47 and a press of J7 not needed. -/
def served : State :=
  { bring := { step := 9, keepersUp := true }
    dev := { deviceState := 2, j7 := true, roles := [(47, [⟨false, 0, 0, 0⟩, ⟨true, 0, 0xFFFFFFFF, 0xFFFF⟩])] } }

/-- That device with session 5 of tenant 1. -/
def withSession (x : Session) : State := { served with dev := { served.dev with sessions := [(5, x)] } }

/-- A RESIDENT session of tenant 1. -/
def resident : Session := { state := .resident, tenant := 1, budget := 16384 }

/-- The checks of R350 as one value. -/
def acc (op : BitVec 16) (l : Letter) (r : LetterRule) (s : State) : Bool :=
  s.accepting && letterCrcOk op l && l.version == 1 && !s.inFlight (letterKey l) && letterDevice l == s.dev.member &&
  firstBad (commonChecks op l r s) == none

theorem accepted_iff (op : BitVec 16) (l : Letter) (r : LetterRule) (s : State) : Accepted op l r s ↔ acc op l r s = true := by
  simp [Accepted, acc, and_assoc]

/-- A row each for a bad CRC, a wrong version, a letter in flight and a letter for another member; a reserved opcode; an
accepted letter that waits for its deadline. -/
theorem witness_LettersAreCheckedInOrder :
    let l := letter opStatus 0 [] [] 0
    let l0 : Letter := { l with version := 2 }
    let v : Letter := { l0 with crc := letterCrc opStatus l0 }
    let l1 : Letter := { l with flags := 0x300 }
    let m : Letter := { l1 with crc := letterCrc opStatus l1 }
    let r : LetterRec := recordOf opStatus l false
    let f : State := { served with dev := { served.dev with letters := [r], members := 0x8 }, ports := [(0, { st := .up, peer := 3 })] }
    letterRow (.status l) = some (opStatus, l) ∧ State.reset.accepting = false ∧ served.accepting = true ∧
    letterCrcOk opStatus { l with crc := l.crc + 1 } = false ∧ letterCrcOk opStatus l = true ∧ letterCrcOk opStatus v = true ∧
    v.version ≠ 1 ∧ served.inFlight (letterKey l) = false ∧ f.accepting = true ∧ f.inFlight (letterKey l) = true ∧
    letterCrcOk opStatus m = true ∧ letterDevice m ≠ served.dev.member ∧ served.inFlight (letterKey m) = false ∧
    portOpen served 47 ∧ portOpen f 47 ∧ letterCrcOk 0x0999 (letter 0x0999 0 [] [] 0) = true ∧ (0x0999 : BitVec 16) ∉ knownOpcodes ∧
    (let g : State := { f with dev := { f.dev with letters := [] } }
     g.accepting = true ∧ g.inFlight (letterKey m) = false ∧ letterDevice m ≠ g.dev.member ∧
     g.isMember (letterDevice m) = true ∧ g.reaches (letterDevice m) = true ∧ opStatus ∈ knownOpcodes ∧ g.portLoad 47 < 4096) ∧
    f.letter (letterKey l) = some r ∧ r.acceptedSent = false ∧ (letterKey l).port = l.port ∧ r.progressed = false ∧
    r.finalStatus = none ∧ r.audit = false ∧ r.journalWait = false := by
  simp only [portOpen]
  decide +kernel

/-- OPEN of a free ID; every queued letter on a RESIDENT session; PARK, RESUME and TRIM at the head of an empty queue. -/
theorem witness_SessionLettersQueueAndRun :
    let o := letter opOpen 5 (pad 16) [] 0
    let s := withSession resident
    let p := withSession { resident with state := .parked }
    let a := letter opAppend 5 (leBytes 4 1) [mkWords fmtU32 [7]] 0
    let g := letter opGenerate 5 (pad 8 ++ leBytes 4 0x3F800000 ++ leBytes 4 0 ++ leBytes 4 0x3F800000 ++ pad 12 ++ leBytes 4 65536 ++ pad 36) [] 0
    let plain (op : BitVec 16) := letter op 5 [] [] 0
    let f := letter opFork 5 (leBytes 2 6 ++ pad 14) [] 0
    let t1 := letter opTrim 5 (leBytes 4 1 ++ leBytes 4 262144 ++ pad 4) [] 0
    let t2 := letter opTrim 5 (leBytes 4 2 ++ leBytes 4 3 ++ leBytes 4 3) [] 0
    let t3 := letter opTrim 5 (leBytes 4 3 ++ leBytes 4 1 ++ pad 4) [] 0
    let m := letter opMigrateOut 5 (leBytes 4 15) [] 0
    let x := s.session 5
    Accepted opOpen o (openRule o served) served ∧ Accepted opAppend a (appendRule a s) s ∧
    Accepted opGenerate g (generateRule g s) s ∧ Accepted opPark (plain opPark) (plainRule (plain opPark) s) s ∧
    Accepted opResume (plain opResume) (plainRule (plain opResume) s) s ∧ Accepted opFork f (forkRule f s) s ∧
    Accepted opTrim t1 (trimRule t1 1 (budgetOk (letterNum t1 4 4) && letterZeros t1 8 4) s) s ∧
    Accepted opTrim t2 (trimRule t2 2 (decide (letterNum t2 4 4 ≤ letterNum t2 8 4)) s) s ∧
    Accepted opTrim t3 (trimRule t3 3 (decide (letterNum t3 4 4 ≤ 1) && letterZeros t3 8 4) s) s ∧
    Accepted opMigrateOut m (migrateOutRule m s) s ∧ Accepted opClose (plain opClose) (closeRule (plain opClose) s) s ∧
    x.queue = [] ∧ x.closeKey = none ∧ x.adapt = none ∧ s.dev.loadFor = none ∧ s.coolant.flowStop = false ∧
    x.state = .resident ∧ Accepted opPark (plain opPark) (plainRule (plain opPark) p) p ∧
    Accepted opResume (plain opResume) (plainRule (plain opResume) p) p ∧ (p.session 5).state = .parked := by
  simp only [accepted_iff]
  decide +kernel

/-- MIGRATE_IN of both sources, from a peer in Express with no quota; the clauses about what arrives rest on a free value. -/
theorem witness_SessionsMoveAndEnd_arrive :
    let x : State := { served with dev := { served.dev with profile := 2, expressTenant := 1 } }
    let k : State := { x with dev := { x.dev with keeperStore := [(5, some resident)] } }
    let p := letter opMigrateIn 5 (leBytes 4 1 ++ pad 4) [] 0
    let q := letter opMigrateIn 5 (leBytes 4 0xFE02 ++ pad 4) [] 0
    AcceptedBut 0x0304 opMigrateIn p (migrateInRule p 1 (letterNum p 1 1 == 0) x) x ∧
    AcceptedBut 0x0304 opMigrateIn q (migrateInRule q 2 (decide (letterNum q 1 1 ≤ 15) || letterNum q 1 1 == 0xFE) k) k := by
  simp only [AcceptedBut]
  refine ⟨⟨?_, ?_, ?_, ?_, ?_, ?_⟩, ?_, ?_, ?_, ?_, ?_, ?_⟩ <;> decide +kernel

/-- Sessions at the end of each transition, with no folio to place and with positions to recompute; an adapter between waves whose
ADAPT has its result. -/
theorem witness_SessionsMoveAndEnd_end :
    let s (st : SessState) := withSession { resident with state := st, prior := .parked }
    let b := withSession { resident with state := .resuming, rebuildFrom := some 0 }
    let r : LetterRec := recordOf opAdapt (letter opAdapt 5 (pad 64) [] 0) false
    let run : AdaptRun := { key := r.key, first := 0, last := 0, result := some (0, []) }
    let a : AdapterInst := { id := 1, useB := true }
    let d0 := withSession { resident with adapt := some run, adapter := some a }
    let d : State := { d0 with dev := { d0.dev with letters := [r] } }
    ((s .parking).session 5).state = .parking ∧ ((s .parking).session 5).queue = [] ∧
    ((s .resuming).session 5).state = .resuming ∧ residenceFull 5 1 (s .resuming) = false ∧ ((s .resuming).session 5).folios = [] ∧
    ((s .resuming).session 5).rebuildFrom = none ∧ (residentAll 5 [] (s .resuming)).isSome = true ∧
    (b.session 5).state = .resuming ∧ residenceFull 5 1 b = false ∧ (b.session 5).folios = [] ∧ (b.session 5).rebuildFrom = some 0 ∧
    (residentAll 5 [] b).isSome = true ∧ ((s .closing).session 5).state = .closing ∧
    ((s .closing).session 5).closeKey = none ∧ ((s .migrating).session 5).state = .migrating ∧
    ((s .migrating).session 5).queue = [] ∧ ((s .migrating).session 5).rebuildFrom = none ∧
    (d.session 5).adapt = some run ∧ (d.session 5).adapter = some a ∧ run.result = some (0, []) ∧ d.letter run.key = some r ∧
    d.standing 5 = true ∧ d.betweenWaves 5 = true ∧ r.finalStatus = none ∧ r.audit = false ∧ r.journalWait = false ∧
    portOpen d run.key.port := by
  simp only [portOpen]
  and_intros <;> decide +kernel

/-- A device with a placement of one attention stage on tiles 0 and 1. -/
def placed (x : Session) : State :=
  { withSession x with dev := { (withSession x).dev with placement := some { stages := [folioStage], vocab := 100 } } }

/-- An APPEND of 2 tokens in flight at the head of session 5's queue. -/
def appendRec : LetterRec :=
  { key := ⟨47, 9⟩, opcode := opAppend, session := 5, tenant := 1, deadline := 3, role := 0, stream := false, params := leBytes 4 2,
    train := [mkWords fmtU32 [7, 8]] }
def appending : State :=
  let s := placed { resident with queue := [⟨47, 9⟩] }
  { s with dev := { s.dev with letters := [appendRec], nextWave := 255 } }

/-- A GENERATE of one token with one draft in flight at the head of session 5's queue, the token 7 behind it. -/
def generateParams : List Byte :=
  pad 6 ++ [1, 0] ++ leBytes 4 0x3F800000 ++ leBytes 4 0 ++ leBytes 4 0x3F800000 ++ pad 12 ++ leBytes 4 65536 ++ pad 36
def generateRec : LetterRec := { appendRec with opcode := opGenerate, params := generateParams, train := [] }
def generating : State :=
  let s := placed { resident with queue := [⟨47, 9⟩], tokens := [7], highest := some 0 }
  { s with dev := { s.dev with letters := [generateRec], nextWave := 255 } }

/-- Wave 255 is the free one that comes next, of an APPEND and of a GENERATE whose nymph gives one distribution. -/
theorem witness_WavesAreIssued :
    let s := appending
    let g := generating
    let p : Placement := { stages := [folioStage], vocab := 100 }
    s.admits = true ∧ firstReady s (readySessions s (fun x => !s.fixedSlots x.tenant)) = some (5, appendRec) ∧
    s.dev.placement = some p ∧ badGate p = false ∧ s.freeWave = some 255 ∧ (nextInputs s (s.session 5) appendRec []).isSome = true ∧
    (statsFor 5 appendRec 2 s).isSome = true ∧
    g.admits = true ∧ firstReady g (readySessions g (fun x => !g.fixedSlots x.tenant)) = some (5, generateRec) ∧
    g.dev.placement = some p ∧ g.freeWave = some 255 ∧ generateRec.opcode = opGenerate ∧ (g.session 5).tokens ≠ [] ∧
    (waveDrafts g (g.session 5) generateRec [[0, 0x3F800000]]).length = 1 ∧
    (nextInputs g (g.session 5) generateRec (waveDrafts g (g.session 5) generateRec [[0, 0x3F800000]])).isSome = true ∧
    (statsFor 5 generateRec 2 g).isSome = true := by
  and_intros <;> decide +kernel

/-- Waves that run in a fixed slot, commit, wait for replay or were purged; a REBUILDING session. -/
theorem witness_WavesAreCommitted :
    let s := appending
    let g := generating
    let v : Wave := { session := 5, letter := some ⟨47, 9⟩, inputs := [7], first := 0 }
    let w (s : State) (v : Wave) : State := { s with dev := { s.dev with waves := [(255, some v)] } }
    let f : State := { w s { v with fixedSlot := true } with
                       dev := { (w s { v with fixedSlot := true }).dev with quotas := [(1, { fixedSlots := true })], admissionClosed := true } }
    let r := placed { resident with state := .rebuilding }
    f.fixedSlots 1 = true ∧ f.admits = false ∧ wavesOfTenant f 1 = [(255, { v with fixedSlot := true })] ∧
    f.wave 255 = some { v with fixedSlot := true } ∧ logitsOk f { v with fixedSlot := true } [] = true ∧
    (w s v).wave 255 = some v ∧ (w s v).letter ⟨47, 9⟩ = some appendRec ∧
    appendRec.emitted + v.inputs.length < leAt appendRec.params 0 4 ∧ v.inputs ≠ [] ∧ (w s v).dev.draining = false ∧
    (w g v).wave 255 = some v ∧ (w g v).letter ⟨47, 9⟩ = some generateRec ∧ generateRec.opcode = opGenerate ∧
    logitsOk (w g v) v [[0, 0x3F800000]] = true ∧ (w g v).dev.draining = false ∧
    (let d := w s { v with discarded := true }
     d.wave 255 = some { v with discarded := true } ∧ d.serves = true ∧ d.dev.wavesHeld = false ∧ d.standing 5 = true ∧
     d.freeWave = some 0 ∧ (0 : Byte) ≠ 255) ∧
    (255 : Byte) ∈ ({ s with dev := { s.dev with purged := [255] } } : State).dev.purged ∧
    (r.session 5).state = .rebuilding ∧ r.serves = true ∧ r.dev.wavesHeld = false ∧ (r.session 5).folios = [] ∧
    (r.session 5).rebuildFrom = none ∧ (residentAll 5 [] r).isSome = true := by
  and_intros <;> decide +kernel

/-! ## Frames (folios whose stage keeps no dimension: a header, positions and scores) -/

/-- An attention stage of layer 0 on tiles 0 and 1 that keeps no dimension. -/
def bareStage : Stage := { kind := 2, cacheFmt := fmtKV8, vShared := true, heads := 1, tiles := [(0, 0), (1, 0)] }

/-- The full open frame of session 5, tenant 1, with the given positions, and its lines. -/
def bareFrame (ps : List Word) : Frame := { newFrame bareStage 5 1 0 with valid := BitVec.allOnes 64, pos := ps }
def bareLines (ps : List Word) : List Line := frameLines fmtKV8 (bareFrame ps)

theorem writeLines_slab (t : Tile) (l : Nat) (ls : List Line) : (t.writeLines memSlab l ls).slab = Mem.writeLines t.slab l ls := by
  induction ls generalizing t l with
  | nil => rfl
  | cons x xs ih => rw [Tile.writeLines, ih]; rfl

theorem slab_line (t : Tile) (ls : List Line) (h : t.slab = Mem.writeLines [] 0 ls) (i : Nat) :
    t.readLine memSlab i = ls.getD i 0 := by
  rw [Tile.readLine, if_neg (by decide), if_pos rfl, h]
  by_cases k : i < ls.length
  · have e := Mem.readLine_writeLines_inside [] 0 ls i k
    rw [Nat.zero_add] at e
    rw [e, List.getD_eq_getElem _ _ k]
  · rw [Mem.readLine_writeLines_outside _ _ _ _ (by omega), readLine_empty, List.getD_eq_default _ _ (by omega)]

/-- Positions 5000, and positions 64 to 127. -/
def high : List Word := List.replicate 64 5000
def low : List Word := (List.range 64).map (fun i => BitVec.ofNat 32 (64 + i))

theorem bare_high (t : Tile) (h : t.slab = Mem.writeLines [] 0 (bareLines high)) :
    readFrame bareStage t 0 = .ok (bareFrame high) := by
  have w : layoutWidths (bitsAt ((bareLines high).getD 0 0) 128 16) (bitsAt ((bareLines high).getD 0 0) 144 15)
      (bitAt ((bareLines high).getD 0 0) 159) = [] := by decide +kernel
  simp only [readFrame, Tile.readLines, slab_line t _ h, w, readSheets]
  decide +kernel

theorem bare_low (t : Tile) (h : t.slab = Mem.writeLines [] 0 (bareLines low)) :
    readFrame bareStage t 0 = .ok (bareFrame low) := by
  have w : layoutWidths (bitsAt ((bareLines low).getD 0 0) 128 16) (bitsAt ((bareLines low).getD 0 0) 144 15)
      (bitAt ((bareLines low).getD 0 0) 159) = [] := by decide +kernel
  simp only [readFrame, Tile.readLines, slab_line t _ h, w, readSheets]
  decide +kernel

theorem bodyFrame_bare (ps : List Word) (h : ∀ t : Tile, t.slab = Mem.writeLines [] 0 (bareLines ps) →
    readFrame bareStage t 0 = .ok (bareFrame ps)) : bodyFrame bareStage (bareLines ps) = some (bareFrame ps) := by
  rw [bodyFrame, h _ (writeLines_slab _ _ _)]

/-- The device with that stage in force. -/
def bareDev (x : Session) : State :=
  { withSession x with dev := { (withSession x).dev with placement := some { stages := [bareStage] } } }

/-- A layer without a folio, and one page free; session 5 with a full open folio on tile 0 and a page of tile 1 for its
sealed frame; a page to scrub; what the trail, the keeper and the tenant keys wait for. -/
theorem witness_FramesAndTrails :
    let s := { bareDev resident with tiles := [(0, { owners := [(2015, 0x70000000)] })] }
    s.layerStage 0 = some bareStage ∧ s.standing 5 = true ∧ openDue (layerFolios s 5 bareStage) = true ∧
    s.stackRoom (openPages bareStage * 32) = true ∧ residenceFull 5 1 s = false ∧ (residentAdapter 5 s).isSome = true ∧
    (s.session 5).adapter = none ∧ chooseFrame s (s.session 5) bareStage (openPages bareStage) 0 none = some (0, 2015) ∧
    compactionDue (s.session 5).budget (s.session 5).adapt (layerFolios s 5 bareStage) = false ∧
    (s.block 0).awake = false ∧
    (let u : State := { s with tiles := [(0, { owners := [(2015, 0x80000000)] })], blocks := [(0, { pstate := .active })] }
     (u.block (tileBlock 0)).awake = true ∧ ownState ((u.tile 0).owner 2015) = 8) ∧
    (withSession { resident with state := .running }).dev.keeperTo = 0xFF ∧
    ({ s with dev := { s.dev with keeperTo := 3 } } : State).dev.keeperTo ≠ 0xFF ∧ (s.session 5).state ≠ .free ∧
    (bareDev { resident with folios := [{ layer := 0, seqNo := 0, tile := some 0 }] } |>.session 5).holdsFrames = true ∧
    (Tbl.get {} ({ s with dev := { s.dev with tenantKeys := [(4095, { gen := 2, older := some (1, 0, 0) })] } } : State).dev.tenantKeys
      4095).older.isSome = true := by
  decide +kernel

/-- The frame of a folio in the first page of a tile. -/
theorem folioFrame_first (s : State) (n : Nat) (g : Stage) (f : FolioRef) (t : TileId) (x : Tile) (fr : Frame) (hf : f.tile = some t)
    (hp : f.page = 0) (ht : s.tile t = x) (ho : ownState (x.owner 0) = 1) (h : readFrame g x 0 = .ok fr) :
    folioFrame s n g f = some fr := by
  simp only [folioFrame, hf, State.frameOf, hp, Nat.mul_zero, Nat.zero_div, ht, h, ho]
  rfl

def fullTile : Tile := { owners := [(0, 0x10010005)], slab := Mem.writeLines [] 0 (bareLines high) }

/-- The same stage with cache format KV4. -/
def fourStage : Stage := { bareStage with cacheFmt := fmtKV4 }

theorem four_high (t : Tile) (h : t.slab = Mem.writeLines [] 0 (bareLines high)) :
    readFrame fourStage t 0 = .ok (bareFrame high) := by
  have w : layoutWidths (bitsAt ((bareLines high).getD 0 0) 128 16) (bitsAt ((bareLines high).getD 0 0) 144 15)
      (bitAt ((bareLines high).getD 0 0) 159) = [] := by decide +kernel
  simp only [readFrame, Tile.readLines, slab_line t _ h, w, readSheets]
  decide +kernel

/-- Session 5 with the full folio of that stage on tile 0 and the frames reserved in `cs`, the stage in force. -/
def sealFolioRef : FolioRef := { layer := 0, seqNo := 0, tile := some 0, pages := 1 }
def sealDev (g : Stage) (cs : List (BitVec 16 × TileId × Nat × Nat)) : State :=
  let x : Session := { resident with highest := some 5000, folios := [sealFolioRef], sealing := cs }
  { withSession x with dev := { (withSession x).dev with placement := some { stages := [g] } }
                       tiles := [(0, fullTile), (1, { owners := [(0, 0x20010005)] })] }

theorem sealDev_ready (g : Stage) (cs : List (BitVec 16 × TileId × Nat × Nat)) (h : readFrame g fullTile 0 = .ok (bareFrame high)) :
    folioFrame (sealDev g cs) 5 g sealFolioRef = some (bareFrame high) :=
  folioFrame_first _ 5 g sealFolioRef 0 fullTile _ rfl rfl rfl (by decide) h

/-- A full folio at positions within the session's, of a KV8 stage and of a KV4 stage with and without a frame reserved for it. -/
theorem witness_FramesAndTrails_sealing :
    let c : BitVec 16 × TileId × Nat × Nat := (0, 1, 0, 1)
    let k := bareFrame high
    (∀ s ∈ [sealDev bareStage [], sealDev fourStage [c], sealDev fourStage []],
      (ownEntry ((s.tile 0).owner 0)).toNat = 5 ∧
      (s.session 5).folios.find? (fun f => f.tile == some 0 && 32 * f.page == 0 && !f.shared) = some sealFolioRef ∧
      s.standing 5 = true ∧ s.betweenWaves 5 = true ∧ (s.session 5).top = 5000) ∧
    (sealDev bareStage []).layerStage 0 = some bareStage ∧ bareStage.cacheFmt = fmtKV8 ∧
    folioFrame (sealDev bareStage []) 5 bareStage sealFolioRef = some k ∧
    (sealDev fourStage [c]).layerStage 0 = some fourStage ∧ fourStage.cacheFmt ≠ fmtKV8 ∧
    folioFrame (sealDev fourStage [c]) 5 fourStage sealFolioRef = some k ∧
    ((sealDev fourStage [c]).session 5).sealing.find? (fun c => c.1 == 0) = some c ∧
    (sealDev fourStage []).layerStage 0 = some fourStage ∧
    folioFrame (sealDev fourStage []) 5 fourStage sealFolioRef = some k ∧
    ((sealDev fourStage []).session 5).sealing.find? (fun c => c.1 == 0) = none ∧
    k.isSealed = false ∧ k.full = true ∧ ∀ p ∈ k.positions, (p : Int) ≤ 5000 := by
  intro c k
  have hs : fullTile.slab = Mem.writeLines [] 0 (bareLines high) := by rw [fullTile]
  have hb := bare_high fullTile hs
  have hf := four_high fullTile hs
  refine ⟨?_, by decide, by decide, sealDev_ready _ _ hb, by decide, by decide, sealDev_ready _ _ hf, by decide, by decide,
    sealDev_ready _ _ hf, by decide, rfl, by decide +kernel, by decide +kernel⟩
  intro s hs
  simp only [List.mem_cons, List.not_mem_nil, or_false] at hs
  rcases hs with rfl | rfl | rfl <;> decide +kernel

/-- Sixteen folios of position 5000 and one of positions 64 to 127, in the trail alone. -/
def oldFolio (ps : List Word) : FolioRef := { layer := 0, seqNo := 0, trail := bareLines ps }
def aged : Session := { resident with budget := 1024, folios := List.replicate 16 (oldFolio high) ++ [oldFolio low] }
def agedFolios : List (FolioRef × Frame) := List.replicate 16 (oldFolio high, bareFrame high) ++ [(oldFolio low, bareFrame low)]

/-- ADAPT over position 5000 of a session with an adapter that retains it. -/
def adaptLetter : Letter := letter opAdapt 5 (leBytes 4 5000 ++ leBytes 4 5000 ++ pad 20) [mkWords fmtF32 []] 0
def adaptDev : State := bareDev { resident with adapter := some { id := 1 }, folios := [oldFolio high], highest := some 5000 }

theorem adaptDev_span : spanRetained adaptDev 5 5000 5000 = true := by
  have f : folioFrame adaptDev 5 bareStage (oldFolio high) = some (bareFrame high) := bodyFrame_bare high bare_high
  have x : (adaptDev.session 5).folios = [oldFolio high] := rfl
  have a : adaptDev.attention = [bareStage] := rfl
  have g : (oldFolio high).layer = bareStage.layer := rfl
  have p : (bareFrame high).positions = List.replicate 64 5000 := by decide +kernel
  have r : retainedOf (layerFolios adaptDev 5 bareStage) = List.replicate 64 5000 := by
    rw [layerFolios, x, List.filterMap_cons_some (b := (oldFolio high, bareFrame high)) (by rw [if_pos g, f]; rfl)]
    simp only [List.filterMap_nil, List.foldl_cons, List.foldl_nil, insertFolio, retainedOf, List.flatMap_cons, List.flatMap_nil,
      List.append_nil, p]
  simp only [spanRetained, a, List.flatMap_cons, List.flatMap_nil, List.append_nil, r]
  decide +kernel

theorem witness_SessionLettersQueueAndRun_adapt : Accepted opAdapt adaptLetter (adaptRule adaptLetter adaptDev) adaptDev := by
  have a : letterNum adaptLetter 0 4 = 5000 ∧ letterNum adaptLetter 4 4 = 5000 ∧ adaptLetter.session.toNat = 5 := by decide +kernel
  have h : adaptRule adaptLetter adaptDev =
      { session := .open, len := 28, train := letterWordTrain adaptLetter fmtF32 1, params := true
        later := [(false, 0x0107), (false, 0x0207), (false, 0x0401), (false, 0x0403)] } := by
    simp only [adaptRule, a.1, a.2.1, a.2.2, adaptDev_span]
    rfl
  rw [h, accepted_iff]
  decide +kernel

theorem insertFolio_last (e : FolioRef × Frame) (l : List (FolioRef × Frame)) (he : e.1.seqNo = 0) (h : ∀ x ∈ l, x.1.seqNo = 0) :
    insertFolio e l = l ++ [e] := by
  induction l with
  | nil => rfl
  | cons x xs ih =>
    rw [insertFolio, if_neg (by rw [he, h x List.mem_cons_self]; exact Nat.lt_irrefl _), ih (fun y m => h y (List.mem_cons_of_mem _ m))]
    rfl

theorem insertFolio_all (l a : List (FolioRef × Frame)) (h : ∀ e ∈ a ++ l, e.1.seqNo = 0) :
    l.foldl (fun l e => insertFolio e l) a = a ++ l := by
  induction l generalizing a with
  | nil => rw [List.foldl_nil, List.append_nil]
  | cons x xs ih =>
    have e : insertFolio x a = a ++ [x] :=
      insertFolio_last x a (h x (List.mem_append_right _ List.mem_cons_self)) (fun y m => h y (List.mem_append_left _ m))
    rw [List.foldl_cons, e, ih _ (by rw [List.append_assoc]; exact h), List.append_assoc, List.singleton_append]

theorem aged_layer (s : State) (h : s.session 5 = aged) : layerFolios s 5 bareStage = agedFolios := by
  have f : folioFrame s 5 bareStage (oldFolio high) = some (bareFrame high) := bodyFrame_bare high bare_high
  have l : folioFrame s 5 bareStage (oldFolio low) = some (bareFrame low) := bodyFrame_bare low bare_low
  have g : ∀ ps, (oldFolio ps).layer = bareStage.layer := fun _ => rfl
  have k : aged.folios = List.replicate 16 (oldFolio high) ++ [oldFolio low] := rfl
  have e : (aged.folios.filterMap (fun f => if f.layer = bareStage.layer then
      (folioFrame s 5 bareStage f).map (fun k => (f, k)) else none)) = agedFolios := by
    rw [k, List.filterMap_append, List.filterMap_replicate_of_some (b := (oldFolio high, bareFrame high)) (by rw [if_pos (g _), f]; rfl),
      List.filterMap_cons_some (b := (oldFolio low, bareFrame low)) (by rw [if_pos (g _), l]; rfl)]
    rfl
  rw [layerFolios, h, e, insertFolio_all _ _ (by
    intro e he
    rw [List.nil_append] at he
    rcases List.mem_append.1 he with m | m
    · exact congrArg (fun e => e.1.seqNo) (List.eq_of_mem_replicate m)
    · exact congrArg (fun e => e.1.seqNo) (List.mem_singleton.1 m)), List.nil_append]

theorem aged_retained : retainedOf agedFolios = List.replicate 1024 5000 ++ (List.range 64).map (64 + ·) := by
  have h : (bareFrame high).positions = List.replicate 64 5000 := by decide +kernel
  have l : (bareFrame low).positions = (List.range 64).map (64 + ·) := by decide +kernel
  have r : (List.replicate 16 (List.replicate 64 5000)).flatten = List.replicate 1024 5000 := List.flatten_replicate_replicate
  rw [retainedOf, agedFolios, List.flatMap_append, List.flatMap_replicate, h, r, List.flatMap_singleton, l]

theorem aged_old (p : Nat) (h : p ∈ (List.range 64).map (64 + ·)) :
    protectedPos (List.replicate 1024 5000 ++ (List.range 64).map (64 + ·)) none p = false := by
  obtain ⟨i, hi, rfl⟩ := List.mem_map.1 h
  have k : i < 64 := List.mem_range.1 hi
  have c : List.countP (fun r => decide (64 + i < r)) (List.replicate 1024 5000) = 1024 := by
    rw [List.countP_replicate, if_pos (by simp; omega)]
  have a : ¬ (64 + i < 64) := by omega
  have b (m : Nat) : ¬ (1024 + m < 1024) := by omega
  simp only [protectedPos, List.countP_append, c, decide_eq_false a, decide_eq_false (b _)]
  rfl

theorem chunks_length {α : Type} (n f : Nat) (xs : List α) : (chunks n f xs).length ≤ f := by
  induction f generalizing xs with
  | zero => exact Nat.le_refl _
  | succ f ih =>
    rw [chunks]
    split
    · exact Nat.zero_le _
    · exact Nat.succ_le_succ (ih _)

/-- A frame that keeps no dimension fits on one page. -/
theorem bare_pages (f : Frame) (h : Byte) (kd : f.kd = 0) (sh : f.sheets = []) : ((frameLines h f).length + 31) / 32 = 1 := by
  have a := chunks_length 16 5 f.pos
  have b := chunks_length 16 5 f.weevils
  have d : headerLines h 0 = 9 := by
    simp only [headerLines, digestBytes]
    split <;> rfl
  simp only [frameLines, kd, sh, d, List.length_cons, List.length_append, List.length_map, List.flatMap_nil, List.length_nil,
    List.length_range]
  omega

theorem repack_bare (b : Byte) (f : Frame) (es : List Entry) (w : layoutWidths f.kd f.vd f.vShared = []) :
    (repackFrame b f es).sheets = [] := by
  simp only [repackFrame, w, List.zipIdx_nil, List.map_nil]

theorem aged_bare (e : FolioRef × Frame) (h : e ∈ agedFolios) :
    e.2.isSealed = false ∧ e.1.tile = none ∧ e.2.kd = 0 ∧ layoutWidths e.2.kd e.2.vd e.2.vShared = [] := by
  rcases List.mem_append.1 h with m | m
  · rw [List.eq_of_mem_replicate m]; exact ⟨rfl, rfl, rfl, rfl⟩
  · rw [List.mem_singleton.1 m]; exact ⟨rfl, rfl, rfl, rfl⟩

/-- Insertion by score keeps every entry. -/
theorem mem_insertScore (e y : Entry) (l : List Entry) : y ∈ insertScore e l ↔ y = e ∨ y ∈ l := by
  induction l with
  | nil => simp [insertScore]
  | cons x xs ih =>
    rw [insertScore]
    split
    · simp
    · simp only [List.mem_cons, ih]
      constructor
      · rintro (h | h | h) <;> simp [h]
      · rintro (h | h | h) <;> simp [h]

theorem mem_scored (y : Entry) (l a : List Entry) : y ∈ l.foldl (fun l e => insertScore e l) a ↔ y ∈ a ∨ y ∈ l := by
  induction l generalizing a with
  | nil => simp
  | cons x xs ih =>
    rw [List.foldl_cons, ih, mem_insertScore, List.mem_cons]
    constructor
    · rintro ((h | h) | h) <;> simp [h]
    · rintro (h | h | h) <;> simp [h]

/-- Where an entry is eligible, a victim comes of the eligible entries. -/
theorem victim_exists (es : List Entry) (h : es ≠ []) : ∃ v ∈ victims es, v ∈ es := by
  obtain ⟨e, he⟩ := List.exists_mem_of_ne_nil es h
  have m := (mem_scored e es []).2 (Or.inr he)
  cases k : es.foldl (fun l e => insertScore e l) [] with
  | nil => rw [k] at m; exact absurd m List.not_mem_nil
  | cons x xs =>
    refine ⟨x, ?_, ?_⟩
    · rw [victims, k]
      exact List.mem_cons_self
    · have n := (mem_scored x es []).1 (by rw [k]; exact List.mem_cons_self)
      exact n.resolve_left List.not_mem_nil

theorem goes (vs : List Entry) (v : Entry) (h : v ∈ vs) : vs.any (fun x => x.pos.toNat == v.pos.toNat) = true :=
  List.any_eq_true.2 ⟨v, h, beq_self_eq_true _⟩

theorem entry_position (f : Frame) (e : Entry) (h : e ∈ f.entries) : e.pos.toNat ∈ f.positions := by
  obtain ⟨i, hi, rfl⟩ := List.mem_map.1 h
  exact List.mem_map.2 ⟨i, hi, rfl⟩

/-- A position of the low folio is eligible. -/
theorem aged_eligible : eligible (retainedOf agedFolios) none (agedFolios.flatMap (fun e => e.2.entries)) ≠ [] := by
  have m : (bareFrame low).entries ≠ [] := by decide +kernel
  obtain ⟨e, he⟩ := List.exists_mem_of_ne_nil _ m
  have l : (bareFrame low).positions = (List.range 64).map (64 + ·) := by decide +kernel
  refine List.ne_nil_of_mem (List.mem_filter.2 ⟨List.mem_flatMap.2 ⟨(oldFolio low, bareFrame low), ?_, he⟩, ?_⟩)
  · exact List.mem_append_right _ (List.mem_singleton.2 rfl)
  · rw [aged_retained, aged_old _ (by rw [← l]; exact entry_position _ _ he)]
    rfl

/-- The open folio that a step repacks. -/
theorem aged_open (gone : Nat → Bool) (h : ∃ v ∈ victims (eligible (retainedOf agedFolios) none
    (agedFolios.flatMap (fun e => e.2.entries))), gone v.pos.toNat = true ∧
      v ∈ eligible (retainedOf agedFolios) none (agedFolios.flatMap (fun e => e.2.entries))) :
    ∃ o, (agedFolios.filter (fun e => e.2.positions.any gone)).find? (fun e => !e.2.isSealed) = some o ∧ o ∈ agedFolios := by
  obtain ⟨v, -, g, m⟩ := h
  obtain ⟨e, he, hv⟩ := List.mem_flatMap.1 (List.mem_filter.1 m).1
  cases k : (agedFolios.filter (fun e => e.2.positions.any gone)).find? (fun e => !e.2.isSealed) with
  | none =>
    have n := List.find?_eq_none.1 k e (List.mem_filter.2 ⟨he, List.any_eq_true.2 ⟨_, entry_position _ _ hv, g⟩⟩)
    rw [(aged_bare e he).1] at n
    exact absurd rfl n
  | some o => exact ⟨o, rfl, (List.mem_filter.1 (List.mem_of_find?_eq_some k)).1⟩

/-- The step repacks one open folio, into a frame of its own where a page is free. -/
theorem aged_step (s : State) (h : s.session 5 = aged) :
    let y := s.updDev (fun d => { d with trailLooks := d.trailLooks + 1 })
    ∃ o m, o.tile = none ∧ ((recordBody bareStage m).length + 31) / 32 = 1 ∧ compactLayer 5 bareStage s = putFolio 5 bareStage o m y := by
  intro y
  have closed (p : FolioRef × Frame → Bool) : (agedFolios.filter p).filter (fun e => e.2.isSealed) = [] := by
    rw [List.filter_eq_nil_iff]
    intro e he
    rw [(aged_bare e (List.mem_filter.1 he).1).1]
    exact Bool.false_ne_true
  have d : aged.deadOpt = false := rfl
  have a : aged.adapt = none := rfl
  obtain ⟨v, hv, he⟩ := victim_exists _ aged_eligible
  have g := goes _ v hv
  generalize hg : victims (eligible (retainedOf agedFolios) none (agedFolios.flatMap (fun e => e.2.entries))) = vs at g
  obtain ⟨o, ho, mo⟩ := aged_open (fun p => vs.any (fun v => v.pos.toNat == p)) ⟨v, hv, g, he⟩
  obtain ⟨-, t, kd, w⟩ := aged_bare o mo
  have sh (es : List Entry) (b : Byte) : (repackFrame b (ownFrame 5 o.2) es).sheets = [] := by
    exact repack_bare b (ownFrame 5 o.2) es w
  have kz (es : List Entry) (b : Byte) : (repackFrame b (ownFrame 5 o.2) es).kd = 0 := kd
  have one (es : List Entry) (b : Byte) : ((recordBody bareStage (repackFrame b (ownFrame 5 o.2) es)).length + 31) / 32 = 1 :=
    bare_pages _ _ (kz es b) (sh es b)
  have e : ∃ es b, compactLayer 5 bareStage s = putFolio 5 bareStage o.1 (repackFrame b (ownFrame 5 o.2) es) y := by
    simp only [compactLayer, aged_layer s h, h, a, hg, closed, d, ho, List.length_nil, List.zip_nil_left, List.map_nil, putFolios,
      List.foldl_nil]
    exact ⟨_, _, rfl⟩
  obtain ⟨es, b, e⟩ := e
  exact ⟨o.1, _, t, one es b, e⟩

theorem aged_put (y : State) (hy : y.session 5 = aged) (o : FolioRef) (m : Frame) (t : o.tile = none)
    (hm : ((recordBody bareStage m).length + 31) / 32 = 1) :
    (putFolio 5 bareStage o m y).isSome = (chooseFrame y aged bareStage 1 poolReserve none).isSome := by
  have hold : aged.holdsFrames = true := rfl
  simp only [putFolio, hy, hold, t, hm, Bool.not_true, Bool.false_eq_true, if_false, Option.isSome_map]

/-- The folios of session 5 with 16 pages of tile 0 kept free beside the one it takes, and with none free. -/
def agedDev (pages : Nat) : State :=
  { bareDev aged with tiles := [(0, { owners := (List.range pages).map (fun i => (i, 0x70000000)) })] }

theorem aged_due (n : Nat) : compactionDue ((agedDev n).session 5).budget ((agedDev n).session 5).adapt
    (layerFolios (agedDev n) 5 bareStage) = true := by
  have h : (agedDev n).session 5 = aged := rfl
  have e : aged.budget = 1024 ∧ aged.adapt = none := ⟨rfl, rfl⟩
  have a : ((List.range 64).map (64 + ·)).filter
      (fun p => !protectedPos (List.replicate 1024 5000 ++ (List.range 64).map (64 + ·)) none p) =
      (List.range 64).map (64 + ·) := List.filter_eq_self.2 (fun p h => by rw [aged_old p h]; rfl)
  rw [h, e.1, e.2, aged_layer _ h, compactionDue, aged_retained]
  simp only [List.filter_append, List.length_append, a, List.length_replicate, List.length_map, List.length_range,
    Bool.and_eq_true, decide_eq_true_eq]
  exact ⟨Nat.le_refl _, Nat.le_add_left _ _⟩

theorem witness_FramesAndTrails_compaction :
    let s := agedDev 17
    let z := agedDev 0
    s.layerStage 0 = some bareStage ∧ s.standing 5 = true ∧ s.betweenWaves 5 = true ∧
    compactionDue (s.session 5).budget (s.session 5).adapt (layerFolios s 5 bareStage) = true ∧
    (∃ u, compactLayer 5 bareStage s = some u) ∧
    z.layerStage 0 = some bareStage ∧ z.standing 5 = true ∧ z.betweenWaves 5 = true ∧
    compactionDue (z.session 5).budget (z.session 5).adapt (layerFolios z 5 bareStage) = true ∧
    compactLayer 5 bareStage z = none := by
  intro s z
  refine ⟨by decide, by decide, by decide, aged_due 17, ?_, by decide, by decide, by decide, aged_due 0, ?_⟩
  · obtain ⟨o, m, t, hm, e⟩ := aged_step s rfl
    exact Option.isSome_iff_exists.1 (by rw [e, aged_put _ rfl o m t hm]; decide +kernel)
  · obtain ⟨o, m, t, hm, e⟩ := aged_step z rfl
    exact Option.isNone_iff_eq_none.1 (by rw [← Option.not_isSome, e, aged_put _ rfl o m t hm]; decide +kernel)

/-- Expert 7 LODGED, LODGING and nowhere on stack 23; a free stage for it; a queue with room; a stage that is LODGING and one that
is LODGED. -/
theorem witness_LodgingServesExperts :
    let e : LodgeEntry := { expert := 7, home := 23, cls := 0, first := 0, lines := 1, mask := 1 }
    let g : Image := { kind := 1, slot := 0, records := [], digest := 0 }
    let n : Line := mkWords fmtU32 [BitVec.ofNat 32 (16 + 7 * 256), 0x3F800000]
    let p : Placement := { lodging := [e], imageId := 9, weightsId := 9 }
    let s (st : LodgeState) : State :=
      { served with dev := { served.dev with placement := some p, images := [(9, some g)] }
                    stackCtls := [(23, { st := 2, stages := [(15, { st := st, expert := 7 })] })] }
    let f : State := { s .empty with dev := { (s .empty).dev with
      placement := some { p with stages := [{ kind := 5, tiles := [(nth 0 (stackTiles 23) 0, 0)] }] } } }
    noteExpert n = 7 ∧
    (s .lodged).lodgeEntry 23 7 = some e ∧ holder ((s .lodged).stk 23) .lodged e.expert = some 15 ∧
    (s .lodging).lodgeEntry 23 7 = some e ∧ holder ((s .lodging).stk 23) .lodged e.expert = none ∧
    holder ((s .lodging).stk 23) .lodging e.expert = some 15 ∧
    f.lodgeEntry 23 7 = some e ∧ holder (f.stk 23) .lodged e.expert = none ∧ holder (f.stk 23) .lodging e.expert = none ∧
    f.mastered = true ∧ freeStage (f.stk 23) (f.mayTake e) = some 0 ∧
    (s .empty).lodgeEntry 23 7 = some e ∧ dispatch e 1 (s .empty).dev.time (s .empty) = none ∧ ((s .empty).stk 23).queue.length < 256 ∧
    (((s .lodging).stk 23).stage 15).st = .lodging ∧ (s .lodging).mastered = true ∧
    (((s .lodged).stk 23).stage 15).st = .lodged ∧ ((s .lodged).stk 23).queue = [] := by
  and_intros <;> decide +kernel

end Sys2Proof.Tests
end

