-- ==== Sys2Proof/Tests/WitnessBlocks.lean ====
section
/-! SUPPORT. For every statement about mailboxes, control registers, power states, power delivery, cooling, bring-up, the
journal, the links and the management port: concrete states and operands that meet its hypotheses, clause by clause. -/

set_option Elab.async false

namespace Sys2Proof.Tests

open Sys2Proof Sys2Proof.Machine

theorem witness_MailboxesCarryMessages :
    let e : MailEnd := .dev 0 true
    let p := endPeer e
    let m : List (BitVec 64) := [0x0001_0000]
    let s : State := { mailboxes := (State.reset.updMbx e (fun x => { x with inq := [m] })).mailboxes }
    let q : State := State.reset.updMbx p (fun x => { x with inq := [[1, 2, 3, 4, 5, 6, 7, 8]] })
    (1 ≤ bitsAt (8 : Word) 0 4 ∧ bitsAt (8 : Word) 0 4 ≤ 8 ∧ (State.reset.mbx p).rxWords + bitsAt (8 : Word) 0 4 ≤ 8) ∧
    bitsAt (1 : Word) 0 4 = 1 ∧ 8 < (q.mbx p).rxWords + bitsAt (1 : Word) 0 4 ∧
    (s.mbx e).inq = m :: [] ∧ messageSeq m = (fieldAt (0 : Word) 16 16 : BitVec 16) ∧ (State.reset.mbx e).inq = [] ∧
    messageSeq m ≠ (fieldAt (0x10000 : Word) 16 16 : BitVec 16) ∧ mbxWord s e 0xDF = 0 ∧
    (255 : BitVec 16).toNat < 256 ∧ (47 : Byte).toNat < 48 ∧
    (State.reset.chiplet 11).buffers.any (fun b => b.1 == 255) = false ∧
    (State.reset.mbx (.dev (adapterBox 11) true)).rxWords + 2 ≤ 8 ∧ (State.reset.mbx (.dev (adapterBox 11) false)).rxWords + 2 ≤ 8 := by
  decide +kernel

/-- The addresses of DM_CSRERR, BS_DELAY of block 1023, TS_SEQ_FAULT and TS_FIN_FLAGS of tile 65535, FC_CLK_TARGET of field 63
and MB_CTRL of the Postmaster's last mailbox, and each failed access. -/
theorem witness_RegistersAreWritten :
    let s : State := { fieldCtls := [(63, { railOn := true })], blocks := [(1023, { pstate := .active })] }
    let r (a : Word) : Bool := csrAt a == some (.dm 0x12) && mayWrite .postmaster (.dm 0x12) && csrWritable (.dm 0x12)
    bitAt s.dev.csrErr 31 = false ∧ bitAt ({ s with dev := { s.dev with csrErr := 0x80000000 } } : State).dev.csrErr 31 = true ∧
    csrAt 0x08000000 = none ∧ r 0x00000012 = true ∧ s.csrPowered (.dm 0x12) = true ∧
    csrAt 0x02000012 = some (.bs 0 0x12) ∧ mayWrite (.blockSequencer 1) (.bs 0 0x12) = false ∧
    csrAt 0x02000012 = some (.bs 0 0x12) ∧ mayWrite .postmaster (.bs 0 0x12) = true ∧ s.csrPowered (.bs 0 0x12) = false ∧
    csrAt 0x0203FF10 = some (.bs 1023 0x10) ∧ s.csrPowered (.bs 1023 0x10) = true ∧ csrWritable (.bs 1023 0x10) = false ∧
    csrAt 0x0203FF12 = some (.bs 1023 0x12) ∧ mayWrite (.blockSequencer 1023) (.bs 1023 0x12) = true ∧
    s.csrPowered (.bs 1023 0x12) = true ∧ csrWritable (.bs 1023 0x12) = true ∧
    csrAt 0x03FFFF10 = some (.ts 65535 0x10) ∧ mayWrite (.fieldController 63) (.ts 65535 0x10) = true ∧
    s.csrPowered (.ts 65535 0x10) = true ∧ csrWritable (.ts 65535 0x10) = true ∧
    csrAt 0x03FFFF11 = some (.ts 65535 0x11) ∧ csrWritable (.ts 65535 0x11) = true ∧
    csrAt 0x01003F11 = some (.fc 63 0x11) ∧ mayWrite (.fieldController 63) (.fc 63 0x11) = true ∧ s.csrPowered (.fc 63 0x11) = true ∧
    csrWritable (.fc 63 0x11) = true ∧ csrAt 0x000159E4 = some (.mbx (.dev 89 true) 0xE4) ∧
    mayWrite .postmaster (.mbx (.dev 89 true) 0xE4) = true ∧ s.csrPowered (.mbx (.dev 89 true) 0xE4) = true ∧
    csrWritable (.mbx (.dev 89 true) 0xE4) = true ∧ Agent.fieldController 0 ≠ .postmaster := by
  decide +kernel

theorem witness_BlocksFallAsleep :
    let s (x : Block) : State := { blocks := [(1023, x)] }
    let g : Block := { pstate := .gated }
    let c : Block := { pstate := .chrysalis }
    ((s { pstate := .active }).block 1023).pstate = .active ∧ ((s { pstate := .active }).block 1023).gateCycles ≠ 0 ∧
    ((s { pstate := .active }).block 1023).wakeAsked = false ∧ (s { pstate := .active }).blockIdle 1023 = true ∧
    ((s g).block 1023).delay ≠ 0 ∧ (s g).mayChrysalis 1023 = true ∧ (s c).mayChrysalis 1023 = false ∧
    ((s c).block 1023).pstate = .chrysalis ∧ ((s c).block 1023).step = 0 ∧ c.ramping = false ∧ c.tied = false ∧ c.feeding = false ∧
    (blockTiles 1023).all (fun t => ((s c).tile t).restable) = true ∧
    ({ g with step := 4 } : Block).closing = true ∧ ({ g with step := 5 } : Block).closing = true ∧ g.shutTo = .chrysalis ∧
    ({ c with step := 5, shutTo := .diapause } : Block).closing = true ∧ ({ c with tied := true } : Block).tied = true ∧
    (s c).mayDiapause 1023 = true ∧ State.mayDiapause { power := { capW := 0 } } 1023 = true ∧
    ({ s g with dev := { placement := some { stages := [{ folioStage with tiles := [(65535, 0)] }] } }, power := { capW := 3000 } } : State).mayDiapause 1023 = false := by
  decide +kernel

theorem witness_BlocksWake :
    let s (x : Block) (y : FieldCtl) : State := { blocks := [(1023, x)], fieldCtls := [(63, y)] }
    let y : FieldCtl := { pendingWakes := [1023], mhz := 1000 }
    let c : Block := { pstate := .chrysalis }
    let w : Block := { pstate := .gated, step := 2 }
    let r : Block := { pstate := .diapause, ramping := true, step := 1 }
    let d : Block := { pstate := .active, reload := true }
    ((s { pstate := .gated } {}).block 1023).pstate = .gated ∧ c.ramping = false ∧ c.step = 0 ∧ w.closing = true ∧ w.step ≤ 2 ∧
    ((s c y).field 63).restarting = false ∧ c.microLoad = false ∧ (1023 : Fin 1024) ∈ ((s c y).field 63).pendingWakes ∧
    lowest ((s c y).field 63).pendingWakes = some 1023 ∧ admitFits (s c y) 63 [1023] = true ∧
    admitFits (s c { y with measuredMa := 500000 }) 63 [1023] = false ∧ (1023 : Fin 1024).val / 16 = (63 : Fin 64).val ∧
    ((s c y).field 63).batch = [] ∧ (trimStep (s c y) 63 [1023] ((y.mhz.toNat - 200) / 25)).isSome = true ∧
    ((s r {}).block 1023).ramping = true ∧ ((s d {}).block 1023).reload = true ∧ (s d {}).dev.placement = none := by
  decide +kernel

theorem witness_ClocksAndPower :
    let x : FieldCtl := { genRunning := true, mhz := 200, settingMv := 550, railOn := true }
    let s (x : FieldCtl) : State := { fieldCtls := [(63, x)] }
    let y (v : Word) : FieldCtl := { x with clkTarget := fieldAt v 0 11, boostGrant := bitAt v 16 && (s x).mayBoost }
    operatingMv (clockLimit (y 0xC8)).1 ≤ x.settingMv.toNat ∧ x.mhz.toNat < (clockLimit (y 0x1047E)).1 ∧
    x.settingMv.toNat < operatingMv (clockLimit (y 0x1047E)).1 ∧ ((s { x with newMhz := some 1150 }).field 63).newMhz = some 1150 ∧
    ((s x).field 63).genRunning = true ∧ ((s x).field 63).stopDelay ≠ 0 ∧ (s x).fieldAsleep 63 = true ∧ (s x).fieldQuiet 63 = true ∧
    510 * (4000 : BitVec 16).toNat / 100 < (20401 : BitVec 16).toNat ∧ (s x).power.credit ≠ 0 ∧
    ({ s x with power := { credit := 0 } } : State).power.credit = 0 ∧ (s x).power.currentRing.length ≤ 60000 ∧
    (s x).mayBoost = false ∧ ({ s x with dev := { profile := 2 }, wear := { operatingUs := 1 } } : State).mayBoost = true := by
  decide +kernel

theorem witness_InputPowerComesAndGoes :
    let s (p : Power) : State := { power := p }
    (s { precharge := true }).power.precharge = true ∧ (s {}).power.otherRailsOn = false ∧
    (s { otherRailsOn := true }).power.otherRailsOn = true ∧ (3999 : BitVec 16).toNat < 4000 ∧ 6000 < (6001 : BitVec 16).toNat ∧
    4000 ≤ (4000 : BitVec 16).toNat ∧ (6000 : BitVec 16).toNat ≤ 6000 := by
  decide +kernel

theorem witness_RailsFailAndDerate :
    let s (x : FieldCtl) : State := { fieldCtls := [(63, x)] }
    let m (x : FieldCtl) : Byte := x.phasesFailed ||| ((1 : Byte) <<< 7)
    (s {}).field 63 = {} ∧ ((s {}).field 63).lost = false ∧ ((s {}).field (1023 / 16)).lost = false ∧ popCount (m {}) < 2 ∧
    2 ≤ popCount (m { phasesFailed := 1 }) ∧ ((s { phasesFailed := 1 }).field 63).lost = false ∧
    ((s {}).block 1023).segFailed ||| 0x80 ≠ ((s {}).block 1023).segFailed ∧ 2 ≤ popCount (0x81 : Byte) ∧ popCount (0x80 : Byte) < 2 ∧
    ({ s {} with power := { active := some 1 } } : State).power.active = some 1 ∧
    ((s { genRunning := true }).field 63).genRunning = true ∧ (s {}).journal.throttled = false := by
  decide +kernel

/-- Readings at 109 and 110 °C, and a field at 93, 94 and 96 °C. -/
theorem witness_BlockTemperatures :
    let s (x : Block) (y : FieldCtl) : State := { blocks := [(1023, x)], fieldCtls := [(63, y)] }
    let d : Block := { diode := 60, ring := 55 }
    ((s {} {}).block 1023).diodeRetired = false ∧ ((s {} {}).block 1023).ringRetired = false ∧ max (109 : Byte).toNat (96 : Byte).toNat < 110 ∧
    95 < max (109 : Byte).toNat (96 : Byte).toNat ∧ (109 : Byte).toNat < 110 ∧ 110 ≤ max (110 : Byte).toNat (0 : Byte).toNat ∧
    1 ≤ ((s { hotSamples := 1 } {}).block 1023).hotSamples ∧ 95 < ((s {} { tjmax := 96 }).field 63).tjmax.toNat ∧
    ((s {} { tjmax := 93 }).field 63).tjmax.toNat ≤ 93 ∧ 93 < ((s {} { tjmax := 94 }).field 63).tjmax.toNat ∧
    ((s {} { tjmax := 94 }).field 63).tjmax.toNat ≤ 95 ∧
    4 < gap ((s d {}).block 1023).diode ((s d {}).block 1023).ring ∧ gap ((s {} {}).block 1023).diode ((s {} {}).block 1023).ring ≤ 4 ∧
    ({ d with suspect := true } : Block).suspect = true ∧ 6 < gap d.diode d.model ∧
    (let e : Block := { suspect := true, suspectSamples := 9999 }
     gap e.diode e.model ≤ 6 ∧ gap e.ring e.model ≤ 6 ∧ 9999 ≤ e.suspectSamples) ∧
    ((s { pstate := .active } {}).block (tileBlock 65535)).awake = true ∧ ((s {} {}).block 1023).reading ≤ 93 := by
  decide +kernel

theorem witness_CoolantIsWatched :
    let s (c : Coolant) : State := { coolant := c }
    let g : Coolant := { flowIn := 4000, flowOut := 4000, inlet := 3000, outlet := 5201 }
    let w : State := { s g with bring := { warmable := true, keepersUp := true }, power := { mainClosed := true } }
    let h : State := { w with bring := { w.bring with hardShutdown := true } }
    g.sensorFailed = false ∧ 800 ≤ min (800 : BitVec 16).toNat (900 : BitVec 16).toNat ∧ (4500 : BitVec 16).toInt ≤ 4500 ∧
    min (3199 : BitVec 16).toNat (3200 : BitVec 16).toNat < 3200 ∧
    800 ≤ g.flow ∧ min (799 : BitVec 16).toNat (900 : BitVec 16).toNat < 800 ∧ g.flowStop = false ∧
    ({ g with flowStop := true } : Coolant).flowStop = true ∧ 3200 ≤ g.flow ∧ g.inletGood = true ∧
    (let m : Coolant := { flowIn := 1000, flowOut := 2000 }
     m.flow < 10 * (max m.flowIn.toNat m.flowOut.toNat - m.flow)) ∧
    5200 < g.outlet.toInt ∧
    (let r : Coolant := { g with outlet := 5099, outletActing := true, outletTermW := 1000 }
     r.outlet.toInt < 5100 ∧ r.outletActing = true ∧ r.outletTermW + 1000 < r.baseTerm) ∧
    ({ g with outlet := 5200 } : Coolant).outlet.toInt ≤ 5200 ∧
    5100 ≤ ({ g with outlet := 5200 } : Coolant).outlet.toInt ∧ 3400 ≤ g.flow ∧ ({} : Coolant).flow < 3400 ∧
    w.bring.warmable = true ∧ w.bring.keepersUp = true ∧ w.bring.step = 0 ∧ w.power.mainClosed = true ∧ w.power.outOfRange = false ∧
    w.bring.hardShutdown = false ∧ h.bring.hardShutdown = true ∧ cooledDown h = true := by
  decide +kernel

/-- Each step of bring-up; a self-test with one failed site, with two in a row group, and with a bad test. -/
theorem witness_BringUpGoesStepByStep :
    let s (n : Nat) : State := { bring := { step := n }, coolant := { flowIn := 3200, flowOut := 3200, inlet := 3000 },
                                 power := { mainClosed := true, otherRailsOn := decide (4 ≤ n) } }
    let r : State := { s 4 with bring := { step := 4, ringsStarted := 3 }
                                fieldCtls := (ringFields 2).map (fun f => (f, { selfTested := true })) }
    let f : State := { s 4 with fieldCtls := [(63, { railOn := true })] }
    let x := f.field 63
    (s 0).power.otherRailsOn = false ∧ (s 4).power.otherRailsOn = true ∧ (s 2).bring.step = 2 ∧ 3200 ≤ (s 2).coolant.flow ∧
    (s 2).coolant.inletGood = true ∧ (s 3).bring.step = 3 ∧ (s 3).power.mainClosed = true ∧
    4 ≤ (s 4).bring.step ∧ (s 4).bring.ringsStarted = (0 : Fin 4).val ∧ r.bring.ringsStarted = (3 : Fin 4).val ∧
    x.railOn = true ∧ x.selfTested = false ∧ x.retired = false ∧ (buildMap false x.spareMap [⟨31, 3, 7⟩]).isSome = true ∧
    buildMap false x.spareMap [⟨31, 3, 7⟩, ⟨31, 3, 0⟩] = none ∧ (s 8).bring.step = 8 := by
  decide +kernel

/-- A journal whose records fill `n` times 4,064 bytes and a header each. -/
def fullJournal (n : Nat) : Journal := { records := List.replicate n ⟨1, 0, 0, 0, false, false, List.replicate 4064 0, true, false⟩ }

theorem fullJournal_segments (n : Nat) : (fullJournal n).segments = (4096 * n + segmentBytes - 1) / segmentBytes := by
  have h : recordSize ⟨1, 0, 0, 0, false, false, List.replicate 4064 0, true, false⟩ = 4096 := by decide +kernel
  rw [Journal.segments, fullJournal, List.map_replicate, h, List.sum_replicate, smul_eq_mul, Nat.mul_comm]

theorem witness_TheJournalKeepsRecords :
    let s := State.reset
    1 ≤ (15 : BitVec 16).toNat ∧ (15 : BitVec 16).toNat ≤ 15 ∧ (paddedBytes (List.replicate 4064 0)).length ≤ 4064 ∧
    s.journal.throttled = false ∧ ({ s with journal := { throttled := true } } : State).journal.throttled = true ∧
    Quiet s ∧ s.dev.letters = [] ∧ s.dev.drainLetter = none ∧
    (let b : State := { s with bring := { step := 1 }, keepers := [(0, { role := 1 })] }
     (b.keeper b.dev.activeKeeper.val).role ≠ 0 ∧ b.bring.step = 1) ∧
    s.journal.segments < 1536 ∧ s.dev.standbyLost = false ∧ 1536 ≤ (fullJournal 100000).segments ∧
    (fullJournal 100000).throttled = false ∧ 2032 ≤ (fullJournal 131072).segments ∧ (fullJournal 100000).segments < 2032 := by
  simp only [Quiet, fullJournal_segments]
  decide +kernel

/-! ## Links and the management port -/

/-- A frame of empty slots with SEQ 0 and the right LCRC. -/
def goodFrame : BitVec 20560 := BitVec.ofNat 20560 ((crc64 (List.replicate 2562 0)).toNat * 2 ^ 20496)

theorem leBytes_zeros (n k c : Nat) : (leBytes (n + k) (c * 256 ^ n)).take n = List.replicate n 0 := by
  induction n with
  | zero => rfl
  | succ n ih =>
    have d : c * 256 ^ (n + 1) / 256 = c * 256 ^ n := by rw [Nat.pow_succ, ← Nat.mul_assoc, Nat.mul_div_cancel _ (by decide)]
    have z : (BitVec.ofNat 8 (c * 256 ^ (n + 1)) : Byte) = 0 := by
      apply BitVec.eq_of_toNat_eq
      rw [BitVec.toNat_ofNat, Nat.pow_succ, ← Nat.mul_assoc]
      exact Nat.mul_mod_left _ _
    rw [Nat.succ_add, leBytes, List.take_succ_cons, d, z, ih, List.replicate_succ]

theorem goodFrame_toNat : goodFrame.toNat = (crc64 (List.replicate 2562 0)).toNat * 2 ^ 20496 := by
  have h := (crc64 (List.replicate 2562 0)).isLt
  rw [goodFrame, BitVec.toNat_ofNat]
  exact Nat.mod_eq_of_lt (by omega)

theorem top_field (f : BitVec 20560) (c : BitVec 64) (h : f.toNat = c.toNat * 2 ^ 20496) :
    (fieldAt f (8 * 2562) 64 : BitVec 64) = c := by
  apply BitVec.eq_of_toNat_eq
  rw [fieldAt, BitVec.toNat_setWidth, BitVec.toNat_ushiftRight, h, Nat.shiftRight_eq_div_pow]
  have e : 8 * 2562 = 20496 := rfl
  rw [e, Nat.mul_div_cancel _ (Nat.two_pow_pos _)]
  exact Nat.mod_eq_of_lt c.isLt

theorem low_bytes (f : BitVec 20560) (c : BitVec 64) (h : f.toNat = c.toNat * 2 ^ 20496) :
    (bytesOf 2570 f).take 2562 = List.replicate 2562 0 := by
  have w : 2 ^ (8 * 2562) = (2 ^ 8) ^ 2562 := Nat.pow_mul 2 8 2562
  have e : 8 * 2562 = 20496 := rfl
  rw [bytesOf, h, ← e, w]
  exact leBytes_zeros 2562 8 _

theorem frameCrc_of (f : BitVec 20560) (c : BitVec 64) (bs : List Byte) (h : f.toNat = c.toNat * 2 ^ 20496) (hc : c = crc64 bs)
    (hb : (bytesOf 2570 f).take 2562 = bs) : frameCrcOk f = true := by
  rw [frameCrcOk, top_field f c h, hb, hc]
  exact beq_self_eq_true _

theorem goodFrame_crc : frameCrcOk goodFrame = true :=
  frameCrc_of _ _ _ goodFrame_toNat rfl (low_bytes _ _ goodFrame_toNat)

/-- The SEQ of a frame and the kinds of its slots stand below its LCRC. -/
theorem goodFrame_low (lo w : Nat) (h : lo + w ≤ 20496) : (fieldAt goodFrame lo w : BitVec w) = 0 := by
  apply BitVec.eq_of_toNat_eq
  have e : 2 ^ 20496 = 2 ^ w * 2 ^ (20496 - w - lo) * 2 ^ lo := by rw [← Nat.pow_add, ← Nat.pow_add]; congr 1; omega
  rw [fieldAt, BitVec.toNat_setWidth, BitVec.toNat_ushiftRight, goodFrame_toNat, Nat.shiftRight_eq_div_pow, e, ← Nat.mul_assoc,
    Nat.mul_div_cancel _ (Nat.two_pow_pos _), Nat.mul_left_comm, Nat.mul_mod_right]
  rfl

theorem goodFrame_reads : frameCrcOk goodFrame = true ∧ frameKindsOk goodFrame = true ∧ frameSeq goodFrame = 0 := by
  refine ⟨goodFrame_crc, ?_, goodFrame_low 0 16 (by decide)⟩
  rw [frameKindsOk, List.all_eq_true]
  intro i h
  have k := List.mem_range.1 h
  rw [frameKind, goodFrame_low _ 4 (by omega)]
  rfl

theorem witness_LinksCarryFramesAndParcels :
    let s (x : LinkPort) : State := { ports := [(47, x)] }
    let u : LinkPort := { st := .up, replayBuf := [0xFFFF, 0, 1] }
    let w : LinkPort := { st := .up, txSlots := [(3, 1)], credit := [(3, 1)] }
    let peer : State := { s { st := .up, peer := 3 } with chiplets := [(11, { notes := [(0, 3, 0x10, 0)] })] }
    let note : Line := mkWords fmtU32 [BitVec.ofNat 32 (3 + 0x1F * 2 ^ 8 + 0xFFFF * 2 ^ 16)]
    let t := deliveryTile 47 0
    let q : State := { fieldCtls := [(tileField t, { railOn := true, genRunning := true })], blocks := [(tileBlock t, { pstate := .active })] }
    ((s {}).port 47).st = .down ∧ ((s {}).chiplet (portChiplet 47)).retired = false ∧ (16 : Byte).toNat ≤ 16 ∧ 16 < (17 : Byte).toNat ∧
    laneWidth 0xFF ≠ 0 ∧ laneWidth 0xC0 ≠ 0 ∧ laneWidth 0x55 = 0 ∧ ((s u).port 47).live = true ∧
    (s u).identBad 47 15 false 7 = false ∧ (s u).identBad 47 0 false 7 = true ∧ ((s u).port 47).st = .up ∧
    ((s { st := .training }).port 47).st = .training ∧ ((s {}).port 47).st ≠ .up ∧ ((s u).port 47).rxSeq = 0 ∧
    ((s {}).port 47).live = false ∧ (0 : BitVec 16) ∈ ((s u).port 47).replayBuf.map frameSeq ∧ (5 : BitVec 4).toNat ≤ 5 ∧ 5 < (6 : BitVec 4).toNat ∧
    ((s u).port 47).replayBuf = [0xFFFF] ++ 0 :: [1] ∧ ([0xFFFF] : List DenorFrame).all (fun g => frameSeq g != 0) = true ∧ u.live = true ∧
    { u with replayFrom := some 0 }.replayBuf.dropWhile (fun g => frameSeq g != 0) = 0 :: [1] ∧
    64 ≤ { u with replayBuf := List.replicate 64 0 }.replayBuf.length ∧ w.txSlots = (3, 1) :: [] ∧ 0 < Tbl.get 0 w.credit 3 ∧
    w.replayFrom = none ∧ w.replayBuf.length < 64 ∧ w.st = .up ∧ { w with st := .down }.live = false ∧
    envKind 0 = 0 ∧ ((s u).chiplet 11).notes.find? (fun n => n.1 == envSource 0) = none ∧ noteOk note = true ∧ noteOk 0 = false ∧
    peer.peerPorts 11 (notePeer note) ≠ [] ∧ ((s u).chiplet 11).notes.length < 1024 ∧
    (peer.chiplet 11).notes.find? (fun n => n.1 == envSource 0) = some (0, 3, 0x10, 0) ∧ peer.sendPort 11 15 3 = some 47 ∧
    envKind (BitVec.ofNat 128 (2 ^ 24)) ≠ 0 ∧ (primaryPort t).isSome = true ∧ q.routerOn t = true ∧ (q.field (tileField t)).genRunning = true ∧
    ((q.tile t).buf .east (envVc 0)).length < 8 := by
  decide +kernel

theorem witness_TheEndpointAnswers :
    let s (m : Mgmt) : State := { bring := { keepersUp := true }, mgmt := m }
    let m : Mgmt := { receiver := some 9, events := [.flowAlarm, .flowStop] }
    (s {}).mgmtUp = true ∧ State.reset.mgmtUp = false ∧ sensorValue (s {}) 1 = some 0 ∧ stateSensorValue (s {}) 0x200 = some 1 ∧
    (s m).mgmt.events = .flowAlarm :: [.flowStop] ∧ (s m).mgmt.receiver = some 9 := by
  decide +kernel

theorem witness_UpdatesGoThroughTheirStates :
    let s (u : UpdState) : State := { bring := { keepersUp := true }, mgmt := { upd := u, component := some 5 } }
    (s .idle).mgmtUp = true ∧ (s .idle).mgmt.upd = .idle ∧ (∀ n, 1 ≤ n → n ≤ 5 → (s .idle).hostStages n = false) ∧
    (s .learn).mgmt.upd ≠ .idle ∧ (s .learn).mgmt.upd = .learn ∧ (s .ready).mgmt.upd = .ready ∧ 1 ≤ (5 : BitVec 16).toNat ∧
    (5 : BitVec 16).toNat ≤ 5 ∧ ((s .ready).agent 5).activating = false ∧ (s .download).mgmt.upd = .download ∧
    (s .verify).mgmt.upd = .verify ∧ (s .apply).mgmt.upd = .apply ∧ (s .apply).mgmt.inComponent = true := by
  refine ⟨by decide +kernel, by decide +kernel, fun n _ _ => rfl, ?_⟩
  decide +kernel

end Sys2Proof.Tests
end

