-- ==== Sys2Proof/Tests/WitnessDevice.lean ====
section
/-! SUPPORT. For every statement about images, settings, firmware, repair, roles and keys: concrete states and operands that
meet its hypotheses, clause by clause. Where a clause turns on what a free value of Config answers, the witness meets its other
hypotheses. -/

set_option Elab.async false

namespace Sys2Proof.Tests

open Sys2Proof Sys2Proof.Machine

/-! ## Images -/

/-- The header line of an image file: kind 1, one wrap key slot, 8 records in one chunk. -/
def fileHead (id : Nat) : Line :=
  mkParcel (bytesOf 8 (BitVec.ofNat 64 (0x474D4949 + 2 ^ 32 + 2 ^ 48 + 2 * 2 ^ 56)) ++ bytesOf 8 (BitVec.ofNat 64 id) ++ leBytes 4 8 ++
    leBytes 4 1 ++ pad 40) [] fmtBYTES 0

/-- A device whose wrapping key slot 1 holds KEY_ID 0, with its stacks serving. -/
def gateDev : State :=
  { served with dev := { served.dev with wrapKeys := [(1, some 0)] }, stackCtls := (List.range 24).map (fun i => (i, { st := 2 })) }

/-- A staging whose one chunk stands whole in the gate. -/
def wholeStaging : Staging :=
  { kind := 1, slot := 0, lines := imageLine (fileHead 9) :: List.replicate 18 0, key := some ⟨47, 3⟩ }

theorem witness_ImagesPassTheGate :
    let l := letter opStageImage 0 (leBytes 8 9 ++ leBytes 8 1) [fileHead 9] 1
    let b := letter opStageImage 0 (leBytes 8 9 ++ leBytes 8 1) [fileHead 8] 1
    let d := letter opStageImage 0 (leBytes 8 9 ++ leBytes 4 1 ++ leBytes 4 0xFFFFFFFF) [] 1
    let g : Staging := { kind := 1, slot := 0, lines := [imageLine (fileHead 9)] }
    let h := { gateDev with dev := { gateDev.dev with images := [(9, some { kind := 1, slot := 0, records := [], digest := 0 })] } }
    let c := putStaging 9 (some wholeStaging) gateDev
    Accepted opStageImage l (stageRule l gateDev) gateDev ∧ letterNum l 12 4 = 0 ∧ l.train ≠ [] ∧ l.train.length ≤ 8 ∧
    fileHeadOk (stageKind l) (stageId l) (imageLine (fileHead 9)) = true ∧
    gateDev.holdsKey (fileWrap (imageLine (fileHead 9))) (fileKeyId (imageLine (fileHead 9))) = true ∧
    (putStaging 9 (some g) gateDev).stackFits = true ∧
    Accepted opStageImage b (stageRule b gateDev) gateDev ∧ letterNum b 12 4 = 0 ∧
    fileHeadOk (stageKind b) (stageId b) (imageLine (fileHead 8)) = false ∧ Accepted opStageImage d (discardRule d h) h ∧
    c.stagingOf 9 = some wholeStaging ∧ wholeStaging.chunkReady = true ∧ wholeStaging.key.isSome = true := by
  simp only [accepted_iff]
  decide +kernel

/-- A legal placement image without a stage, with one section of grammar bindings. -/
def placementImage (id : Nat) : Image :=
  { kind := 2, slot := 0, digest := 0
    records := [BitVec.ofNat 576 (0x434C5046 + 2 ^ 32 + 3 * 2 ^ 48 + 2 ^ 80 + 100 * 2 ^ 96 + id * 2 ^ 192 + 8 * 2 ^ 256),
                BitVec.ofNat 576 (0x14 + 0xFFFF * 2 ^ 16 + 0xFF * 2 ^ 32 + 2 * 2 ^ 64 + 2 ^ 96), 0] }

/-- Images 8 (weights), 9 and 10 (placements) and 11 (an adapter) held; image 9 in force with expert 7 of stack 0. -/
def imageDev : State :=
  { gateDev with dev := { gateDev.dev with
      images := [(8, some { kind := 1, slot := 0, records := [], digest := 0 }), (9, some (placementImage 9)),
                 (10, some (placementImage 10)), (11, some { kind := 3, slot := 1, records := [], digest := 0 })]
      placement := some { placementOf (placementImage 9).records none with lodging := [⟨7, 0, 0, 0, 1, 1⟩] } } }

theorem witness_PlacementsAndAdaptersLoad :
    let l := letter opLoadPlacement 0 (leBytes 8 9) [] 1
    let a := letter opAdapterLoad 0 (leBytes 8 255 ++ leBytes 8 11) [] 1
    let p := letter opLodgePolicy 0 (leBytes 4 1 ++ leBytes 4 7) [] 0
    let c := letter opCommitSwap 0 (leBytes 8 10) [] 1
    let s := imageDev
    let w : State := { s with dev := { s.dev with swap := { candidate := some 10 } } }
    Accepted opLoadPlacement l (loadRule l s) s ∧ s.image (stageId l) = some (placementImage 9) ∧
    (s.master (placementOf (placementImage 9).records none)).isSome = true ∧ s.dev.sessions = [] ∧ s.dev.waves = [] ∧
    s.coolant.flowStop = false ∧ s.dev.draining = false ∧
    Accepted opAdapterLoad a (adapterRule a s) s ∧ Accepted opLodgePolicy p (policyRule p s) s ∧
    Accepted opCommitSwap c (swapRule c w) w ∧ w.dev.swap.candidate = some (stageId c) := by
  simp only [accepted_iff]
  decide +kernel

theorem witness_SwapsBuildAndFlip :
    let s (w : Swap) : State := { imageDev with dev := { imageDev.dev with swap := w } }
    let a : Swap := { candidate := some 10 }
    let b : Swap := { a with building := true }
    let f : Swap := { a with flipping := true }
    (s a).isCandidate 10 = true ∧ (s a).weightsHeld 10 = true ∧ ((s a).candidatePlacement 10).isSome = true ∧
    (s a).dev.placement.any halfOnly = true ∧ ((s a).candidatePlacement 10).any halfOnly = true ∧
    a.building = false ∧ a.built = false ∧ b.candidate = some 10 ∧ b.building = true ∧ b.letter = none ∧
    (((s b).candidatePlacement 10).bind (s b).master).isSome = true ∧
    f.flipping = true ∧ (s f).dev.waves = [] ∧ f.members = [] ∧ (((s f).candidatePlacement 10).bind (s f).master).isSome = true ∧
    (s f).dev.placement.any (fun p => (s f).betweenAll (placedTiles p.lines p.sections)) = true ∧
    (s f).splitMembers = [] ∧ ({ a with members := [15] } : Swap).members = [15] ∧ (14 : BitVec 4) ∉ ({ a with members := [15] } : Swap).members := by
  decide +kernel

/-! ## Answers, settings, firmware -/

/-- Every reading letter, at the ends of its ranges; DIAG under the maker role. -/
theorem witness_ReadingLettersAnswer :
    let t (st first count : Nat) (r : Byte) := letter opTelemetry 0 (leBytes 4 st ++ leBytes 4 first ++ leBytes 4 count) [] r
    let d := letter opDistances 0 (leBytes 2 65535 ++ leBytes 2 0) [] 0
    let j := letter opJournalRead 0 (leBytes 8 0 ++ leBytes 4 4096 ++ leBytes 4 0) [] 1
    let a := letter opAttest 0 (pad 32) [] 0
    let g := letter opDiag 0 (leBytes 4 1) [] 2
    let q := letter opStatus 0 [] [] 0
    let s := served
    Accepted opStatus q (statusRule q) s ∧ Accepted opTelemetry (t 1 0 65536 0) (telemetryRule (t 1 0 65536 0) 1 0) s ∧
    Accepted opTelemetry (t 2 0 1 0) (telemetryRule (t 2 0 1 0) 2 0) s ∧
    Accepted opTelemetry (t 3 1 1 0) (telemetryRule (t 3 1 1 0) 3 (tenantsRole (t 3 1 1 0))) s ∧
    Accepted opTelemetry (t 3 0 2 1) (telemetryRule (t 3 0 2 1) 3 (tenantsRole (t 3 0 2 1))) s ∧
    Accepted opTelemetry (t 4 5 1 0) (telemetryRule (t 4 5 1 0) 4 0) s ∧ Accepted opDistances d (distancesRule d) s ∧
    Accepted opJournalRead j (readRule j) s ∧ Accepted opAttest a (attestRule a) s ∧
    Accepted opDiag g (diagRule g 1 2 true true) s := by
  simp only [accepted_iff]
  decide +kernel

theorem witness_DeviceSettingsTakeEffect :
    let c := letter opPowerCap 0 (leBytes 4 24500) [] 1
    let p := letter opSetProfile 0 (leBytes 4 0x0010F01 ++ leBytes 4 0xFFFF ++ leBytes 8 1000) [] 1
    let d (m : Nat) := letter opDrain 0 (leBytes 4 m) [] 1
    let s := served
    Accepted opPowerCap c (powerCapRule c) s ∧ Accepted opSetProfile p (profileRule p s) s ∧
    Accepted opDrain (d 1) (drainRule (d 1) 1 s) s ∧ Accepted opDrain (d 2) (drainRule (d 2) 2 s) s ∧
    Accepted opDrain (d 3) (drainRule (d 3) 3 s) s ∧ s.dev.sessions = [] ∧ s.dev.loadFor = none ∧ s.coolant.flowStop = false := by
  simp only [accepted_iff]
  decide +kernel

theorem witness_FirmwareIsStagedAndActivated :
    let f := letter opFwStage 0 (leBytes 8 5) [mkParcel [] [] fmtBYTES 0] 0
    let a := letter opFwActivate 0 (leBytes 4 0xFFFF0005) [] 1
    let s := served
    let v : State := { s with fw := [(5, { valid := true })] }
    let b : State := { s with fw := [(2, { booting := some 63 })] }
    let m : State := { s with fw := [(3, { booting := some 1023 })] }
    let w : State := { m with blocks := [(1023, { microWait := true })] }
    Accepted opFwStage f (fwStageRule f s) s ∧ fwComplete (stagedAfter f (s.agent (fwAgentOf f))) = false ∧
    Accepted opFwActivate a (activateRule a v) v ∧ (fwTargets 5 (fwInstance a) v).length = 2 ∧
    (b.agent 2).booting = some 63 ∧ (b.agent 2).pendingInst = [] ∧ (b.field 63).repairs = [] ∧
    (m.agent 3).booting = some 1023 ∧ (m.agent 3).pendingInst = [] ∧ (m.block 1023).microWait = false ∧
    (w.block 1023).microWait = true := by
  simp only [accepted_iff]
  decide +kernel

/-! ## Repair and maintenance -/

theorem witness_TilesFieldsAndStacksAreRetired :
    let s : State := { served with dev := { served.dev with time := 30 }, blocks := [(0, { pstate := .active })] }
    let l : State := { s with fieldCtls := [(0, { lost := true })] }
    let r : State := { s with fieldCtls := [(0, { restarting := true })] }
    let n : State := { s with fieldCtls := [(0, { lockstepTimes := [1] })] }
    let d : State := { s with fieldCtls := [(0, { notes := List.replicate 3 (1, faultNoteCard 2 0 0) })] }
    let w : State := { s with tiles := [(0, { router := { linkRetries := [(1, List.replicate 16 1)], badLinks := [1] } })] }
    let k (st : BitVec 3) : State := { s with stackCtls := (List.range 24).map (fun i => (i, { st := st })) }
    let f : State := { s with fieldCtls := [(0, { spareMap := [(spareIndex 0, 7)] })] }
    (f.field 0).lost = false ∧ (f.field 0).restarting = false ∧ spareCode (f.field 0).spareMap (spareIndex 0) ≠ 0xF ∧
    (s.field 0).lost = false ∧ (s.field 0).restarting = false ∧ spareCode (s.field 0).spareMap (spareIndex 0) = 0xF ∧
    (r.field 0).lost = false ∧ (r.field 0).restarting = true ∧ (l.field 0).lost = true ∧
    (s.block (tileBlock 0)).pstate = .active ∧ 30 ≤ s.silentUs 0 ∧ s.retireDue 0 = false ∧ s.failingLinks 0 = [] ∧
    d.retireDue 0 = true ∧ d.failingLinks 0 = [] ∧ w.failingLinks 0 = [1] ∧ (w.field 0).lost = false ∧ (w.field 0).restarting = false ∧
    [1].any (fun p => (w.tile 0).router.badLinks.contains p) = true ∧
    (l.field 0).lossDone = false ∧ l.dev.placement = none ∧ inWindow s.dev.time dayUs (s.field 0).lockstepTimes = [] ∧
    inWindow n.dev.time dayUs (n.field 0).lockstepTimes ≠ [] ∧ (s.field 0).repairs = [] ∧
    ((k 2).stk 23).st = 2 ∧ (k 2).fitsWithout = true ∧ ((k 3).stk 23).st = 3 := by
  decide +kernel

theorem witness_RetireLettersRetire :
    let l (u i : Nat) := letter opRetire 0 (leBytes 2 u ++ leBytes 2 i) [] 1
    let s := gateDev
    let f : State := { s with fieldCtls := [(63, { lost := true })] }
    Accepted opRetire (l 1 65535) (retireRule (l 1 65535) 1 65536 []) s ∧
    Accepted opRetire (l 0x702 1023) (retireRule (l 0x702 1023) 2 1024 []) s ∧
    Accepted opRetire (l 3 63) (retireRule (l 3 63) 3 64 [exclusiveCheck f]) f ∧ (f.field (unitIndex (l 3 63))).lost = true ∧
    (f.field (unitIndex (l 3 63))).retired = false ∧ Accepted opRetire (l 3 63) (retireRule (l 3 63) 3 64 [exclusiveCheck s]) s ∧
    (s.field (unitIndex (l 3 63))).lost = false ∧ Accepted opRetire (l 4 23) (retireRule (l 4 23) 4 24 [exclusiveCheck s]) s ∧
    (s.stk (unitIndex (l 4 23))).st = 2 ∧ s.fitsWithout = true ∧
    Accepted opRetire (l 5 11) (retireRule (l 5 11) 5 12 [(s.onlyHostPath (unitIndex (l 5 11)), 0x0107)]) s := by
  simp only [accepted_iff]
  decide +kernel

theorem witness_RecalibrationAndDiagnosis :
    let l (g i : Nat) := letter opRecalibrate 0 (leBytes 2 g ++ leBytes 2 i) [] 1
    let s := served
    let b : State := { s with fieldCtls := [(63, { breaker := true })] }
    let r := l 2 0x803F
    let m := letter opDiag 0 (leBytes 2 2 ++ leBytes 2 63) [mkParcel (List.replicate 64 0xFF) [] fmtBYTES 0] 2
    let d := letter opDiag 0 (leBytes 4 3) [] 2
    Accepted opRecalibrate (l 1 0xFFFF) (recalRule (l 1 0xFFFF) 1 (indexOk (l 1 0xFFFF) 64) []) s ∧
    Accepted opRecalibrate (l 2 1023) (recalRule (l 2 1023) 2 (indexOk (l 2 1023) 1024) []) s ∧
    Accepted opRecalibrate (l 3 47) (recalRule (l 3 47) 3 (indexOk (l 3 47) 48) []) s ∧ overridden (l 1 0xFFFF) = false ∧
    Accepted opRecalibrate r (recalRule r 2 (decide (0x8000 ≤ unitIndex r) && decide (unitIndex r < 0x8040) && !overridden r)
      [(retrySpent (retryField r) b, 0x0107)]) b ∧
    Accepted opDiag m (diagRule m 2 3 (decide (unitIndex m < 64) && mapLegal (editMap m)) (m.train.length == 1)) s ∧
    Accepted opDiag d (diagRule d 3 4 (letterZeros d 2 2) (d.train == [])) s := by
  simp only [accepted_iff]
  decide +kernel

/-! ## Roles, keys and the seal -/

/-- A key train: header of a kind, slot and LENGTH, and `n` more BYTES parcels. -/
def keyTrain (kind slot length n : Nat) : List Line :=
  mkParcel (leBytes 4 0x4E45594B ++ leBytes 1 kind ++ leBytes 1 slot ++ pad 34 ++ leBytes 4 length) [] fmtBYTES 0 ::
    List.replicate n (mkParcel [] [] fmtBYTES 0)

/-- The serving device with no role open, and J7 fitted. -/
def closedDev : State := { served with dev := { served.dev with roles := [] } }

theorem witness_RolesOpenAndClose :
    let i := letter opRoleOpen 0 (leBytes 4 1) [] 0
    let m := letter opRoleOpen 0 (leBytes 4 2) (List.replicate 9 (mkParcel [] [] fmtBYTES 0)) 0
    let c := letter opRoleClose 0 (leBytes 4 2) [] 0
    let k : LetterKey := ⟨47, 1⟩
    let w : State := { closedDev with dev := { closedDev.dev with roleWaits := [⟨k⟩] } }
    let t : State := { served with dev := { served.dev with time := 3600000000, roles := [(47, [⟨false, 0, 0, 0⟩, ⟨true, 0, 9, 0⟩])] } }
    Accepted opRoleOpen i (roleOpenRule i closedDev) closedDev ∧ closedDev.roleOf 47 false = none ∧
    Accepted opRoleOpen i (roleOpenRule i served) served ∧ (served.roleOf 47 false).isSome = true ∧
    w.dev.roleWaits = [⟨k⟩] ∧ w.dev.roleWaits.any (fun w => w.key == k) = true ∧
    Accepted opRoleOpen m (makerRule m closedDev) closedDev ∧ closedDev.roleOf 47 true = none ∧
    Accepted opRoleOpen m (makerRule m served) served ∧ (served.roleOf 47 true).isSome = true ∧
    Accepted opRoleClose c (roleCloseRule c) served ∧
    t.roleOf 47 false = some ⟨false, 0, 0, 0⟩ ∧ 3600000000 ≤ (t.dev.time - 0).toNat ∧ t.roleOf 47 true = some ⟨true, 0, 9, 0⟩ ∧
    (9 : BitVec 64).toNat ≤ t.dev.time.toNat := by
  simp only [accepted_iff]
  decide +kernel

theorem witness_SealAndTakeover :
    let s (armed closed : Bool) (t : BitVec 64) : State :=
      { served with dev := { served.dev with j7 := false, loopClosed := closed, resealArmed := armed, time := t } }
    (s false true 0).dev.loopClosed = true ∧ (s true false 600000000).dev.resealArmed = true ∧ (s true false 0).dev.j7 = false ∧
    ((s true false 600000000).dev.time - (s true false 600000000).dev.resealAt).toNat = 600000000 ∧
    (s false true 0).dev.standbyLost = false := by
  decide +kernel

/-- An image ID added to a list of 255; a wrapping key of the longest slot; enrolment, rotation and revocation of tenant 1's key. -/
theorem witness_KeysAreEnrolled :
    let a := letter opKeyEnrol 0 (leBytes 4 2) (keyTrain 2 1 0 1) 1
    let b := letter opKeyEnrol 0 (leBytes 4 1) (keyTrain 1 4 48 9) 1
    let t (op n : Nat) := letter opTenantKeys 0 (leBytes 2 1 ++ leBytes 2 op) ((keyTrain 3 0 0 8).take n) 1
    let s := served
    let h : State := { s with dev := { s.dev with tenantKeys := [(1, { gen := 1 })] } }
    Accepted opKeyEnrol a (enrolRule a 2 2 (keySlot a == 1 || keySlot a == 2)
      [(decide (256 < (newAuthList a s.dev.authImages).length), 0x0301)] s) s ∧
    Accepted opKeyEnrol b (enrolRule b 1 (9 + (keyLength b + 16 + 63) / 64) (decide (1 ≤ keySlot b) && decide (keySlot b ≤ 4))
      [(slotTaken b s, 0x0301)] s) s ∧
    Accepted opTenantKeys (t 1 9) (tenantRule (t 1 9) 1 [((s.tenantKey (keysTenant (t 1 9))).gen != 0, 0x0107)] s) s ∧
    Accepted opTenantKeys (t 2 9) (tenantRule (t 2 9) 2 [((h.tenantKey (keysTenant (t 2 9))).gen == 0, 0x0107),
      ((h.tenantKey (keysTenant (t 2 9))).older.isSome, 0x0401)] h) h ∧
    Accepted opTenantKeys (t 3 0) (tenantRule (t 3 0) 3 [(h.tenantOpen (keysTenant (t 3 0)), 0x0107)] h) h := by
  simp only [accepted_iff]
  decide +kernel

end Sys2Proof.Tests
end

