-- ==== Sys2Proof/Tests/WitnessMesh.lean ====
section
/-! SUPPORT. For every statement about the mesh, the postcards and slab refresh: concrete states and operands that meet its
hypotheses, clause by clause. -/

set_option Elab.async false

namespace Sys2Proof.Tests

open Sys2Proof Sys2Proof.Machine

/-- An envelope by its DEST, QUEUE, KIND, virtual channel and GROUP. -/
def env (dest queue kind vc group : Nat) : Env :=
  BitVec.ofNat 128 (dest + queue * 2 ^ 16 + kind * 2 ^ 24 + vc * 2 ^ 28 + group * 2 ^ 112)

/-- Tiles with ACTIVE blocks, in fields whose generators run. -/
def devAt (ts : List (Nat × Tile)) : State :=
  { tiles := ts
    blocks := (ts.map (fun e => tileBlock (BitVec.ofNat 16 e.1))).dedup.map (fun b => (b, { pstate := .active }))
    fieldCtls := (ts.map (fun e => tileField (BitVec.ofNat 16 e.1))).dedup.map (fun f => (f, { railOn := true, genRunning := true })) }

/-- A tile with one flit at an input. -/
def flitTile (p : Port) (vc : Nat) (f : Flit) : Tile := ({} : Tile).setBuf p vc [f]

/-- One hop inside a field and one across a field boundary; no credit, and a flit of VC 3 before; a credit to return; a FIFO of a running and of a stopped field. -/
theorem witness_FlitsHop :
    let f : Flit := ⟨env 1 0 0 0 0, 0⟩
    let g : Flit := ⟨env 1024 0 0 0 0, 0⟩
    let s := devAt [(0, flitTile .loc 0 f)]
    let b := devAt [(31, flitTile .loc 0 g)]
    let w := devAt [(0, (flitTile .loc 0 f).setSpent .east 0 8)]
    let e := devAt [(0, (flitTile .loc 0 f).setBuf .north 3 [⟨env 1 0 0 3 0, 0⟩])]
    let c := devAt [(0, ({} : Tile).setSpent .east 3 8)]
    let q := devAt [(0, ({} : Tile).setFifo .west 3 [f])]
    s.routerOn 0 = true ∧ s.head 0 .loc 0 = some f ∧ byTable f = false ∧ routePort 0 (envDest f.env) = .east ∧
    neighbour 0 .east = some 1 ∧ granted 0 .loc .east 0 s = true ∧
    b.routerOn 31 = true ∧ b.head 31 .loc 0 = some g ∧ byTable g = false ∧ routePort 31 (envDest g.env) = .east ∧
    neighbour 31 .east = some 1024 ∧ granted 31 .loc .east 0 b = true ∧
    (∀ i ∈ [w, e], i.routerOn 0 = true ∧ i.head 0 .loc 0 = some f ∧ granted 0 .loc .east 0 i = false) ∧
    tileField 31 ≠ tileField 1024 ∧ heldBeyond 0 .east 3 c < (c.tile 0).spentOn .east 3 ∧
    (q.tile 0).fifo .west 3 = f :: [] ∧ (q.field (tileField 0)).genRunning = true ∧ ((q.tile 0).buf .west 3).length < 8 ∧
    (({ q with fieldCtls := [] } : State).tile 0).fifo .west 3 = f :: [] ∧
    (({ q with fieldCtls := [] } : State).field (tileField 0)).genRunning = false := by
  decide +kernel

/-- Queues 15, 16 and 31; the last line of a landing; a purged wave and a bad CRC; a credit, and a group credit that goes no
further. -/
theorem witness_ParcelsArriveAndCreditsReturn :
    let f : Flit := ⟨env 0 15 0 0 0, zeroLine⟩
    let l : Flit := ⟨env 0 31 0 0 0, zeroLine⟩
    let bad : Flit := ⟨env 0 16 0 0 0, 1⟩
    let s := devAt [(0, flitTile .west 0 f)]
    let d := devAt [(0, { flitTile .west 0 l with landings := [(15, { valid := true, count := 4, first := 4092, ptr := 3 })] })]
    let p := devAt [(0, { flitTile .west 0 f with purge := [0] })]
    let r := devAt [(0, { flitTile .west 0 l with purge := [0] })]
    let n := devAt [(0, flitTile .west 0 bad)]
    let k : Flit := ⟨env 0 0 5 3 0, 0⟩
    let c := devAt [(0, { flitTile .east 3 k with credits := [(63, { valid := true })] })]
    let e : ForkEntry := { valid := true, out := 6 }
    let x := flitTile .east 3 k
    let g := devAt [(0, { x with router := { x.router with forks := [(0, e)] } })]
    arrived 0 .west 0 s = some f ∧ (s.block (tileBlock 0)).awake = true ∧ (envQueue f.env).toNat < 16 ∧
    purges 0 (envWave f.env) s = false ∧ crcGood f.line = true ∧ (s.tile 0).takes = [] ∧
    (enterHole f ((s.tile 0).hole 15)).isSome = true ∧
    arrived 0 .west 0 p = some f ∧ (p.block (tileBlock 0)).awake = true ∧ purges 0 (envWave f.env) p = true ∧
    arrived 0 .west 0 d = some l ∧ (envQueue l.env).toNat = 31 ∧ purges 0 (envWave l.env) d = false ∧ crcGood l.line = true ∧
    (Tbl.get ({} : Landing) (d.tile 0).landings 15).valid = true ∧ (Tbl.get ({} : Landing) (d.tile 0).landings 15).mem = memWb ∧
    (Tbl.get ({} : Landing) (d.tile 0).landings 15).lastWave = none ∧
    (Tbl.get ({} : Landing) (d.tile 0).landings 15).ptr < (Tbl.get ({} : Landing) (d.tile 0).landings 15).count ∧
    arrived 0 .west 0 n = some bad ∧ (envQueue bad.env).toNat = 16 ∧ purges 0 (envWave bad.env) n = false ∧
    crcGood bad.line = false ∧ arrived 0 .west 0 r = some l ∧ purges 0 (envWave l.env) r = true ∧
    arrived 0 .east 3 c = some k ∧ envKind k.env = 5 ∧ creditIndex (c.tile 0) (envSource k.env) (envQueue k.env) = some 63 ∧
    isControl f = false ∧ isControl l = false ∧ isControl bad = false ∧ envGroup k.env = 0 ∧
    creditIndex (g.tile 0) (envSource k.env) (envQueue k.env) = none ∧
    arrived 0 .east 3 g = some k ∧ (forkEntry (g.tile 0) (envGroup k.env)).valid = true ∧
    bitAt (forkEntry (g.tile 0) (envGroup k.env)).out (portNo .east) = true ∧
    Port.north ∈ branches (forkEntry (g.tile 0) (envGroup k.env)).out ∧ Port.north ≠ Port.east ∧
    Tbl.get 0 (forkEntry (g.tile 0) (envGroup k.env)).credits (portNo .north) = 0 := by
  decide +kernel

/-- A tree and a fork with one branch; a last waiting branch. -/
theorem witness_TreesPullsAndTheRim_tables :
    let f : Flit := ⟨env 0 0 1 1 9, zeroLine⟩
    let m : Flit := ⟨env 0 0 4 2 9, zeroLine⟩
    let x := flitTile .loc 1 f
    let e : TreeEntry := { valid := true, parent := 2, children := 1, treeId := 9 }
    let s := devAt [(0, { x with router := { x.router with trees := [(63, e)] } })]
    let y := flitTile .loc 2 m
    let k : ForkEntry := { valid := true, up := 0, out := 4 }
    let u := devAt [(0, { y with router := { y.router with forks := [(9, k)] } })]
    let w := devAt [(0, { y with router := { y.router with forks := [(9, k)], waiting := [(0, [2])] } })]
    s.head 0 .loc 1 = some f ∧ s.routerOn 0 = true ∧ envKind f.env = 1 ∧ purges 0 (envWave f.env) s = false ∧
    treeEntry (s.tile 0) (envGroup f.env) = some e ∧ branches e.children = [.loc] ∧ portOf e.parent.toNat = some .east ∧
    granted 0 .loc .east 1 ((popPart 0 .loc s).updTile 0 id) = true ∧
    u.head 0 .loc 2 = some m ∧ u.routerOn 0 = true ∧ envKind m.env = 4 ∧ purges 0 (envWave m.env) u = false ∧
    Tbl.get [] (u.tile 0).router.waiting (portNo .loc) = [] ∧ (forkEntry (u.tile 0) (envGroup m.env)).valid = true ∧
    (forkEntry (u.tile 0) (envGroup m.env)).up = portCode .loc ∧ branches (forkEntry (u.tile 0) (envGroup m.env)).out = [.east] ∧
    granted 0 .loc .east 2 u = true ∧
    w.head 0 .loc 2 = some m ∧ Tbl.get [] (w.tile 0).router.waiting (portNo .loc) = [portNo .east] ∧ granted 0 .loc .east 2 w = true := by
  decide +kernel

/-- A range pull of the last line of the working buffer into landing 31, a circular request of circular 15, and malformed
requests of both kinds. -/
theorem witness_TreesPullsAndTheRim_requests :
    let pull : Flit := ⟨env 0 0 9 3 0, mkWords fmtU32 [BitVec.ofNat 32 (1 + 31 * 65536), 4095, 0]⟩
    let circ : Flit := ⟨env 0 0 9 3 0, mkWords fmtU32 [BitVec.ofNat 32 (2 + 31 * 65536), 15, 0]⟩
    let badPull : Flit := ⟨env 0 0 9 3 0, mkWords fmtU32 [BitVec.ofNat 32 (1 + 31 * 65536), 4096, 0]⟩
    let badCirc : Flit := ⟨env 0 0 9 3 0, mkWords fmtU32 [BitVec.ofNat 32 (2 + 31 * 65536), 16, 0]⟩
    let p := devAt [(0, flitTile .west 3 pull)]
    let c := devAt [(0, { flitTile .west 3 circ with circulars := [(15, { valid := true, readers := 2 })] })]
    let b := devAt [(0, flitTile .west 3 badPull)]
    let d := devAt [(0, flitTile .west 3 badCirc)]
    arrived 0 .west 3 p = some pull ∧ envKind pull.env = 9 ∧ (p.block (tileBlock 0)).awake = true ∧ crcGood pull.line = true ∧
    bitsAt (wordAt pull.line 0) 0 8 = 1 ∧ pullOk pull.line = true ∧ (p.tile 0).served = [] ∧
    (p.tile 0).descq.length + (p.tile 0).running.length < 16 ∧
    arrived 0 .west 3 c = some circ ∧ envKind circ.env = 9 ∧ (c.block (tileBlock 0)).awake = true ∧ crcGood circ.line = true ∧
    bitsAt (wordAt circ.line 0) 0 8 = 2 ∧ circularOk (c.tile 0) circ.line = true ∧
    arrived 0 .west 3 b = some badPull ∧ crcGood badPull.line = true ∧ pullOk badPull.line = false ∧
    bitAt (b.tile 0).netFault 31 = false ∧
    arrived 0 .west 3 d = some badCirc ∧ crcGood badCirc.line = true ∧ circularOk (d.tile 0) badCirc.line = false ∧
    bitAt (d.tile 0).netFault 31 = false := by
  decide +kernel

/-- The edge tiles of stack 0, chiplet 0 and keeper 0. -/
theorem witness_TreesPullsAndTheRim_rim :
    let f (t : Nat) : Flit := ⟨env t 0xF0 0 0 0, 0⟩
    let c := (tileAt 96 0).toNat
    let k := (tileAt 127 0).toNat
    let s := devAt [(0, flitTile .loc 0 (f 0)), (c, flitTile .loc 0 (f c)), (k, flitTile .loc 0 (f k))]
    arrived 0 .loc 0 s = some (f 0) ∧ 0xF0 ≤ (envQueue (f 0).env).toNat ∧ rimTarget 0 (envQueue (f 0).env) = some (.stack 0) ∧
    arrived (tileAt 96 0) .loc 0 s = some (f c) ∧ rimTarget (tileAt 96 0) (envQueue (f c).env) = some (.chiplet 0) ∧
    arrived (tileAt 127 0) .loc 0 s = some (f k) ∧ rimTarget (tileAt 127 0) (envQueue (f k).env) = some (.keeper 0) ∧
    s.routerOn 0 = true ∧ primaryPort 0 = some (0, 0) ∧ rimDie 0 0 ≠ .idle ∧ (s.field (tileField 0)).genRunning = true ∧
    ((s.tile 0).buf (edgePort 0) (envVc (f 0).env)).length < 8 ∧
    ({ s with fieldCtls := [(0, { railOn := true })] } : State).routerOn 0 = true ∧
    (({ s with fieldCtls := [(0, { railOn := true })] } : State).field (tileField 0)).genRunning = false := by
  decide +kernel

/-! ## Postcards and slab refresh -/

theorem witness_WaveOrdersActOnTiles :
    let s := devAt [(0, { run0 with begun := true, ctx := { wave := 255 } })]
    (s.block (tileBlock 0)).pstate = .active ∧ (s.tile 0).holdsWave 255 = true := by decide +kernel

/-- Each reason at its ends; a full inbox; a sleeping block; a barrier released and not; a card of a sender outside the model, one
on its way, and one behind an earlier card of its lane. -/
theorem witness_CardsReachTheirReceivers :
    let s := devAt [(0, {})]
    let full := devAt [(0, { inbox := List.replicate 8 0 })]
    let e : BarrierEntry := { valid := true, id := 255, expected := 1, root := 0, mask := 1 }
    let hub := { devAt [(0, {})] with fieldCtls := [(0, { railOn := true, barriers := [(15, e)], releases := [(255, 9)] })] }
    let zzz : State := { blocks := [(0, { pstate := .chrysalis })] }
    let c := userCard 0 7
    let sent (cs : List Card) (s : State) : State := s.updDev (fun d => { d with cards := cs.map (fun c => ⟨0, c⟩) })
    (1 : Nat) ≤ (2 : Byte).toNat ∧ (5 : Byte).toNat ≤ 5 ∧ (5 : Byte) ≠ 1 ∧ cardDue (knockCard 1 0 2) zzz = true ∧
    (zzz.block 0).pstate ≠ .active ∧ (zzz.block 0).pstate ≠ .dark ∧ cardDue (knockCard 2 0 3) s = true ∧ (s.field 0).railOn = true ∧
    cardDue c s = true ∧ cardDue c (sent [c] s) = true ∧ cardDue c (sent [userCard 0 8, c] s) = false ∧
    (s.block (tileBlock 0)).pstate = .active ∧
    (s.tile 0).inbox.length < 8 ∧ (s.tile 0).cardHold = [] ∧ (full.block (tileBlock 0)).pstate = .active ∧ cardDue c full = true ∧
    (full.tile 0).inbox.length = 8 ∧ (hub.block (tileBlock 0)).pstate = .active ∧
    hub.barrierIndex (tileField 0) 255 = some 15 ∧ (255, 9) ∈ (hub.field (tileField 0)).releases ∧
    (255, 8) ∉ (hub.field (tileField 0)).releases ∧ (zzz.block 0).pstate = .chrysalis ∧ Card.good c = true ∧ cardDue c zzz = true ∧
    Card.typ c = cardUserType ∧ Card.dclass c = 0 ∧ tileBlock (Card.dest c) = 0 := by
  and_intros <;> decide +kernel

/-- A barrier short of its count and at it. -/
theorem witness_CardsReachTheirReceivers_hub :
    let e : BarrierEntry := { valid := true, id := 255, expected := 1, root := 0, mask := 1 }
    let hub := { devAt [(0, {})] with fieldCtls := [(0, { railOn := true, barriers := [(15, e)] })] }
    let two := { devAt [(0, {})] with fieldCtls := [(0, { railOn := true, barriers := [(15, { e with expected := 2 })] })] }
    let one := { devAt [(0, {})] with
      fieldCtls := [(0, { railOn := true, barriers := [(15, { e with expected := 2 })], arrivals := [(255, 1, 1)] })] }
    hub.barrier 0 255 = some e ∧ cardDue (arriveCard 255 1 0) hub = true ∧ (hub.field 0).arrivals = [] ∧ e.expected ≤ 0 + 1 ∧
    e.root.toNat = 0 ∧ reporters hub 255 e.mask = [BitVec.ofNat 6 0] ∧ two.barrier 0 255 = some { e with expected := 2 } ∧
    cardDue (arriveCard 255 1 0) two = true ∧ (two.field 0).arrivals = [] ∧
    (0 + 1 : Nat) < ({ e with expected := 2 } : BarrierEntry).expected ∧ one.barrier 0 255 = some { e with expected := 2 } ∧
    (one.field 0).arrivals.find? (fun a => a.1 == 255 && a.2.1 == 1) = some (255, 1, 1) ∧
    reporters one 255 e.mask = [BitVec.ofNat 6 0] := by
  decide +kernel

/-- A FIREFLY of an ACTIVE tile; a tile stalled at a WAIT, halted, and at a barrier; a watchdog card of a wave that is gone; notes
of each kind. -/
theorem witness_CardsReachTheirReceivers_watch :
    let s := devAt [(0, { begun := true, wait := .barrier, seq := .running })]
    let held (b : State) : State := b.updDev (fun d => { d with notes := [0] })
    let wave : Wave := { session := 0, letter := none, inputs := [], first := 0 }
    let waves : State := State.updDev {} (fun d => { d with waves := [(255, some wave)] })
    (s.block (tileBlock 0)).pstate = .active ∧ (s.block (tileBlock 0)).awake = true ∧ cardDue (fireflyCard 0 0) s = true ∧
    (s.tile 0).stalledBy 0 = true ∧ (s.tile 0).stalledBy 5 = true ∧ ((devAt [(0, {})]).tile 0).stalledBy 7 = true ∧
    ((held s).field (tileField 0)).restarting = false ∧ cardDue (watchdogCard 0 0 0) (held s) = true ∧
    Tbl.get 0 (held s).dev.dumps (0 : Byte).toNat < 64 ∧
    (held s).journal.throttled = false ∧ inWindow (held s).dev.time 1000 (held s).dev.notes ≠ [] ∧ (held s).wave 0 = none ∧
    waves.wave 255 = some wave ∧ cardDue (faultNoteCard 1 255 0) waves = true ∧ cardDue (faultNoteCard 8 255 0) waves = true := by
  and_intros <;> decide +kernel

/-- The quiet device: right after reset. -/
theorem witness_NothingGoesOnInAQuietDevice : Quiet State.reset := by
  refine ⟨by simp [State.reset], rfl, rfl, rfl⟩

end Sys2Proof.Tests
end

/-! SUPPORT. The accumulator slots: when PRELOAD, DRAIN and PASS go on and when they fault, each said once about its operation,
and from these what the instructions do (R73 to R77, R248, R249). -/

namespace Sys2Proof.Machine

/-! ## The dispatch of the slot instructions -/

theorem exec_preloadZero (t : TileId) (f : Met PreloadOps) (s : State) :
    exec (.preloadZero t f) s = tileExec (.preloadZero t f) t
      (preloadOp f.ops f.ev [] (fun _ => .ok (List.replicate (slotCount f.ops.n) (List.replicate 64 0)))) s := rfl

theorem exec_preloadVector (t : TileId) (f : Met PreloadOps) (s : State) :
    exec (.preloadVector t f) s = tileExec (.preloadVector t f) t
      (fun x => preloadOp f.ops f.ev [wbRange (x.line f.ops.av) (4 * slotCount f.ops.n)] (preloadVectors f.ops) x) s := rfl

theorem exec_drainToF32 (t : TileId) (f : Met DrainOps) (s : State) :
    exec (.drainToF32 t f) s =
      tileExec (.drainToF32 t f) t (drainOp f.ops f.ev 4 (fun _ => true) (fun _ vs => drainVec vs)) s := rfl

theorem exec_drainToA8r (t : TileId) (f : Met DrainOps) (s : State) :
    exec (.drainToA8r t f) s =
      tileExec (.drainToA8r t f) t (drainOp f.ops f.ev 2 posNormal (drainQuant .a8r (s.regThreshold t))) s := rfl

theorem exec_drainToA8 (t : TileId) (f : Met DrainOps) (s : State) :
    exec (.drainToA8 t f) s = tileExec (.drainToA8 t f) t (drainOp f.ops f.ev 1 posNormal (drainQuant .a8 0)) s := rfl

theorem exec_pass (t : TileId) (f : PassOps) (i : Intrusion) (s : State) :
    exec (.pass t f i) s = tileExec (.pass t f i) t
      (passOp (s.familyOf (s.tile t).ctx.session) f i (Instr.pass t f i).word) s := rfl

/-! ## Ranges, lists of vectors and closed slots -/

/-- Lines inside the working buffer raise no memory fault (R97). -/
theorem rangesFault_wbRange (unit : BitVec 4) (l n : Nat) (h : l + n ≤ 4096) : rangesFault unit [wbRange l n] = none := by
  have hend : ¬ 4096 < l + n := by omega
  simp [rangesFault, rangeFault, wbRange, memLines, memWb, memSlab, memWs, hend]

/-- An access that touches no line waits for none. -/
@[simp] theorem Tile.lineBlocks_nil (x : Tile) : x.lineBlocks [] [] = false := by
  simp [Tile.lineBlocks, Tile.sbBlocks, Tile.takeBlocks, Tile.passBlocks]

theorem nth_map {α β : Type} (g : α → β) (d : α) (e : β) (as : List α) (i : Nat) (h : i < as.length) :
    nth e (as.map g) i = g (nth d as i) := by
  simp [nth, h]

/-- A run over vectors none of which faults answers their values in order. -/
theorem overVectors_of_nth {α : Type} (g : Nat → Except TileFault α) (d : α) (as : List α) (c n : Nat) (hn : as.length = n)
    (h : ∀ i, i < n → g (c + i) = .ok (nth d as i)) : overVectors g c n = .ok as := by
  induction as generalizing c n with
  | nil => subst hn; rfl
  | cons a as ih =>
    subst hn
    have hhead : g c = .ok a := h 0 (by simp)
    have htail : overVectors g (c + 1) as.length = .ok as := by
      refine ih (c + 1) _ rfl fun i hi => ?_
      rw [Nat.add_assoc, Nat.add_comm 1 i]
      exact h (i + 1) (by simpa using hi)
    simp [overVectors, hhead, htail]

/-- One of the `n` slots from `k` is closed. -/
theorem Tile.anyClosed_iff (x : Tile) (k n : Nat) :
    (List.range n).any (fun c => !(x.slot (k + c)).isOpen) = true ↔ ∃ i, i < n ∧ (x.slot (k + i)).isOpen = false := by
  simp

/-- None of the `n` slots from `k` is closed. -/
theorem Tile.noneClosed_iff (x : Tile) (k n : Nat) :
    (List.range n).any (fun c => !(x.slot (k + c)).isOpen) = false ↔ ∀ i, i < n → (x.slot (k + i)).isOpen = true := by
  simp

/-! ## PRELOAD (R73, R74, R248) -/

/-- Nothing stops a PRELOAD that reads `reads`: its slots exist and are idle, its lines exist and are free, its factor is
positive and normal, and no event of its accesses stops it. -/
structure PreloadReady (f : PreloadOps) (i : Intrusion) (reads : List LineRange) (x : Tile) : Prop where
  slots : f.slot.toNat + slotCount f.n ≤ 16
  ranges : rangesFault unitConverter reads = none
  idle : x.slotBusy f.slot.toNat (slotCount f.n) = false
  free : x.lineBlocks reads [] = false
  factor : posNormal (x.sreg f.sf) = true
  events : intrusionStops i unitConverter = none

/-- A PRELOAD of finite vectors opens its slots with their values (R74). -/
theorem preloadOp_opens (f : PreloadOps) (i : Intrusion) (reads : List LineRange)
    (vs : Tile → Except TileFault (List (List Word))) (x : Tile) (ws : List (List Word)) (h : PreloadReady f i reads x)
    (hvs : vs (intrude i x) = .ok ws) (hfin : ws.all (fun v => v.all isFinite) = true) :
    preloadOp f i reads vs x = .done ((openSlots (x.sreg f.sf) f.slot.toNat (ws.map (fun v => v.map accOfF32))
      (intrude i x)).markWritten f.slot.toNat (slotCount f.n)) := by
  have hslots := Nat.not_lt.2 h.slots
  simp only [preloadOp, gt_iff_lt, hslots, h.ranges, h.idle, h.free, h.factor, accessing_on _ _ _ _ h.events, hvs, hfin,
    Bool.not_true, Bool.false_eq_true, if_false]

/-- A PRELOAD whose last slot lies above 15 faults and opens none (R266). -/
theorem preloadOp_beyond (f : PreloadOps) (i : Intrusion) (reads : List LineRange)
    (vs : Tile → Except TileFault (List (List Word))) (x : Tile) (h : 16 < f.slot.toNat + slotCount f.n) :
    preloadOp f i reads vs x = .fault x (.seq 0x2 unitConverter) := by
  simp [preloadOp, h, outOfRange]

/-- The zero vectors of a zero preload are finite. -/
theorem zeroVectors_finite (n : Nat) :
    (List.replicate n (List.replicate 64 (0 : Word))).all (fun v => v.all isFinite) = true := by
  have hzero : isFinite 0#32 = true := by decide
  simp [hzero]

/-! ## DRAIN and PASS (R75, R76, R249) -/

/-- Nothing stops a DRAIN at issue: its slots exist, are open and idle, its lines exist and are free, and no event of its
accesses stops it. -/
def DrainReady (f : DrainOps) (j : Intrusion) (stride : Nat) (x : Tile) : Prop :=
  f.slot.toNat + slotCount f.n ≤ 16 ∧ (∀ i, i < slotCount f.n → (x.slot (f.slot.toNat + i)).isOpen = true) ∧
  x.line f.ad + stride * slotCount f.n ≤ 4096 ∧ x.slotBusy f.slot.toNat (slotCount f.n) = false ∧
  x.lineBlocks [] [wbRange (x.line f.ad) (stride * slotCount f.n)] = false ∧ intrusionStops j unitConverter = none

/-- The values of each slot a DRAIN names. -/
def drainedValues (f : DrainOps) (x : Tile) : List (List (Word × Bool)) :=
  (List.range (slotCount f.n)).map (fun c => drainValues (x.slot (f.slot.toNat + c)))

theorem drainedValues_length (f : DrainOps) (x : Tile) : (drainedValues f x).length = slotCount f.n := by
  simp [drainedValues]

/-- The tile once a DRAIN has written the lines `ps` of its slots (R249). -/
def drained (f : DrainOps) (j : Intrusion) (stride : Nat) (ps : List (List Line)) (x : Tile) : Tile :=
  let y := writeDrained stride (x.line f.ad) ps ((intrude j x).addFlags (orFlags ((drainedValues f x).map drainFlags)))
  if f.keep then y else closeSlots f.slot.toNat (slotCount f.n) y

/-- A DRAIN whose slots all convert writes their lines (R75, R249). -/
theorem drainOp_writes (f : DrainOps) (j : Intrusion) (stride : Nat) (legal : Word → Bool)
    (conv : Word → List (Word × Bool) → Except QuantFault (List Line)) (x : Tile) (ps : List (List Line))
    (h : DrainReady f j stride x) (hlegal : legal (x.sreg f.st) = true) (hlen : ps.length = slotCount f.n)
    (hconv : ∀ i, i < slotCount f.n → conv (x.sreg f.st) (nth [] (drainedValues f x) i) = .ok (nth [] ps i)) :
    drainOp f j stride legal conv x = .done (drained f j stride ps x) := by
  obtain ⟨hslots, hopen, hlines, hidle, hfree, hevents⟩ := h
  have hnone := (Tile.noneClosed_iff x _ _).2 hopen
  have hranges := rangesFault_wbRange unitConverter _ _ hlines
  unfold drainOp
  simp only [gt_iff_lt, Nat.not_lt.2 hslots, if_false, hnone, hranges, hidle, hfree, hlegal, accessing_on _ _ _ _ hevents]
  rw [overVectors_of_nth _ [] ps _ _ hlen]
  · rfl
  · intro i hi
    have hi' := hconv i hi
    unfold drainedValues at hi'
    simp [hi']

/-- A DRAIN of a closed slot faults (R76). -/
theorem drainOp_closed (f : DrainOps) (j : Intrusion) (stride : Nat) (legal : Word → Bool)
    (conv : Word → List (Word × Bool) → Except QuantFault (List Line)) (x : Tile) (hslots : f.slot.toNat + slotCount f.n ≤ 16)
    (hclosed : ∃ i, i < slotCount f.n ∧ (x.slot (f.slot.toNat + i)).isOpen = false) :
    drainOp f j stride legal conv x = .fault x (.seq 0x3 unitConverter) := by
  have hany := (Tile.anyClosed_iff x _ _).2 hclosed
  unfold drainOp
  simp only [gt_iff_lt, Nat.not_lt.2 hslots, if_false, hany, if_true]

/-- The four F32 parcels of each slot a DRAIN names. -/
def drainedF32 (f : DrainOps) (x : Tile) : List (List Line) :=
  (drainedValues f x).map (fun v => vecLines (v.map Prod.fst))

theorem drainedF32_length (f : DrainOps) (x : Tile) : (drainedF32 f x).length = slotCount f.n := by
  rw [drainedF32, List.length_map, drainedValues_length]

/-- The conversion to F32 answers each slot's parcels. -/
theorem drainVec_nth (f : DrainOps) (x : Tile) (i : Nat) (hi : i < slotCount f.n) :
    drainVec (nth [] (drainedValues f x) i) = .ok (nth [] (drainedF32 f x) i) := by
  rw [drainedF32, nth_map _ [] _ _ _ ((drainedValues_length f x).symm ▸ hi)]
  rfl

/-- A PASS that names a closed slot faults (R76). -/
theorem passOp_closed (family : BitVec 16) (f : PassOps) (i : Intrusion) (w : BitVec 64) (x : Tile)
    (htally : f.tally = true ∨ x.test = true) (hslots : f.slot.toNat + dwellOf f ≤ 16)
    (hclosed : ∃ k, k < dwellOf f ∧ (x.slot (f.slot.toNat + k)).isOpen = false) :
    passOp family f i w x = .fault x (.seq 0x3 unitPane) := by
  have hlegal : (!f.tally && !x.test) = false := by rcases htally with h | h <;> simp [h]
  have hany := (Tile.anyClosed_iff x _ _).2 hclosed
  unfold passOp
  simp only [hlegal, gt_iff_lt, Nat.not_lt.2 hslots, if_false, hany, if_true, Bool.false_eq_true]

/-! ## The instructions -/

/-- PRELOAD zero opens its slots, each with 64 zeros. -/
theorem preloadZero_executes (t : TileId) (f : PreloadOps) (i : Intrusion) (s : State)
    (hi : Issues (.preloadZero t ⟨f, i⟩) t s) (h : PreloadReady f i [] (s.tile t)) :
    Executes (.preloadZero t ⟨f, i⟩) t s
      ((openSlots ((s.tile t).sreg f.sf) f.slot.toNat (List.replicate (slotCount f.n) (List.replicate 64 (accOfF32 0)))
        (intrude i (s.tile t))).markWritten f.slot.toNat (slotCount f.n)) := by
  have hop := preloadOp_opens f i [] (fun _ => .ok (List.replicate (slotCount f.n) (List.replicate 64 0))) (s.tile t) _ h rfl
    (zeroVectors_finite _)
  rw [List.map_replicate, List.map_replicate] at hop
  exact (exec_preloadZero t _ s).trans (tileExec_done _ t _ s _ hi hop)

/-- PRELOAD vector opens its slots, each with its vector. -/
theorem preloadVector_executes (t : TileId) (f : PreloadOps) (i : Intrusion) (s : State) (ws : List (List Word))
    (hi : Issues (.preloadVector t ⟨f, i⟩) t s)
    (h : PreloadReady f i [wbRange ((s.tile t).line f.av) (4 * slotCount f.n)] (s.tile t))
    (hws : preloadVectors f (intrude i (s.tile t)) = .ok ws) (hfin : ws.all (fun v => v.all isFinite) = true) :
    Executes (.preloadVector t ⟨f, i⟩) t s
      ((openSlots ((s.tile t).sreg f.sf) f.slot.toNat (ws.map (fun v => v.map accOfF32))
        (intrude i (s.tile t))).markWritten f.slot.toNat (slotCount f.n)) :=
  (exec_preloadVector t _ s).trans (tileExec_done _ t _ s _ hi (preloadOp_opens f i _ _ _ ws h hws hfin))

/-- Each DRAIN of a closed slot is an unopened-slot fault (R76). -/
theorem drain_closed_faults (t : TileId) (f : DrainOps) (j : Intrusion) (s : State) (c : Instr)
    (hc : c = .drainToF32 t ⟨f, j⟩ ∨ c = .drainToA8r t ⟨f, j⟩ ∨ c = .drainToA8 t ⟨f, j⟩) (hi : Issues c t s)
    (hslots : f.slot.toNat + slotCount f.n ≤ 16)
    (hclosed : ∃ i, i < slotCount f.n ∧ ((s.tile t).slot (f.slot.toNat + i)).isOpen = false) :
    exec c s = .next (takeFault t (.seq 0x3 unitConverter) c.word (s.putTile t (s.tile t).fetch)) := by
  rcases hc with rfl | rfl | rfl
  · exact (exec_drainToF32 t _ s).trans (tileExec_fault _ t _ s _ _ hi (drainOp_closed f j _ _ _ _ hslots hclosed))
  · exact (exec_drainToA8r t _ s).trans (tileExec_fault _ t _ s _ _ hi (drainOp_closed f j _ _ _ _ hslots hclosed))
  · exact (exec_drainToA8 t _ s).trans (tileExec_fault _ t _ s _ _ hi (drainOp_closed f j _ _ _ _ hslots hclosed))

/-- Settles O15: each clause is the lemma about its operation, run by the instruction that issues. -/
theorem slotsOpenAndDrain : Obligations.SlotsOpenAndDrain := by
  refine ⟨fun t f i s => ⟨?zero, ?vector, ?zeroBeyond, ?vectorBeyond⟩,
    fun t f j s ps => ⟨?toF32, ?toA8r, ?toA8, ?closed⟩, ?pass⟩
  case zero =>
    intro hi hslots hidle hfactor hev
    exact preloadZero_executes t f i s hi ⟨hslots, rfl, hidle, Tile.lineBlocks_nil _, hfactor, hev⟩
  case vector =>
    intro ws hi hslots hlines hidle hfree hfactor hev hws hfin
    exact preloadVector_executes t f i s ws hi ⟨hslots, rangesFault_wbRange _ _ _ hlines, hidle, hfree, hfactor, hev⟩ hws hfin
  case zeroBeyond =>
    intro hi hbeyond
    exact (exec_preloadZero t _ s).trans (tileExec_fault _ t _ s _ _ hi (preloadOp_beyond f i _ _ _ hbeyond))
  case vectorBeyond =>
    intro hi hbeyond
    exact (exec_preloadVector t _ s).trans (tileExec_fault _ t _ s _ _ hi (preloadOp_beyond f i _ _ _ hbeyond))
  case toF32 =>
    intro hi hready
    exact (exec_drainToF32 t _ s).trans (tileExec_done _ t _ s _ hi (drainOp_writes f j 4 _ _ _ _
      hready rfl (drainedF32_length f _) (drainVec_nth f _)))
  case toA8r =>
    intro hi hready ⟨hT, hlen, hquant⟩
    exact (exec_drainToA8r t _ s).trans (tileExec_done _ t _ s _ hi (drainOp_writes f j 2 _ _ _ ps
      hready hT hlen hquant))
  case toA8 =>
    intro hi hready ⟨hT, hlen, hquant⟩
    exact (exec_drainToA8 t _ s).trans (tileExec_done _ t _ s _ hi (drainOp_writes f j 1 _ _ _ ps
      hready hT hlen hquant))
  case closed =>
    intro c hc hi hslots hclosed
    exact drain_closed_faults t f j s c hc hi hslots hclosed
  case pass =>
    intro t f i s hi htally hslots hclosed
    exact (exec_pass t f i s).trans (tileExec_fault _ t _ s _ _ hi (passOp_closed _ f i _ _ htally hslots hclosed))

end Sys2Proof.Machine

/-! SUPPORT. The scalar and address instructions: one rule for the form they share, their words, and when those are legal
(R240, R241). -/

namespace Sys2Proof

/-! ## The layout and its legal fields (R239 to R241) -/

/-- Bits [55:0] of a word are its body; the opcode stands above them (R239). -/
theorem opWord_toNat_mod (op body : Nat) (h : body < 2 ^ 56) : (opWord op body).toNat % 2 ^ 56 = body := by
  rw [opWord, BitVec.toNat_ofNat]
  omega

/-- The fields of the scalar layout fit below the opcode. -/
theorem ScalarOps.body_lt (f : ScalarOps) : f.body < 2 ^ 56 := by
  have hd := f.d.isLt
  have ha := f.a.isLt
  have hb := f.b.isLt
  have himm := f.imm.toNat_lt
  have himm32 := f.imm32.isLt
  unfold ScalarOps.body
  omega

/-- With IMM, field B is 0 (R241). -/
theorem ScalarOps.ok_iff (f : ScalarOps) : f.ok = true ↔ (f.imm = true → f.b = 0) := by
  cases himm : f.imm <;> simp [ScalarOps.ok, himm]

/-- Where operand B is unused, B, IMM and IMM32 are 0 (R241). -/
theorem ScalarOps.okUnary_iff (f : ScalarOps) : f.okUnary = true ↔ f.b = 0 ∧ f.imm = false ∧ f.imm32 = 0 := by
  simp [ScalarOps.okUnary, and_assoc]

/-- A field that names an address register names one of the 16 (R240). -/
theorem addrOk_iff (r : BitVec 5) : addrOk r = true ↔ r.toNat < 16 := by
  revert r
  decide

end Sys2Proof

namespace Sys2Proof.Machine

/-! ## The dispatch of the scalar and address instructions -/

theorem exec_add (t : TileId) (f : ScalarOps) (s : State) :
    exec (.add t f) s = tileExec (.add t f) t (scalarOp (fun a b => a + b) f) s := rfl

theorem exec_sub (t : TileId) (f : ScalarOps) (s : State) :
    exec (.sub t f) s = tileExec (.sub t f) t (scalarOp (fun a b => a - b) f) s := rfl

theorem exec_mul (t : TileId) (f : ScalarOps) (s : State) :
    exec (.mul t f) s = tileExec (.mul t f) t (scalarOp (fun a b => a * b) f) s := rfl

theorem exec_and (t : TileId) (f : ScalarOps) (s : State) :
    exec (.and t f) s = tileExec (.and t f) t (scalarOp (fun a b => a &&& b) f) s := rfl

theorem exec_or (t : TileId) (f : ScalarOps) (s : State) :
    exec (.or t f) s = tileExec (.or t f) t (scalarOp (fun a b => a ||| b) f) s := rfl

theorem exec_xor (t : TileId) (f : ScalarOps) (s : State) :
    exec (.xor t f) s = tileExec (.xor t f) t (scalarOp (fun a b => a ^^^ b) f) s := rfl

theorem exec_shl (t : TileId) (f : ScalarOps) (s : State) :
    exec (.shl t f) s = tileExec (.shl t f) t (scalarOp (fun a b => a <<< (b.toNat % 32)) f) s := rfl

theorem exec_shr (t : TileId) (f : ScalarOps) (s : State) :
    exec (.shr t f) s = tileExec (.shr t f) t (scalarOp (fun a b => a >>> (b.toNat % 32)) f) s := rfl

theorem exec_sra (t : TileId) (f : ScalarOps) (s : State) :
    exec (.sra t f) s = tileExec (.sra t f) t (scalarOp (fun a b => a.sshiftRight (b.toNat % 32)) f) s := rfl

theorem exec_slt (t : TileId) (f : ScalarOps) (s : State) :
    exec (.slt t f) s = tileExec (.slt t f) t (scalarOp (fun a b => boolWord (a.slt b)) f) s := rfl

theorem exec_sltu (t : TileId) (f : ScalarOps) (s : State) :
    exec (.sltu t f) s = tileExec (.sltu t f) t (scalarOp (fun a b => boolWord (a.ult b)) f) s := rfl

theorem exec_fadd (t : TileId) (f : ScalarOps) (s : State) :
    exec (.fadd t f) s = tileExec (.fadd t f) t (scalarOp fadd f) s := rfl

theorem exec_fmul (t : TileId) (f : ScalarOps) (s : State) :
    exec (.fmul t f) s = tileExec (.fmul t f) t (scalarOp fmul f) s := rfl

theorem exec_flt (t : TileId) (f : ScalarOps) (s : State) :
    exec (.flt t f) s = tileExec (.flt t f) t (scalarOp (fun a b => boolWord (fltB a b)) f) s := rfl

theorem exec_frcp (t : TileId) (f : ScalarOps) (s : State) :
    exec (.frcp t f) s = tileExec (.frcp t f) t (fun x => .done (x.setS f.d (frecip (x.sreg f.a)))) s := rfl

theorem exec_movc (t : TileId) (f : ScalarOps) (s : State) :
    exec (.movc t f) s = tileExec (.movc t f) t (fun x => .done (x.setS f.d (movcItem t x f.imm32.toNat))) s := rfl

theorem exec_aset (t : TileId) (f : ScalarOps) (s : State) :
    exec (.aset t f) s = tileExec (.aset t f) t (fun x => .done (x.setA (areg4 f.d) (x.sreg f.a + opB f x))) s := rfl

theorem exec_ainc (t : TileId) (f : ScalarOps) (s : State) :
    exec (.ainc t f) s = tileExec (.ainc t f) t (fun x => .done (x.setA (areg4 f.d) (x.areg (areg4 f.d) + opB f x))) s := rfl

theorem exec_aget (t : TileId) (f : ScalarOps) (s : State) :
    exec (.aget t f) s = tileExec (.aget t f) t (fun x => .done (x.setS f.d (x.areg (areg4 f.a)))) s := rfl

/-! ## What they execute to -/

/-- An instruction whose attempt goes on with `g` of the tile executes to that, once it issues. -/
theorem executes_of_done {i : Instr} {t : TileId} {s : State} {g : Tile → Tile}
    (hexec : exec i s = tileExec i t (fun x => .done (g x)) s) (hi : Issues i t s) : Executes i t s (g (s.tile t)) :=
  hexec.trans (tileExec_done i t _ s _ hi rfl)

/-- An instruction of the scalar form writes s[D] with its operation of s[A] and operand B (R241). -/
theorem executes_of_scalarOp {i : Instr} {t : TileId} {s : State} {op : Word → Word → Word} {f : ScalarOps}
    (hexec : exec i s = tileExec i t (scalarOp op f) s) (hi : Issues i t s) :
    Executes i t s ((s.tile t).setS f.d (op ((s.tile t).sreg f.a) (opB f (s.tile t)))) :=
  executes_of_done hexec hi

theorem boolWord_eq_ite (b : Bool) : boolWord b = if b then 1 else 0 := rfl

theorem boolWord_slt (a b : Word) : boolWord (a.slt b) = if a.toInt < b.toInt then 1 else 0 := by
  simp [boolWord_eq_ite, BitVec.slt]

theorem boolWord_ult (a b : Word) : boolWord (a.ult b) = if a.toNat < b.toNat then 1 else 0 := by
  simp [boolWord_eq_ite, BitVec.ult]

/-! ## Their words -/

/-- The instructions of two operands A and B (R241). -/
def binaryInstrs (t : TileId) (f : ScalarOps) : List Instr :=
  [.add t f, .sub t f, .mul t f, .and t f, .or t f, .xor t f, .shl t f, .shr t f, .sra t f, .slt t f, .sltu t f, .fadd t f,
   .fmul t f, .flt t f]

/-- Every instruction of the scalar and address layout (R241). -/
def scalarInstrs (t : TileId) (f : ScalarOps) : List Instr :=
  binaryInstrs t f ++ [.frcp t f, .movc t f, .aset t f, .ainc t f, .aget t f]

/-- The scalar and address instructions differ in the opcode alone. -/
theorem scalarInstrs_word (t : TileId) (f : ScalarOps) : ∀ i ∈ scalarInstrs t f, ∃ op, i.word = opWord op f.body := by
  simp only [scalarInstrs, binaryInstrs, List.cons_append, List.nil_append, List.forall_mem_cons, List.not_mem_nil, false_implies,
    implies_true, and_true]
  and_intros <;> exact ⟨_, rfl⟩

/-! ## Their legal encodings -/

theorem binaryInstrs_encodingOk (t : TileId) (f : ScalarOps) : ∀ i ∈ binaryInstrs t f, i.encodingOk = f.ok := by
  simp [binaryInstrs, Instr.encodingOk]

theorem frcp_encodingOk (t : TileId) (f : ScalarOps) : (Instr.frcp t f).encodingOk = f.okUnary := rfl

theorem movc_encodingOk_iff (t : TileId) (f : ScalarOps) :
    (Instr.movc t f).encodingOk = true ↔ f.imm = true ∧ f.a = 0 ∧ f.b = 0 ∧ f.imm32.toNat < 7 := by
  simp [Instr.encodingOk, and_assoc]

theorem aset_encodingOk_iff (t : TileId) (f : ScalarOps) :
    (Instr.aset t f).encodingOk = true ↔ (f.imm = true → f.b = 0) ∧ f.d.toNat < 16 := by
  rw [← ScalarOps.ok_iff, ← addrOk_iff]
  exact Bool.and_eq_true_iff

theorem ainc_encodingOk_iff (t : TileId) (f : ScalarOps) :
    (Instr.ainc t f).encodingOk = true ↔ (f.imm = true → f.b = 0) ∧ f.a = 0 ∧ f.d.toNat < 16 := by
  rw [← ScalarOps.ok_iff, ← addrOk_iff]
  simp [Instr.encodingOk, and_assoc]

theorem aget_encodingOk_iff (t : TileId) (f : ScalarOps) :
    (Instr.aget t f).encodingOk = true ↔ f.b = 0 ∧ f.imm = false ∧ f.imm32 = 0 ∧ f.a.toNat < 16 := by
  rw [← addrOk_iff]
  simp [Instr.encodingOk, ScalarOps.okUnary_iff, and_assoc]

/-- Settles O10: the scalar form's rule for each operation, and the layout and legality of the words. -/
theorem registerInstructionsWriteD : Obligations.RegisterInstructionsWriteD := by
  refine ⟨fun t f s => ⟨executes_of_scalarOp (exec_add t f s), executes_of_scalarOp (exec_sub t f s),
      executes_of_scalarOp (exec_mul t f s), executes_of_scalarOp (exec_and t f s), executes_of_scalarOp (exec_or t f s),
      executes_of_scalarOp (exec_xor t f s), executes_of_scalarOp (exec_shl t f s), executes_of_scalarOp (exec_shr t f s),
      executes_of_scalarOp (exec_sra t f s), ?slt, ?sltu, executes_of_scalarOp (exec_fadd t f s),
      executes_of_scalarOp (exec_fmul t f s), executes_of_scalarOp (exec_flt t f s), executes_of_done (exec_frcp t f s),
      executes_of_done (exec_movc t f s)⟩,
    fun t f s => ⟨executes_of_done (exec_aset t f s), executes_of_done (exec_ainc t f s), executes_of_done (exec_aget t f s)⟩,
    fun t f => ⟨?layout, ?binary, ?frcp, movc_encodingOk_iff t f, aset_encodingOk_iff t f, ainc_encodingOk_iff t f,
      aget_encodingOk_iff t f⟩⟩
  case slt =>
    intro hi
    rw [← boolWord_slt]
    exact executes_of_scalarOp (exec_slt t f s) hi
  case sltu =>
    intro hi
    rw [← boolWord_ult]
    exact executes_of_scalarOp (exec_sltu t f s) hi
  case layout =>
    intro i hi
    obtain ⟨op, hword⟩ := scalarInstrs_word t f i hi
    rw [hword]
    exact opWord_toNat_mod op f.body f.body_lt
  case binary =>
    intro i hi
    rw [binaryInstrs_encodingOk t f i hi]
    exact f.ok_iff
  case frcp =>
    rw [frcp_encodingOk]
    exact f.okUnary_iff

end Sys2Proof.Machine

/-! SUPPORT. TAKE, CLAIM and RELEASE: what each does at issue, said once about its operation, and the words of CLAIM and
RELEASE (R120, R123, R254, R258). -/

namespace Sys2Proof.Machine

/-! ## TAKE (R233, R254) -/

theorem exec_take (t : TileId) (f : TakeOps) (i : Intrusion) (s : State) :
    exec (.take t f i) s = tileExec (.take t f i) t (takeOp t f i) s := rfl

/-- Whether an event stops an access does not depend on a slot hazard. -/
@[simp] theorem intrusionStops_noSlots (i : Intrusion) (unit : BitVec 4) :
    intrusionStops (noSlots i) unit = intrusionStops i unit := rfl

/-- The tile as a TAKE finds it after its first entry's envelope `e` loaded what CTX and ENV ask for (R233, R254). -/
def takeLoads (f : TakeOps) (e : Env) (x : Tile) : Tile :=
  let y := if f.ctx then loadCtx e x else x
  if f.env then loadEnv f.se e y else y

/-- A TAKE with an entry waiting loads its envelope and runs (R254). -/
theorem takeOp_runs (t : TileId) (f : TakeOps) (i : Intrusion) (x : Tile) (h : Flit) (rest : List Flit)
    (hranges : rangesFault unitTake [takeRange (takeRun f x)] = none) (hhole : x.hole f.queue.toNat = h :: rest)
    (hfree : x.lineBlocks [] [takeRange (takeRun f x)] = false)
    (hother : x.takes.any (fun k => k.queue == f.queue) = false) (hevents : intrusionStops i unitTake = none) :
    takeOp t f i x = .done (runTakes t { takeLoads f h.env (intrude (noSlots i) x) with
      takes := (takeLoads f h.env (intrude (noSlots i) x)).takes ++ [takeRun f x] }) := by
  have hevents' : intrusionStops (noSlots i) unitTake = none := (intrusionStops_noSlots i _).trans hevents
  simp only [takeOp, hranges, hhole, hfree, hother, Bool.or_self, Bool.false_eq_true, if_false,
    accessing_on _ _ _ _ hevents']
  rfl

/-- A TAKE of an empty queue waits for an entry. -/
theorem takeOp_waits (t : TileId) (f : TakeOps) (i : Intrusion) (x : Tile)
    (hranges : rangesFault unitTake [takeRange (takeRun f x)] = none) (hhole : x.hole f.queue.toNat = []) :
    takeOp t f i x = .wait x .pigeonhole := by
  simp only [takeOp, hranges, hhole]

/-! ## CLAIM (R120, R123, R258) -/

/-- The lines a CLAIM watches. -/
def claimRange (f : ClaimOps) (x : Tile) : LineRange := ⟨f.mem, (x.areg f.ar).toNat, f.lines.toNat + 1⟩

/-- The tile once a CLAIM has taken entry `e`. -/
def claimed (f : ClaimOps) (e : Nat) (x : Tile) : Tile :=
  { x with sb := Tbl.set {} x.sb e ⟨true, f.drain, f.mem, (x.areg f.ar).toNat, f.lines.toNat + 1, 0, true⟩ }.setS f.sd
    (BitVec.ofNat 32 e)

/-- A CLAIM of lines that exist takes the free entry and names it in s[SD]. -/
theorem claim_executes (t : TileId) (f : ClaimOps) (s : State) (e : Nat) (hi : Issues (.claim t f) t s)
    (hranges : rangesFault unitSequencer [claimRange f (s.tile t)] = none) (hfree : (s.tile t).sbFree = some e) :
    Executes (.claim t f) t s (claimed f e (s.tile t)) := by
  unfold claimRange at hranges
  refine tileExec_done (.claim t f) t _ s _ hi ?_
  simp only [hranges, hfree]
  rfl

/-- A CLAIM with every entry in use faults (R123). -/
theorem claim_full_faults (t : TileId) (f : ClaimOps) (s : State) (hi : Issues (.claim t f) t s)
    (hranges : rangesFault unitSequencer [claimRange f (s.tile t)] = none) (hfull : (s.tile t).sbFree = none) :
    exec (.claim t f) s =
      .next (takeFault t (.mem 4 f.mem (BitVec.ofNat 16 ((s.tile t).areg f.ar).toNat) unitSequencer) (Instr.claim t f).word
        (s.putTile t (s.tile t).fetch)) := by
  unfold claimRange at hranges
  refine tileExec_fault (.claim t f) t _ s _ _ hi ?_
  simp only [hranges, hfull]

theorem claim_word (t : TileId) (f : ClaimOps) : (Instr.claim t f).word = BitVec.ofNat 64 (0x44 * 2 ^ 56 +
    f.drain.toNat * 2 ^ 55 + f.mem.toNat * 2 ^ 53 + f.ar.toNat * 2 ^ 49 + f.lines.toNat * 2 ^ 37 + f.sd.toNat * 2 ^ 32) := by
  simp only [Instr.word, opWord, ClaimOps.body, Nat.add_assoc]

/-- The free entry is the lowest: it is not in use and every one below it is (R258). -/
theorem Tile.sbFree_lowest (x : Tile) (e : Nat) (h : x.sbFree = some e) :
    (Tbl.get ({} : SbEntry) x.sb e).used = false ∧ ∀ k, k < e → (Tbl.get ({} : SbEntry) x.sb k).used = true := by
  obtain ⟨hfree, -, hbelow⟩ := List.find?_range_eq_some.1 h
  exact ⟨by simpa using hfree, fun k hk => by simpa using hbelow k hk⟩

/-! ## RELEASE (R120, R258) -/

/-- RELEASE frees the entry that s[SR] names. -/
theorem release_executes (t : TileId) (sr : BitVec 5) (s : State) (hi : Issues (.release t sr) t s)
    (hentry : ((s.tile t).sreg sr).toNat ≤ 15) :
    Executes (.release t sr) t s { s.tile t with sb := Tbl.set {} (s.tile t).sb ((s.tile t).sreg sr).toNat {} } :=
  tileExec_done (.release t sr) t _ s _ hi (if_neg (Nat.not_lt.2 hentry))

/-- RELEASE of a number above 15 is out of range. -/
theorem release_beyond_faults (t : TileId) (sr : BitVec 5) (s : State) (hi : Issues (.release t sr) t s)
    (hbeyond : 15 < ((s.tile t).sreg sr).toNat) :
    exec (.release t sr) s =
      .next (takeFault t (.seq 0x2 unitSequencer) (Instr.release t sr).word (s.putTile t (s.tile t).fetch)) :=
  tileExec_fault (.release t sr) t _ s _ _ hi (if_pos hbeyond)

/-- Settles O19: each clause is the lemma about its operation, run by the instruction that issues. -/
theorem takesAndClaims : Obligations.TakesAndClaims := by
  refine ⟨fun t f i s hi hranges => ⟨?runs, ?waits⟩,
    fun t f sr s => ⟨fun e hi hranges hfree => claim_executes t f s e hi hranges hfree, claim_full_faults t f s, claim_word t f,
      rfl, (s.tile t).sbFree_lowest, release_executes t sr s, release_beyond_faults t sr s⟩⟩
  case runs =>
    intro h rest hhole hfree hother hevents
    exact (exec_take t f i s).trans (tileExec_done _ t _ s _ hi
      (takeOp_runs t f i _ h rest hranges hhole hfree hother hevents))
  case waits =>
    intro hhole
    exact (exec_take t f i s).trans (tileExec_wait _ t _ s _ _ hi (takeOp_waits t f i _ hranges hhole))

end Sys2Proof.Machine

/-! SUPPORT. Letters on their way in and out: the checks that come before a letter's own, the receipts they end with, the bridge
for another member, and a deadline that passes (R334 to R338, R349, R350, R359). -/

namespace Sys2Proof.Machine

/-! ## The checks before a letter's own (R350) -/

/-- Every row that takes a letter in runs the checks of R350 on it, before an action of its own. -/
theorem exec_letterRow (i : Instr) (op : BitVec 16) (l : Letter) (s : State) (h : letterRow i = some (op, l)) :
    ∃ r act, exec i s = .next (rowAfter i (receive op l r act s)) := by
  unfold letterRow Instr.asLetter at h
  split at h
  case h_4 hcrcRow hreservedRow hforwardRow =>
    split at h
    case h_56 => exact (hcrcRow _ _ rfl).elim
    case h_57 => exact (hreservedRow _ _ rfl).elim
    case h_58 => exact (hforwardRow _ _ rfl).elim
    all_goals cases h
    all_goals simp only [rowAfter, id_eq]
    all_goals exact ⟨_, _, rfl⟩
  all_goals cases h

section
variable {op : BitVec 16} {l : Letter} (r : LetterRule) (act : LetterKey → State → State) {s : State} (hon : s.accepting = true)
include hon

theorem receive_badCrc (hcrc : letterCrcOk op l = false) : receive op l r act s = refuseBare op l 0x0101 s := by
  simp [receive, hon, hcrc]

theorem receive_badVersion (hcrc : letterCrcOk op l = true) (hver : l.version ≠ 1) :
    receive op l r act s = refuseBare op l 0x0102 s := by
  rw [receive, hon, hcrc, if_neg (by simp), if_neg (by simp), if_pos hver]

theorem receive_inFlight (hcrc : letterCrcOk op l = true) (hver : l.version = 1) (hfly : s.inFlight (letterKey l) = true) :
    receive op l r act s = refuseBare op l 0x0103 s := by
  simp [receive, hon, hcrc, hver, hfly]

theorem receive_otherMember (hcrc : letterCrcOk op l = true) (hver : l.version = 1) (hfly : s.inFlight (letterKey l) = false)
    (hdev : letterDevice l ≠ s.dev.member) : receive op l r act s = forwardLetter op l s := by
  simp [receive, hon, hcrc, hver, hfly, hdev]

end

/-! ## Receipts (R336, R337, R527) -/

/-- On an open port a receipt leaves at once. -/
theorem sendReceipt_open (x : Receipt) (s : State) (h : portOpen s x.port) :
    sendReceipt x s = s.updDev (fun d => { d with receipts := d.receipts ++ [x] }) := by
  rcases h with hhost | hup
  · simp [sendReceipt, hhost]
  · simp [sendReceipt, hup]

@[simp] theorem letter_sendReceipt (x : Receipt) (k : LetterKey) (s : State) : (sendReceipt x s).letter k = s.letter k := by
  unfold sendReceipt
  split <;> rfl

/-- A retry time asked for moves on the count of retry times alone. -/
theorem retryFor_state (status : BitVec 16) (s : State) :
    ∃ n, (retryFor status s).2 = s.updDev (fun d => { d with retries := n }) := by
  unfold retryFor
  split
  · exact ⟨_, rfl⟩
  · exact ⟨s.dev.retries, rfl⟩

/-- A letter that never comes in flight ends with its bare receipt. -/
theorem refuseBare_receipts (op : BitVec 16) (l : Letter) (status : BitVec 16) (s : State) (h : portOpen s l.port) :
    (refuseBare op l status s).dev.receipts =
      s.dev.receipts ++ [bareReceipt op l status (retryFor status s).1 (retryFor status s).2] := by
  obtain ⟨n, hn⟩ := retryFor_state status s
  have hopen : portOpen (retryFor status s).2 l.port := hn ▸ h
  rw [refuseBare, sendReceipt_open _ _ hopen, hn]
  rfl

/-! ## Letters in flight (R335) -/

theorem letter_key {s : State} {k : LetterKey} {r : LetterRec} (h : s.letter k = some r) : r.key = k := by
  simpa using List.find?_some h

/-- A change that keeps a letter's key changes what is found under it. -/
theorem letter_updLetter (s : State) (k : LetterKey) (f : LetterRec → LetterRec) (hkey : ∀ r, (f r).key = r.key) :
    (s.updLetter k f).letter k = (s.letter k).map f := by
  have hsame : (fun r : LetterRec => r.key == k) ∘ (fun r => if r.key = k then f r else r) = fun r => r.key == k := by
    funext r
    by_cases h : r.key = k <;> simp [h, hkey]
  unfold State.letter State.updLetter
  rw [State.updDev_dev, List.find?_map, hsame]
  cases hfound : s.dev.letters.find? (fun r => r.key == k) with
  | none => rfl
  | some r => simp [letter_key hfound]

/-! ## The accepted receipt (R337) -/

theorem exec_acceptedReceipt (k : LetterKey) (r : LetterRec) (s : State) (h : s.letter k = some r) (hnew : r.acceptedSent = false) :
    exec (.acceptedReceipt k) s = .next (sendAccepted r s) := by
  change execAcceptedReceipt k s = _
  simp [execAcceptedReceipt, h, hnew]

/-- The accepted receipt leaves, with PROGRESS 0. -/
theorem sendAccepted_receipts (r : LetterRec) (s : State) (h : portOpen s r.key.port) :
    (sendAccepted r s).dev.receipts =
      s.dev.receipts ++ [{ receiptOf s r stAccepted false 0 [] [] with progress := 0 }] := by
  rw [sendAccepted, sendReceipt_open _ _ h]
  rfl

/-- The letter stays in flight. -/
theorem letter_sendAccepted (r : LetterRec) (s : State) :
    (sendAccepted r s).letter r.key = (s.letter r.key).map (fun x => { x with acceptedSent := true }) := by
  rw [sendAccepted, letter_updLetter _ _ _ (by intro; rfl), letter_sendReceipt]

/-! ## The final receipt (R337) -/

/-- No letter is in flight under a key once its final receipt is sent. -/
theorem letter_sendFinal (k : LetterKey) (status : BitVec 16) (rs : List Byte) (ls : List Line) (s : State) :
    (sendFinal k status rs ls s).letter k = none := by
  unfold sendFinal
  split
  next h => exact h
  next => simp [State.letter]

theorem sendFinal_receipts (k : LetterKey) (status : BitVec 16) (rs : List Byte) (ls : List Line) (s : State) (r : LetterRec)
    (h : s.letter k = some r) (hopen : portOpen s k.port) :
    ∃ x, (sendFinal k status rs ls s).dev.receipts = s.dev.receipts ++ [x] ∧ x.letterId = k.id ∧
      x.status = finalStatus r status ∧ x.final = true := by
  obtain ⟨n, hn⟩ := retryFor_state (finalStatus r status) s
  obtain rfl := letter_key h
  have hopen' : portOpen (retryFor (finalStatus r status) s).2 r.key.port := hn ▸ hopen
  simp only [sendFinal, h]
  rw [sendReceipt_open _ _ hopen', hn]
  exact ⟨_, rfl, rfl, rfl, rfl⟩

/-! ## The rows of their own (R338, R349, R359) -/

theorem exec_letterCrcFailure (op : BitVec 16) (l : Letter) (s : State) (hon : s.accepting = true)
    (hcrc : letterCrcOk op l = false) : exec (.letterCrcFailure op l) s = .next (refuseBare op l 0x0101 s) := by
  change execLetterCrcFailure op l s = _
  simp [execLetterCrcFailure, hon, hcrc]

theorem exec_letterReservedOpcode (op : BitVec 16) (l : Letter) (s : State) (hon : s.accepting = true)
    (hcrc : letterCrcOk op l = true) (hop : op ∉ knownOpcodes) :
    exec (.letterReservedOpcode op l) s = .next (refuseBare op l 0x0102 s) := by
  change execLetterReservedOpcode op l s = _
  simp [execLetterReservedOpcode, hon, hcrc, hop]

theorem exec_letterForward (op : BitVec 16) (l : Letter) (s : State) (hon : s.accepting = true) (hcrc : letterCrcOk op l = true)
    (hver : l.version = 1) (hop : op ∈ knownOpcodes) (hdev : letterDevice l ≠ s.dev.member)
    (hfly : s.inFlight (letterKey l) = false) : exec (.letterForward op l) s = .next (forwardLetter op l s) := by
  change execLetterForward op l s = _
  simp [execLetterForward, hon, hcrc, hver, hop, hdev, hfly]

/-- Slots toward a member wait at a port, and nothing else of the device moves. -/
@[simp] theorem sendToward_dev (m : BitVec 4) (q : List (BitVec 4 × BitVec 704)) (s : State) : (sendToward m q s).dev = s.dev := by
  unfold sendToward
  split <;> rfl

/-- The bridge sends a letter on where its member is reached and its port is below the limit of R335. -/
theorem forwardLetter_dev (op : BitVec 16) (l : Letter) (s : State) (hmem : s.isMember (letterDevice l) = true)
    (hreach : s.reaches (letterDevice l) = true) (hload : s.portLoad l.port < 4096) :
    (forwardLetter op l s).dev = { s.dev with forwarded := s.dev.forwarded ++ [(letterDevice l, op, l)] } := by
  simp [forwardLetter, hmem, hreach, Nat.not_le.2 hload]

/-! ## Deadlines (R334) -/

/-- A letter whose deadline passes first leaves what waited for it; ports, letters and receipts stay until it ends. -/
theorem exec_deadlineExpiry (k : LetterKey) (r : LetterRec) (s : State) (h : s.letter k = some r) (hnew : r.progressed = false) :
    ∃ t : State, exec (.deadlineExpiry k) s = .next (settleAll (finishLetter k 0x0402 [] [] t)) ∧ t.ports = s.ports ∧
      t.dev.letters = s.dev.letters ∧ t.dev.receipts = s.dev.receipts := by
  have hexec : exec (.deadlineExpiry k) s = execDeadlineExpiry k s := rfl
  simp only [hexec, execDeadlineExpiry, h, hnew]
  exact ⟨_, rfl, rfl, rfl, rfl⟩

/-- A letter that ends with a deadline was no completed one: its status stays 0x0402. -/
theorem finalStatus_deadline (r : LetterRec) : finalStatus r 0x0402 = 0x0402 := rfl

/-- Settles O29: the rows run the checks of R350 in their order, and each check, row and deadline ends with its receipt. -/
theorem lettersAreCheckedInOrder : Obligations.LettersAreCheckedInOrder := by
  refine ⟨fun i op l s hrow => ?checks, fun op l k r s hon hopen => ⟨?badCrc, ?reserved, ?forward, ?accepted⟩, ?deadline⟩
  case checks =>
    obtain ⟨r, act, hexec⟩ := exec_letterRow i op l s hrow
    rw [hexec]
    refine ⟨fun hoff => ?_, fun hon hcrc => ?_, fun hon hcrc hver => ?_, fun hon hcrc hver hfly => ?_,
      fun hon hcrc hver hfly hdev => ?_⟩
    · rw [receive_off _ _ _ _ _ hoff]
    · rw [receive_badCrc r act hon hcrc]
    · rw [receive_badVersion r act hon hcrc hver]
    · rw [receive_inFlight r act hon hcrc hver hfly]
    · rw [receive_otherMember r act hon hcrc hver hfly hdev]
  case badCrc =>
    intro hcrc
    exact ⟨_, _, exec_letterCrcFailure op l s hon hcrc, refuseBare_receipts op l _ s hopen, rfl, rfl, rfl, rfl, rfl, rfl⟩
  case reserved =>
    intro hcrc hop
    exact ⟨_, _, exec_letterReservedOpcode op l s hon hcrc hop, refuseBare_receipts op l _ s hopen, rfl, rfl, rfl⟩
  case forward =>
    intro hcrc hver hop hdev hfly hmem hreach hload
    have hsent := forwardLetter_dev op l s hmem hreach hload
    refine ⟨_, exec_letterForward op l s hon hcrc hver hop hdev hfly, ?_, ?_, ?_⟩ <;> rw [hsent]
  case accepted =>
    intro hletter hnew hport
    obtain rfl := letter_key hletter
    refine ⟨_, _, exec_acceptedReceipt _ r s hletter hnew, sendAccepted_receipts r s (hport ▸ hopen), rfl, rfl, rfl, ?_⟩
    rw [letter_sendAccepted, hletter]
    rfl
  case deadline =>
    intro k r s hletter hnew hlive haudit hwait hopen
    obtain ⟨t, hexec, hports, hletters, hreceipts⟩ := exec_deadlineExpiry k r s hletter hnew
    have hletter' : t.letter k = some r := by rw [State.letter, hletters]; exact hletter
    have hopen' : portOpen t k.port := by rw [portOpen, State.port, hports]; exact hopen
    obtain ⟨x, hsent, hid, hstatus, hfinal⟩ := sendFinal_receipts k 0x0402 [] [] t r hletter' hopen'
    rw [finishLetter_sends k _ _ _ t r hletter' hlive haudit hwait] at hexec
    exact ⟨_, x, hexec, letter_sendFinal k _ _ _ t, hsent.trans (by rw [hreceipts]), hid,
      hstatus.trans (finalStatus_deadline r), hfinal⟩

end Sys2Proof.Machine

/-! SUPPORT. Mailboxes: reading an end after a change of it or of its far end, what sending and acknowledging a message do, and
the letter messages (R361 to R366, R521, R526). -/

namespace Sys2Proof.Machine

/-! ## The ends of a mailbox (R361) -/

theorem endKey_endPeer_ne (e : MailEnd) : endKey (endPeer e) ≠ endKey e := by
  cases e with
  | dev m a => cases a <;> simp [endKey, endPeer]
  | blk b a => cases a <;> simp [endKey, endPeer]

@[simp] theorem endPeer_endPeer (e : MailEnd) : endPeer (endPeer e) = e := by
  cases e <;> simp [endPeer]

@[simp] theorem mbx_updMbx (s : State) (e : MailEnd) (f : Mbx → Mbx) : (s.updMbx e f).mbx e = f (s.mbx e) :=
  Tbl.get_set_same _ _ _ _

@[simp] theorem mbx_endPeer_updMbx (s : State) (e : MailEnd) (f : Mbx → Mbx) :
    (s.updMbx e f).mbx (endPeer e) = s.mbx (endPeer e) :=
  Tbl.get_set_other _ _ _ (endKey_endPeer_ne e)

@[simp] theorem mbx_updMbx_endPeer (s : State) (e : MailEnd) (f : Mbx → Mbx) : (s.updMbx (endPeer e) f).mbx e = s.mbx e :=
  Tbl.get_set_other _ _ _ (endKey_endPeer_ne e).symm

@[simp] theorem chiplet_updMbx (s : State) (e : MailEnd) (f : Mbx → Mbx) (c : Nat) : (s.updMbx e f).chiplet c = s.chiplet c := rfl

@[simp] theorem mbx_sendCard (n : Nat) (c : Card) (s : State) (e : MailEnd) : (sendCard n c s).mbx e = s.mbx e := rfl

@[simp] theorem mbx_updChiplet (s : State) (c : Nat) (f : Chiplet → Chiplet) (e : MailEnd) : (s.updChiplet c f).mbx e = s.mbx e := rfl

@[simp] theorem mbx_updPort (s : State) (p : Nat) (f : LinkPort → LinkPort) (e : MailEnd) : (s.updPort p f).mbx e = s.mbx e := rfl

@[simp] theorem Mbx.interrupt_inq (x : Mbx) (b : Nat) : (x.interrupt b).inq = x.inq := by
  unfold Mbx.interrupt
  split <;> rfl

@[simp] theorem Mbx.interrupt_peerAck (x : Mbx) (b : Nat) : (x.interrupt b).peerAck = x.peerAck := by
  unfold Mbx.interrupt
  split <;> rfl

/-! ## Sending (R363, R365) -/

/-- A message that fits enters the far end's queue whole. -/
theorem postMessage_inq (e : MailEnd) (ws : List (BitVec 64)) (s : State) (hne : ws ≠ [])
    (hroom : (s.mbx (endPeer e)).rxWords + ws.length ≤ 8) :
    ((postMessage e ws s).mbx (endPeer e)).inq = (s.mbx (endPeer e)).inq ++ [ws] := by
  have hfits : ¬ (ws = [] ∨ ws.length > 8 ∨ (s.mbx (endPeer e)).rxWords + ws.length > 8) := by
    rintro (h | h | h)
    · exact hne h
    · omega
    · omega
  simp only [postMessage, if_neg hfits]
  split
  · simp
  · split <;> simp

/-- A message that does not fit is refused, and nothing else changes. -/
theorem postMessage_refused (e : MailEnd) (ws : List (BitVec 64)) (s : State)
    (hfull : 8 < (s.mbx (endPeer e)).rxWords + ws.length) :
    postMessage e ws s = s.updMbx e (fun x => { x with refused := true }) :=
  if_pos (.inr (.inr hfull))

@[simp] theorem chiplet_postMessage (e : MailEnd) (ws : List (BitVec 64)) (s : State) (c : Nat) :
    (postMessage e ws s).chiplet c = s.chiplet c := by
  unfold postMessage
  dsimp only
  split
  · rfl
  · split
    · rfl
    · split <;> rfl

/-- The words that a write of LENGTH to MBX_SEND sends. -/
def stagedWords (e : MailEnd) (v : Word) (s : State) : List (BitVec 64) := (List.range (bitsAt v 0 4)).map (s.mbx e).staged

theorem stagedWords_length (e : MailEnd) (v : Word) (s : State) : (stagedWords e v s).length = bitsAt v 0 4 := by
  simp [stagedWords]

theorem exec_mbxSend (e : MailEnd) (v : Word) (s : State) (hlen : bitsAt v 0 4 ≤ 8) :
    exec (.mbxSend e v) s = .next (postMessage e (stagedWords e v s) s) := by
  change execMbxSend e v s = _
  simp [execMbxSend, mbxSend, hlen, stagedWords]

/-! ## Acknowledging (R364) -/

theorem exec_mbxAck (e : MailEnd) (v : Word) (s : State) : exec (.mbxAck e v) s = .next (mbxAck e v s) := rfl

section
variable (e : MailEnd) (v : Word) (s : State) (m : List (BitVec 64)) (ms : List (List (BitVec 64)))
  (hhead : (s.mbx e).inq = m :: ms)
include hhead

/-- The acknowledgement of the head message removes it. -/
theorem mbxAck_inq (hseq : messageSeq m = (fieldAt v 16 16 : BitVec 16)) : ((mbxAck e v s).mbx e).inq = ms := by
  simp [mbxAck, hhead, hseq]

/-- The acknowledgement of the head message stands in the sender's MBX_PEER_ACK. -/
theorem mbxAck_peerAck (hseq : messageSeq m = (fieldAt v 16 16 : BitVec 16)) :
    ((mbxAck e v s).mbx (endPeer e)).peerAck = v := by
  simp [mbxAck, hhead, hseq]

end

/-- The acknowledgement of no head message is a mismatch, and nothing else changes. -/
theorem mbxAck_mismatch (e : MailEnd) (v : Word) (s : State) (m : List (BitVec 64)) (ms : List (List (BitVec 64)))
    (h : (s.mbx e).inq = [] ∨ ((s.mbx e).inq = m :: ms ∧ messageSeq m ≠ (fieldAt v 16 16 : BitVec 16))) :
    mbxAck e v s = s.updMbx e (fun x => { x with ackMismatch := true }) := by
  rcases h with hempty | ⟨hhead, hseq⟩
  · simp [mbxAck, hempty]
  · simp [mbxAck, hhead, hseq]

/-- MBX_RX0 to MBX_RX7 hold the words of the head message (R364, R366). -/
theorem mbxWord_rx (s : State) (e : MailEnd) (m : List (BitVec 64)) (ms : List (List (BitVec 64))) (hhead : (s.mbx e).inq = m :: ms)
    (j : Nat) (hj : j < 16) : mbxWord s e (0xD0 + j) = wordAt (nth 0 m (j / 2)) (j % 2) := by
  have hrange : 0xD0 ≤ 0xD0 + j ∧ 0xD0 + j ≤ 0xDF := by omega
  have hword : 0xD0 + j - 0xD0 = j := by omega
  have hhalf : (0xD0 + j) % 2 = j % 2 := by omega
  rw [mbxWord, if_pos hrange, hword, hhalf, hhead]
  rfl

/-! ## Letter messages (R362, R521, R526) -/

/-- With room for its two words, a letter message enters the far end's queue under the end's next SEQ. -/
theorem sendLetterMessage_inq (e : MailEnd) (code buffer : BitVec 16) (port : Byte) (id : Word) (s : State)
    (hroom : (s.mbx (endPeer e)).rxWords + 2 ≤ 8) :
    ((sendLetterMessage e code buffer port id s).mbx (endPeer e)).inq =
      (s.mbx (endPeer e)).inq ++ [letterMessage code (s.mbx e).nextSeq buffer port id] := by
  have hsent := postMessage_inq e (letterMessage code (s.mbx e).nextSeq buffer port id) s (List.cons_ne_nil _ _) hroom
  simp [sendLetterMessage, State.mailRoom, hroom, hsent]

@[simp] theorem chiplet_sendLetterMessage (e : MailEnd) (code buffer : BitVec 16) (port : Byte) (id : Word) (s : State) (c : Nat) :
    (sendLetterMessage e code buffer port id s).chiplet c = s.chiplet c := by
  unfold sendLetterMessage
  dsimp only
  split <;> simp

/-- Taking a letter changes its port alone. -/
theorem takeLetter_port (p : Nat) (s : State) : ∃ x, takeLetter p s = s ∨ takeLetter p s = s.putPort p x := by
  unfold takeLetter
  dsimp only
  split
  · exact ⟨{}, .inl rfl⟩
  · exact ⟨_, .inr rfl⟩

@[simp] theorem mbx_takeLetter (p : Nat) (s : State) (e : MailEnd) : (takeLetter p s).mbx e = s.mbx e := by
  obtain ⟨x, h | h⟩ := takeLetter_port p s <;> rw [h]
  rfl

@[simp] theorem chiplet_takeLetter (p : Nat) (s : State) (c : Nat) : (takeLetter p s).chiplet c = s.chiplet c := by
  obtain ⟨x, h | h⟩ := takeLetter_port p s <;> rw [h]
  rfl

section
variable (c : Fin 12) (buffer : BitVec 16) (port : Byte) (id : Word) (s : State)

/-- A letter that finds its buffer free takes it, and its message goes out. -/
theorem exec_letterArrived (hbuffer : buffer.toNat < 256) (hport : port.toNat < 48)
    (hfree : (s.chiplet c.val).buffers.any (fun b => b.1 == buffer) = false)
    (hroom : (s.mbx (.dev (adapterBox c) true)).rxWords + 2 ≤ 8) :
    exec (.letterArrived c buffer port id) s = .next (sendLetterMessage (.dev (adapterBox c) false) 0x0001 buffer port id
      (takeLetter port.toNat (s.updChiplet c.val (fun x => { x with
        buffers := (s.chiplet c.val).buffers ++ [(buffer, port, id)] })))) := by
  change execLetterArrived c buffer port id s = _
  have hgo : ¬ (buffer.toNat ≥ 256 ∨ port.toNat ≥ 48 ∨ (s.chiplet c.val).buffers.any (fun b => b.1 == buffer)) := by
    rw [hfree]
    rintro (h | h | h)
    · omega
    · omega
    · exact Bool.false_ne_true h
  have hmail : s.mailRoom (.dev (adapterBox c) false) 2 = true := decide_eq_true hroom
  simp only [execLetterArrived, if_neg hgo, if_pos hmail]

theorem exec_receiptReady : exec (.receiptReady c buffer port id) s =
    .next (sendLetterMessage (.dev (adapterBox c) true) 0x0002 buffer port id s) := rfl

/-- A freed buffer leaves the adapter's list, and its message goes out from a state with the mailboxes as they were. -/
theorem exec_letterBufferFreed (hroom : (s.mbx (.dev (adapterBox c) false)).rxWords + 2 ≤ 8) :
    ∃ t : State, exec (.letterBufferFreed c buffer port id) s =
        .next (sendLetterMessage (.dev (adapterBox c) true) 0x0003 buffer port id t) ∧ (∀ e, t.mbx e = s.mbx e) ∧
      (t.chiplet c.val).buffers = (s.chiplet c.val).buffers.filter (fun b => b.1 != buffer) := by
  have hmail : s.mailRoom (.dev (adapterBox c) true) 2 = true := decide_eq_true hroom
  refine ⟨_, rfl, fun e => ?_, ?_⟩
  · rw [if_pos hmail]
    split <;> rfl
  · rw [if_pos hmail]
    have hchiplet := State.chiplet_updChiplet s c.val (fun x => { x with buffers := x.buffers.filter (fun b => b.1 != buffer) })
    split <;> exact congrArg Chiplet.buffers hchiplet

end

/-- Settles O47: a message enters a far end's queue where it fits, an acknowledgement frees the head message alone, and the
letter messages go under the sender's next SEQ. -/
theorem mailboxesCarryMessages : Obligations.MailboxesCarryMessages := by
  intro e v c buffer port id m ms s
  refine ⟨?enters, ?refused, mbxWord_rx s e m ms, ?acknowledged, ?mismatch, ?arrived, ?ready, ?freed⟩
  case enters =>
    intro hpos hlen hroom
    have hwords := stagedWords_length e v s
    refine ⟨_, exec_mbxSend e v s hlen, postMessage_inq e _ s ?_ (hwords ▸ hroom)⟩
    exact List.ne_nil_of_length_pos (hwords ▸ hpos)
  case refused =>
    intro _ hlen hfull
    have hwords := stagedWords_length e v s
    refine ⟨_, exec_mbxSend e v s hlen, ?_⟩
    rw [postMessage_refused e _ s (hwords ▸ hfull)]
    simp
  case acknowledged =>
    intro hhead hseq
    exact ⟨_, exec_mbxAck e v s, mbxAck_inq e v s m ms hhead hseq, mbxAck_peerAck e v s m ms hhead hseq⟩
  case mismatch =>
    intro h
    refine ⟨_, exec_mbxAck e v s, ?_⟩
    rw [mbxAck_mismatch e v s m ms h]
    simp
  case arrived =>
    intro hbuffer hport hfree hroom
    refine ⟨_, exec_letterArrived c buffer port id s hbuffer hport hfree hroom, by simp, ?_⟩
    refine (sendLetterMessage_inq (.dev (adapterBox c) false) _ _ _ _ _ ?_).trans ?_
    · simpa [endPeer] using hroom
    · simp [endPeer]
  case ready =>
    intro hroom
    exact ⟨_, exec_receiptReady c buffer port id s, sendLetterMessage_inq (.dev (adapterBox c) true) _ _ _ _ s hroom⟩
  case freed =>
    intro hroom
    obtain ⟨t, hexec, hmbx, hbuffers⟩ := exec_letterBufferFreed c buffer port id s hroom
    refine ⟨_, hexec, ?_, ?_⟩
    · have hsent := sendLetterMessage_inq (.dev (adapterBox c) true) 0x0003 buffer port id t ((hmbx _).symm ▸ hroom)
      rw [hmbx, hmbx] at hsent
      exact hsent
    · rw [chiplet_sendLetterMessage, hbuffers]
      intro b hb
      simpa using (List.mem_filter.1 hb).2

end Sys2Proof.Machine

/-! SUPPORT. Roles: the open roles of a port after an opening or a closing, a letter under way until it ends, and what the role
letters, the button, the timeouts and J7 do (R497 to R507). -/

namespace Sys2Proof.Machine

/-! ## Open roles of a port (R499, R501) -/

theorem roleOf_congr {s u : State} (h : u.dev.roles = s.dev.roles) (q : Nat) (b : Bool) : u.roleOf q b = s.roleOf q b := by
  rw [State.roleOf, State.roleOf, h]

theorem roleOf_openRole_same (port : Nat) (r : OpenRole) (s : State) : (openRole port r s).roleOf port r.maker = some r := by
  have hold : ((Tbl.get [] s.dev.roles port).filter (fun x => x.maker != r.maker)).find? (fun x => x.maker == r.maker) = none := by
    simp [List.find?_eq_none]
  simp [State.roleOf, openRole, Tbl.upd, hold]

theorem roleOf_openRole_other (r : OpenRole) (s : State) {port q : Nat} (h : q ≠ port) (b : Bool) :
    (openRole port r s).roleOf q b = s.roleOf q b := by
  simp [State.roleOf, openRole, Tbl.upd, Tbl.get_set_other _ _ _ h]

@[simp] theorem openRole_roleWaits (port : Nat) (r : OpenRole) (s : State) :
    (openRole port r s).dev.roleWaits = s.dev.roleWaits := rfl

@[simp] theorem openRole_authSeq (port : Nat) (r : OpenRole) (s : State) :
    (openRole port r s).dev.authSeq = s.dev.authSeq := rfl

@[simp] theorem journalAdd_ports (kind : BitVec 16) (key : Word) (body : List Byte) (s : State) :
    (journalAdd kind key body s).ports = s.ports := by
  unfold journalAdd
  dsimp only
  split <;> rfl

/-- The audit records of closures leave everything but the journal. -/
theorem foldl_auditClosure_leaves (rs : List OpenRole) (port : Nat) (reason : Byte) (s : State) :
    (rs.foldl (fun s r => auditClosure r.maker port reason s) s).dev = s.dev ∧
      (rs.foldl (fun s r => auditClosure r.maker port reason s) s).ports = s.ports := by
  induction rs generalizing s with
  | nil => exact ⟨rfl, rfl⟩
  | cons r rs ih =>
    obtain ⟨hdev, hports⟩ := ih (auditClosure r.maker port reason s)
    exact ⟨hdev.trans (journalAdd_dev _ _ _ _), hports.trans (journalAdd_ports _ _ _ _)⟩

section
variable (test : OpenRole → Bool) (reason : Byte)

/-- A closing keeps the roles of the port that fail its test, and changes no other part of the device's state. -/
theorem closeRoles_dev (port : Nat) (s : State) : (closeRoles test port reason s).dev = { s.dev with
    roles := Tbl.set [] s.dev.roles port ((Tbl.get [] s.dev.roles port).filter (fun r => !test r)) } :=
  (foldl_auditClosure_leaves _ _ _ _).1

theorem closeRoles_ports (port : Nat) (s : State) : (closeRoles test port reason s).ports = s.ports :=
  (foldl_auditClosure_leaves _ _ _ _).2

theorem roleOf_closeRoles_same (port : Nat) (s : State) (b : Bool) : (closeRoles test port reason s).roleOf port b =
    (Tbl.get [] s.dev.roles port).find? (fun r => !test r && r.maker == b) := by
  rw [State.roleOf, closeRoles_dev, Tbl.get_set_same, List.find?_filter]
  exact congrArg (List.find? · _) (funext fun r => by cases test r <;> simp [beq_eq_decide])

theorem roleOf_closeRoles_closed (port : Nat) (s : State) {b : Bool} (htest : ∀ r : OpenRole, r.maker = b → test r = true) :
    (closeRoles test port reason s).roleOf port b = none := by
  rw [roleOf_closeRoles_same, List.find?_eq_none]
  intro r _ hr
  obtain ⟨hfails, hmaker⟩ := (Bool.and_eq_true _ _).mp hr
  simp [htest r (beq_iff_eq.1 hmaker)] at hfails

theorem roleOf_closeRoles_kept (port : Nat) (s : State) {b : Bool} (htest : ∀ r : OpenRole, r.maker = b → test r = false) :
    (closeRoles test port reason s).roleOf port b = s.roleOf port b := by
  rw [roleOf_closeRoles_same, State.roleOf]
  congr 1
  funext r
  by_cases h : r.maker = b <;> simp [h, htest r]

theorem roleOf_closeRoles_other (s : State) {port q : Nat} (h : q ≠ port) (b : Bool) :
    (closeRoles test port reason s).roleOf q b = s.roleOf q b := by
  rw [State.roleOf, closeRoles_dev, Tbl.get_set_other _ _ _ h, State.roleOf]

/-- A role that is closed on one of the ports, or was not open, is not open after the closing of all of them. -/
theorem roleOf_closeAll {b : Bool} (htest : ∀ r : OpenRole, r.maker = b → test r = true) (q : Nat) (ports : List Nat) (s : State)
    (h : q ∈ ports ∨ s.roleOf q b = none) : (ports.foldl (fun s p => closeRoles test p reason s) s).roleOf q b = none := by
  induction ports generalizing s with
  | nil => simpa using h
  | cons p ps ih =>
    apply ih
    by_cases hq : q = p
    · exact .inr (hq ▸ roleOf_closeRoles_closed test reason p s htest)
    · rw [roleOf_closeRoles_other test reason s hq]
      exact h.imp_left fun hmem => (List.mem_cons.1 hmem).resolve_left hq

theorem closeAll_j7 (ports : List Nat) (s : State) :
    (ports.foldl (fun s p => closeRoles test p reason s) s).dev.j7 = s.dev.j7 := by
  induction ports generalizing s with
  | nil => rfl
  | cons p ps ih => rw [List.foldl_cons, ih, closeRoles_dev]

end

/-! ## What the end of a letter leaves (R337, R483) -/

theorem sendReceipt_dev (x : Receipt) (s : State) :
    (sendReceipt x s).dev = { s.dev with receipts := (sendReceipt x s).dev.receipts } := by
  unfold sendReceipt
  split <;> rfl

/-- A final receipt changes letters, receipts, retry times, the exclusive letter and the queues of sessions. -/
theorem sendFinal_dev (k : LetterKey) (st : BitVec 16) (rs : List Byte) (ls : List Line) (s : State) :
    (sendFinal k st rs ls s).dev = { s.dev with
      letters := (sendFinal k st rs ls s).dev.letters, receipts := (sendFinal k st rs ls s).dev.receipts
      retries := (sendFinal k st rs ls s).dev.retries, exclusive := (sendFinal k st rs ls s).dev.exclusive
      sessions := (sendFinal k st rs ls s).dev.sessions } := by
  unfold sendFinal
  split
  · rfl
  · next r _ =>
    obtain ⟨n, hn⟩ := retryFor_state (finalStatus r st) s
    dsimp only [State.updDev_dev]
    rw [sendReceipt_dev, hn]
    rfl

theorem auditLetter_dev (r : LetterRec) (st : BitVec 16) (s : State) :
    (auditLetter r st s).dev = { s.dev with letters := (auditLetter r st s).dev.letters } := by
  unfold auditLetter
  split
  · rw [journalFor, journalAdd_dev]
    rfl
  · rfl

/-- The end of a letter changes no more of the device's state than its final receipt does. -/
theorem finishLetter_dev (k : LetterKey) (st : BitVec 16) (rs : List Byte) (ls : List Line) (s : State) :
    (finishLetter k st rs ls s).dev = { s.dev with
      letters := (finishLetter k st rs ls s).dev.letters, receipts := (finishLetter k st rs ls s).dev.receipts
      retries := (finishLetter k st rs ls s).dev.retries, exclusive := (finishLetter k st rs ls s).dev.exclusive
      sessions := (finishLetter k st rs ls s).dev.sessions } := by
  unfold finishLetter
  split
  · rfl
  · split
    · rfl
    · dsimp only
      split
      · rw [State.updLetter, State.updDev_dev, auditLetter_dev]
      · rw [sendFinal_dev, auditLetter_dev]

section
variable (k : LetterKey) (st : BitVec 16) (rs : List Byte) (ls : List Line) (s : State)

@[simp] theorem finishLetter_roles : (finishLetter k st rs ls s).dev.roles = s.dev.roles := by rw [finishLetter_dev]
@[simp] theorem finishLetter_roleWaits : (finishLetter k st rs ls s).dev.roleWaits = s.dev.roleWaits := by rw [finishLetter_dev]
@[simp] theorem finishLetter_authSeq : (finishLetter k st rs ls s).dev.authSeq = s.dev.authSeq := by rw [finishLetter_dev]

@[simp] theorem roleOf_finishLetter (q : Nat) (b : Bool) : (finishLetter k st rs ls s).roleOf q b = s.roleOf q b :=
  roleOf_congr (finishLetter_roles k st rs ls s) q b

end

@[simp] theorem presenceLight_dev (s : State) : (presenceLight s).dev = s.dev := rfl

@[simp] theorem roleOf_presenceLight (s : State) (q : Nat) (b : Bool) : (presenceLight s).roleOf q b = s.roleOf q b := rfl

/-! ## A letter under way (R335, R337) -/

/-- In `u` the letter is in flight, no status ends it yet and no recovered event has touched it; the ports are those of `s`. -/
def UnderWay (l : Letter) (s u : State) : Prop :=
  u.ports = s.ports ∧ ∃ r, u.letter (letterKey l) = some r ∧ r.finalStatus = none ∧ r.recovered = none

section
variable {l : Letter} {s t : State}

/-- A change of anything but the ports and the letters leaves a letter under way. -/
theorem UnderWay.of_eq {u : State} (h : UnderWay l s t) (hports : u.ports = t.ports) (hletters : u.dev.letters = t.dev.letters) :
    UnderWay l s u := by
  obtain ⟨hsame, r, hletter, hr⟩ := h
  exact ⟨hports.trans hsame, r, (congrArg _ hletters).trans hletter, hr⟩

theorem UnderWay.updLetter (h : UnderWay l s t) (f : LetterRec → LetterRec)
    (hf : ∀ r, (f r).key = r.key ∧ (f r).finalStatus = r.finalStatus ∧ (f r).recovered = r.recovered) :
    UnderWay l s (t.updLetter (letterKey l) f) := by
  obtain ⟨hsame, r, hletter, hlive, hplain⟩ := h
  obtain ⟨_, hstatus, hrecovered⟩ := hf r
  refine ⟨hsame, f r, ?_, hstatus.trans hlive, hrecovered.trans hplain⟩
  rw [letter_updLetter _ _ _ fun r => (hf r).1, hletter]
  rfl

theorem UnderWay.progress (h : UnderWay l s t) : UnderWay l s (Machine.progress (letterKey l) t) :=
  h.updLetter _ fun _ => ⟨rfl, rfl, rfl⟩

theorem UnderWay.journalFor (h : UnderWay l s t) (kind : BitVec 16) (key : Word) (body : List Byte) :
    UnderWay l s (Machine.journalFor (letterKey l) kind key body t) := by
  have hwaits := h.updLetter (fun r => { r with journalWait := true, waitSeq := t.journal.nextSeq }) fun _ => ⟨rfl, rfl, rfl⟩
  exact hwaits.of_eq (journalAdd_ports _ _ _ _) (congrArg Dev.letters (journalAdd_dev _ _ _ _))

theorem UnderWay.auditLetter (h : UnderWay l s t) {r : LetterRec} (hkey : r.key = letterKey l) (st : BitVec 16) :
    UnderWay l s (Machine.auditLetter r st t) := by
  unfold Machine.auditLetter
  split
  · rw [hkey]
    exact h.journalFor _ _ _
  · exact h

/-- A letter that waits for a press stays under way. -/
theorem UnderWay.wait (h : UnderWay l s t) (w : RoleWait) :
    UnderWay l s (presenceLight (t.updDev (fun d => { d with roleWaits := d.roleWaits ++ [w] }))) :=
  h.of_eq rfl rfl

theorem UnderWay.letter_isSome (h : UnderWay l s t) : (t.letter (letterKey l)).isSome = true := by
  obtain ⟨_, _, hletter, _⟩ := h
  exact Option.isSome_of_eq_some hletter

theorem UnderWay.closeRoles (h : UnderWay l s t) (test : OpenRole → Bool) (port : Nat) (reason : Byte) :
    UnderWay l s (Machine.closeRoles test port reason t) :=
  h.of_eq (closeRoles_ports test reason port t) (by rw [closeRoles_dev])

/-- The final receipt of a letter under way leaves with its status, results and train. -/
theorem UnderWay.sendFinal (h : UnderWay l s t) (st : BitVec 16) (rs : List Byte) (ls : List Line) :
    Answered l st rs ls s (Machine.sendFinal (letterKey l) st rs ls t) := by
  obtain ⟨hports, r, hletter, _, hplain⟩ := h
  refine .inl ⟨letter_sendFinal _ _ _ _ _, fun hopen => ?_⟩
  have hstatus : finalStatus r st = st := by
    by_cases hdone : st = stDone <;> simp [finalStatus, hdone, hplain]
  obtain ⟨n, hn⟩ := retryFor_state st t
  have hkey := letter_key hletter
  have hopen' : portOpen (retryFor st t).2 r.key.port := by
    rw [hn, hkey]
    unfold portOpen State.port at hopen ⊢
    rwa [State.updDev_ports, hports]
  simp only [Machine.sendFinal, hletter, hstatus]
  rw [sendReceipt_open _ _ hopen']
  exact ⟨_, List.mem_append_right _ (List.mem_singleton_self _), congrArg LetterKey.port hkey, congrArg LetterKey.id hkey,
    rfl, rfl, rfl, rfl⟩

/-- A letter under way ends with the status it is given. -/
theorem UnderWay.finishLetter (h : UnderWay l s t) (st : BitVec 16) (rs : List Byte) (ls : List Line) :
    Ends l st s (Machine.finishLetter (letterKey l) st rs ls t) := by
  refine ⟨rs, ls, ?_⟩
  obtain ⟨r, hletter, hlive, _⟩ := h.2
  have haudited := h.auditLetter (letter_key hletter) (finalStatus r st)
  simp only [Machine.finishLetter, hletter, hlive, Option.isSome_none, Bool.false_eq_true, if_false]
  split
  · obtain ⟨r', hletter', _⟩ := haudited.2
    refine .inr ⟨{ r' with finalStatus := some (st, rs, ls) }, ?_, rfl⟩
    rw [letter_updLetter _ _ _ (by intro; rfl), hletter']
    rfl
  · exact haudited.sendFinal st rs ls

/-- A letter that passes every check is under way (R350). -/
theorem Accepted.underWay {op : BitVec 16} {r : LetterRule} (h : Accepted op l r s) : UnderWay l s (entered op l r s) := by
  obtain ⟨_, _, _, hfly, _⟩ := h
  have hnew : s.dev.letters.find? (fun x => x.key == letterKey l) = none := by
    rw [State.inFlight, Bool.or_eq_false_iff] at hfly
    simpa using hfly.1
  have hentered : UnderWay l s (enterLetter op l r s) := by
    have htouched : (touchRole op l s).dev.letters = s.dev.letters ∧ (touchRole op l s).ports = s.ports := by
      unfold touchRole
      split <;> exact ⟨rfl, rfl⟩
    obtain ⟨hletters, hports⟩ := htouched
    refine ⟨hports, recordOf op l (audited op r), ?_, rfl, rfl⟩
    rw [State.letter, enterLetter, State.updDev_dev, hletters, List.find?_append, hnew]
    simp [recordOf]
  unfold entered leadLetter
  split
  · exact hentered.of_eq rfl rfl
  · exact hentered

end

/-! ## ROLE_OPEN and ROLE_CLOSE (R499 to R501, R505, R506) -/

/-- A ROLE_OPEN that enters flight restarts no idle time: it changes the list of letters alone (R499). -/
theorem entered_roleOpen (l : Letter) (r : LetterRule) (s : State) : entered opRoleOpen l r s =
    s.updDev (fun d => { d with letters := d.letters ++ [recordOf opRoleOpen l (audited opRoleOpen r)] }) := by
  have hgroup : bitsAt opRoleOpen 8 8 ≠ 1 := by decide
  rw [entered, leadLetter, if_neg hgroup, enterLetter, touchRole, if_pos (.inr rfl)]

/-- The state of an accepted ROLE_OPEN whose first step has begun. -/
def roleOpenBegun (l : Letter) (r : LetterRule) (s : State) : State := progress (letterKey l) (entered opRoleOpen l r s)

section
variable (l : Letter) (r : LetterRule) (s : State)

theorem progress_entered : progress (letterKey l) (entered opRoleOpen l r s) = roleOpenBegun l r s := rfl

/-- The first step of a ROLE_OPEN has changed the list of letters alone. -/
theorem roleOpenBegun_dev : (roleOpenBegun l r s).dev = { s.dev with letters := (roleOpenBegun l r s).dev.letters } := by
  rw [roleOpenBegun, entered_roleOpen]
  rfl

@[simp] theorem roleOpenBegun_roles : (roleOpenBegun l r s).dev.roles = s.dev.roles := by rw [roleOpenBegun_dev]
@[simp] theorem roleOpenBegun_roleWaits : (roleOpenBegun l r s).dev.roleWaits = s.dev.roleWaits := by rw [roleOpenBegun_dev]
@[simp] theorem roleOpenBegun_authSeq : (roleOpenBegun l r s).dev.authSeq = s.dev.authSeq := by rw [roleOpenBegun_dev]

@[simp] theorem roleOf_roleOpenBegun (q : Nat) (b : Bool) : (roleOpenBegun l r s).roleOf q b = s.roleOf q b :=
  roleOf_congr (roleOpenBegun_roles l r s) q b

@[simp] theorem authOk_roleOpenBegun : authOk l (roleOpenBegun l r s) = authOk l s := by
  rw [authOk, roleOpenBegun_authSeq, authOk]

theorem roleOf_entered_roleOpen (q : Nat) (b : Bool) : (entered opRoleOpen l r s).roleOf q b = s.roleOf q b := by
  rw [entered_roleOpen]
  rfl

end

theorem Accepted.roleOpenBegun_underWay {l : Letter} {r : LetterRule} {s : State} (h : Accepted opRoleOpen l r s) :
    UnderWay l s (roleOpenBegun l r s) := h.underWay.progress

section
variable (l : Letter) (s : State)

/-- A ROLE_OPEN of the installer ends at once where the role is open, and waits for a press where it is not. -/
theorem exec_roleOpenInstaller (h : Accepted opRoleOpen l (roleOpenRule l s) s) : exec (.roleOpenInstaller l) s =
    .next (if (s.roleOf l.port.val false).isSome then finishLetter (letterKey l) stDone [] [] (roleOpenBegun l (roleOpenRule l s) s)
      else presenceLight ((roleOpenBegun l (roleOpenRule l s) s).updDev (fun d => { d with roleWaits := d.roleWaits ++ [⟨letterKey l⟩] }))) := by
  change execRoleOpenInstaller l s = _
  simp only [execRoleOpenInstaller, receive_accepted _ _ _ _ _ h, roleOf_entered_roleOpen, progress_entered]

/-- A ROLE_OPEN of the maker ends at once where the role is open, and else as the authorisation says. -/
theorem exec_roleOpenMaker (h : Accepted opRoleOpen l (makerRule l s) s) : exec (.roleOpenMaker l) s =
    .next (if (s.roleOf l.port.val true).isSome then finishLetter (letterKey l) stDone [] [] (roleOpenBegun l (makerRule l s) s)
      else if authOk l s then finishLetter (letterKey l) stDone [] [] (takeAuth l (letterKey l) (roleOpenBegun l (makerRule l s) s))
      else finishLetter (letterKey l) 0x0205 [] [] (roleOpenBegun l (makerRule l s) s)) := by
  change execRoleOpenMaker l s = _
  simp only [execRoleOpenMaker, receive_accepted _ _ _ _ _ h, progress_entered, roleOf_roleOpenBegun, authOk_roleOpenBegun]

theorem exec_roleClose (h : Accepted opRoleClose l (roleCloseRule l) s) : exec (.roleClose l) s =
    .next (finishLetter (letterKey l) stDone [] [] (closeRoles (fun r => r.maker == (letterNum l 0 1 == 2)) l.port.val 1
      (progress (letterKey l) (entered opRoleClose l (roleCloseRule l) s)))) := by
  change execRoleClose l s = _
  rw [execRoleClose, receive_accepted _ _ _ _ _ h]

end

/-- An accepted authorisation opens the maker role of its letter's port, and of no other port, under its AUTH_SEQ (R506). -/
theorem takeAuth_opens (l : Letter) (k : LetterKey) (s : State) :
    ((takeAuth l k s).roleOf l.port.val true).isSome = true ∧
    (takeAuth l k s).dev.authSeq = BitVec.ofNat 64 (leAt (authBody l) 8 8) ∧
    ∀ q b, q ≠ l.port.val → (takeAuth l k s).roleOf q b = s.roleOf q b := by
  refine ⟨?_, ?_, fun q b hq => ?_⟩
  · exact congrArg Option.isSome (roleOf_openRole_same l.port.val ⟨true, _, _, _⟩ _)
  · rw [takeAuth, openRole_authSeq, journalFor, journalAdd_dev]
    rfl
  · rw [takeAuth, roleOf_openRole_other _ _ hq]
    exact roleOf_congr (congrArg Dev.roles (journalAdd_dev _ _ _ _)) q b

theorem UnderWay.takeAuth {l : Letter} {s t : State} (h : UnderWay l s t) :
    UnderWay l s (Machine.takeAuth l (letterKey l) t) := by
  have hseq : UnderWay l s (t.updDev (fun d => { d with authSeq := BitVec.ofNat 64 (leAt (authBody l) 8 8) })) := h.of_eq rfl rfl
  exact (hseq.journalFor _ _ _).of_eq rfl rfl

/-! ## The button, the timeouts and J7 (R499, R501, R505) -/

section
variable (s : State)

theorem exec_presencePress {w : RoleWait} {ws : List RoleWait} (h : s.dev.roleWaits = w :: ws) : exec .presencePress s =
    .next (presenceLight (finishLetter w.key stDone [] [] (openRole w.key.port.val ⟨false, s.dev.time, 0, 0⟩
      (s.updDev (fun d => { d with roleWaits := ws }))))) := by
  change execPresencePress s = _
  simp only [execPresencePress, h]

theorem exec_presenceTimeout {k : LetterKey} (h : s.dev.roleWaits.any (fun w => w.key == k) = true) :
    exec (.presenceTimeout k) s = .next (presenceLight (finishLetter k 0x0204 [] []
      (s.updDev (fun d => { d with roleWaits := d.roleWaits.filter (fun w => w.key != k) })))) := by
  change execPresenceTimeout k s = _
  rw [execPresenceTimeout, if_pos h]

theorem exec_roleIdleTimeout {port : Fin 48} {maker : Bool} {r : OpenRole} (h : s.roleOf port.val maker = some r)
    (hidle : 3600000000 ≤ (s.dev.time - r.lastUse).toNat) :
    exec (.roleIdleTimeout port maker) s = .next (closeRoles (fun x => x.maker == maker) port.val 2 s) := by
  change execRoleIdleTimeout port maker s = _
  simp only [execRoleIdleTimeout, h, if_pos hidle]

theorem exec_makerAuthExpiry {port : Fin 48} {r : OpenRole} (h : s.roleOf port.val true = some r)
    (hover : r.until_.toNat ≤ s.dev.time.toNat) :
    exec (.makerAuthExpiry port) s = .next (closeRoles (fun x => x.maker) port.val 5 s) := by
  change execMakerAuthExpiry port s = _
  simp only [execMakerAuthExpiry, h, if_pos hover]

theorem exec_j7Remove : exec .j7Remove s = .next ((List.range 48).foldl (fun s p => closeRoles (fun r => r.maker) p 4 s)
    (s.updDev (fun d => { d with j7 := false }))) := rfl

end

/-- Settles O44: each row that opens or closes a role is run once, and its clause is read off the open roles it leaves. -/
theorem rolesOpenAndClose : Obligations.RolesOpenAndClose := by
  intro l k port maker r w ws s
  refine ⟨?waits, ?installerOpen, ?makerOpen, ?press, ?timeout, ?maker, ?close, ?idle, ?expiry, rfl, ?removed⟩
  case waits =>
    intro h hclosed
    have hexec := exec_roleOpenInstaller l s h
    rw [hclosed, if_neg (by simp)] at hexec
    exact ⟨_, hexec, by simp, (h.roleOpenBegun_underWay.wait _).letter_isSome⟩
  case installerOpen =>
    intro h hopen
    have hexec := exec_roleOpenInstaller l s h
    rw [if_pos hopen] at hexec
    exact ⟨_, hexec, h.roleOpenBegun_underWay.finishLetter _ _ _, by simp, by simp⟩
  case makerOpen =>
    intro h hopen
    have hexec := exec_roleOpenMaker l s h
    rw [if_pos hopen] at hexec
    exact ⟨_, hexec, h.roleOpenBegun_underWay.finishLetter _ _ _, by simp⟩
  case press =>
    intro h
    refine ⟨_, exec_presencePress s h, ?_, ?_, fun q b hq => ?_⟩
    · simp
    · rw [roleOf_presenceLight, roleOf_finishLetter]
      exact roleOf_openRole_same _ ⟨false, s.dev.time, 0, 0⟩ _
    · rw [roleOf_presenceLight, roleOf_finishLetter, roleOf_openRole_other _ _ hq]
      rfl
  case timeout =>
    intro h
    exact ⟨_, exec_presenceTimeout s h, by simp, by simp⟩
  case maker =>
    intro h hclosed
    have hexec := exec_roleOpenMaker l s h
    rw [hclosed, if_neg (by simp)] at hexec
    refine ⟨_, hexec, fun hok => ?_, fun hbad => ?_⟩
    · obtain ⟨hrole, hseq, hothers⟩ := takeAuth_opens l (letterKey l) (roleOpenBegun l (makerRule l s) s)
      rw [if_pos hok]
      refine ⟨h.roleOpenBegun_underWay.takeAuth.finishLetter _ _ _, ?_, ?_, fun q b hq => ?_⟩
      · rwa [roleOf_finishLetter]
      · rwa [finishLetter_authSeq]
      · rw [roleOf_finishLetter, hothers q b hq, roleOf_roleOpenBegun]
    · rw [hbad, if_neg (by simp)]
      exact ⟨h.roleOpenBegun_underWay.finishLetter _ _ _, by simp, by simp⟩
  case close =>
    intro h
    refine ⟨_, exec_roleClose l s h, (h.underWay.progress.closeRoles _ _ _).finishLetter _ _ _, ?_⟩
    rw [roleOf_finishLetter]
    exact roleOf_closeRoles_closed _ _ _ _ fun _ hr => beq_iff_eq.2 hr
  case idle =>
    intro hrole hidle
    refine ⟨_, exec_roleIdleTimeout s hrole hidle, ?_, ?_⟩
    · exact roleOf_closeRoles_closed _ _ _ _ fun _ hr => beq_iff_eq.2 hr
    · exact roleOf_closeRoles_kept _ _ _ _ fun _ hr => by simp [hr]
  case expiry =>
    intro hrole hover
    refine ⟨_, exec_makerAuthExpiry s hrole hover, ?_, ?_⟩
    · exact roleOf_closeRoles_closed _ _ _ _ fun _ hr => hr
    · exact roleOf_closeRoles_kept _ _ _ _ fun _ hr => hr
  case removed =>
    refine ⟨_, exec_j7Remove s, closeAll_j7 _ _ _ _, fun q hq => ?_⟩
    exact roleOf_closeAll _ _ (fun _ hr => hr) q _ _ (.inl (List.mem_range.2 hq))

end Sys2Proof.Machine

/-! SUPPORT. The queue of commands: every operation of the model, and so every command, leaves it alone. One lemma per
operation, in the model's order, each from those of the operations it calls; the obligations on the queue follow. -/

namespace Sys2Proof.Machine

open Sys2Proof

/-- A command's outcome is a next state with the queue of `s`. -/
def Goes (s : State) (o : Out) : Prop := ∃ u, o = .next u ∧ u.pending = s.pending

theorem Goes.next {s u : State} (h : u.pending = s.pending) : Goes s (.next u) := ⟨u, rfl, h⟩

@[simp] theorem goes_next (s u : State) : Goes s (.next u) ↔ u.pending = s.pending := by simp [Goes]

theorem foldl_pending {α : Type} (f : State → α → State) (h : ∀ s a, (f s a).pending = s.pending) (as : List α)
    (s : State) : (as.foldl f s).pending = s.pending := by
  induction as generalizing s with
  | nil => rfl
  | cons a as ih => rw [List.foldl_cons, ih, h]

section
variable {α : Type} (as : List α) (s : State)

@[simp] theorem foldl_updTile_pending (t : α → TileId) (f : State → α → Tile → Tile) :
    (as.foldl (fun s a => s.updTile (t a) (f s a)) s).pending = s.pending :=
  foldl_pending _ (fun _ _ => State.updTile_pending _ _ _) as s

@[simp] theorem foldl_updField_pending (n : α → Nat) (f : State → α → FieldCtl → FieldCtl) :
    (as.foldl (fun s a => s.updField (n a) (f s a)) s).pending = s.pending :=
  foldl_pending _ (fun _ _ => State.updField_pending _ _ _) as s

@[simp] theorem foldl_updBlock_pending (n : α → Nat) (f : State → α → Block → Block) :
    (as.foldl (fun s a => s.updBlock (n a) (f s a)) s).pending = s.pending :=
  foldl_pending _ (fun _ _ => State.updBlock_pending _ _ _) as s

@[simp] theorem foldl_updStk_pending (n : α → Nat) (f : State → α → Stack → Stack) :
    (as.foldl (fun s a => s.updStk (n a) (f s a)) s).pending = s.pending :=
  foldl_pending _ (fun _ _ => State.updStk_pending _ _ _) as s

end

/-! ### Postcards -/

@[simp] theorem sendCard_pending (src : Nat) (c : Card) (s : State) : (sendCard src c s).pending = s.pending := rfl

@[simp] theorem cardArrives_pending (c : Card) (s : State) : (cardArrives c s).pending = s.pending := rfl

@[simp] theorem tileSends_pending (t : TileId) (c : Card) (s : State) : (tileSends t c s).pending = s.pending := rfl

@[simp] theorem tileSendsOrdinary_pending (t : TileId) (c : Card) (s : State) :
    (tileSendsOrdinary t c s).pending = s.pending := rfl

@[simp] theorem copyNote_pending (f : Nat) (c : Card) (s : State) : (copyNote f c s).pending = s.pending := rfl

@[simp] theorem sendFaultNote_pending (cause : BitVec 4) (wave : Byte) (t : TileId) (s : State) :
    (sendFaultNote cause wave t s).pending = s.pending := rfl

/-! ### Taking a tile's fault, and discarding a wave -/

@[simp] theorem takeFaultFor_pending (wave : Byte) (t : TileId) (f : TileFault) (pc : BitVec 12) (w : BitVec 64) (s : State) :
    (takeFaultFor wave t f pc w s).pending = s.pending := rfl

@[simp] theorem takeFaultAt_pending (t : TileId) (f : TileFault) (pc : BitVec 12) (w : BitVec 64) (s : State) :
    (takeFaultAt t f pc w s).pending = s.pending := rfl

@[simp] theorem takeFault_pending (t : TileId) (f : TileFault) (w : BitVec 64) (s : State) :
    (takeFault t f w s).pending = s.pending := rfl

/-! ### Issue -/

@[simp] theorem issue_pending (t : TileId) (w : BitVec 64) (f : Tile → Attempt) (s : State) :
    (issue t w f s).pending = s.pending := by
  fun_cases issue t w f s <;> simp

/-! ### Ownership of slab pages -/

@[simp] theorem tileExec_goes (i : Instr) (t : TileId) (f : Tile → Attempt) (s : State) : Goes s (tileExec i t f s) :=
  .next (issue_pending _ _ _ _)

/-! ### Ports, buffers and hop credits -/

@[simp] theorem hopFlit_pending (t : TileId) (p : Port) (vc : Nat) (f : Flit) (s : State) :
    (hopFlit t p vc f s).pending = s.pending := by
  unfold hopFlit
  dsimp only
  (repeat' split) <;> simp

@[simp] theorem popBuf_pending (t : TileId) (p : Port) (vc : Nat) (s : State) : (popBuf t p vc s).pending = s.pending := rfl

/-! ### Delivery -/

@[simp] theorem takeNetFault_pending (t : TileId) (f : TileFault) (p : Flit) (s : State) :
    (takeNetFault t f p s).pending = s.pending := by
  unfold takeNetFault
  split <;> simp

@[simp] theorem knockBlock_pending (t : TileId) (s : State) : (knockBlock t s).pending = s.pending := rfl

@[simp] theorem badArrival_pending (t : TileId) (f : Flit) (s : State) : (badArrival t f s).pending = s.pending := rfl

/-- A delivery leaves the queue of `s` as it is, whether it takes the parcel or holds it. -/
def Delivered.keeps (s : State) : Delivered → Prop
  | .taken u => u.pending = s.pending
  | .held u => u.pending = s.pending

@[simp] theorem keeps_taken (s u : State) : (Delivered.taken u).keeps s ↔ u.pending = s.pending := .rfl

@[simp] theorem keeps_held (s u : State) : (Delivered.held u).keeps s ↔ u.pending = s.pending := .rfl

theorem deliverHole_keeps (t : TileId) (f : Flit) (s : State) : (deliverHole t f s).keeps s := by
  unfold deliverHole
  dsimp only
  (repeat' split) <;> simp

theorem deliverLanding_keeps (t : TileId) (f : Flit) (i : Intrusion) (s : State) : (deliverLanding t f i s).keeps s := by
  fun_cases deliverLanding t f i s <;> simp

theorem deliverLocal_keeps (t : TileId) (f : Flit) (s : State) : (deliverLocal t f s).keeps s := by
  unfold deliverLocal
  split
  · exact deliverHole_keeps _ _ _
  · split
    · exact deliverLanding_keeps _ _ _ _
    · exact takeNetFault_pending _ _ _ _

/-! ### The journal -/

@[simp] theorem journalAdd_pending (kind : BitVec 16) (key : Word) (body : List Byte) (s : State) :
    (journalAdd kind key body s).pending = s.pending := by
  fun_cases journalAdd kind key body s <;> simp

/-! ### Platform events and the device state -/

@[simp] theorem raiseEvent_pending (e : PlatformEvent) (s : State) : (raiseEvent e s).pending = s.pending := by
  unfold raiseEvent
  split <;> simp

@[simp] theorem setDeviceState_pending (v : Byte) (s : State) : (setDeviceState v s).pending = s.pending := by
  unfold setDeviceState
  split <;> simp

/-! ### Letters and receipts -/

@[simp] theorem State.updLetter_pending (s : State) (k : LetterKey) (f : LetterRec → LetterRec) :
    (State.updLetter s k f).pending = s.pending := rfl

@[simp] theorem sendReceipt_pending (r : Receipt) (s : State) : (sendReceipt r s).pending = s.pending := by
  unfold sendReceipt
  split <;> simp

/-! ### Streams of a port -/

@[simp] theorem queueSlots_pending (p : Nat) (q : List (BitVec 4 × BitVec 704)) (s : State) :
    (queueSlots p q s).pending = s.pending := rfl

@[simp] theorem sendToward_pending (m : BitVec 4) (q : List (BitVec 4 × BitVec 704)) (s : State) :
    (sendToward m q s).pending = s.pending := by
  unfold sendToward
  split <;> simp

@[simp] theorem retryFor_pending (status : BitVec 16) (s : State) : (retryFor status s).2.pending = s.pending := by
  unfold retryFor
  split <;> simp

@[simp] theorem sendFinal_pending (k : LetterKey) (status : BitVec 16) (results : List Byte) (train : List Line) (s : State) :
    (sendFinal k status results train s).pending = s.pending := by
  unfold sendFinal
  split <;> simp

@[simp] theorem journalFor_pending (k : LetterKey) (kind : BitVec 16) (key : Word) (body : List Byte) (s : State) :
    (journalFor k kind key body s).pending = s.pending := by simp [journalFor]

@[simp] theorem auditLetter_pending (r : LetterRec) (status : BitVec 16) (s : State) :
    (auditLetter r status s).pending = s.pending := by
  unfold auditLetter
  split <;> simp

@[simp] theorem finishLetter_pending (k : LetterKey) (status : BitVec 16) (results : List Byte) (train : List Line) (s : State) :
    (finishLetter k status results train s).pending = s.pending := by
  unfold finishLetter
  dsimp only
  (repeat' split) <;> simp

@[simp] theorem foldl_finishLetter_pending (status : BitVec 16) (ks : List LetterKey) (s : State) :
    (ks.foldl (fun s k => finishLetter k status [] [] s) s).pending = s.pending :=
  foldl_pending _ (fun _ _ => finishLetter_pending _ _ _ _ _) ks s

@[simp] theorem touchLetter_pending (k : LetterKey) (status : BitVec 16) (s : State) :
    (touchLetter k status s).pending = s.pending := rfl

/-! ### ADAPT -/

@[simp] theorem clearAdapt_pending (n : Nat) (s : State) : (clearAdapt n s).pending = s.pending := rfl

/-! ### Waves -/

@[simp] theorem State.setWave_pending (s : State) (w : Byte) (v : Option Wave) : (State.setWave s w v).pending = s.pending := rfl

@[simp] theorem orderWave_pending (w : Byte) (o : BitVec 4) (s : State) : (orderWave w o s).pending = s.pending := rfl

@[simp] theorem restSession_pending (session : BitVec 16) (s : State) : (restSession session s).pending = s.pending := by
  fun_cases restSession session s <;> simp

@[simp] theorem invalidateSlots_pending (session : BitVec 16) (last : Int) (s : State) :
    (invalidateSlots session last s).pending = s.pending := by
  unfold invalidateSlots
  split
  · rfl
  · refine foldl_pending _ (fun _ _ => ?_) _ _
    exact foldl_pending _ (fun _ _ => by rfl) _ _

@[simp] theorem takeBack_pending (v : Wave) (s : State) : (takeBack v s).pending = s.pending := by
  unfold takeBack
  split <;> simp

@[simp] theorem endWave_pending (w : Byte) (status : BitVec 16) (body : List Byte) (s : State) :
    (endWave w status body s).pending = s.pending := by
  unfold endWave
  (repeat' split) <;> simp

@[simp] theorem replayWave_pending (w : Byte) (s : State) : (replayWave w s).pending = s.pending := by
  unfold replayWave
  (repeat' split) <;> simp

@[simp] theorem discardAll_pending (s : State) : (discardAll s).pending = s.pending := by
  refine foldl_pending _ (fun s e => ?_) _ _
  (repeat' split) <;> rfl

/-! ### Waking blocks -/

@[simp] theorem askWake_pending (b : Nat) (s : State) : (askWake b s).pending = s.pending := by
  unfold askWake
  split <;> simp

theorem onTile_pending (t : TileId) (f : State → State) (h : ∀ s, (f s).pending = s.pending) (s : State) :
    (onTile t f s).pending = s.pending := by
  unfold onTile
  split <;> simp [h]

@[simp] theorem wakeTiles_pending (ts : List TileId) (s : State) : (wakeTiles ts s).pending = s.pending := by
  refine foldl_pending _ (fun _ _ => ?_) _ _
  simp

/-! ### Starting a descriptor -/

@[simp] theorem execDescriptorStart_goes (t : TileId) (i : Intrusion) (s : State) : Goes s (execDescriptorStart t i s) := by
  fun_cases execDescriptorStart t i s <;> simp

/-! ### Running and retiring a descriptor -/

@[simp] theorem countExpert_pending (expert : BitVec 16) (f : ExpertCount → ExpertCount) (s : State) :
    (countExpert expert f s).pending = s.pending := rfl

@[simp] theorem countNotes_pending (es : List (BitVec 16)) (s : State) : (countNotes es s).pending = s.pending := by
  refine foldl_pending _ (fun _ _ => ?_) _ _
  rfl

@[simp] theorem execDescriptorRetire_goes (t : TileId) (k : Met (Fin 4)) (s : State) : Goes s (execDescriptorRetire t k s) := by
  fun_cases execDescriptorRetire t k s <;> simp

/-! ### CARD -/

@[simp] theorem cardExec_goes (i : Instr) (t : TileId) (ok : Tile → Bool) (card : Tile → Card) (s : State) :
    Goes s (cardExec i t ok card s) := by
  unfold cardExec
  split
  · exact .next rfl
  · exact tileExec_goes _ _ _ _

@[simp] theorem execCardBarrierArrive_goes (t : TileId) (f : CardOps) (s : State) :
    Goes s (execCardBarrierArrive t f s) := by simp [execCardBarrierArrive]

@[simp] theorem execCardUser_goes (t : TileId) (f : CardOps) (s : State) : Goes s (execCardUser t f s) := by simp [execCardUser]

/-! ### YIELD and HALT -/

@[simp] theorem execHalt_goes (t : TileId) (s : State) : Goes s (execHalt t s) := by
  unfold execHalt
  split <;> simp

/-! ### Knocks -/

@[simp] theorem startGenerator_pending (f : Nat) (s : State) : (startGenerator f s).pending = s.pending := rfl

@[simp] theorem agentKnock_pending (dclass : BitVec 3) (dest : BitVec 16) (reason : Byte) (s : State) :
    (agentKnock dclass dest reason s).pending = s.pending := by
  fun_cases agentKnock dclass dest reason s <;> simp

/-! ### Cards at a tile or at its block's node -/

@[simp] theorem latchRelease_pending (t : TileId) (id w : Byte) (s : State) : (latchRelease t id w s).pending = s.pending := by
  unfold latchRelease
  split <;> simp

@[simp] theorem deliverCard_pending (t : TileId) (c : Card) (s : State) : (deliverCard t c s).pending = s.pending := by
  fun_cases deliverCard t c s <;> simp

@[simp] theorem blockCard_pending (b : Nat) (c : Card) (s : State) : (blockCard b c s).pending = s.pending := by
  have hcards := foldl_pending (fun s t => deliverCard t c s) (fun _ _ => deliverCard_pending _ _ _)
  unfold blockCard
  dsimp only
  (repeat' split) <;> simp [hcards]

@[simp] theorem tileCard_pending (t : TileId) (c : Card) (s : State) : (tileCard t c s).pending = s.pending := by
  fun_cases tileCard t c s <;> simp

@[simp] theorem execSleepingBlockCard_goes (b : Fin 1024) (c : Card) (s : State) : Goes s (execSleepingBlockCard b c s) := by
  unfold execSleepingBlockCard
  split <;> simp

@[simp] theorem execKnock_goes (dclass : BitVec 3) (dest : BitVec 16) (reason : Byte) (s : State) :
    Goes s (execKnock dclass dest reason s) := by
  unfold execKnock
  (repeat' split) <;> simp

/-! ### WAVE_ORDER rows -/

@[simp] theorem execWaveOrderHold_goes (t : TileId) (w : Byte) (s : State) : Goes s (execWaveOrderHold t w s) := by
  refine .next ?_
  simp

@[simp] theorem execWaveOrderDiscard_goes (t : TileId) (w : Byte) (s : State) : Goes s (execWaveOrderDiscard t w s) := by
  refine .next ?_
  simp

@[simp] theorem execWaveOrderReplay_goes (t : TileId) (w : Byte) (s : State) : Goes s (execWaveOrderReplay t w s) := by
  refine .next ?_
  simp

@[simp] theorem execWaveOrderResume_goes (t : TileId) (w : Byte) (s : State) : Goes s (execWaveOrderResume t w s) := by
  refine .next ?_
  simp

/-! ### Fault notes at the Postmaster -/

@[simp] theorem suspend_pending (n : BitVec 16) (s : State) : (suspend n s).pending = s.pending := by
  fun_cases suspend n s <;> simp

@[simp] theorem takeNote_pending (cause : BitVec 4) (w : Byte) (source : BitVec 16) (s : State) :
    (takeNote cause w source s).pending = s.pending := by
  unfold takeNote
  (repeat' split) <;> simp

/-! ### Barriers -/

@[simp] theorem rootReport_pending (root : Nat) (id w : Byte) (mask : BitVec 64) (f : Nat) (s : State) :
    (rootReport root id w mask f s).pending = s.pending := by
  have hreleases (g : FieldCtl → FieldCtl) :=
    foldl_pending (fun s n => if bitAt mask n then s.updField n g else s) (fun s n => by split <;> rfl)
  unfold rootReport
  dsimp only
  (repeat' split) <;> simp [hreleases]

@[simp] theorem countArrival_pending (f : Nat) (id w : Byte) (s : State) : (countArrival f id w s).pending = s.pending := by
  fun_cases countArrival f id w s <;> simp

@[simp] theorem execBarrierArrive_goes (f : Fin 64) (id w : Byte) (s : State) : Goes s (execBarrierArrive f id w s) := by
  unfold execBarrierArrive
  split <;> simp

@[simp] theorem execBarrierRelease_goes (t : TileId) (id w : Byte) (s : State) : Goes s (execBarrierRelease t id w s) := by
  unfold execBarrierRelease
  split <;> simp

/-! ### User cards, fireflies and hop retries -/

@[simp] theorem execUser_goes (t : TileId) (payload : Word) (s : State) : Goes s (execUser t payload s) := by
  unfold execUser
  split <;> simp

@[simp] theorem execFireflySend_goes (t : TileId) (s : State) : Goes s (execFireflySend t s) := by
  unfold execFireflySend
  split <;> simp

@[simp] theorem execFirefly_goes (t : TileId) (w : Byte) (s : State) : Goes s (execFirefly t w s) := by
  unfold execFirefly
  split <;> simp

@[simp] theorem execPostcardHopRetry_goes (f : Fin 64) (s : State) : Goes s (execPostcardHopRetry f s) := by
  refine .next ?_
  rfl

/-! ### The field clock -/

@[simp] theorem writeClkTarget_pending (f : Nat) (v : Word) (s : State) : (writeClkTarget f v s).pending = s.pending := rfl

@[simp] theorem execFcClkTargetWrite_goes (f : Fin 64) (v : Word) (s : State) : Goes s (execFcClkTargetWrite f v s) := by
  refine .next ?_
  rfl

@[simp] theorem execVoltageReached_goes (f : Fin 64) (s : State) : Goes s (execVoltageReached f s) := by
  refine .next ?_
  rfl

@[simp] theorem execDrowseCalibration_goes (f : Fin 64) (s : State) : Goes s (execDrowseCalibration f s) := by
  refine .next ?_
  rfl

/-! ### Idle blocks -/

@[simp] theorem execGateEntry_goes (b : Fin 1024) (s : State) : Goes s (execGateEntry b s) := by
  fun_cases execGateEntry b s <;> simp

@[simp] theorem wakeGated_pending (b : Nat) (s : State) : (wakeGated b s).pending = s.pending := by
  fun_cases wakeGated b s <;> simp

@[simp] theorem execGatedWake_goes (b : Fin 1024) (s : State) : Goes s (execGatedWake b s) := by
  refine .next ?_
  simp

@[simp] theorem startShutdown_pending (b : Nat) (into : PState) (s : State) : (startShutdown b into s).pending = s.pending := rfl

@[simp] theorem execChrysalisDelayExpiry_goes (b : Fin 1024) (s : State) : Goes s (execChrysalisDelayExpiry b s) := by
  unfold execChrysalisDelayExpiry
  split <;> simp

@[simp] theorem execChrysalisEntry_goes (b : Fin 1024) (s : State) : Goes s (execChrysalisEntry b s) := by
  fun_cases execChrysalisEntry b s <;> simp

@[simp] theorem updTiles_pending (ts : List TileId) (f : Tile → Tile) (s : State) : (updTiles ts f s).pending = s.pending :=
  foldl_pending _ (fun _ _ => by rfl) _ _

@[simp] theorem settleBlock_pending (b : Nat) (into : PState) (s : State) : (settleBlock b into s).pending = s.pending := by
  unfold settleBlock
  split <;> simp

@[simp] theorem pendWake_pending (b : Fin 1024) (s : State) : (pendWake b s).pending = s.pending := rfl

@[simp] theorem execShutdownComplete_goes (b : Fin 1024) (s : State) : Goes s (execShutdownComplete b s) := by
  unfold execShutdownComplete
  dsimp only
  (repeat' split) <;> simp

@[simp] theorem wakeRequest_pending (b : Fin 1024) (s : State) : (wakeRequest b s).pending = s.pending := by
  unfold wakeRequest
  dsimp only
  (repeat' split) <;> simp

@[simp] theorem execWakeRequest_goes (b : Fin 1024) (s : State) : Goes s (execWakeRequest b s) := by
  refine .next ?_
  simp

/-! ### Admission -/

@[simp] theorem takeWake_pending (b : Fin 1024) (s : State) : (takeWake b s).pending = s.pending := rfl

@[simp] theorem execWakeAdmission_goes (b : Fin 1024) (s : State) : Goes s (execWakeAdmission b s) := by
  fun_cases execWakeAdmission b s <;> simp

@[simp] theorem admitRun_pending (f n : Nat) (s : State) : (admitRun f n s).pending = s.pending := by
  fun_induction admitRun f n s <;> simp_all

@[simp] theorem execAdmissionRetry_goes (f : Fin 64) (s : State) : Goes s (execAdmissionRetry f s) := by
  unfold execAdmissionRetry
  split <;> simp

@[simp] theorem admitAt200_pending (f n : Nat) (bs : List (Fin 1024)) (s : State) : (admitAt200 f n bs s).pending = s.pending := by
  fun_induction admitAt200 f n bs s <;> simp_all

@[simp] theorem execAdmissionDeferralExpiry_goes (f : Fin 64) (s : State) : Goes s (execAdmissionDeferralExpiry f s) := by
  have hwakes := foldl_pending (fun s c => takeWake c s) (fun _ _ => takeWake_pending _ _)
  unfold execAdmissionDeferralExpiry
  dsimp only
  (repeat' split) <;> simp [hwakes]

@[simp] theorem endRamp_pending (b : Fin 1024) (s : State) : (endRamp b s).pending = s.pending := rfl

@[simp] theorem releaseNode_pending (b : Nat) (s : State) : (releaseNode b s).pending = s.pending := by
  unfold releaseNode
  dsimp only
  refine (foldl_pending _ (fun _ c => ?_) _ _).trans (State.updBlock_pending _ _ _)
  exact foldl_pending _ (fun _ _ => deliverCard_pending _ _ _) _ _

@[simp] theorem execRampComplete_goes (b : Fin 1024) (s : State) : Goes s (execRampComplete b s) := by
  unfold execRampComplete
  dsimp only
  (repeat' split) <;> simp

/-! ### Orders of the field controller -/

@[simp] theorem darkBlock_pending (b : Nat) (s : State) : (darkBlock b s).pending = s.pending := by
  simp only [darkBlock, updTiles_pending, State.updField_pending, State.updBlock_pending]

@[simp] theorem execBsPorderWake_goes (b : Fin 1024) (s : State) : Goes s (execBsPorderWake b s) := by
  refine .next ?_
  simp

@[simp] theorem execBsPorderChrysalis_goes (b : Fin 1024) (s : State) : Goes s (execBsPorderChrysalis b s) := by
  unfold execBsPorderChrysalis
  split <;> simp

@[simp] theorem execBsPorderDiapause_goes (b : Fin 1024) (s : State) : Goes s (execBsPorderDiapause b s) := by
  fun_cases execBsPorderDiapause b s <;> simp

@[simp] theorem execBsPorderDark_goes (b : Fin 1024) (s : State) : Goes s (execBsPorderDark b s) := by
  unfold execBsPorderDark
  split <;> simp

/-! ### The generator -/

@[simp] theorem execGeneratorStop_goes (f : Fin 64) (s : State) : Goes s (execGeneratorStop f s) := by
  fun_cases execGeneratorStop f s <;> simp

/-! ### Losing power -/

@[simp] theorem writeWear_pending (s : State) : (writeWear s).pending = s.pending := by simp [writeWear]

@[simp] theorem execWearLedgerWrite_goes (s : State) : Goes s (execWearLedgerWrite s) := by
  refine .next ?_
  simp

@[simp] theorem commitAll_pending (s : State) : (commitAll s).pending = s.pending := rfl

@[simp] theorem railsOff_pending (s : State) : (railsOff s).pending = s.pending := rfl

@[simp] theorem shutdownRecord_pending (cause : Byte) (s : State) :
    (shutdownRecord cause s).pending = s.pending := by simp [shutdownRecord]

@[simp] theorem shutDown_pending (cause : Byte) (s : State) : (shutDown cause s).pending = s.pending := by simp [shutDown]

/-! ### The input -/

@[simp] theorem execPrechargeMate_goes (straps : BitVec 4) (s : State) : Goes s (execPrechargeMate straps s) := by
  refine .next ?_
  rfl

@[simp] theorem execPrechargeComplete_goes (s : State) : Goes s (execPrechargeComplete s) := by
  unfold execPrechargeComplete
  split <;> simp

@[simp] theorem execPresenceMate_goes (s : State) : Goes s (execPresenceMate s) := by
  refine .next ?_
  rfl

@[simp] theorem execPresenceOpen_goes (s : State) : Goes s (execPresenceOpen s) := by
  unfold execPresenceOpen
  split <;> simp

@[simp] theorem execInputOutOfRange_goes (vin : BitVec 16) (s : State) : Goes s (execInputOutOfRange vin s) := by
  unfold execInputOutOfRange
  split <;> simp

/-! ### Segments and phases -/

@[simp] theorem failSegments_pending (b : Nat) (m : Byte) (s : State) : (failSegments b m s).pending = s.pending := by
  unfold failSegments
  split
  · exact foldl_pending _ (fun _ _ => by rfl) _ _
  · rfl

@[simp] theorem execSegmentCheck_goes (b : Fin 1024) (failed : Byte) (s : State) : Goes s (execSegmentCheck b failed s) := by
  fun_cases execSegmentCheck b failed s <;> simp

@[simp] theorem execPowerControllerTakeover_goes (s : State) : Goes s (execPowerControllerTakeover s) := by
  unfold execPowerControllerTakeover
  split <;> simp

/-! ### Droops -/

@[simp] theorem execRailDroop_goes (f : Fin 64) (cycles : BitVec 16) (ended : Bool) (s : State) :
    Goes s (execRailDroop f cycles ended s) := by
  refine .next ?_
  rfl

@[simp] theorem execDroopEventLog_goes (b : Fin 1024) (s : State) : Goes s (execDroopEventLog b s) := by
  refine .next ?_
  simp

/-! ### The power budget -/

@[simp] theorem updFields_pending (g : FieldCtl → FieldCtl) (s : State) : (updFields g s).pending = s.pending :=
  foldl_pending _ (fun _ _ => by rfl) _ _

@[simp] theorem lowerAll_pending (s : State) : (lowerAll s).pending = s.pending := updFields_pending _ _

@[simp] theorem endBoost_pending (s : State) : (endBoost s).pending = s.pending := by
  unfold endBoost
  split <;> simp

@[simp] theorem execPowerMeasure_goes (watts vin : BitVec 16) (s : State) : Goes s (execPowerMeasure watts vin s) := by
  unfold execPowerMeasure
  dsimp only
  (repeat' split) <;> simp

@[simp] theorem execPeakCreditExhausted_goes (s : State) : Goes s (execPeakCreditExhausted s) := by
  unfold execPeakCreditExhausted
  split <;> simp

/-! ### Current reporting -/

@[simp] theorem execCurrentSample_goes (fieldMa : List (Fin 64 × BitVec 32)) (blockMa : List (Fin 1024 × BitVec 16)) (s : State) :
    Goes s (execCurrentSample fieldMa blockMa s) := by simp [execCurrentSample]

@[simp] theorem execCurrentRecord_goes (record : List Line) (s : State) : Goes s (execCurrentRecord record s) := by
  refine .next ?_
  rfl

/-! ### Refresh -/

@[simp] theorem execSlabRefreshWindow_goes (t : TileId) (freeSlots : BitVec 7) (corrected : Fin 3) (s : State) :
    Goes s (execSlabRefreshWindow t freeSlots corrected s) := by
  unfold execSlabRefreshWindow
  split <;> simp

/-! ### Block readings -/

@[simp] theorem execDoubleRefreshEnd_goes (b : Fin 1024) (s : State) : Goes s (execDoubleRefreshEnd b s) := by
  unfold execDoubleRefreshEnd
  split <;> simp

@[simp] theorem takeTjmax_pending (f : Nat) (s : State) : (takeTjmax f s).pending = s.pending := State.updField_pending _ _ _

@[simp] theorem journalSensors_pending (b : Nat) (old new : Block) (s : State) :
    (journalSensors b old new s).pending = s.pending := by
  unfold journalSensors
  split <;> simp

@[simp] theorem hardShutdown_pending (b : Nat) (s : State) : (hardShutdown b s).pending = s.pending := by simp [hardShutdown]

@[simp] theorem execSensorSample_goes (b : Fin 1024) (diode ring model : Option Byte) (s : State) :
    Goes s (execSensorSample b diode ring model s) := by
  unfold execSensorSample
  dsimp only
  (repeat' split) <;> simp

@[simp] theorem execThermalLimitStep_goes (f : Fin 64) (s : State) : Goes s (execThermalLimitStep f s) := by
  refine .next ?_
  rfl

@[simp] theorem execSensorSuspect_goes (b : Fin 1024) (s : State) : Goes s (execSensorSuspect b s) := by
  refine .next ?_
  rfl

@[simp] theorem execSensorModelCompare_goes (b : Fin 1024) (s : State) : Goes s (execSensorModelCompare b s) := by
  fun_cases execSensorModelCompare b s <;> simp

/-! ### Coolant -/

@[simp] theorem execMeterSuspect_goes (s : State) : Goes s (execMeterSuspect s) := by
  fun_cases execMeterSuspect s <;> simp

@[simp] theorem execOutletTermStep_goes (s : State) : Goes s (execOutletTermStep s) := by
  refine .next ?_
  rfl

@[simp] theorem execFlowAlarmClear_goes (s : State) : Goes s (execFlowAlarmClear s) := by
  unfold execFlowAlarmClear
  split <;> simp

/-! ### Thermal records -/

@[simp] theorem execThermalRecord_goes (s : State) : Goes s (execThermalRecord s) := by
  refine .next ?_
  rfl

/-! ### Acceptance, refusal and the bridge -/

@[simp] theorem refuseBare_pending (op : BitVec 16) (l : Letter) (status : BitVec 16) (s : State) :
    (refuseBare op l status s).pending = s.pending := by simp [refuseBare]

@[simp] theorem touchRole_pending (op : BitVec 16) (l : Letter) (s : State) : (touchRole op l s).pending = s.pending := by
  unfold touchRole
  split <;> simp

@[simp] theorem enterLetter_pending (op : BitVec 16) (l : Letter) (r : LetterRule) (s : State) :
    (enterLetter op l r s).pending = s.pending := by simp [enterLetter]

@[simp] theorem forwardLetter_pending (op : BitVec 16) (l : Letter) (s : State) : (forwardLetter op l s).pending = s.pending := by
  fun_cases forwardLetter op l s <;> simp

/-! ### A split model -/

@[simp] theorem leadLetter_pending (op : BitVec 16) (l : Letter) (s : State) : (leadLetter op l s).pending = s.pending := by
  unfold leadLetter
  split <;> simp

/-- A letter leaves the queue alone where its action does. -/
theorem receive_pending (op : BitVec 16) (l : Letter) (r : LetterRule) (act : LetterKey → State → State)
    (h : ∀ k s, (act k s).pending = s.pending) (s : State) : (receive op l r act s).pending = s.pending := by
  fun_cases receive op l r act s <;> simp [h]

@[simp] theorem progress_pending (k : LetterKey) (s : State) : (progress k s).pending = s.pending := rfl

/-! ### Rows of their own -/

@[simp] theorem execLetterCrcFailure_goes (opcode : BitVec 16) (l : Letter) (s : State) :
    Goes s (execLetterCrcFailure opcode l s) := by
  unfold execLetterCrcFailure
  split <;> simp

@[simp] theorem execLetterReservedOpcode_goes (opcode : BitVec 16) (l : Letter) (s : State) :
    Goes s (execLetterReservedOpcode opcode l s) := by
  fun_cases execLetterReservedOpcode opcode l s <;> simp

@[simp] theorem execLetterForward_goes (opcode : BitVec 16) (l : Letter) (s : State) : Goes s (execLetterForward opcode l s) := by
  fun_cases execLetterForward opcode l s <;> simp

@[simp] theorem sendAccepted_pending (r : LetterRec) (s : State) :
    (sendAccepted r s).pending = s.pending := by simp [sendAccepted]

@[simp] theorem sendInterim_pending (k : LetterKey) (train : List Line) (s : State) :
    (sendInterim k train s).pending = s.pending := by
  unfold sendInterim
  (repeat' split) <;> simp

@[simp] theorem execAcceptedReceipt_goes (k : LetterKey) (s : State) : Goes s (execAcceptedReceipt k s) := by
  fun_cases execAcceptedReceipt k s <;> simp

/-! ### Quotas and residence -/

@[simp] theorem abandonAdapt_pending (n : Nat) (s : State) : (abandonAdapt n s).pending = s.pending := by
  unfold abandonAdapt
  split <;> simp

@[simp] theorem startPark_pending (n : Nat) (s : State) : (startPark n s).pending = s.pending := by simp [startPark]

@[simp] theorem autoPark_pending (n : Nat) (t : BitVec 12) (s : State) : (autoPark n t s).pending = s.pending := by
  unfold autoPark
  split <;> simp

/-! ### Frames as lines -/

@[simp] theorem placeBody_pending (t : TileId) (p head : Nat) (tenant : BitVec 12) (entry : BitVec 16) (ls : List Line) (s : State) :
    (placeBody t p head tenant entry ls s).pending = s.pending := rfl

/-! ### The trail -/

@[simp] theorem sealTag_pending (tenant : BitVec 12) (s : State) : (sealTag tenant s).2.pending = s.pending := by
  unfold sealTag
  dsimp only
  (repeat' split) <;> simp

@[simp] theorem supersede_pending (n : Nat) (f : FolioRef) (s : State) : (supersede n f s).pending = s.pending := by
  unfold supersede
  split <;> simp

@[simp] theorem writeRecord_pending (n : Nat) (tenant : BitVec 12) (body : List Line) (upto : Nat) (f : FolioRef) (s : State) :
    (writeRecord n tenant body upto f s).2.pending = s.pending := by
  unfold writeRecord
  (repeat' split) <;> simp

@[simp] theorem writeTrail_pending (tenant : BitVec 12) (body : List Line) (r : TrailRec) (s : State) :
    (writeTrail tenant body r s).2.pending = s.pending := by
  unfold writeTrail
  split <;> simp

@[simp] theorem flushTrail_pending (n : Nat) (last : Int) (s : State) : (flushTrail n last s).pending = s.pending := by
  have hfolios (fs : List FolioRef) (f : List FolioRef × State → FolioRef → List FolioRef × State)
      (hf : ∀ a r, (f a r).2.pending = a.2.pending) (a : List FolioRef × State) : (fs.foldl f a).2.pending = a.2.pending := by
    induction fs generalizing a with
    | nil => rfl
    | cons r fs ih => rw [List.foldl_cons, ih, hf]
  simp [flushTrail, hfolios]

/-! ### Releasing frames -/

@[simp] theorem releaseFolio_pending (n : Nat) (f : FolioRef) (s : State) : (releaseFolio n f s).pending = s.pending := by
  fun_cases releaseFolio n f s <;> simp

@[simp] theorem releaseAdapter_pending (n : Nat) (s : State) : (releaseAdapter n s).pending = s.pending := by
  unfold releaseAdapter
  split
  · rfl
  · exact foldl_pending _ (fun _ _ => by rfl) _ _

@[simp] theorem releaseFrames_pending (n : Nat) (s : State) : (releaseFrames n s).pending = s.pending := by
  have hfolios := foldl_pending (fun s f => releaseFolio n f s) (fun _ _ => releaseFolio_pending _ _ _)
  simp [releaseFrames, hfolios]

@[simp] theorem dropSealing_pending (n : Nat) (s : State) : (dropSealing n s).pending = s.pending :=
  foldl_pending _ (fun _ _ => by rfl) _ _

/-! ### Pages of their own: STATISTICS and ADAPTER -/

theorem holdScores_pending {n : Nat} {tenant : BitVec 12} {t : TileId} {page : Nat} {ws : List Line} {s u : State}
    (h : holdScores n tenant t page ws s = some u) : u.pending = s.pending := by
  obtain ⟨x, -, rfl⟩ := Option.map_eq_some_iff.1 h
  rfl

theorem firstPage_pending {entry : Word} {s : State} {ts : List TileId} {r : TileId × Nat × State}
    (h : firstPage entry s ts = some r) : r.2.2.pending = s.pending := by
  induction ts with
  | nil => cases h
  | cons t ts ih =>
    unfold firstPage at h
    split at h
    · cases h; rfl
    · exact ih h

theorem takePages_pending {entry : Word} {ts : List TileId} {n : Nat} {s : State} {r : List (TileId × Nat) × State}
    (h : takePages entry ts n s = some r) : r.2.pending = s.pending := by
  induction n generalizing s r with
  | zero => cases h; rfl
  | succ n ih =>
    unfold takePages at h
    split at h
    · cases h
    · next hfirst =>
      obtain ⟨q, hq, rfl⟩ := Option.map_eq_some_iff.1 h
      exact (ih hq).trans (firstPage_pending hfirst)

@[simp] theorem fillPages_pending (ls : List Line) (ps : List (TileId × Nat)) (s : State) :
    (fillPages ls ps s).pending = s.pending := foldl_pending _ (fun _ _ => by rfl) _ _

theorem residentAdapter_pending {n : Nat} {s u : State} (h : residentAdapter n s = some u) : u.pending = s.pending := by
  unfold residentAdapter at h
  dsimp only at h
  split at h
  · cases h; rfl
  · split at h
    · cases h; rfl
    · obtain ⟨r, hr, rfl⟩ := Option.map_eq_some_iff.1 h
      simp [takePages_pending hr]

/-! ### Resealing -/

@[simp] theorem resealFolio_pending (tenant : BitVec 12) (old : Nat) (f : FolioRef) (s : State) :
    (resealFolio tenant old f s).2.pending = s.pending := by
  unfold resealFolio
  split <;> simp

@[simp] theorem resealDead_pending (tenant : BitVec 12) (old : Nat) (d : DeadLetter) (s : State) :
    (resealDead tenant old d s).2.pending = s.pending := by
  unfold resealDead
  split <;> simp

@[simp] theorem resealTrail_pending (tenant : BitVec 12) (old : Nat) (r : TrailRec) (s : State) :
    (resealTrail tenant old r s).2.pending = s.pending := by
  unfold resealTrail
  split <;> simp

theorem mapState_pending {α : Type} (f : α → State → α × State) (h : ∀ a s, (f a s).2.pending = s.pending) (as : List α)
    (s : State) : (mapState f as s).2.pending = s.pending := by
  induction as generalizing s with
  | nil => rfl
  | cons a as ih => exact (ih _).trans (h a s)

@[simp] theorem resealSession_pending (tenant : BitVec 12) (old n : Nat) (s : State) :
    (resealSession tenant old n s).pending = s.pending := by
  have hfolios := mapState_pending (resealFolio tenant old) (resealFolio_pending tenant old)
  have hdead := mapState_pending (resealDead tenant old) (resealDead_pending tenant old)
  unfold resealSession
  dsimp only
  split <;> simp [hfolios, hdead]

/-! ### A session's folios -/

@[simp] theorem keepFolio_pending (n : Nat) (g : Stage) (old f : FolioRef) (k : Frame) (s : State) :
    (keepFolio n g old f k s).pending = s.pending := by simp [keepFolio]

theorem putFolio_pending {n : Nat} {g : Stage} {f : FolioRef} {k : Frame} {s u : State} (h : putFolio n g f k s = some u) :
    u.pending = s.pending := by
  unfold putFolio at h
  dsimp only at h
  split at h
  · cases h; simp
  · split at h
    · cases h; simp
    · obtain ⟨c, -, rfl⟩ := Option.map_eq_some_iff.1 h
      simp

theorem putFolios_pending {n : Nat} {g : Stage} {fs : List FolioRef} {ks : List Frame} {s u : State}
    (h : putFolios n g fs ks s = some u) : u.pending = s.pending := by
  fun_induction putFolios n g fs ks s with
  | case1 fs s =>
    cases h
    exact foldl_pending _ (fun s f => by simp) _ _
  | case2 => cases h
  | case3 _ _ _ _ _ hput ih => exact (ih h).trans (putFolio_pending hput)
  | case4 => cases h
  | case5 _ _ _ _ _ _ hput ih => exact (ih h).trans (putFolio_pending hput)

/-! ### Compaction -/

@[simp] theorem trimDead_pending (n : Nat) (layer : BitVec 16) (more fuel : Nat) (s : State) :
    (trimDead n layer more fuel s).pending = s.pending := by
  fun_induction trimDead n layer more fuel s <;> simp_all

@[simp] theorem writeDead_pending (n : Nat) (g : Stage) (k : Frame) (s : State) :
    (writeDead n g k s).pending = s.pending := by simp [writeDead]

theorem compactLayer_pending {n : Nat} {g : Stage} {s u : State} (h : compactLayer n g s = some u) : u.pending = s.pending := by
  unfold compactLayer at h
  dsimp only at h
  split at h
  · cases h
  · next hput =>
    have hfirst := putFolios_pending hput
    have hdead (c : Bool) (k : Frame) (t : State) : (if c then writeDead n g k t else t).pending = t.pending := by
      cases c <;> simp
    rw [hdead] at hfirst
    split at h
    · cases h; exact hfirst
    · exact (putFolio_pending h).trans hfirst

@[simp] theorem execCompactionStep_goes (session : BitVec 16) (layer : BitVec 16) (s : State) :
    Goes s (execCompactionStep session layer s) := by
  unfold execCompactionStep
  dsimp only
  split
  · exact .next rfl
  · split
    · split
      · next hdone => exact .next (compactLayer_pending hdone)
      · exact .next (autoPark_pending _ _ _)
    · exact .next rfl

/-! ### Restoring dead-letter positions -/

@[simp] theorem bumpFrame_pending (g : Stage) (f : FolioRef) (by_ : Word) (s : State) :
    (bumpFrame g f by_ s).pending = s.pending := by
  unfold bumpFrame
  split <;> simp

theorem restoreLayer_pending {n first last : Nat} {g : Stage} {s : State} {r : List Nat × State}
    (h : restoreLayer n first last g s = some r) : r.2.pending = s.pending := by
  unfold restoreLayer at h
  dsimp only at h
  split at h
  · cases h; rfl
  · obtain ⟨u, hu, rfl⟩ := Option.map_eq_some_iff.1 h
    refine (putFolios_pending hu).trans ?_
    rw [State.updSession_pending, State.updDev_pending]
    exact foldl_pending _ (fun _ _ => bumpFrame_pending _ _ _ _) _ _

theorem restoreAll_pending {n first last : Nat} {gs : List Stage} {c : List Nat} {s : State} {r : List Nat × State}
    (h : restoreAll n first last gs c s = some r) : r.2.pending = s.pending := by
  fun_induction restoreAll n first last gs c s with
  | case1 => cases h; rfl
  | case2 => cases h
  | case3 _ _ _ _ _ hlayer ih => exact (ih h).trans (restoreLayer_pending hlayer)

/-! ### New frames and sealing -/

@[simp] theorem openFrame_pending (n : Nat) (g : Stage) (s : State) : (openFrame n g s).pending = s.pending := by
  fun_cases openFrame n g s
  case case1 => rfl
  case case5 hadapter _ _ _ _ =>
    exact (State.updSession_pending _ _ _).trans ((placeBody_pending _ _ _ _ _ _ _).trans (residentAdapter_pending hadapter))
  all_goals exact autoPark_pending _ _ _

@[simp] theorem targetFrame_pending (n : Nat) (g : Stage) (s : State) : (targetFrame n g s).pending = s.pending := by
  fun_cases targetFrame n g s <;> simp

@[simp] theorem execFrameAllocation_goes (session layer : BitVec 16) (sealing : Bool) (s : State) :
    Goes s (execFrameAllocation session layer sealing s) := by
  fun_cases execFrameAllocation session layer sealing s <;> simp

@[simp] theorem sealFolio_pending (n : Nat) (g : Stage) (f : FolioRef) (k : Frame) (c : TileId × Nat × Nat) (s : State) :
    (sealFolio n g f k c s).pending = s.pending := by simp [sealFolio]

@[simp] theorem sealHere_pending (n : Nat) (g : Stage) (t : TileId) (f : FolioRef) (k : Frame) (s : State) :
    (sealHere n g t f k s).pending = s.pending := by simp [sealHere]

@[simp] theorem execFolioSealing_goes (t : TileId) (frame : BitVec 16) (s : State) : Goes s (execFolioSealing t frame s) := by
  fun_cases execFolioSealing t frame s <;> simp

/-! ### At a commit -/

@[simp] theorem dropEmpty_pending (n : Nat) (s : State) : (dropEmpty n s).pending = s.pending := by
  refine foldl_pending _ (fun s f => ?_) _ _
  (repeat' split) <;> simp

/-! ### The trail and its keeper -/

@[simp] theorem execTrailWriteBehind_goes (session : BitVec 16) (s : State) : Goes s (execTrailWriteBehind session s) := by
  fun_cases execTrailWriteBehind session s <;> simp

@[simp] theorem sendRecord_pending (n : Nat) (tenant : BitVec 12) (kind : Byte) (body : List Line) (s : State) :
    (sendRecord n tenant kind body s).2.pending = s.pending := by
  unfold sendRecord
  split <;> simp

@[simp] theorem execKeeperLagAlarm_goes (s : State) : Goes s (execKeeperLagAlarm s) := by
  unfold execKeeperLagAlarm
  split <;> simp

/-! ### Lodging at load -/

@[simp] theorem streamExtent_pending (e : LodgeEntry) (stage : Nat) (s : State) :
    (streamExtent e stage s).pending = s.pending := by
  unfold streamExtent
  split
  · rfl
  · exact foldl_pending _ (fun _ _ => by rfl) _ _

@[simp] theorem relodge_pending (ts : List TileId) (s : State) : (relodge ts s).pending = s.pending := by
  unfold relodge
  split
  · rfl
  · refine foldl_pending _ (fun s e => foldl_pending _ (fun s i => ?_) _ _) _ _
    dsimp only
    split <;> simp

@[simp] theorem lodgePinned_pending (s : State) (e : LodgeEntry) : (lodgePinned s e).pending = s.pending := by
  fun_cases lodgePinned s e <;> simp

@[simp] theorem loadLodging_pending (s : State) : (loadLodging s).pending = s.pending := by
  unfold loadLodging
  split
  · rfl
  · exact foldl_pending _ lodgePinned_pending _ _

/-! ### The load -/

@[simp] theorem installPlacement_pending (p : Placement) (ts : List TileId) (load : TileId → Tile → Tile) (s : State) :
    (installPlacement p ts load s).pending = s.pending := by
  unfold installPlacement
  dsimp only
  rw [loadLodging_pending, State.updDev_pending, foldl_updField_pending, foldl_updTile_pending, wakeTiles_pending]

@[simp] theorem sealAll_pending (s : State) : (sealAll s).pending = s.pending := by
  refine foldl_pending _ (fun _ _ => ?_) _ _
  simp

@[simp] theorem takeProfile_pending (s : State) : (takeProfile s).pending = s.pending := by
  unfold takeProfile
  dsimp only
  (repeat' split) <;> simp

@[simp] theorem forgetFrames_pending (s : State) : (forgetFrames s).pending = s.pending := rfl

@[simp] theorem clearTiles_pending (s : State) : (clearTiles s).pending = s.pending := rfl

@[simp] theorem installImage_pending (g w : Image) (s : State) :
    (installImage g w s).pending = s.pending := by simp [installImage]

@[simp] theorem cancelBuild_pending (s : State) : (cancelBuild s).pending = s.pending :=
  foldl_pending _ (fun _ _ => by rfl) _ _

@[simp] theorem advanceStop_pending (s : State) : (advanceStop s).pending = s.pending := by
  unfold advanceStop
  split
  · exact foldl_pending _ (fun _ _ => by simp) _ _
  · rfl

@[simp] theorem releaseHold_pending (s : State) : (releaseHold s).pending = s.pending := by
  unfold releaseHold
  (repeat' split) <;> simp

@[simp] theorem advanceLoad_pending (s : State) : (advanceLoad s).pending = s.pending := by
  have hpark := foldl_pending (fun s (e : Nat × Session) => startPark e.1 s) (fun _ _ => startPark_pending _ _)
  unfold advanceLoad
  dsimp only
  (repeat' split) <;> simp [hpark]

/-! ### Letters that end with a state change -/

@[simp] theorem endSessionLetter_pending (k : LetterKey) (code : Byte) (status : BitVec 16) (s : State) :
    (endSessionLetter k code status s).pending = s.pending := by
  fun_cases endSessionLetter k code status s <;> simp

@[simp] theorem closeNow_pending (n : Nat) (s : State) : (closeNow n s).pending = s.pending := by
  unfold closeNow
  dsimp only
  rw [State.updSession_pending]
  (repeat' split) <;> simp

/-! ### FORK -/

@[simp] theorem shareFolio_pending (tenant : BitVec 12) (family : BitVec 16) (f : FolioRef) (s : State) :
    (shareFolio tenant family f s).pending = s.pending := by
  unfold shareFolio
  split <;> simp

theorem copyOpen_pending {parent child : Nat} {tenant : BitVec 12} {f : FolioRef} {s : State} {r : FolioRef × State}
    (h : copyOpen parent child tenant f s = some r) : r.2.pending = s.pending := by
  unfold copyOpen at h
  split at h
  · cases h
  · split at h
    · cases h; exact placeBody_pending _ _ _ _ _ _ _
    · cases h

theorem forkFolios_pending {parent child : Nat} {tenant : BitVec 12} {fs : List FolioRef} {s : State} {r : List FolioRef × State}
    (h : forkFolios parent child tenant fs s = some r) : r.2.pending = s.pending := by
  induction fs generalizing s r with
  | nil => cases h; rfl
  | cons f fs ih =>
    unfold forkFolios at h
    split at h
    · split at h
      · cases h
      · next hrest =>
        obtain rfl := Option.some.inj h
        have hr := ih hrest
        exact hr
    · split at h
      · cases h
      · next hopen =>
        split at h
        · cases h
        · next hrest =>
          obtain rfl := Option.some.inj h
          have hr := ih hrest
          exact hr.trans (copyOpen_pending hopen)

theorem forkScores_pending {parent child : Nat} {tenant : BitVec 12} {fs : List FolioRef} {s u : State}
    (h : forkScores parent child tenant fs s = some u) : u.pending = s.pending := by
  induction fs generalizing s with
  | nil => cases h; rfl
  | cons f fs ih =>
    unfold forkScores at h
    split at h
    · next t _ _ =>
      have hown {v : State} (hv : (if f.shared then some s else holdScores parent tenant t f.page (scoreLines parent s f) s) = some v) :
          v.pending = s.pending := by
        split at hv
        · exact congrArg State.pending (Option.some.inj hv).symm
        · exact holdScores_pending hv
      dsimp only at h
      generalize (if f.shared then some s else holdScores parent tenant t f.page (scoreLines parent s f) s) = own at h hown
      split at h
      · cases h
      · next hchild =>
        obtain ⟨v, hv, hheld⟩ := Option.bind_eq_some_iff.1 hchild
        exact (ih h).trans ((holdScores_pending hheld).trans (hown hv))
    · exact ih h

theorem forkNow_pending {n : Nat} {child : BitVec 16} {seed : BitVec 64} {s u : State} (h : forkNow n child seed s = some u) :
    u.pending = s.pending := by
  unfold forkNow at h
  dsimp only at h
  split at h
  · cases h
  · split at h
    · cases h
    · next hfolios =>
      split at h
      · cases h
      · next hscores =>
        refine (residentAdapter_pending h).trans ?_
        rw [State.updDev_pending, State.putSession_pending, State.updSession_pending]
        refine (foldl_pending _ (fun s f => ?_) _ _).trans ((forkScores_pending hscores).trans (forkFolios_pending hfolios))
        split <;> simp

/-! ### The queue -/

@[simp] theorem startResume_pending (n : Nat) (s : State) : (startResume n s).pending = s.pending := rfl

@[simp] theorem transferLines_pending (s : State) (n : Nat) : (transferLines s n).2.pending = s.pending := by simp [transferLines]

@[simp] theorem sendSession_pending (n : Nat) (peer : BitVec 4) (s : State) : (sendSession n peer s).pending = s.pending := by
  rw [sendSession, State.updDev_pending, sendToward_pending, transferLines_pending, flushTrail_pending, State.updSession_pending,
    abandonAdapt_pending]

@[simp] theorem startMigrate_pending (n : Nat) (k : LetterKey) (peer : BitVec 4) (s : State) :
    (startMigrate n k peer s).pending = s.pending := by
  fun_cases startMigrate n k peer s <;> simp

theorem trimNow_pending {n : Nat} {r : LetterRec} {s u : State} (h : trimNow n r s = some u) : u.pending = s.pending := by
  unfold trimNow at h
  dsimp only at h
  split at h
  · cases h; simp
  · split at h
    · cases h; simp
    · obtain ⟨q, hq, rfl⟩ := Option.map_eq_some_iff.1 h
      simp [restoreAll_pending hq]

theorem forkLetter_pending {n : Nat} {r : LetterRec} {s u : State} (h : forkLetter n r s = some u) : u.pending = s.pending := by
  unfold forkLetter at h
  dsimp only at h
  split at h
  · cases h; simp
  · split at h
    · cases h; simp
    · obtain ⟨v, hv, rfl⟩ := Option.map_eq_some_iff.1 h
      simp [forkNow_pending hv]

@[simp] theorem runHead_pending (n : Nat) (r : LetterRec) (s : State) : (runHead n r s).1.pending = s.pending := by
  unfold runHead
  dsimp only
  (repeat' split) <;> simp
  · next hdone => exact (trimNow_pending hdone).trans (progress_pending _ _)
  · next hdone => exact (forkLetter_pending hdone).trans (progress_pending _ _)

@[simp] theorem runQueue_pending (n fuel : Nat) (s : State) : (runQueue n fuel s).pending = s.pending := by
  induction fuel generalizing s with
  | zero => rfl
  | succ fuel ih =>
    unfold runQueue
    dsimp only
    (repeat' split) <;> simp [ih]

@[simp] theorem settle_pending (n : Nat) (s : State) : (settle n s).pending = s.pending := by
  unfold settle
  dsimp only
  (repeat' split) <;> simp

@[simp] theorem settleAll_pending (s : State) : (settleAll s).pending = s.pending := by
  refine foldl_pending _ (fun _ _ => ?_) _ _
  split <;> simp

/-! ### DRAIN REMOVE -/

@[simp] theorem drainSession_pending (n : Nat) (s : State) : (drainSession n s).pending = s.pending := by
  fun_cases drainSession n s <;> simp

@[simp] theorem advanceDrain_pending (s : State) : (advanceDrain s).pending = s.pending := by
  have hdrain := foldl_pending (fun s (e : Nat × Session) => drainSession e.1 s) (fun _ _ => drainSession_pending _ _)
  unfold advanceDrain
  dsimp only
  (repeat' split) <;> simp [hdrain]

@[simp] theorem proceed_pending (s : State) : (proceed s).pending = s.pending := by simp [proceed]

@[simp] theorem queueLetter_pending (l : Letter) (k : LetterKey) (s : State) :
    (queueLetter l k s).pending = s.pending := by simp [queueLetter]

/-! ### OPEN -/

@[simp] theorem execOpen_goes (l : Letter) (s : State) : Goes s (execOpen l s) := by
  have hadapter (n : Nat) (t : State) : ((residentAdapter n t).getD t).pending = t.pending := by
    cases h : residentAdapter n t with
    | none => rfl
    | some u => exact residentAdapter_pending h
  refine .next (receive_pending _ _ _ _ (fun k s => ?_) _)
  dsimp only
  split <;> simp [hadapter]

/-! ### APPEND and GENERATE -/

@[simp] theorem execAppend_goes (l : Letter) (s : State) : Goes s (execAppend l s) := by
  refine .next (receive_pending _ _ _ _ (fun _ _ => ?_) _)
  simp

@[simp] theorem execGenerate_goes (l : Letter) (s : State) : Goes s (execGenerate l s) := by
  refine .next (receive_pending _ _ _ _ (fun _ _ => ?_) _)
  simp

/-! ### PARK, RESUME, FORK, TRIM -/

@[simp] theorem execPark_goes (l : Letter) (s : State) : Goes s (execPark l s) := by
  refine .next (receive_pending _ _ _ _ (fun _ _ => ?_) _)
  simp

@[simp] theorem execResume_goes (l : Letter) (s : State) : Goes s (execResume l s) := by
  refine .next (receive_pending _ _ _ _ (fun _ _ => ?_) _)
  simp

@[simp] theorem execFork_goes (l : Letter) (s : State) : Goes s (execFork l s) := by
  refine .next (receive_pending _ _ _ _ (fun _ _ => ?_) _)
  simp

@[simp] theorem execTrimSetBudget_goes (l : Letter) (s : State) : Goes s (execTrimSetBudget l s) := by
  refine .next (receive_pending _ _ _ _ (fun _ _ => ?_) _)
  simp

@[simp] theorem execTrimRestoreDeadLetter_goes (l : Letter) (s : State) : Goes s (execTrimRestoreDeadLetter l s) := by
  refine .next (receive_pending _ _ _ _ (fun _ _ => ?_) _)
  simp

@[simp] theorem execTrimSetDeadLetter_goes (l : Letter) (s : State) : Goes s (execTrimSetDeadLetter l s) := by
  refine .next (receive_pending _ _ _ _ (fun _ _ => ?_) _)
  simp

/-! ### CLOSE -/

@[simp] theorem execClose_goes (l : Letter) (s : State) : Goes s (execClose l s) := by
  refine .next (receive_pending _ _ _ _ (fun _ _ => ?_) _)
  simp

@[simp] theorem freeSession_pending (n : Nat) (s : State) : (freeSession n s).pending = s.pending := rfl

@[simp] theorem execCloseComplete_goes (session : BitVec 16) (s : State) : Goes s (execCloseComplete session s) := by
  unfold execCloseComplete
  dsimp only
  (repeat' split) <;> simp

/-! ### Parking and resuming -/

@[simp] theorem finishHead_pending (n : Nat) (op : BitVec 16) (s : State) : (finishHead n op s).pending = s.pending := by
  fun_cases finishHead n op s <;> simp

@[simp] theorem execParkComplete_goes (session : BitVec 16) (s : State) : Goes s (execParkComplete session s) := by
  unfold execParkComplete
  dsimp only
  (repeat' split) <;> simp

theorem residentFolio_pending {n : Nat} {f : FolioRef} {s u : State} (h : residentFolio n f s = some u) :
    u.pending = s.pending := by
  unfold residentFolio at h
  dsimp only at h
  split at h
  · split at h
    · split at h
      · exact (holdScores_pending h).trans (State.updSession_pending _ _ _)
      · cases h; rfl
    · obtain ⟨c, -, hc⟩ := Option.bind_eq_some_iff.1 h
      split at hc
      · exact (holdScores_pending hc).trans ((State.updSession_pending _ _ _).trans (placeBody_pending _ _ _ _ _ _ _))
      · cases hc; exact (State.updSession_pending _ _ _).trans (placeBody_pending _ _ _ _ _ _ _)
  · cases h; rfl

theorem residentFolios_pending {n : Nat} {fs : List FolioRef} {s u : State} (h : residentFolios n fs s = some u) :
    u.pending = s.pending := by
  fun_induction residentFolios n fs s with
  | case1 => cases h; rfl
  | case2 => cases h
  | case3 _ _ _ _ hfolio ih => exact (ih h).trans (residentFolio_pending hfolio)

theorem residentAll_pending {n : Nat} {fs : List FolioRef} {s u : State} (h : residentAll n fs s = some u) :
    u.pending = s.pending := by
  obtain ⟨v, hv, hu⟩ := Option.bind_eq_some_iff.1 h
  exact (residentAdapter_pending hu).trans (residentFolios_pending hv)

/-! ### Records that cannot be opened -/

@[simp] theorem failRecord_pending (n : Nat) (s : State) (f : FolioRef) : (failRecord n s f).pending = s.pending := by
  unfold failRecord
  split <;> simp

@[simp] theorem failRecords_pending (n : Nat) (bad : List (BitVec 16 × Word)) (s : State) :
    (failRecords n bad s).pending = s.pending := by
  refine foldl_pending _ (fun _ _ => ?_) _ _
  simp

@[simp] theorem execResumeComplete_goes (resume : ResumeEnd) (s : State) : Goes s (execResumeComplete resume s) := by
  unfold execResumeComplete
  dsimp only
  split
  · exact .next rfl
  · split
    · simp
    · split
      · simp
      · next hall =>
        have hback := (residentAll_pending hall).trans (failRecords_pending _ _ _)
        (repeat' split) <;> simp [hback]

/-! ### Migration -/

@[simp] theorem execMigrateOut_goes (l : Letter) (s : State) : Goes s (execMigrateOut l s) := by
  refine .next (receive_pending _ _ _ _ (fun _ _ => ?_) _)
  simp

@[simp] theorem endTransfer_pending (session : BitVec 16) (s : State) : (endTransfer session s).pending = s.pending := rfl

@[simp] theorem execMigrationReceipt_goes (move : MoveEnd) (s : State) : Goes s (execMigrationReceipt move s) := by
  unfold execMigrationReceipt
  dsimp only
  (repeat' split) <;> simp

@[simp] theorem execMigrationFailure_goes (session : BitVec 16) (s : State) : Goes s (execMigrationFailure session s) := by
  unfold execMigrationFailure
  dsimp only
  (repeat' split) <;> simp

@[simp] theorem takeIn_pending (l : Letter) (keeper : Bool) (k : LetterKey) (s : State) :
    (takeIn l keeper k s).pending = s.pending := by simp [takeIn]

@[simp] theorem nextArrival_pending (s : State) : (nextArrival s).pending = s.pending := rfl

@[simp] theorem execMigrateInPeer_goes (l : Letter) (s : State) : Goes s (execMigrateInPeer l s) := by
  refine .next (receive_pending _ _ _ _ (fun _ _ => ?_) _)
  simp

@[simp] theorem execMigrateInKeeper_goes (l : Letter) (s : State) : Goes s (execMigrateInKeeper l s) := by
  refine .next (receive_pending _ _ _ _ (fun _ _ => ?_) _)
  simp

/-! ### ADAPT -/

@[simp] theorem execAdapt_goes (l : Letter) (s : State) : Goes s (execAdapt l s) := by
  refine .next (receive_pending _ _ _ _ (fun _ _ => ?_) _)
  simp

@[simp] theorem execKeeperStream_goes (session : BitVec 16) (s : State) : Goes s (execKeeperStream session s) := by
  unfold execKeeperStream
  dsimp only
  (repeat' split) <;> simp

/-! ### Scrubbing and resealing -/

@[simp] theorem execPageScrub_goes (t : TileId) (page : Fin 2016) (s : State) : Goes s (execPageScrub t page s) := by
  refine .next ((settleAll_pending _).trans (onTile_pending _ _ (fun _ => ?_) _))
  rfl

@[simp] theorem execTenantReseal_goes (tenant : BitVec 12) (s : State) : Goes s (execTenantReseal tenant s) := by
  have hseals (old : Nat) := foldl_pending (fun s n => resealSession tenant old n s) (fun _ _ => resealSession_pending _ _ _ _)
  unfold execTenantReseal
  dsimp only
  split <;> simp [hseals]

/-! ### Query rows and their statistics -/

@[simp] theorem saveRow_pending (a : AdaptRun) (g : Stage) (s : State) (e : Nat × Word × Word) :
    (saveRow a g s e).pending = s.pending := by
  unfold saveRow
  split <;> simp

@[simp] theorem saveStats_pending (n : Nat) (a : AdaptRun) (ps : List Nat) (s : State) : (saveStats n a ps s).pending = s.pending := by
  refine foldl_pending _ (fun s g => ?_) _ _
  exact foldl_pending _ (saveRow_pending a g) _ _

theorem takeStats_pending {n upto : Nat} {gs : List Stage} {s u : State} (h : takeStats n upto gs s = some u) :
    u.pending = s.pending := by
  induction gs generalizing s with
  | nil => cases h; rfl
  | cons g gs ih =>
    unfold takeStats at h
    split at h
    · obtain ⟨r, hr, hu⟩ := Option.bind_eq_some_iff.1 h
      exact (ih hu).trans (takePages_pending hr)
    · exact ih h

/-! ### The backward pass -/

@[simp] theorem commitAdapt_pending (n : Nat) (v : Wave) (r : LetterRec) (s : State) :
    (commitAdapt n v r s).pending = s.pending := by
  fun_cases commitAdapt n v r s <;> simp

/-! ### The optimiser and the new copy -/

@[simp] theorem execAdapterSwap_goes (session : BitVec 16) (s : State) : Goes s (execAdapterSwap session s) := by
  unfold execAdapterSwap
  dsimp only
  (repeat' split) <;> simp

/-! ### Arbitration -/

@[simp] theorem noteTurn_pending (t : TileId) (p out : Port) (vc : Nat) (s : State) :
    (noteTurn t p out vc s).pending = s.pending := rfl

@[simp] theorem hopFrom_pending (t : TileId) (p out : Port) (vc : Nat) (f : Flit) (s : State) :
    (hopFrom t p out vc f s).pending = s.pending := by simp [hopFrom]

@[simp] theorem countHopRetry_pending (t : TileId) (p : Port) (s : State) : (countHopRetry t p s).pending = s.pending := rfl

@[simp] theorem execUnicastFlit_goes (t : TileId) (p : Port) (vc : BitVec 2) (crcBad : Bool) (s : State) :
    Goes s (execUnicastFlit t p vc crcBad s) := by
  fun_cases execUnicastFlit t p vc crcBad s <;> simp

/-! ### Group credits -/

@[simp] theorem passGroupCredit_pending (t : TileId) (g : BitVec 16) (wave : Byte) (n : Nat) (s : State) :
    (passGroupCredit t g wave n s).pending = s.pending := by
  induction n generalizing s with
  | zero => rfl
  | succ n ih =>
    unfold passGroupCredit
    dsimp only
    (repeat' split) <;> simp [ih]

@[simp] theorem retryGroups_pending (t : TileId) (p : Port) (s : State) : (retryGroups t p s).pending = s.pending := by
  refine foldl_pending _ (fun _ _ => ?_) _ _
  simp

@[simp] theorem execHopCreditReturn_goes (t : TileId) (p : Port) (vc : BitVec 2) (s : State) :
    Goes s (execHopCreditReturn t p vc s) := by
  unfold execHopCreditReturn
  (repeat' split) <;> simp

@[simp] theorem knockField_pending (t : TileId) (s : State) : (knockField t s).pending = s.pending := rfl

@[simp] theorem execBoundaryFifoArrival_goes (t : TileId) (p : Port) (vc : BitVec 2) (s : State) :
    Goes s (execBoundaryFifoArrival t p vc s) := by
  unfold execBoundaryFifoArrival
  dsimp only
  (repeat' split) <;> simp

/-! ### Deliveries -/

@[simp] theorem execPigeonholeArrival_goes (t : TileId) (p : Port) (vc : BitVec 2) (s : State) :
    Goes s (execPigeonholeArrival t p vc s) := by
  unfold execPigeonholeArrival
  split
  · exact .next rfl
  · next f _ =>
    have hpopped := deliverHole_keeps t f (popBuf t p vc.toNat s)
    have hkept := deliverHole_keeps t f s
    split
    · exact .next rfl
    · split
      · next heq => rw [heq] at hpopped; exact .next hpopped
      · split
        · next heq => rw [heq] at hkept; exact .next hkept
        · exact .next rfl

@[simp] theorem execLandingArrival_goes (t : TileId) (p : Port) (vc : BitVec 2) (i : Intrusion) (s : State) :
    Goes s (execLandingArrival t p vc i s) := by
  unfold execLandingArrival
  split
  · exact .next rfl
  · next f _ =>
    have hpopped := deliverLanding_keeps t f i (popBuf t p vc.toNat s)
    have hkept := deliverLanding_keeps t f i s
    split
    · exact .next rfl
    · split
      · next heq => rw [heq] at hpopped; exact .next hpopped
      · split
        · next heq => rw [heq] at hkept; exact .next hkept
        · exact .next rfl

/-! ### Credit parcels -/

@[simp] theorem execCreditParcel_goes (t : TileId) (p : Port) (s : State) : Goes s (execCreditParcel t p s) := by
  unfold execCreditParcel
  (repeat' split) <;> simp

@[simp] theorem execGroupCredit_goes (t : TileId) (p : Port) (s : State) : Goes s (execGroupCredit t p s) := by
  unfold execGroupCredit
  (repeat' split) <;> simp

theorem forwardTree_keeps (t : TileId) (p : Port) (e : TreeEntry) (f : Flit) (s : State) : (forwardTree t p e f s).keeps s := by
  unfold forwardTree
  split
  · exact deliverLocal_keeps _ _ _
  · split <;> simp
  · rfl

/-! ### Reduction trees -/

@[simp] theorem popPart_pending (t : TileId) (p : Port) (s : State) : (popPart t p s).pending = s.pending := rfl

@[simp] theorem sendTree_pending (t : TileId) (p : Port) (e : TreeEntry) (f : Flit) (after : Router → Router) (s : State) :
    (sendTree t p e f after s).pending = s.pending := by
  have hpopped := forwardTree_keeps t p e f ((popPart t p s).updTile t (fun x => { x with router := after x.router }))
  have hkept := forwardTree_keeps t p e f s
  unfold sendTree
  split
  · next heq => rw [heq] at hpopped; exact hpopped
  · split
    · next heq => rw [heq] at hkept; exact hkept
    · rfl

@[simp] theorem joinNode_pending (t : TileId) (p : Port) (e : TreeEntry) (f : Flit) (s : State) :
    (joinNode t p e f s).pending = s.pending := by
  fun_cases joinNode t p e f s <;> simp

@[simp] theorem execReductionPart_goes (t : TileId) (p : Port) (s : State) : Goes s (execReductionPart t p s) := by
  fun_cases execReductionPart t p s <;> simp

theorem takeBranch_keeps (t : TileId) (p : Port) (e : ForkEntry) (b : Port) (f : Flit) (s : State) :
    (takeBranch t p e b f s).keeps s := by
  unfold takeBranch
  split
  · exact deliverLocal_keeps _ _ _
  · split <;> simp

/-! ### Multicast -/

@[simp] theorem takeBranches_pending (t : TileId) (p : Port) (e : ForkEntry) (f : Flit) (bs : List Port) (s : State) :
    (takeBranches t p e f bs s).2.pending = s.pending := by
  induction bs generalizing s with
  | nil => rfl
  | cons b bs ih =>
    have hbranch := takeBranch_keeps t p e b f s
    unfold takeBranches
    split
    · next heq => rw [heq] at hbranch; exact (ih _).trans hbranch
    · next heq => rw [heq] at hbranch; exact (ih _).trans hbranch

@[simp] theorem execMulticastFlit_goes (t : TileId) (p : Port) (s : State) : Goes s (execMulticastFlit t p s) := by
  unfold execMulticastFlit
  dsimp only
  (repeat' split) <;> simp

@[simp] theorem execMulticastBranchTake_goes (t : TileId) (p : Port) (branch : Port) (s : State) :
    Goes s (execMulticastBranchTake t p branch s) := by
  unfold execMulticastBranchTake
  split
  · exact .next rfl
  · next f _ =>
    have hbranch := takeBranch_keeps t p (forkEntry (s.tile t) (envGroup f.env)) branch f s
    dsimp only
    split
    · exact .next rfl
    · split
      · next heq => rw [heq] at hbranch; exact .next hbranch
      · next heq =>
        rw [heq] at hbranch
        rw [goes_next]
        split
        · exact (popBuf_pending _ _ _ _).trans hbranch
        · exact hbranch

/-! ### Pulls and circulars -/

@[simp] theorem refusePull_pending (t : TileId) (p : Port) (f : Flit) (s : State) :
    (refusePull t p f s).pending = s.pending := rfl

@[simp] theorem execPullRequest_goes (t : TileId) (p : Port) (s : State) : Goes s (execPullRequest t p s) := by
  fun_cases execPullRequest t p s <;> simp

@[simp] theorem execCircularRequest_goes (t : TileId) (p : Port) (s : State) : Goes s (execCircularRequest t p s) := by
  fun_cases execCircularRequest t p s <;> simp

/-! ### The rim -/

@[simp] theorem execRimExit_goes (t : TileId) (p : Port) (vc : BitVec 2) (s : State) : Goes s (execRimExit t p vc s) := by
  unfold execRimExit
  (repeat' split) <;> simp

theorem enterRim_pending {t : TileId} {p : Port} {f : Flit} {s u : State} (h : enterRim t p f s = some u) :
    u.pending = s.pending := by
  unfold enterRim at h
  dsimp only at h
  split at h
  · cases h
  · cases h; rfl

@[simp] theorem awaitRim_pending (t : TileId) (s : State) : (awaitRim t s).pending = s.pending := by
  unfold awaitRim
  split <;> simp

@[simp] theorem execRimEntry_goes (t : TileId) (secondary : Bool) (env : Env) (l : Line) (s : State) :
    Goes s (execRimEntry t secondary env l s) := by
  unfold execRimEntry
  split
  · exact .next rfl
  · next e d _ =>
    split
    · exact .next rfl
    · cases hrim : enterRim t (edgePort e) ⟨env, l⟩ s with
      | none => exact .next (awaitRim_pending _ _)
      | some u => exact .next (enterRim_pending hrim)

/-! ### Admission -/

@[simp] theorem wakeStages_pending (s : State) : (wakeStages s).pending = s.pending := by
  refine foldl_pending _ (fun _ _ => ?_) _ _
  simp

@[simp] theorem issueWave_pending (w : Byte) (v : Wave) (s : State) : (issueWave w v s).pending = s.pending := by simp [issueWave]

theorem statsFor_pending {n : Nat} {r : LetterRec} {inputs : Nat} {s u : State} (h : statsFor n r inputs s = some u) :
    u.pending = s.pending := by
  unfold statsFor at h
  split at h
  · split at h
    · exact takeStats_pending h
    · cases h; rfl
  · cases h; rfl

@[simp] theorem admitSession_pending (n : Nat) (r : LetterRec) (fixed : Bool) (nymph : List (List Word)) (s : State) :
    (admitSession n r fixed nymph s).pending = s.pending := by
  unfold admitSession
  dsimp only
  split
  · split
    · simp
    · split
      · simp
      · next hstats => simp [statsFor_pending hstats]
  · rfl

@[simp] theorem execWaveAdmission_goes (start : WaveStart 16) (s : State) : Goes s (execWaveAdmission start s) := by
  fun_cases execWaveAdmission start s <;> simp

/-! ### Commit -/

@[simp] theorem clearWave_pending (w : Byte) (s : State) : (clearWave w s).pending = s.pending := rfl

@[simp] theorem boundTrail_pending (n : Nat) (s : State) : (boundTrail n s).pending = s.pending := by
  unfold boundTrail
  split <;> simp

@[simp] theorem commitTokens_pending (n : Nat) (ts : List Word) (last : Int) (s : State) :
    (commitTokens n ts last s).pending = s.pending := by simp [commitTokens]

@[simp] theorem syncGrammar_pending (n st : Nat) (s : State) : (syncGrammar n st s).pending = s.pending := rfl

@[simp] theorem commitAppend_pending (n : Nat) (v : Wave) (r : LetterRec) (s : State) :
    (commitAppend n v r s).pending = s.pending := by
  unfold commitAppend
  split <;> simp

@[simp] theorem streamTokens_pending (k : LetterKey) (ts : List Word) (s : State) :
    (streamTokens k ts s).pending = s.pending := by simp [streamTokens]

@[simp] theorem commitGenerate_pending (n : Nat) (v : Wave) (r : LetterRec) (logits : List (List Word)) (s : State) :
    (commitGenerate n v r logits s).pending = s.pending := by
  unfold commitGenerate
  dsimp only
  (repeat' split) <;> simp

@[simp] theorem drainLetter_pending (k : LetterKey) (s : State) : (drainLetter k s).pending = s.pending := by
  unfold drainLetter
  split <;> simp

@[simp] theorem releaseWave_pending (w : Byte) (v : Wave) (logits : List (List Word)) (s : State) :
    (releaseWave w v logits s).pending = s.pending := by
  unfold releaseWave
  dsimp only
  (repeat' split) <;> simp

@[simp] theorem execWaveCommit_goes (wave : Byte) (logits : List (List Word)) (s : State) :
    Goes s (execWaveCommit wave logits s) := by
  fun_cases execWaveCommit wave logits s <;> simp

/-! ### Fixed-time slots -/

@[simp] theorem slotEnd_pending (t : BitVec 12) (s : State) (e : Byte × Wave) : (slotEnd t s e).pending = s.pending := by
  fun_cases slotEnd t s e <;> simp

/-! ### Replay and the end of a purge -/

@[simp] theorem replayNow_pending (wave : Byte) (s : State) : (replayNow wave s).pending = s.pending := by
  fun_cases replayNow wave s <;> simp

@[simp] theorem execWaveReplay_goes (wave : Byte) (s : State) : Goes s (execWaveReplay wave s) := by
  fun_cases execWaveReplay wave s <;> simp

@[simp] theorem execFixedSlotBoundary_goes (start : WaveStart 12) (s : State) : Goes s (execFixedSlotBoundary start s) := by
  have hends := foldl_pending (slotEnd start.who) (fun s e => slotEnd_pending start.who s e)
  have hreplays := foldl_pending (fun s (e : Byte × Wave) => replayNow e.1 s) (fun _ _ => replayNow_pending _ _)
  unfold execFixedSlotBoundary
  dsimp only
  (repeat' split) <;> simp [hends, hreplays]

@[simp] theorem execPurgeResumeTimer_goes (wave : Byte) (s : State) : Goes s (execPurgeResumeTimer wave s) := by
  unfold execPurgeResumeTimer
  split <;> simp

/-! ### Deadlines -/

@[simp] theorem execDeadlineExpiry_goes (k : LetterKey) (s : State) : Goes s (execDeadlineExpiry k s) := by
  fun_cases execDeadlineExpiry k s <;> simp

/-! ### Recomputation -/

@[simp] theorem restoreFolio_pending (n : Nat) (s : State) (f : FolioRef) : (restoreFolio n s f).pending = s.pending := by
  unfold restoreFolio
  split <;> simp

@[simp] theorem missingFolios_pending (n : Nat) (s : State) : (missingFolios n s).pending = s.pending := by
  fun_cases missingFolios n s <;> simp

@[simp] theorem execOpenFolioRecompute_goes (session : BitVec 16) (s : State) : Goes s (execOpenFolioRecompute session s) := by
  unfold execOpenFolioRecompute
  dsimp only
  split
  · exact .next rfl
  · split
    · simp
    · next r hall =>
      have hback := (residentAll_pending hall).trans (missingFolios_pending _ _)
      have hfolios (fs : List FolioRef) : (fs.foldl (restoreFolio session.toNat) r).pending = r.pending :=
        foldl_pending _ (fun _ _ => restoreFolio_pending _ _ _) _ _
      have htouch (ks : List LetterKey) (t : State) : (ks.foldl (fun s k => touchLetter k stRepaired s) t).pending = t.pending :=
        foldl_pending _ (fun _ _ => by rfl) _ _
      simp [hback, hfolios, htouch]

/-! ### Held images and their use -/

@[simp] theorem putStaging_pending (id : BitVec 64) (g : Option Staging) (s : State) :
    (putStaging id g s).pending = s.pending := rfl

@[simp] theorem endStage_pending (id : BitVec 64) (status : BitVec 16) (lines : Nat) (s : State) :
    (endStage id status lines s).pending = s.pending := by
  fun_cases endStage id status lines s <;> simp

@[simp] theorem dropStage_pending (id : BitVec 64) (status : BitVec 16) (s : State) :
    (dropStage id status s).pending = s.pending := by simp [dropStage]

@[simp] theorem takeLines_pending (id : BitVec 64) (s : State) : (takeLines id s).pending = s.pending := by
  fun_cases takeLines id s <;> simp

/-! ### STAGE_IMAGE -/

@[simp] theorem stageLines_pending (l : Letter) (k : LetterKey) (s : State) :
    (stageLines l k s).pending = s.pending := by simp [stageLines]

@[simp] theorem execStageImage_goes (l : Letter) (s : State) : Goes s (execStageImage l s) := by
  refine .next (receive_pending _ _ _ _ (fun _ _ => ?_) _)
  simp

@[simp] theorem execStageImageDiscard_goes (l : Letter) (s : State) : Goes s (execStageImageDiscard l s) := by
  refine .next (receive_pending _ _ _ _ (fun _ _ => ?_) _)
  simp

/-! ### Swap candidates -/

@[simp] theorem nameCandidate_pending (id : BitVec 64) (s : State) :
    (nameCandidate id s).pending = s.pending := by simp [nameCandidate]

@[simp] theorem lookForCandidate_pending (id : BitVec 64) (s : State) : (lookForCandidate id s).pending = s.pending := by
  fun_cases lookForCandidate id s <;> simp

/-! ### The gate -/

@[simp] theorem finishReloads_pending (s : State) : (finishReloads s).pending = s.pending := by
  unfold finishReloads
  (repeat' split) <;> simp

@[simp] theorem becomeHeld_pending (id : BitVec 64) (g : Staging) (s : State) : (becomeHeld id g s).pending = s.pending := by
  unfold becomeHeld
  dsimp only
  (repeat' split) <;> simp

@[simp] theorem failChunk_pending (id : BitVec 64) (g : Staging) (status : BitVec 16) (s : State) :
    (failChunk id g status s).pending = s.pending := by simp [failChunk]

@[simp] theorem execGateChunkEnd_goes (image : BitVec 64) (s : State) : Goes s (execGateChunkEnd image s) := by
  unfold execGateChunkEnd
  dsimp only
  (repeat' split) <;> simp

/-! ### LOAD_PLACEMENT and ADAPTER_LOAD -/

@[simp] theorem execLoadPlacement_goes (l : Letter) (s : State) : Goes s (execLoadPlacement l s) := by
  refine .next (receive_pending _ _ _ _ (fun _ _ => ?_) _)
  simp

@[simp] theorem execAdapterLoad_goes (l : Letter) (s : State) : Goes s (execAdapterLoad l s) := by
  refine .next (receive_pending _ _ _ _ (fun _ _ => ?_) _)
  simp

/-! ### Live swap -/

@[simp] theorem State.updSwap_pending (s : State) (f : Swap → Swap) : (State.updSwap s f).pending = s.pending := rfl

@[simp] theorem execSwapBuildStart_goes (s : State) : Goes s (execSwapBuildStart s) := by
  unfold execSwapBuildStart
  (repeat' split) <;> simp

@[simp] theorem startFlip_pending (s : State) : (startFlip s).pending = s.pending := by
  fun_cases startFlip s <;> simp

@[simp] theorem execSwapBuildComplete_goes (s : State) : Goes s (execSwapBuildComplete s) := by
  unfold execSwapBuildComplete
  dsimp only
  (repeat' split) <;> simp

@[simp] theorem reuseHalf_pending (id : BitVec 64) (s : State) : (reuseHalf id s).pending = s.pending := rfl

@[simp] theorem execCommitSwap_goes (l : Letter) (s : State) : Goes s (execCommitSwap l s) := by
  refine .next (receive_pending _ _ _ _ (fun _ _ => ?_) _)
  dsimp only
  (repeat' split) <;> simp

@[simp] theorem endSwap_pending (s : State) : (endSwap s).pending = s.pending := by
  unfold endSwap
  (repeat' split) <;> simp

@[simp] theorem execSwapFlip_goes (s : State) : Goes s (execSwapFlip s) := by
  unfold execSwapFlip
  dsimp only
  (repeat' split) <;> simp

@[simp] theorem execSplitSwapReport_goes (member : BitVec 4) (s : State) : Goes s (execSplitSwapReport member s) := by
  unfold execSplitSwapReport
  split <;> simp

/-! ### DIAPAUSE_RELOAD -/

@[simp] theorem execDiapauseReload_goes (b : Fin 1024) (s : State) : Goes s (execDiapauseReload b s) := by
  unfold execDiapauseReload
  dsimp only
  (repeat' split) <;> simp

theorem dispatch_pending {e : LodgeEntry} {token : Word} {came : BitVec 64} {s u : State} (h : dispatch e token came s = some u) :
    u.pending = s.pending := by
  unfold dispatch at h
  dsimp only at h
  split at h
  · cases h; rfl
  · split at h
    · cases h; rfl
    · split at h
      · cases h; rfl
      · cases h

@[simp] theorem execDispatchNote_goes (stack : Fin 24) (note : Line) (token : Word) (s : State) :
    Goes s (execDispatchNote stack note token s) := by
  unfold execDispatchNote
  dsimp only
  split
  · exact .next rfl
  · split
    · next hdone => exact .next (dispatch_pending hdone)
    · split <;> exact .next rfl

@[simp] theorem execLodgingComplete_goes (stack : Fin 24) (stage : Fin 16) (s : State) :
    Goes s (execLodgingComplete stack stage s) := by
  unfold execLodgingComplete
  dsimp only
  (repeat' split) <;> simp

@[simp] theorem retryQueue_pending (home n : Nat) (s : State) : (retryQueue home n s).pending = s.pending := by
  induction n generalizing s with
  | zero => rfl
  | succ n ih =>
    unfold retryQueue
    dsimp only
    split
    · rfl
    · split
      · rw [ih, State.putStk_pending]
      · split
        · next hdone => rw [ih, dispatch_pending hdone, State.putStk_pending]
        · rfl

@[simp] theorem execLodgingRetry_goes (stack : Fin 24) (stage : Fin 16) (s : State) :
    Goes s (execLodgingRetry stack stage s) := by
  unfold execLodgingRetry
  dsimp only
  (repeat' split) <;> simp

/-! ### LODGE_POLICY -/

@[simp] theorem withClasses_pending (l : Letter) (s : State) : (withClasses l s).pending = s.pending := rfl

@[simp] theorem pinStages_pending (s : State) : (pinStages s).pending = s.pending := by
  unfold pinStages
  split <;> simp

@[simp] theorem execLodgePolicy_goes (l : Letter) (s : State) : Goes s (execLodgePolicy l s) := by
  refine .next (receive_pending _ _ _ _ (fun _ _ => ?_) _)
  simp

/-! ### Fault notes and the watchdog -/

@[simp] theorem execFaultNote_goes (cause : BitVec 4) (w : Byte) (source : BitVec 16) (s : State) :
    Goes s (execFaultNote cause w source s) := by
  unfold execFaultNote
  split <;> simp

@[simp] theorem execWatchdog_goes (t : TileId) (w : Byte) (cause : BitVec 4) (s : State) : Goes s (execWatchdog t w cause s) := by
  unfold execWatchdog
  dsimp only
  (repeat' split) <;> simp

@[simp] theorem execStallWatchdog_goes (t : TileId) (cause : BitVec 4) (s : State) : Goes s (execStallWatchdog t cause s) := by
  fun_cases execStallWatchdog t cause s <;> simp

/-! ### Flow stop -/

@[simp] theorem flowStopped_pending (s : State) : (flowStopped s).pending = s.pending := by
  unfold flowStopped
  dsimp only
  (repeat' split) <;> simp

@[simp] theorem execCoolantSample_goes (flowIn flowOut : BitVec 16) (inlet outlet : Option (BitVec 16)) (s : State) :
    Goes s (execCoolantSample flowIn flowOut inlet outlet s) := by
  unfold execCoolantSample
  dsimp only
  (repeat' split) <;> simp

@[simp] theorem execFlowRecovery_goes (s : State) : Goes s (execFlowRecovery s) := by
  unfold execFlowRecovery
  dsimp only
  (repeat' split) <;> simp

/-! ### Lost frames -/

@[simp] theorem loseFrames_pending (gone : TileId → Nat → Nat → Bool) (s : State) : (loseFrames gone s).pending = s.pending := rfl

@[simp] theorem detachFrames_pending (gone : TileId → Nat → Nat → Bool) (s : State) :
    (detachFrames gone s).pending = s.pending := rfl

@[simp] theorem releaseGone_pending (gone : TileId → Nat → Nat → Bool) (s : State) : (releaseGone gone s).pending = s.pending := by
  refine foldl_pending _ (fun s f => ?_) _ _
  (repeat' split) <;> rfl

@[simp] theorem loseOwn_pending (gone : TileId → Nat → Nat → Bool) (s : State) : (loseOwn gone s).pending = s.pending := by
  refine foldl_pending _ (fun _ _ => ?_) _ _
  (repeat' split) <;> simp

@[simp] theorem restoreOwn_pending (s : State) : (restoreOwn s).pending = s.pending := by
  refine foldl_pending _ (fun s e => ?_) _ _
  split
  · cases hadapter : residentAdapter e.1 s with
    | none => rfl
    | some u => exact residentAdapter_pending hadapter
  · rfl

/-! ### Field loss -/

@[simp] theorem loseField_pending (f : Nat) (retire : Bool) (s : State) : (loseField f retire s).pending = s.pending := by
  have hblocks := foldl_pending (fun s i => darkBlock (16 * f + i) s) (fun _ _ => darkBlock_pending _ _)
  have hdetached : (detachFrames (inField f) (loseFrames (inField f) (loseOwn (inField f) s))).pending = s.pending := by simp
  unfold loseField
  dsimp only
  split
  · rfl
  · split
    · rw [journalAdd_pending, journalAdd_pending, State.updField_pending, hblocks, hdetached]
    · rw [journalAdd_pending, State.updField_pending, hblocks, hdetached]

@[simp] theorem tripBreaker_pending (f : Nat) (s : State) : (tripBreaker f s).pending = s.pending := by simp [tripBreaker]

@[simp] theorem execFieldOvercurrent_goes (f : Fin 64) (s : State) : Goes s (execFieldOvercurrent f s) := by
  refine .next ?_
  simp

@[simp] theorem execBlockShort_goes (b : Fin 1024) (s : State) : Goes s (execBlockShort b s) := by
  refine .next ?_
  simp

@[simp] theorem execPhaseFailure_goes (f : Fin 64) (phase : Fin 8) (s : State) : Goes s (execPhaseFailure f phase s) := by
  unfold execPhaseFailure
  dsimp only
  (repeat' split) <;> simp

@[simp] theorem republish_pending (s : State) : (republish s).pending = s.pending := rfl

@[simp] theorem touchWaves_pending (s : State) : (touchWaves s).pending = s.pending := by
  refine foldl_pending _ (fun s e => ?_) _ _
  (repeat' split) <;> rfl

@[simp] theorem dropSwap_pending (s : State) : (dropSwap s).pending = s.pending := by
  unfold dropSwap
  (repeat' split) <;> simp

@[simp] theorem loadAlternate_pending (f : Nat) (q : Placement) (g : Image) (s : State) :
    (loadAlternate f q g s).pending = s.pending := by simp [loadAlternate]

@[simp] theorem holdWaves_pending (s : State) : (holdWaves s).pending = s.pending := rfl

@[simp] theorem fieldOutcome_pending (f : Nat) (p : Placement) (s : State) : (fieldOutcome f p s).pending = s.pending := by
  unfold fieldOutcome
  dsimp only
  (repeat' split) <;> simp

@[simp] theorem retireLost_pending (f : Nat) (s : State) : (retireLost f s).pending = s.pending := by simp [retireLost]

@[simp] theorem fieldLoss_pending (f : Nat) (s : State) : (fieldLoss f s).pending = s.pending := by
  unfold fieldLoss
  dsimp only
  (repeat' split) <;> simp

@[simp] theorem execFieldLoss_goes (f : Fin 64) (s : State) : Goes s (execFieldLoss f s) := by
  refine .next ?_
  simp

/-! ### Lockstep pairs -/

@[simp] theorem execLockstepDisagreement_goes (f : Fin 64) (s : State) : Goes s (execLockstepDisagreement f s) := by
  unfold execLockstepDisagreement
  dsimp only
  (repeat' split) <;> simp

/-! ### Spare substitution -/

@[simp] theorem journalMap_pending (f : Nat) (s : State) : (journalMap f s).pending = s.pending := by simp [journalMap]

@[simp] theorem discardSome_pending (ws : List Byte) (s : State) : (discardSome ws s).pending = s.pending := by
  refine foldl_pending _ (fun s w => ?_) _ _
  split <;> rfl

@[simp] theorem holdForRepair_pending (ts : List TileId) (s : State) : (holdForRepair ts s).pending = s.pending := by
  have horders := foldl_pending (fun s (e : Byte × Wave) => orderWave e.1 orderHold s) (fun _ _ => orderWave_pending _ _ _)
  unfold holdForRepair
  dsimp only
  split <;> simp [horders]

@[simp] theorem resumeHeld_pending (s : State) : (resumeHeld s).pending = s.pending := by
  refine foldl_pending _ (fun s e => ?_) _ _
  (repeat' split) <;> rfl

@[simp] theorem rewriteFrames_pending (t : TileId) (s : State) : (rewriteFrames t s).pending = s.pending := by
  refine foldl_pending _ (fun s e => ?_) _ _
  refine foldl_pending _ (fun s f => ?_) _ _
  split <;> rfl

@[simp] theorem rebuildTile_pending (t : TileId) (s : State) : (rebuildTile t s).pending = s.pending := by
  unfold rebuildTile
  (repeat' split) <;> simp

@[simp] theorem substitute_pending (t : TileId) (s : State) : (substitute t s).pending = s.pending := by
  unfold substitute
  dsimp only
  split <;> simp

@[simp] theorem retireTile_pending (t : TileId) (s : State) : (retireTile t s).pending = s.pending := by
  fun_cases retireTile t s <;> simp

@[simp] theorem resumeRepairs_pending (f : Nat) (s : State) : (resumeRepairs f s).pending = s.pending := by
  refine foldl_pending _ (fun _ _ => ?_) _ _
  simp

@[simp] theorem execFieldControllerRestart_goes (f : Fin 64) (s : State) : Goes s (execFieldControllerRestart f s) := by
  refine .next ?_
  simp

@[simp] theorem noteCause_pending (cause : Byte) (t : TileId) (s : State) :
    (noteCause cause t s).pending = s.pending := by simp [noteCause]

@[simp] theorem retireLink_pending (t : TileId) (ps : List Nat) (s : State) : (retireLink t ps s).pending = s.pending := by
  unfold retireLink
  (repeat' split) <;> simp

@[simp] theorem execTileRetirement_goes (t : TileId) (s : State) : Goes s (execTileRetirement t s) := by
  unfold execTileRetirement
  (repeat' split) <;> simp

@[simp] theorem execFireflySilence_goes (t : TileId) (s : State) : Goes s (execFireflySilence t s) := by
  unfold execFireflySilence
  split <;> simp

@[simp] theorem execEccStorm_goes (t : TileId) (s : State) : Goes s (execEccStorm t s) := by
  refine .next ?_
  simp

/-! ### Stacks -/

@[simp] theorem closeLost_pending (status : BitVec 16) (n : Nat) (s : State) : (closeLost status n s).pending = s.pending := by
  unfold closeLost
  dsimp only
  rw [freeSession_pending, releaseFrames_pending, dropSealing_pending, foldl_finishLetter_pending, abandonAdapt_pending]

@[simp] theorem makeRoom_pending (fuel : Nat) (s : State) : (makeRoom fuel s).pending = s.pending := by
  fun_induction makeRoom fuel s <;> simp_all

theorem retireStackNow_pending {n : Nat} {s u : State} (h : retireStackNow n s = some u) : u.pending = s.pending := by
  unfold retireStackNow at h
  dsimp only at h
  split at h
  · cases h; simp
  · cases h

@[simp] theorem execStackRetirementAuto_goes (n : Fin 24) (s : State) : Goes s (execStackRetirementAuto n s) := by
  unfold execStackRetirementAuto
  split
  · exact .next rfl
  · split
    · next hdone => simp [retireStackNow_pending hdone]
    · exact .next rfl

@[simp] theorem parkedLoss_pending (n k : Nat) (s : State) : (parkedLoss n k s).pending = s.pending := by
  fun_cases parkedLoss n k s <;> simp

@[simp] theorem deadLoss_pending (n k : Nat) (s : State) : (deadLoss n k s).pending = s.pending := by
  fun_cases deadLoss n k s <;> simp

@[simp] theorem loseImages_pending (n : Nat) (s : State) : (loseImages n s).pending = s.pending := by
  refine foldl_pending _ (fun _ _ => ?_) _ _
  simp

@[simp] theorem execStackUnreadable_goes (n : Fin 24) (s : State) : Goes s (execStackUnreadable n s) := by
  have hlost := foldl_pending (fun s k => deadLoss n.val k (parkedLoss n.val k s)) (fun _ _ => by simp)
  unfold execStackUnreadable
  dsimp only
  split <;> simp [hlost]

@[simp] theorem execStackCopyComplete_goes (n : Fin 24) (s : State) : Goes s (execStackCopyComplete n s) := by
  unfold execStackCopyComplete
  dsimp only
  (repeat' split) <;> simp

@[simp] theorem takeExclusive_pending (k : LetterKey) (s : State) : (takeExclusive k s).pending = s.pending := rfl

/-! ### STATUS -/

@[simp] theorem execStatus_goes (l : Letter) (s : State) : Goes s (execStatus l s) := by
  refine .next (receive_pending _ _ _ _ (fun _ _ => ?_) _)
  simp

/-! ### TELEMETRY -/

@[simp] theorem serveLines_pending (f : State → List Line) (k : LetterKey) (s : State) :
    (serveLines f k s).pending = s.pending := by simp [serveLines]

@[simp] theorem execTelemetryCurrent_goes (l : Letter) (s : State) : Goes s (execTelemetryCurrent l s) := by
  refine .next (receive_pending _ _ _ _ (fun _ _ => ?_) _)
  simp

@[simp] theorem execTelemetryExperts_goes (l : Letter) (s : State) : Goes s (execTelemetryExperts l s) := by
  refine .next (receive_pending _ _ _ _ (fun _ _ => ?_) _)
  simp

@[simp] theorem execTelemetryTenants_goes (l : Letter) (s : State) : Goes s (execTelemetryTenants l s) := by
  refine .next (receive_pending _ _ _ _ (fun _ _ => ?_) _)
  simp

@[simp] theorem execTelemetryThermal_goes (l : Letter) (s : State) : Goes s (execTelemetryThermal l s) := by
  refine .next (receive_pending _ _ _ _ (fun _ _ => ?_) _)
  simp

/-! ### DISTANCES -/

@[simp] theorem execDistances_goes (l : Letter) (s : State) : Goes s (execDistances l s) := by
  refine .next (receive_pending _ _ _ _ (fun _ _ => ?_) _)
  simp

/-! ### POWER_CAP -/

@[simp] theorem journalConfig_pending (k : LetterKey) (s : State) :
    (journalConfig k s).pending = s.pending := by simp [journalConfig]

@[simp] theorem setCap_pending (w : BitVec 16) (s : State) : (setCap w s).pending = s.pending := rfl

@[simp] theorem execPowerCap_goes (l : Letter) (s : State) : Goes s (execPowerCap l s) := by
  refine .next (receive_pending _ _ _ _ (fun _ _ => ?_) _)
  simp

/-! ### SET_PROFILE -/

@[simp] theorem setProfile_pending (l : Letter) (s : State) : (setProfile l s).pending = s.pending := rfl

@[simp] theorem forgetKeeper_pending (s : State) : (forgetKeeper s).pending = s.pending := rfl

@[simp] theorem execSetProfile_goes (l : Letter) (s : State) : Goes s (execSetProfile l s) := by
  refine .next (receive_pending _ _ _ _ (fun _ _ => ?_) _)
  split <;> simp

/-! ### DRAIN -/

@[simp] theorem dropWaiting_pending (k : LetterKey) (s : State) : (dropWaiting k s).pending = s.pending := by simp [dropWaiting]

@[simp] theorem drainQueue_pending (n : Nat) (s : State) : (drainQueue n s).pending = s.pending := by
  have hletters := foldl_pending (fun s k => dropWaiting k s) (fun _ _ => dropWaiting_pending _ _)
  unfold drainQueue
  dsimp only
  (repeat' split) <;> simp [hletters]

@[simp] theorem execDrainRemove_goes (l : Letter) (s : State) : Goes s (execDrainRemove l s) := by
  have hqueues := foldl_pending (fun s n => drainQueue n s) (fun _ _ => drainQueue_pending _ _)
  refine .next (receive_pending _ _ _ _ (fun k s => ?_) _)
  simp [hqueues]

@[simp] theorem execDrainQuiesce_goes (l : Letter) (s : State) : Goes s (execDrainQuiesce l s) := by
  refine .next (receive_pending _ _ _ _ (fun _ _ => ?_) _)
  simp

@[simp] theorem execDrainServe_goes (l : Letter) (s : State) : Goes s (execDrainServe l s) := by
  refine .next (receive_pending _ _ _ _ (fun _ _ => ?_) _)
  dsimp only
  (repeat' split) <;> simp

/-! ### Records as bytes -/

@[simp] theorem execJournalAppend_goes (kind : BitVec 16) (key : Word) (body : List Byte) (s : State) :
    Goes s (execJournalAppend kind key body s) := by
  unfold execJournalAppend
  split <;> simp

/-! ### Commit -/

@[simp] theorem sendHeld_pending (s : State) : (sendHeld s).pending = s.pending := by
  refine foldl_pending _ (fun s r => ?_) _ _
  (repeat' split) <;> simp

@[simp] theorem endDrain_pending (s : State) : (endDrain s).pending = s.pending := by
  unfold endDrain
  (repeat' split) <;> simp

@[simp] theorem execJournalCommit_goes (s : State) : Goes s (execJournalCommit s) := by
  refine .next ?_
  simp

@[simp] theorem execStandbyKeeperLoss_goes (s : State) : Goes s (execStandbyKeeperLoss s) := by
  unfold execStandbyKeeperLoss
  split <;> simp

/-! ### Mount -/

@[simp] theorem applyRetirement_pending (s : State) (j : JRecord) : (applyRetirement s j).pending = s.pending := by
  unfold applyRetirement
  split <;> simp

@[simp] theorem applyRetirements_pending (s : State) : (applyRetirements s).pending = s.pending := by
  refine foldl_pending _ (fun _ _ => ?_) _ _
  simp

@[simp] theorem applyWear_pending (b : List Byte) (s : State) : (applyWear b s).pending = s.pending := by
  simp [applyWear]

@[simp] theorem applySlots_pending (s : State) : (applySlots s).pending = s.pending := by
  refine foldl_pending _ (fun _ _ => ?_) _ _
  rfl

@[simp] theorem applyJournal_pending (s : State) : (applyJournal s).pending = s.pending := by
  unfold applyJournal
  dsimp only
  rw [State.updDev_pending, applySlots_pending, applyRetirements_pending]
  split <;> split <;> simp

@[simp] theorem execJournalMount_goes (k : Fin 2) (cut : BitVec 64) (s : State) : Goes s (execJournalMount k cut s) := by
  unfold execJournalMount
  (repeat' split) <;> simp

/-! ### Compaction -/

@[simp] theorem appendCopy_pending (s : State) (j : JRecord) : (appendCopy s j).pending = s.pending := rfl

@[simp] theorem execJournalCompaction_goes (s : State) : Goes s (execJournalCompaction s) := by
  have hcopies := foldl_pending appendCopy appendCopy_pending
  unfold execJournalCompaction
  dsimp only
  (repeat' split) <;> simp [hcopies]

@[simp] theorem execHistoryThrottle_goes (s : State) : Goes s (execHistoryThrottle s) := by
  unfold execHistoryThrottle
  split <;> simp

/-! ### JOURNAL_READ -/

@[simp] theorem execJournalRead_goes (l : Letter) (s : State) : Goes s (execJournalRead l s) := by
  refine .next (receive_pending _ _ _ _ (fun _ _ => ?_) _)
  simp

/-! ### Closing roles -/

@[simp] theorem auditClosure_pending (maker : Bool) (port : Nat) (reason : Byte) (s : State) :
    (auditClosure maker port reason s).pending = s.pending := by simp [auditClosure]

@[simp] theorem closeRoles_pending (p : OpenRole → Bool) (port : Nat) (reason : Byte) (s : State) :
    (closeRoles p port reason s).pending = s.pending := by
  refine foldl_pending _ (fun _ _ => ?_) _ _
  simp

@[simp] theorem openRole_pending (port : Nat) (r : OpenRole) (s : State) : (openRole port r s).pending = s.pending := rfl

/-! ### ROLE_OPEN and ROLE_CLOSE -/

@[simp] theorem presenceLight_pending (s : State) : (presenceLight s).pending = s.pending := rfl

@[simp] theorem execRoleOpenInstaller_goes (l : Letter) (s : State) : Goes s (execRoleOpenInstaller l s) := by
  refine .next (receive_pending _ _ _ _ (fun _ _ => ?_) _)
  split <;> simp

@[simp] theorem takeAuth_pending (l : Letter) (k : LetterKey) (s : State) :
    (takeAuth l k s).pending = s.pending := by simp [takeAuth]

@[simp] theorem execRoleOpenMaker_goes (l : Letter) (s : State) : Goes s (execRoleOpenMaker l s) := by
  refine .next (receive_pending _ _ _ _ (fun _ _ => ?_) _)
  dsimp only
  (repeat' split) <;> simp

@[simp] theorem execRoleClose_goes (l : Letter) (s : State) : Goes s (execRoleClose l s) := by
  refine .next (receive_pending _ _ _ _ (fun _ _ => ?_) _)
  simp

@[simp] theorem execPresencePress_goes (s : State) : Goes s (execPresencePress s) := by
  unfold execPresencePress
  split <;> simp

@[simp] theorem execPresenceTimeout_goes (k : LetterKey) (s : State) : Goes s (execPresenceTimeout k s) := by
  unfold execPresenceTimeout
  split <;> simp

@[simp] theorem execRoleIdleTimeout_goes (port : Fin 48) (maker : Bool) (s : State) :
    Goes s (execRoleIdleTimeout port maker s) := by
  fun_cases execRoleIdleTimeout port maker s <;> simp

@[simp] theorem execMakerAuthExpiry_goes (port : Fin 48) (s : State) : Goes s (execMakerAuthExpiry port s) := by
  fun_cases execMakerAuthExpiry port s <;> simp

/-! ### J7 and the seal -/

@[simp] theorem execJ7Fit_goes (s : State) : Goes s (execJ7Fit s) := by
  refine .next ?_
  rfl

@[simp] theorem execJ7Remove_goes (s : State) : Goes s (execJ7Remove s) :=
  .next (foldl_pending _ (fun _ _ => closeRoles_pending _ _ _ _) _ _)

@[simp] theorem breakSeal_pending (s : State) : (breakSeal s).pending = s.pending := by simp [breakSeal]

@[simp] theorem execSealBreak_goes (s : State) : Goes s (execSealBreak s) := by
  unfold execSealBreak
  split <;> simp

@[simp] theorem execResealComplete_goes (s : State) : Goes s (execResealComplete s) := by
  unfold execResealComplete
  split <;> simp

@[simp] theorem execResealTimeout_goes (s : State) : Goes s (execResealTimeout s) := by
  unfold execResealTimeout
  split <;> simp

/-! ### Takeover -/

@[simp] theorem takeOver_pending (s : State) : (takeOver s).pending = s.pending := by
  unfold takeOver
  split <;> simp

@[simp] theorem execPostmasterTakeover_goes (s : State) : Goes s (execPostmasterTakeover s) := by
  refine .next ?_
  simp

/-! ### Port states -/

@[simp] theorem stopPort_pending (st : PortState) (p : Nat) (s : State) :
    (stopPort st p s).pending = s.pending := by simp [stopPort]

@[simp] theorem trainPort_pending (p : Nat) (good : Byte) (s : State) : (trainPort p good s).pending = s.pending := by
  unfold trainPort
  split <;> simp

@[simp] theorem retrainPort_pending (p : Nat) (good : Byte) (s : State) :
    (retrainPort p good s).pending = s.pending := by simp [retrainPort]

@[simp] theorem execPortRetrain_goes (port : Fin 48) (lanesGood : Byte) (s : State) :
    Goes s (execPortRetrain port lanesGood s) := by
  unfold execPortRetrain
  split <;> simp

@[simp] theorem execPortFail_goes (port : Fin 48) (s : State) : Goes s (execPortFail port s) := by
  unfold execPortFail
  split <;> simp

@[simp] theorem execPortDown_goes (port : Fin 48) (s : State) : Goes s (execPortDown port s) := by
  refine .next ?_
  simp

@[simp] theorem execReceiptHoldExpiry_goes (port : Fin 48) (s : State) : Goes s (execReceiptHoldExpiry port s) := by
  unfold execReceiptHoldExpiry
  dsimp only
  split
  · exact .next rfl
  · exact .next (foldl_pending _ (fun _ _ => by simp) _ _)

@[simp] theorem execCableInsert_goes (port : Fin 48) (watts lanesGood : Byte) (reversed : Bool) (polarity : Byte) (s : State) :
    Goes s (execCableInsert port watts lanesGood reversed polarity s) := by
  fun_cases execCableInsert port watts lanesGood reversed polarity s <;> simp

@[simp] theorem execCableRemove_goes (port : Fin 48) (s : State) : Goes s (execCableRemove port s) := by
  refine .next ?_
  simp

/-! ### Control words -/

@[simp] theorem takeAck_pending (p : Nat) (seq : BitVec 16) (s : State) : (takeAck p seq s).pending = s.pending := rfl

@[simp] theorem takeNak_pending (p : Nat) (seq : BitVec 16) (s : State) : (takeNak p seq s).pending = s.pending := rfl

@[simp] theorem takeCredit_pending (p : Nat) (kind : BitVec 4) (slots : BitVec 16) (s : State) :
    (takeCredit p kind slots s).pending = s.pending := by
  unfold takeCredit
  split <;> simp

@[simp] theorem sendWaiting_pending (p : Nat) (s : State) : (sendWaiting p s).pending = s.pending := rfl

@[simp] theorem takeIdent_pending (p : Nat) (member : BitVec 4) (host : Bool) (keyId : BitVec 48) (s : State) :
    (takeIdent p member host keyId s).pending = s.pending := by
  unfold takeIdent
  dsimp only
  (repeat' split) <;> simp

theorem onLive_pending (p : Nat) (f : State → State) (h : ∀ s, (f s).pending = s.pending) (s : State) :
    (onLive p f s).pending = s.pending := by
  unfold onLive
  split
  · exact h s
  · rfl

@[simp] theorem execAck_goes (port : Fin 48) (seq : BitVec 16) (s : State) : Goes s (execAck port seq s) := by
  refine .next (onLive_pending _ _ (fun _ => ?_) _)
  rfl

@[simp] theorem execNak_goes (port : Fin 48) (seq : BitVec 16) (s : State) : Goes s (execNak port seq s) := by
  refine .next (onLive_pending _ _ (fun _ => ?_) _)
  rfl

@[simp] theorem execCredit_goes (port : Fin 48) (kind : BitVec 4) (slots : BitVec 16) (s : State) :
    Goes s (execCredit port kind slots s) := by
  refine .next (onLive_pending _ _ (fun _ => ?_) _)
  simp

@[simp] theorem execIdent_goes (port : Fin 48) (member : BitVec 4) (host : Bool) (keyId : BitVec 48) (s : State) :
    Goes s (execIdent port member host keyId s) := by
  refine .next (onLive_pending _ _ (fun _ => ?_) _)
  simp

@[simp] theorem takeControl_pending (p : Nat) (s : State) (w : BitVec 64) : (takeControl p s w).pending = s.pending := by
  unfold takeControl
  split
  · rfl
  · exact onLive_pending _ _ (takeAck_pending _ _) _
  · exact onLive_pending _ _ (takeNak_pending _ _) _
  · exact onLive_pending _ _ (takeCredit_pending _ _ _) _
  · exact onLive_pending _ _ (takeIdent_pending _ _ _ _) _
  · rfl

/-! ### Frames -/

@[simp] theorem sendNak_pending (p : Nat) (s : State) : (sendNak p s).pending = s.pending := rfl

/-! ### Receipts on a group link -/

@[simp] theorem returnReceipt_pending (p : Nat) (r : Receipt) (s : State) : (returnReceipt p r s).pending = s.pending := by
  unfold returnReceipt
  (repeat' split) <;> simp

@[simp] theorem takeReceipts_pending (fuel p : Nat) (s : State) : (takeReceipts fuel p s).pending = s.pending := by
  fun_induction takeReceipts fuel p s <;> simp_all

@[simp] theorem acceptFrame_pending (p : Nat) (f : DenorFrame) (s : State) : (acceptFrame p f s).pending = s.pending := by
  simp only [acceptFrame, takeReceipts_pending, State.updPort_pending]
  exact foldl_pending _ (takeControl_pending p) _ _

@[simp] theorem execLinkFrameRx_goes (port : Fin 48) (frame : BitVec 20560) (fecFailed : Bool) (s : State) :
    Goes s (execLinkFrameRx port frame fecFailed s) := by
  fun_cases execLinkFrameRx port frame fecFailed s <;> simp

/-! ### Link sends -/

@[simp] theorem holdAtEdge_pending (t : TileId) (f : Flit) (s : State) :
    (holdAtEdge t f s).pending = s.pending := by simp [holdAtEdge]

@[simp] theorem leaveRim_pending (c : Nat) (f : Flit) (s : State) : (leaveRim c f s).pending = s.pending := rfl

@[simp] theorem stayRim_pending (c : Nat) (f : Flit) (s : State) : (stayRim c f s).pending = s.pending := rfl

@[simp] theorem sendUnder_pending (c k : Nat) (n : TileId × BitVec 4 × Byte × TileId) (f : Flit) (s : State) :
    (sendUnder c k n f s).pending = s.pending := by
  unfold sendUnder
  split <;> simp

@[simp] theorem execLinkNote_goes (c : Fin 12) (k : Fin 16) (env : Env) (l : Line) (s : State) :
    Goes s (execLinkNote c k env l s) := by
  fun_cases execLinkNote c k env l s <;> simp

@[simp] theorem freeSlot_pending (p : Nat) (e : BitVec 4 × BitVec 704) (s : State) : (freeSlot p e s).pending = s.pending := rfl

@[simp] theorem execLinkParcelDelivery_goes (port : Fin 48) (env : Env) (l : Line) (s : State) :
    Goes s (execLinkParcelDelivery port env l s) := by
  unfold execLinkParcelDelivery
  dsimp only
  split
  · exact .next rfl
  · split
    · exact .next (awaitRim_pending _ _)
    · next hrim => exact .next ((freeSlot_pending _ _ _).trans (enterRim_pending hrim))

/-! ### RETIRE -/

@[simp] theorem execRetireTile_goes (l : Letter) (s : State) : Goes s (execRetireTile l s) := by
  refine .next (receive_pending _ _ _ _ (fun _ _ => ?_) _)
  simp

@[simp] theorem retireSegmentOf_pending (b seg : Nat) (s : State) : (retireSegmentOf b seg s).pending = s.pending := by
  fun_cases retireSegmentOf b seg s <;> simp

@[simp] theorem execRetireSegment_goes (l : Letter) (s : State) : Goes s (execRetireSegment l s) := by
  refine .next (receive_pending _ _ _ _ (fun _ _ => ?_) _)
  simp

@[simp] theorem retireFieldNow_pending (f : Nat) (s : State) : (retireFieldNow f s).pending = s.pending := by
  fun_cases retireFieldNow f s <;> simp

@[simp] theorem execRetireField_goes (l : Letter) (s : State) : Goes s (execRetireField l s) := by
  refine .next (receive_pending _ _ _ _ (fun _ _ => ?_) _)
  simp

@[simp] theorem retireStackFor_pending (n : Nat) (k : LetterKey) (s : State) : (retireStackFor n k s).pending = s.pending := by
  unfold retireStackFor
  split
  · simp
  · split
    · simp
    · next hdone => simp [retireStackNow_pending hdone]

@[simp] theorem execRetireStack_goes (l : Letter) (s : State) : Goes s (execRetireStack l s) := by
  refine .next (receive_pending _ _ _ _ (fun _ _ => ?_) _)
  simp

@[simp] theorem retireChipletNow_pending (c : Nat) (s : State) : (retireChipletNow c s).pending = s.pending := by
  have hports := foldl_pending (fun s q => stopPort .down (4 * c + q) s) (fun _ _ => stopPort_pending _ _ _)
  simp [retireChipletNow, hports]

@[simp] theorem execRetireChiplet_goes (l : Letter) (s : State) : Goes s (execRetireChiplet l s) := by
  refine .next (receive_pending _ _ _ _ (fun k s => ?_) _)
  rw [finishLetter_pending, retireChipletNow_pending, progress_pending]

/-! ### RECALIBRATE -/

@[simp] theorem measure_pending (s : State) : (measure s).2.pending = s.pending := rfl

@[simp] theorem journalCalibration_pending (l : Letter) (k : LetterKey) (s : State) :
    (journalCalibration l k s).pending = s.pending := by
  unfold journalCalibration
  dsimp only
  split
  · exact foldl_pending _ (fun _ _ => journalFor_pending _ _ _ _ _) _ _
  · simp

@[simp] theorem restoreSensors_pending (b : Nat) (s : State) : (restoreSensors b s).pending = s.pending := by
  unfold restoreSensors
  dsimp only
  (repeat' split) <;> simp

@[simp] theorem checkCoolant_pending (s : State) : (checkCoolant s).pending = s.pending := by
  unfold checkCoolant
  dsimp only
  (repeat' split) <;> simp

@[simp] theorem recalSensors_pending (l : Letter) (s : State) : (recalSensors l s).pending = s.pending := by
  unfold recalSensors
  split
  · rfl
  · refine (foldl_pending _ (fun _ f => ?_) _ _).trans (checkCoolant_pending _)
    exact foldl_pending _ (fun _ _ => restoreSensors_pending _ _) _ _

@[simp] theorem execRecalibrateSensors_goes (l : Letter) (s : State) : Goes s (execRecalibrateSensors l s) := by
  refine .next (receive_pending _ _ _ _ (fun _ _ => ?_) _)
  simp

@[simp] theorem execRecalibrateRegulators_goes (l : Letter) (s : State) : Goes s (execRecalibrateRegulators l s) := by
  refine .next (receive_pending _ _ _ _ (fun _ _ => ?_) _)
  simp

@[simp] theorem recalLinks_pending (l : Letter) (s : State) : (recalLinks l s).pending = s.pending := by
  refine foldl_pending _ (fun _ _ => ?_) _ _
  split <;> simp

@[simp] theorem execRecalibrateLinks_goes (l : Letter) (s : State) : Goes s (execRecalibrateLinks l s) := by
  refine .next (receive_pending _ _ _ _ (fun _ _ => ?_) _)
  simp

@[simp] theorem retryBreaker_pending (f : Nat) (s : State) : (retryBreaker f s).pending = s.pending := rfl

@[simp] theorem execBreakerRetry_goes (l : Letter) (s : State) : Goes s (execBreakerRetry l s) := by
  refine .next (receive_pending _ _ _ _ (fun _ _ => ?_) _)
  simp

/-! ### DIAG -/

@[simp] theorem execDiagSelfTest_goes (l : Letter) (s : State) : Goes s (execDiagSelfTest l s) := by
  refine .next (receive_pending _ _ _ _ (fun _ _ => ?_) _)
  simp

@[simp] theorem editSpares_pending (f : Nat) (m : Tbl (BitVec 4)) (s : State) : (editSpares f m s).pending = s.pending := by
  simp [editSpares]

@[simp] theorem execDiagSpareMapEdit_goes (l : Letter) (s : State) : Goes s (execDiagSpareMapEdit l s) := by
  refine .next (receive_pending _ _ _ _ (fun k s => ?_) _)
  rw [finishLetter_pending, editSpares_pending, progress_pending]

@[simp] theorem execDiagReseal_goes (l : Letter) (s : State) : Goes s (execDiagReseal l s) := by
  refine .next (receive_pending _ _ _ _ (fun _ _ => ?_) _)
  simp

/-! ### ATTEST -/

@[simp] theorem State.updAgent_pending (s : State) (a : Nat) (f : FwAgent → FwAgent) :
    (State.updAgent s a f).pending = s.pending := rfl

@[simp] theorem execAttest_goes (l : Letter) (s : State) : Goes s (execAttest l s) := by
  refine .next (receive_pending _ _ _ _ (fun _ _ => ?_) _)
  simp

/-! ### KEY_ENROL -/

@[simp] theorem execKeyEnrolWrappingKey_goes (l : Letter) (s : State) : Goes s (execKeyEnrolWrappingKey l s) := by
  refine .next (receive_pending _ _ _ _ (fun _ _ => ?_) _)
  dsimp only
  (repeat' split) <;> simp

@[simp] theorem execKeyEnrolImageId_goes (l : Letter) (s : State) : Goes s (execKeyEnrolImageId l s) := by
  refine .next (receive_pending _ _ _ _ (fun _ _ => ?_) _)
  simp

/-! ### TENANT_KEYS -/

@[simp] theorem putTenantKey_pending (l : Letter) (k : LetterKey) (x : TenantKey) (s : State) :
    (putTenantKey l k x s).pending = s.pending := by simp [putTenantKey]

@[simp] theorem drawSalt_pending (s : State) : (drawSalt s).2.pending = s.pending := rfl

@[simp] theorem execTenantKeysEnrol_goes (l : Letter) (s : State) : Goes s (execTenantKeysEnrol l s) := by
  refine .next (receive_pending _ _ _ _ (fun _ _ => ?_) _)
  dsimp only
  (repeat' split) <;> simp

@[simp] theorem execTenantKeysRotate_goes (l : Letter) (s : State) : Goes s (execTenantKeysRotate l s) := by
  refine .next (receive_pending _ _ _ _ (fun _ _ => ?_) _)
  dsimp only
  (repeat' split) <;> simp

@[simp] theorem execTenantKeysRevoke_goes (l : Letter) (s : State) : Goes s (execTenantKeysRevoke l s) := by
  refine .next (receive_pending _ _ _ _ (fun _ _ => ?_) _)
  simp

/-! ### Standby -/

@[simp] theorem statusLights_pending (v : BitVec 4) (s : State) : (statusLights v s).pending = s.pending := rfl

@[simp] theorem bootKeepers_pending (a b : Bool) (s : State) : (bootKeepers a b s).pending = s.pending := rfl

@[simp] theorem senseLoop_pending (closed : Bool) (s : State) : (senseLoop closed s).pending = s.pending := by
  fun_cases senseLoop closed s <;> simp

@[simp] theorem execPowerOn_goes (straps : BitVec 4) (keeperAGood keeperBGood loopClosed : Bool) (s : State) :
    Goes s (execPowerOn straps keeperAGood keeperBGood loopClosed s) := by
  unfold execPowerOn
  (repeat' split) <;> simp

@[simp] theorem execCoolantVerified_goes (s : State) : Goes s (execCoolantVerified s) := by
  unfold execCoolantVerified
  split <;> simp

@[simp] theorem execRimBringUp_goes (s : State) : Goes s (execRimBringUp s) := by
  unfold execRimBringUp
  split
  · exact .next (foldl_pending _ (fun _ _ => by rfl) _ _)
  · exact .next rfl

/-! ### Rings and fields -/

@[simp] theorem advanceRings_pending (s : State) : (advanceRings s).pending = s.pending := by
  unfold advanceRings
  split <;> simp

@[simp] theorem startField_pending (f : Nat) (s : State) : (startField f s).pending = s.pending := by
  unfold startField
  split
  · rfl
  · exact (updTiles_pending _ _ _).trans (foldl_pending _ (fun _ _ => by rfl) _ _)

@[simp] theorem execRingStart_goes (ring : Fin 4) (s : State) : Goes s (execRingStart ring s) := by
  have hfields := foldl_pending (fun s f => startField f s) (fun _ _ => startField_pending _ _)
  unfold execRingStart
  split <;> simp [hfields]

@[simp] theorem republishServing_pending (s : State) : (republishServing s).pending = s.pending := by
  unfold republishServing
  split <;> simp

@[simp] theorem failField_pending (f : Nat) (s : State) : (failField f s).pending = s.pending := by
  have hblocks := foldl_pending (fun s i => darkBlock (16 * f + i) s) (fun _ _ => darkBlock_pending _ _)
  unfold failField
  dsimp only
  rw [republishServing_pending, journalAdd_pending, State.updField_pending, hblocks]

@[simp] theorem passField_pending (f : Nat) (m : Tbl (BitVec 4)) (s : State) : (passField f m s).pending = s.pending := by
  unfold passField
  rw [republishServing_pending, journalMap_pending, State.updField_pending, updTiles_pending]

@[simp] theorem blockTest_pending (f : Nat) (s : State) (e : BlockFail) : (blockTest f s e).pending = s.pending := by
  unfold blockTest
  dsimp only
  (repeat' split) <;> simp

@[simp] theorem execFieldSelfTest_goes (f : Fin 64) (found : TestFinds) (linkFailed : Bool) (s : State) :
    Goes s (execFieldSelfTest f found linkFailed s) := by
  have hblocks := foldl_pending (blockTest f.val) (blockTest_pending f.val)
  unfold execFieldSelfTest
  dsimp only
  (repeat' split) <;> simp [hblocks]

@[simp] theorem execBringUpComplete_goes (s : State) : Goes s (execBringUpComplete s) := by
  unfold execBringUpComplete
  split <;> simp

/-! ### Warm restart -/

@[simp] theorem execWarmRestart_goes (s : State) : Goes s (execWarmRestart s) := by
  fun_cases execWarmRestart s <;> simp

/-! ### Staging -/

@[simp] theorem execFwStage_goes (l : Letter) (s : State) : Goes s (execFwStage l s) := by
  refine .next (receive_pending _ _ _ _ (fun _ _ => ?_) _)
  simp

/-! ### Activation -/

@[simp] theorem journalSlot_pending (a : Nat) (k : Option LetterKey) (b : Bool) (i : Nat) (s : State) :
    (journalSlot a k b i s).pending = s.pending := by
  fun_cases journalSlot a k b i s <;> simp

@[simp] theorem restartPorts_pending (c : Nat) (s : State) : (restartPorts c s).pending = s.pending := by
  refine foldl_pending _ (fun s q => ?_) _ _
  dsimp only
  (repeat' split) <;> simp

@[simp] theorem switchController_pending (i : Nat) (s : State) : (switchController i s).pending = s.pending := by
  fun_cases switchController i s <;> simp

@[simp] theorem bootEffect_pending (a i : Nat) (s : State) : (bootEffect a i s).pending = s.pending := by
  unfold bootEffect
  (repeat' split) <;> simp

@[simp] theorem bootNext_pending (a : Nat) (slot : Bool) (s : State) : (bootNext a slot s).pending = s.pending := by
  unfold bootNext
  dsimp only
  (repeat' split) <;> simp

@[simp] theorem bootEnd_pending (a i : Nat) (s : State) : (bootEnd a i s).pending = s.pending := by
  have hwake (b : Nat) (t : State) : (bootEnd.wakeLoaded b t).pending = t.pending := by
    unfold bootEnd.wakeLoaded
    split <;> simp
  unfold bootEnd
  (repeat' split) <;> simp [hwake]

@[simp] theorem execFwActivate_goes (l : Letter) (s : State) : Goes s (execFwActivate l s) := by
  refine .next (receive_pending _ _ _ _ (fun k s => ?_) _)
  dsimp only
  rw [bootNext_pending, State.updAgent_pending, foldl_pending _ (fun _ _ => journalSlot_pending _ _ _ _ _), progress_pending]
  split <;> simp

@[simp] theorem execInstanceReportedHealthy_goes (agent : BitVec 3) (inst : BitVec 16) (s : State) :
    Goes s (execInstanceReportedHealthy agent inst s) := by
  unfold execInstanceReportedHealthy
  dsimp only
  (repeat' split) <;> simp

@[simp] theorem execFwHealthTimeout_goes (agent : BitVec 3) (inst : BitVec 16) (s : State) :
    Goes s (execFwHealthTimeout agent inst s) := by
  have hslots (f : State → Nat → Bool) (key : Option LetterKey) (is : List Nat) (t : State) :
      (is.foldl (fun s j => journalSlot agent.toNat key (f s j) j s) t).pending = t.pending :=
    foldl_pending _ (fun _ _ => journalSlot_pending _ _ _ _ _) _ _
  unfold execFwHealthTimeout
  dsimp only
  (repeat' split) <;> simp [hslots]

@[simp] theorem State.updMgmt_pending (s : State) (f : Mgmt → Mgmt) : (State.updMgmt s f).pending = s.pending := rfl

theorem onMgmt_pending (f : State → State) (h : ∀ s, (f s).pending = s.pending) (s : State) :
    (onMgmt f s).pending = s.pending := by
  unfold onMgmt
  split
  · exact h s
  · rfl

@[simp] theorem answer_pending (r : MgmtReply) (s : State) : (answer r s).pending = s.pending := rfl

@[simp] theorem answerBody_pending (s : State) : (answerBody s).pending = s.pending := rfl

/-! ### MCTP control and PLDM base -/

@[simp] theorem execSetEndpointId_goes (eid : Byte) (s : State) : Goes s (execSetEndpointId eid s) := by
  refine .next (onMgmt_pending _ (fun _ => ?_) _)
  rfl

@[simp] theorem execGetEndpointId_goes (s : State) : Goes s (execGetEndpointId s) := by
  refine .next (onMgmt_pending _ (fun _ => ?_) _)
  rfl

@[simp] theorem execGetMctpVersionSupport_goes (_msgType : Byte) (s : State) : Goes s (execGetMctpVersionSupport _msgType s) := by
  refine .next (onMgmt_pending _ (fun _ => ?_) _)
  rfl

@[simp] theorem execGetMessageTypeSupport_goes (s : State) : Goes s (execGetMessageTypeSupport s) := by
  refine .next (onMgmt_pending _ (fun _ => ?_) _)
  rfl

@[simp] theorem execGetTid_goes (s : State) : Goes s (execGetTid s) := by
  refine .next (onMgmt_pending _ (fun _ => ?_) _)
  rfl

@[simp] theorem execSetTid_goes (tid : Byte) (s : State) : Goes s (execSetTid tid s) := by
  refine .next (onMgmt_pending _ (fun _ => ?_) _)
  rfl

@[simp] theorem execGetPldmVersion_goes (_pldmType : Byte) (s : State) : Goes s (execGetPldmVersion _pldmType s) := by
  refine .next (onMgmt_pending _ (fun _ => ?_) _)
  rfl

@[simp] theorem execGetPldmTypes_goes (s : State) : Goes s (execGetPldmTypes s) := by
  refine .next (onMgmt_pending _ (fun _ => ?_) _)
  rfl

@[simp] theorem execGetPldmCommands_goes (_pldmType : Byte) (s : State) : Goes s (execGetPldmCommands _pldmType s) := by
  refine .next (onMgmt_pending _ (fun _ => ?_) _)
  rfl

@[simp] theorem execUnsupportedPldmCmd_goes (_pldmType _cmd : Byte) (s : State) :
    Goes s (execUnsupportedPldmCmd _pldmType _cmd s) := by
  refine .next (onMgmt_pending _ (fun _ => ?_) _)
  rfl

/-! ### Sensors and events -/

@[simp] theorem answerReading_pending (v : Option Word) (s : State) : (answerReading v s).pending = s.pending := by
  unfold answerReading
  split <;> simp

@[simp] theorem execGetSensorReading_goes (sensor : BitVec 16) (s : State) : Goes s (execGetSensorReading sensor s) := by
  refine .next (onMgmt_pending _ (fun _ => ?_) _)
  simp

@[simp] theorem execGetStateSensorReadings_goes (sensor : BitVec 16) (s : State) :
    Goes s (execGetStateSensorReadings sensor s) := by
  refine .next (onMgmt_pending _ (fun _ => ?_) _)
  simp

@[simp] theorem execGetPdrRepositoryInfo_goes (s : State) : Goes s (execGetPdrRepositoryInfo s) := by
  refine .next (onMgmt_pending _ (fun _ => ?_) _)
  rfl

@[simp] theorem execGetPdr_goes (_record : Word) (s : State) : Goes s (execGetPdr _record s) := by
  refine .next (onMgmt_pending _ (fun _ => ?_) _)
  rfl

@[simp] theorem execSetEventReceiver_goes (receiver : Byte) (s : State) : Goes s (execSetEventReceiver receiver s) := by
  refine .next (onMgmt_pending _ (fun _ => ?_) _)
  rfl

@[simp] theorem execPlatformEventMessage_goes (s : State) : Goes s (execPlatformEventMessage s) := by
  refine .next (onMgmt_pending _ (fun _ => ?_) _)
  rfl

/-! ### Firmware update -/

@[simp] theorem execQueryDeviceIdentifiers_goes (s : State) : Goes s (execQueryDeviceIdentifiers s) := by
  refine .next (onMgmt_pending _ (fun _ => ?_) _)
  rfl

@[simp] theorem execGetFirmwareParameters_goes (s : State) : Goes s (execGetFirmwareParameters s) := by
  refine .next (onMgmt_pending _ (fun _ => ?_) _)
  rfl

@[simp] theorem execGetStatus_goes (s : State) : Goes s (execGetStatus s) := by
  refine .next (onMgmt_pending _ (fun _ => ?_) _)
  rfl

@[simp] theorem execRequestUpdate_goes (s : State) : Goes s (execRequestUpdate s) := by
  refine .next (onMgmt_pending _ (fun _ => ?_) _)
  split <;> simp

@[simp] theorem execPassComponentTable_goes (_component : BitVec 16) (s : State) :
    Goes s (execPassComponentTable _component s) := by
  refine .next (onMgmt_pending _ (fun _ => ?_) _)
  split <;> simp

@[simp] theorem execUpdateComponent_goes (component : BitVec 16) (s : State) : Goes s (execUpdateComponent component s) := by
  refine .next (onMgmt_pending _ (fun _ => ?_) _)
  (repeat' split) <;> simp

@[simp] theorem execRequestFirmwareData_goes (lines : List Line) (s : State) : Goes s (execRequestFirmwareData lines s) := by
  refine .next (onMgmt_pending _ (fun _ => ?_) _)
  split <;> simp

@[simp] theorem execTransferComplete_goes (result : Byte) (s : State) : Goes s (execTransferComplete result s) := by
  refine .next (onMgmt_pending _ (fun _ => ?_) _)
  (repeat' split) <;> simp

@[simp] theorem execVerifyComplete_goes (s : State) : Goes s (execVerifyComplete s) := by
  refine .next (onMgmt_pending _ (fun _ => ?_) _)
  dsimp only
  (repeat' split) <;> simp

@[simp] theorem endComponent_pending (into : UpdState) (s : State) : (endComponent into s).pending = s.pending := rfl

@[simp] theorem execApplyComplete_goes (s : State) : Goes s (execApplyComplete s) := by
  refine .next (onMgmt_pending _ (fun _ => ?_) _)
  split <;> simp

@[simp] theorem execCancelUpdateComponent_goes (s : State) : Goes s (execCancelUpdateComponent s) := by
  refine .next (onMgmt_pending _ (fun _ => ?_) _)
  split <;> simp

@[simp] theorem execCancelUpdate_goes (s : State) : Goes s (execCancelUpdate s) := by
  refine .next (onMgmt_pending _ (fun _ => ?_) _)
  split <;> simp

/-! ### Ends -/

@[simp] theorem State.updMbx_pending (s : State) (e : MailEnd) (f : Mbx → Mbx) : (State.updMbx s e f).pending = s.pending := rfl

/-! ### Queues -/

@[simp] theorem postMessage_pending (e : MailEnd) (ws : List (BitVec 64)) (s : State) :
    (postMessage e ws s).pending = s.pending := by
  unfold postMessage
  dsimp only
  (repeat' split) <;> simp

@[simp] theorem mbxSend_pending (e : MailEnd) (len : Word) (s : State) :
    (mbxSend e len s).pending = s.pending := by simp [mbxSend]

@[simp] theorem execMbxSend_goes (e : MailEnd) (len : Word) (s : State) : Goes s (execMbxSend e len s) := by
  refine .next ?_
  simp

@[simp] theorem mbxAck_pending (e : MailEnd) (v : Word) (s : State) : (mbxAck e v s).pending = s.pending := by
  fun_cases mbxAck e v s <;> simp

@[simp] theorem execMbxAck_goes (e : MailEnd) (v : Word) (s : State) : Goes s (execMbxAck e v s) := by
  refine .next ?_
  simp

/-! ### Letter messages -/

@[simp] theorem sendLetterMessage_pending (e : MailEnd) (code buffer : BitVec 16) (port : Byte) (id : Word) (s : State) :
    (sendLetterMessage e code buffer port id s).pending = s.pending := by
  unfold sendLetterMessage
  split <;> simp

@[simp] theorem takeLetter_pending (p : Nat) (s : State) : (takeLetter p s).pending = s.pending := by
  fun_cases takeLetter p s <;> simp

@[simp] theorem execLetterArrived_goes (c : Fin 12) (buffer : BitVec 16) (port : Byte) (id : Word) (s : State) :
    Goes s (execLetterArrived c buffer port id s) := by
  unfold execLetterArrived
  dsimp only
  (repeat' split) <;> simp

@[simp] theorem execReceiptReady_goes (c : Fin 12) (buffer : BitVec 16) (port : Byte) (id : Word) (s : State) :
    Goes s (execReceiptReady c buffer port id s) := by
  refine .next ?_
  simp

@[simp] theorem execLetterBufferFreed_goes (c : Fin 12) (buffer : BitVec 16) (port : Byte) (id : Word) (s : State) :
    Goes s (execLetterBufferFreed c buffer port id s) := by
  unfold execLetterBufferFreed
  dsimp only
  (repeat' split) <;> simp

/-! ### Reach and power -/

@[simp] theorem csrError_pending (g : Agent) (a : Word) (kind : Nat) (s : State) : (csrError g a kind s).pending = s.pending := by
  unfold csrError
  split
  · rfl
  · exact State.updDev_pending _ _

/-! ### Writes -/

@[simp] theorem fcWrite_pending (f o : Nat) (v : Word) (s : State) : (fcWrite f o v s).pending = s.pending := by
  unfold fcWrite
  split <;> simp

theorem outState_pending {s : State} {o : Out} (h : Goes s o) : (outState s o).pending = s.pending := by
  obtain ⟨u, rfl, hu⟩ := h
  exact hu

@[simp] theorem porderWrite_pending (b : Nat) (v : Word) (s : State) : (porderWrite b v s).pending = s.pending := by
  unfold porderWrite
  split
  · split
    · exact wakeRequest_pending _ _
    · exact outState_pending (execBsPorderChrysalis_goes _ _)
    · exact outState_pending (execBsPorderDiapause_goes _ _)
    · exact outState_pending (execBsPorderDark_goes _ _)
    · rfl
  · rfl

@[simp] theorem bsWrite_pending (g : Agent) (a : Word) (b o : Nat) (v : Word) (s : State) :
    (bsWrite g a b o v s).pending = s.pending := by
  fun_cases bsWrite g a b o v s <;> simp

@[simp] theorem mbxWrite_pending (e : MailEnd) (o : Nat) (v : Word) (s : State) : (mbxWrite e o v s).pending = s.pending := by
  fun_cases mbxWrite e o v s <;> simp

@[simp] theorem csrApply_pending (g : Agent) (a : Word) (r : Csr) (v : Word) (s : State) :
    (csrApply g a r v s).pending = s.pending := by
  unfold csrApply
  (repeat' split) <;> simp

@[simp] theorem execCsrWrite_goes (agent : Agent) (addr v : Word) (s : State) : Goes s (execCsrWrite agent addr v s) := by
  fun_cases execCsrWrite agent addr v s <;> simp

/-! ### KP_TIME_LO -/

@[simp] theorem execKpTimeLoRead_goes (k : Fin 2) (agent : Agent) (s : State) : Goes s (execKpTimeLoRead k agent s) := by
  unfold execKpTimeLoRead
  split <;> simp

/-! ### Block ends -/

@[simp] theorem endBlock_pending (t : TileId) (e : PaneError) (s : State) : (endBlock t e s).pending = s.pending := by
  fun_cases endBlock t e s <;> simp

@[simp] theorem execBlockEnd_goes (t : TileId) (e : PaneError) (s : State) : Goes s (execBlockEnd t e s) := by
  fun_cases execBlockEnd t e s <;> simp

/-! ### Branches and loops -/

@[simp] theorem execIllegalInstruction_goes (t : TileId) (w : BitVec 64) (s : State) : Goes s (execIllegalInstruction t w s) := by
  unfold execIllegalInstruction
  split <;> simp

/-! ### The queue under a step -/

/-- What a tile's instruction does: it is a row of `tileExec`, one of the two CARD rows, or HALT. -/
inductive IssueForm (i : Instr) (t : TileId) (s : State) : Out → Prop
  | row (f : Tile → Attempt) : i ≠ .halt t → IssueForm i t s (tileExec i t f s)
  | card (ok : Tile → Bool) (card : Tile → Card) : i ≠ .halt t → IssueForm i t s (cardExec i t ok card s)
  | halt : i = .halt t → IssueForm i t s (execHalt t s)

theorem issueForm_of_issuer {i : Instr} {t : TileId} (h : issuer i = some t) (s : State) : IssueForm i t s (exec i s) := by
  cases i
  case halt => simp only [issuer, Option.some.injEq] at h; exact h ▸ .halt rfl
  case cardBarrierArrive =>
    simp only [issuer, Option.some.injEq] at h
    subst h; unfold exec execCardBarrierArrive; exact .card _ _ nofun
  case cardUser =>
    simp only [issuer, Option.some.injEq] at h
    subst h; unfold exec execCardUser; exact .card _ _ nofun
  all_goals simp only [issuer, Option.some.injEq, reduceCtorEq] at h
  all_goals exact h ▸ .row _ nofun

theorem IssueForm.goes {i : Instr} {t : TileId} {s : State} {o : Out} : IssueForm i t s o → Goes s o
  | .row f _ => tileExec_goes i t f s
  | .card ok c _ => cardExec_goes i t ok c s
  | .halt _ => execHalt_goes t s

/-- Every command answers a next state and leaves the queue alone. -/
theorem exec_goes (i : Instr) (s : State) : Goes s (exec i s) := by
  rcases h : issuer i with _ | t
  · cases i
    all_goals simp only [issuer, reduceCtorEq] at h
    all_goals simp [exec]
  · exact (issueForm_of_issuer h s).goes

theorem step_goes (s : State) : ∃ t, step s = .next t ∧ t.pending = s.pending.tail := by
  rcases hq : s.pending with _ | ⟨c, rest⟩
  · exact ⟨sendFrames s, by simp only [step, hq], by rw [sendFrames_pending, hq, List.tail_nil]⟩
  · obtain ⟨t, hexec, hpending⟩ := exec_goes c { s with pending := rest }
    exact ⟨t, by simp only [step, hq, hexec], hpending⟩

/-- Settles O2: every command answers a next state. -/
theorem noCommandStopsTheBlock : Obligations.NoCommandStopsTheBlock := fun c s =>
  let ⟨t, hexec, _⟩ := exec_goes c s
  ⟨t, hexec⟩

/-- Settles O3: the command at the front is taken off, and no command touches the rest. -/
theorem everyStepTakesOnlyTheFrontCommand : Obligations.EveryStepTakesOnlyTheFrontCommand := by
  intro s t hstep
  obtain ⟨u, hu, hpending⟩ := step_goes s
  cases hu.symm.trans hstep
  exact hpending

/-- Settles O4: the queue after a step is a tail of the queue before it. -/
theorem queuedCommandsStayWellFormed : Obligations.QueuedCommandsStayWellFormed := by
  intro s t hwf hstep c hc
  rw [everyStepTakesOnlyTheFrontCommand s t hstep] at hc
  exact hwf c (List.mem_of_mem_tail hc)

end Sys2Proof.Machine

/-! SUPPORT. The word of a circular request: it does not read back its operand SMEM. -/

namespace Sys2Proof.Machine
open Sys2Proof
/-- Refutes O6: the word of a circular request carries SMEM 0b11 whatever its operand SMEM is, so the request with SMEM 0 is
legal and its word decodes to the request with SMEM 3 (R255). -/
theorem not_tileWordsReadBack : ¬ Obligations.TileWordsReadBack := by
  intro h
  have hread := h (.postCircularRequest 0 ⟨0, 0, 0, 0, 0, 0, false, false, 0, 0, false, 0⟩) 0 rfl (by decide)
  exact absurd hread (by decide)
end Sys2Proof.Machine

/-! SUPPORT. Every tile instruction: what it may change, and what an illegal word does at issue. -/

namespace Sys2Proof.Machine
open Sys2Proof

/-! ### Every tile instruction (R238, R240, R267) -/

theorem OneTile.dev_halts {t : TileId} {s u : State} (h : OneTile t s u) : u.dev.halts = s.dev.halts := by
  obtain ⟨⟨hu, _⟩, _⟩ := h
  rw [hu]

theorem OneTile.reported {t : TileId} {s u : State} (h : OneTile t s u) (hs : List TileId) :
    OneTile t s { u.updDev (fun d => { d with halts := hs }) with dev := { u.dev with halts := s.dev.halts } } := by
  rw [← h.dev_halts]
  exact h

theorem OneTile.tileExec {t : TileId} {i : Instr} {f : Tile → Attempt} {s u : State} (h : Machine.tileExec i t f s = .next u) :
    OneTile t s u := by
  cases h
  exact OneTile.issue t _ _ s

theorem OneTile.cardExec {t : TileId} {i : Instr} {ok : Tile → Bool} {card : Tile → Card} {s u : State}
    (h : Machine.cardExec i t ok card s = .next u) : OneTile t s u := by
  unfold Machine.cardExec at h
  split at h
  · cases h
    exact ((OneTile.putTile t _ s).trans (OneTile.updTile t _ _)).trans (OneTile.tileSends t _ _)
  · exact OneTile.tileExec h

theorem tileExec_blocked {i : Instr} {t : TileId} {f : Tile → Attempt} {s : State}
    (h : (s.issues t && (s.tile t).mayIssue i.word) = false) : tileExec i t f s = .next s := by
  simp [tileExec, issue, h]

/-- Where nothing of tile `t` may issue, its instructions change nothing. -/
theorem IssueForm.blocked {i : Instr} {t : TileId} {s : State} {o : Out} (hform : IssueForm i t s o)
    (h : (s.issues t && (s.tile t).mayIssue i.word) = false) : o = .next s := by
  cases hform with
  | row f _ => exact tileExec_blocked h
  | card ok c _ =>
    rw [cardExec, h]
    exact tileExec_blocked h
  | halt hi =>
    subst hi
    simp [execHalt, h]

/-- What a tile's instruction may change: its tile and the cards under way, and the halts that are reported only by HALT. -/
theorem IssueForm.next {i : Instr} {t : TileId} {s u : State} {o : Out} (hform : IssueForm i t s o) (ho : o = .next u) :
    OneTile t s { u with dev := { u.dev with halts := s.dev.halts } } ∧
    u.dev.halts = if i = .halt t ∧ s.issues t = true ∧ (s.tile t).mayIssue i.word = true then s.dev.halts ++ [t]
      else s.dev.halts := by
  have hkept (h : OneTile t s u) (hi : i ≠ .halt t) : OneTile t s { u with dev := { u.dev with halts := s.dev.halts } } ∧
      u.dev.halts = if i = .halt t ∧ s.issues t = true ∧ (s.tile t).mayIssue i.word = true then s.dev.halts ++ [t]
        else s.dev.halts := by
    rw [← h.dev_halts, if_neg fun hhalt => hi hhalt.1]
    exact ⟨h, rfl⟩
  cases hform with
  | row f hi => exact hkept (OneTile.tileExec ho) hi
  | card ok c hi => exact hkept (OneTile.cardExec ho) hi
  | halt hi =>
    subst hi
    have hissue := OneTile.issue t (Instr.halt t).word haltOp s
    unfold execHalt at ho
    split at ho
    case isTrue hon =>
      cases ho
      rw [Bool.and_eq_true] at hon
      rw [if_pos ⟨rfl, hon⟩]
      exact ⟨hissue.reported _, congrArg (· ++ [t]) hissue.dev_halts⟩
    case isFalse hoff =>
      cases ho
      rw [Bool.and_eq_true] at hoff
      rw [if_neg fun h => hoff h.2]
      exact ⟨OneTile.refl t s, rfl⟩

/-- Settles O8: a row of `tileExec` or `cardExec` stays on its tile, and HALT adds the report that it makes where it issues. -/
theorem tileInstructionsStayOnTheirTile : Obligations.TileInstructionsStayOnTheirTile := by
  refine ⟨fun i t s u hissuer hexec => ?_, fun i t s hissuer hoff => ?_⟩
  · obtain ⟨⟨hsame, hothers⟩, hhalts⟩ := (issueForm_of_issuer hissuer s).next hexec
    exact ⟨hsame, hothers, hhalts⟩
  · exact (issueForm_of_issuer hissuer s).blocked (by rcases hoff with h | h <;> simp [h])

/-! ### Illegal words (R240, R267) -/

theorem seq_of_issues {s : State} {t : TileId} (h : s.issues t = true) : (s.tile t).seq ≠ .halted := by
  intro hseq
  simp [State.issues, hseq] at h

/-- The tile that takes fault `e` at issue: the fault is recorded, issue is held, and a note of it is sent. -/
theorem takeFault_tile (t : TileId) (e : TileFault) (w : BitVec 64) (s : State) (he : e ≠ .compute) :
    (takeFault t e w s).tile t = { recordFault e (s.tile t).pc w s.dev.time (s.tile t) with
      seq := if (s.tile t).seq = .halted then .halted else .held
      wait := .none
      sent := (recordFault e (s.tile t).pc w s.dev.time (s.tile t)).sent + 1 } := by
  simp [takeFault, takeFaultAt, takeFaultFor, sendFaultNote, he]

/-- A fault of TS_SEQ_FAULT alone is recorded there unless one stands. -/
theorem recordFault_seq (c u : BitVec 4) (pc : BitVec 12) (w now : BitVec 64) (x : Tile) :
    recordFault (.seq c u) pc w now x = { x with
      lastCause := c
      seqFault := if bitAt x.seqFault 31 then x.seqFault else seqFaultWord c u pc
      seqWord := if bitAt x.seqFault 31 then x.seqWord else w } := by
  by_cases hvalid : bitAt x.seqFault 31 <;> simp [recordFault, TileFault.seqCode, hvalid]

/-- What an illegal word leaves at issue (R240, R267). -/
structure FaultedAtIssue (t : TileId) (w : BitVec 64) (s u : State) : Prop where
  seq : (u.tile t).seq = .held
  pc : (u.tile t).pc = (s.tile t).pc
  seqFault : (u.tile t).seqFault = if bitAt (s.tile t).seqFault 31 then (s.tile t).seqFault
    else seqFaultWord 0x1 unitSequencer (s.tile t).pc
  seqWord : (u.tile t).seqWord = if bitAt (s.tile t).seqFault 31 then (s.tile t).seqWord else w
  cards : u.dev.cards = s.dev.cards ++ [⟨srcTile t, faultNoteCard 0x1 (s.tile t).noteWave t⟩]

theorem faultedAtIssue_of_illegal {s : State} {t : TileId} (w : BitVec 64) (h : s.issues t = true) :
    FaultedAtIssue t w s (takeFault t (.seq 0x1 unitSequencer) w (s.putTile t (s.tile t).fetch)) := by
  have htile := takeFault_tile t (.seq 0x1 unitSequencer) w (s.putTile t (s.tile t).fetch) nofun
  rw [recordFault_seq, State.tile_putTile] at htile
  have hseq : (s.tile t).fetch.seq ≠ .halted := seq_of_issues h
  rw [if_neg hseq] at htile
  refine ⟨?_, ?_, ?_, ?_, ?_⟩
  · rw [htile]
  · rw [htile]; rfl
  · rw [htile]; rfl
  · rw [htile]; rfl
  · rw [takeFault_cards, State.tile_putTile]; rfl

theorem issue_illegal {s : State} {t : TileId} {w : BitVec 64} (h : s.issues t = true) (hw : (s.tile t).mayIssue w = true) :
    issue t w illegal s = takeFault t (.seq 0x1 unitSequencer) w (s.putTile t (s.tile t).fetch) := by
  simp [issue, h, hw, illegal]

theorem tileExec_illegal {i : Instr} {t : TileId} (f : Tile → Attempt) (s : State) (h : i.encodingOk = false) :
    tileExec i t f s = .next (issue t i.word illegal s) := by
  simp [tileExec, h]

/-- An instruction whose encoding is illegal does what an illegal word does. -/
theorem IssueForm.illegal {i : Instr} {t : TileId} {s : State} {o : Out} (hform : IssueForm i t s o)
    (h : i.encodingOk = false) : o = .next (issue t i.word Machine.illegal s) := by
  cases hform with
  | row f _ => exact tileExec_illegal f s h
  | card ok c _ =>
    rw [cardExec, h, Bool.and_false, Bool.false_and, Bool.false_and]
    exact tileExec_illegal _ s h
  | halt hi =>
    subst hi
    cases h

/-- Settles O9: an illegal encoding, decoded or not, takes the sequencer's fault of cause 0x1 at issue. -/
theorem illegalWordsFault : Obligations.IllegalWordsFault := by
  refine ⟨fun i t s hissuer hon hword hbad => ?_, fun t w s => ⟨?decodes, ?refused, ?recorded⟩⟩
  · obtain ⟨hseq, hpc, hfault, _, hcards⟩ := faultedAtIssue_of_illegal i.word hon
    refine ⟨_, (issueForm_of_issuer hissuer s).illegal hbad, ?_⟩
    rw [issue_illegal hon hword]
    exact ⟨hseq, hpc, hfault, hcards⟩
  case decodes =>
    intro h
    obtain ⟨i, hi⟩ := Option.ne_none_iff_exists'.1 h
    simp [exec, execIllegalInstruction, hi]
  case refused =>
    intro hon hword hnone
    simp [exec, execIllegalInstruction, hnone, issue_illegal hon hword]
  case recorded =>
    intro hon hword hnone
    obtain ⟨hseq, hpc, hfault, hseqWord, hcards⟩ := faultedAtIssue_of_illegal w hon
    refine ⟨_, by simp only [exec, execIllegalInstruction, hnone, issue_illegal hon hword], hseq, hpc, fun hvalid => ?_, hcards⟩
    rw [hfault, hseqWord, hvalid]
    exact ⟨rfl, rfl⟩

end Sys2Proof.Machine

/-! SUPPORT. The registers and the words of the working buffer: ADD, ASET, LDW and STW. -/

namespace Sys2Proof.Machine
open Sys2Proof

/-! ### What a fault leaves of its tile -/

/-- A fault's record changes no more than the fault registers and the times of compute and memory faults. -/
theorem recordFault_eq (e : TileFault) (pc : BitVec 12) (w now : BitVec 64) (x : Tile) :
    recordFault e pc w now x = { x with
      lastCause := (recordFault e pc w now x).lastCause, seqFault := (recordFault e pc w now x).seqFault
      seqWord := (recordFault e pc w now x).seqWord, memFault := (recordFault e pc w now x).memFault
      uncorrTimes := (recordFault e pc w now x).uncorrTimes, netFault := (recordFault e pc w now x).netFault
      ownFault := (recordFault e pc w now x).ownFault, ownSession := (recordFault e pc w now x).ownSession
      tallyTotal := (recordFault e pc w now x).tallyTotal, tallyTimes := (recordFault e pc w now x).tallyTimes } := by
  cases e <;> simp only [recordFault, TileFault.seqCode] <;> (repeat' split) <;> rfl

section
variable (t : TileId) (e : TileFault) (w : BitVec 64) (s : State)

/-- A fault's tile but for its sequencer, its fault registers, and, of a compute fault, the wave's slots and passes. -/
theorem takeFault_eq : (takeFault t e w s).tile t = { s.tile t with
    lastCause := ((takeFault t e w s).tile t).lastCause, seqFault := ((takeFault t e w s).tile t).seqFault
    seqWord := ((takeFault t e w s).tile t).seqWord, memFault := ((takeFault t e w s).tile t).memFault
    uncorrTimes := ((takeFault t e w s).tile t).uncorrTimes, netFault := ((takeFault t e w s).tile t).netFault
    ownFault := ((takeFault t e w s).tile t).ownFault, ownSession := ((takeFault t e w s).tile t).ownSession
    tallyTotal := ((takeFault t e w s).tile t).tallyTotal, tallyTimes := ((takeFault t e w s).tile t).tallyTimes
    seq := ((takeFault t e w s).tile t).seq, wait := ((takeFault t e w s).tile t).wait
    sent := ((takeFault t e w s).tile t).sent, slots := ((takeFault t e w s).tile t).slots
    written := ((takeFault t e w s).tile t).written, blockEnds := ((takeFault t e w s).tile t).blockEnds
    passes := ((takeFault t e w s).tile t).passes } := by
  simp only [takeFault, takeFaultAt, takeFaultFor, sendFaultNote, copyNote_tile, tileSends_tile, State.tile_putTile]
  rw [recordFault_eq]
  split <;> rfl

@[simp] theorem takeFault_wb : ((takeFault t e w s).tile t).wb = (s.tile t).wb := by rw [takeFault_eq]
@[simp] theorem takeFault_slab : ((takeFault t e w s).tile t).slab = (s.tile t).slab := by rw [takeFault_eq]
@[simp] theorem takeFault_ws : ((takeFault t e w s).tile t).ws = (s.tile t).ws := by rw [takeFault_eq]
@[simp] theorem takeFault_pc : ((takeFault t e w s).tile t).pc = (s.tile t).pc := by rw [takeFault_eq]
@[simp] theorem takeFault_sreg (r : BitVec 5) : ((takeFault t e w s).tile t).sreg r = (s.tile t).sreg r := by
  rw [takeFault_eq]; rfl
@[simp] theorem takeFault_areg (r : BitVec 4) : ((takeFault t e w s).tile t).areg r = (s.tile t).areg r := by
  rw [takeFault_eq]; rfl

end

/-! ### ADD and ASET read back (R232, R241) -/

theorem SameMemories.refl (x : Tile) : SameMemories x x := fun _ => ⟨rfl, rfl, rfl⟩

theorem sameMemories_of_eq {x y : Tile} (hwb : y.wb = x.wb) (hslab : y.slab = x.slab) (hws : y.ws = x.ws) : SameMemories x y := by
  intro a
  rw [hwb, hslab, hws]
  exact ⟨rfl, rfl, rfl⟩

/-- Settles O11: a write of s[D] or a[D] is read back there, and leaves every other register and the memories. -/
theorem registersReadBack : Obligations.RegistersReadBack := by
  refine ⟨fun t f s r q hissues => ?add, fun t f s r q hissues => ?aset⟩
  case add =>
    refine ⟨_, executes_of_scalarOp (exec_add t f s) hissues, ?_⟩
    simp only [State.tile_putTile, Tile.sreg_advance, Tile.areg_advance, Tile.sreg_setS, Tile.areg_setS]
    refine ⟨if_neg (by simp), rfl, trivial, ?_⟩
    simp
    exact sameMemories_of_eq (by simp) (by simp) (by simp)
  case aset =>
    refine ⟨_, executes_of_done (exec_aset t f s) hissues, ?_⟩
    simp only [State.tile_putTile, Tile.sreg_advance, Tile.areg_advance, Tile.areg_setA, Tile.sreg_setA]
    refine ⟨if_neg (by simp), rfl, trivial, sameMemories_of_eq (by simp) (by simp) (by simp), rfl⟩

/-! ### LDW and STW (R97, R242, R266) -/

theorem exec_ldw (t : TileId) (f : LoadStoreOps) (i : Intrusion) (s : State) :
    exec (.ldw t f i) s = tileExec (.ldw t f i) t (loadWord f i) s := rfl

theorem exec_stw (t : TileId) (f : LoadStoreOps) (i : Intrusion) (s : State) :
    exec (.stw t f i) s = tileExec (.stw t f i) t (storeWord f i) s := rfl

/-- A line beyond the working buffer is a memory fault of cause 0x1 that names it (R97). -/
theorem rangesFault_wbRange_beyond (unit : BitVec 4) (l : Nat) (h : 4096 ≤ l) :
    rangesFault unit [wbRange l 1] = some (.mem 1 memWb (BitVec.ofNat 16 l) unit) := by
  have hend : 4096 < l + 1 := by omega
  simp [rangesFault, rangeFault, wbRange, memLines, memWb, hend, max_eq_left h]

theorem Tile.writeLine_memWb (x : Tile) (l : Nat) (v : Line) :
    x.writeLine memWb l v = { x with wb := Mem.writeLine x.wb l v, killed := x.killed.filter (fun k => k / 16 != l) } := rfl

section
variable (f : LoadStoreOps) (i : Intrusion) (x : Tile)

theorem loadWord_beyond (h : 4096 ≤ lineOf f x) :
    loadWord f i x = .fault x (.mem 1 memWb (BitVec.ofNat 16 (lineOf f x)) unitSequencer) := by
  simp only [loadWord, rangesFault_wbRange_beyond _ _ h]

theorem storeWord_beyond (h : 4096 ≤ lineOf f x) :
    storeWord f i x = .fault x (.mem 1 memWb (BitVec.ofNat 16 (lineOf f x)) unitSequencer) := by
  simp only [storeWord, rangesFault_wbRange_beyond _ _ h]

theorem loadWord_done (hline : lineOf f x < 4096) (hfree : x.lineBlocks [wbRange (lineOf f x) 1] [] = false)
    (hstops : intrusionStops i unitSequencer = none) (hcrc : crcGood (Mem.readLine x.wb (lineOf f x)) = true) :
    loadWord f i x =
      .done ((intrude (noSlots i) x).setS f.d (wordAt (Mem.readLine x.wb (lineOf f x)) f.word.toNat)) := by
  have hstops' : intrusionStops (noSlots i) unitSequencer = none := hstops
  have hread : (intrude (noSlots i) x).readLine memWb (lineOf f x) = Mem.readLine x.wb (lineOf f x) := by simp [Tile.readLine]
  simp only [loadWord, rangesFault_wbRange _ _ 1 hline, hfree, accessing_on _ _ _ _ hstops', hread, hcrc, if_true,
    Bool.false_eq_true, if_false]

theorem storeWord_done (hline : lineOf f x < 4096) (hfree : x.lineBlocks [] [wbRange (lineOf f x) 1] = false)
    (hstops : intrusionStops i unitSequencer = none) :
    storeWord f i x = .done ((intrude (noSlots i) x).writeLine memWb (lineOf f x)
      (storeLine f (x.sreg f.d) (Mem.readLine x.wb (lineOf f x)))) := by
  have hstops' : intrusionStops (noSlots i) unitSequencer = none := hstops
  have hread : (intrude (noSlots i) x).readLine memWb (lineOf f x) = Mem.readLine x.wb (lineOf f x) := by simp [Tile.readLine]
  simp only [storeWord, rangesFault_wbRange _ _ 1 hline, hfree, accessing_on _ _ _ _ hstops', hread, intrude_sreg,
    Bool.false_eq_true, if_false]

end

theorem recordFault_mem_memFault (c : BitVec 4) (m : BitVec 2) (l : BitVec 16) (u : BitVec 4) (pc : BitVec 12)
    (w now : BitVec 64) (x : Tile) :
    (recordFault (.mem c m l u) pc w now x).memFault = keepFirst x.memFault (memFaultWord c m l) := by
  simp only [recordFault, TileFault.seqCode]
  split <;> rfl

/-- The tile an attempt leaves before issue goes on, waits or faults. -/
def Attempt.tile : Attempt → Tile
  | .done x => x
  | .goto x _ => x
  | .wait x _ => x
  | .fault x _ => x

/-- Two tiles with the same registers and the same memories. -/
structure SameStore (x y : Tile) : Prop where
  sreg : ∀ r, y.sreg r = x.sreg r
  areg : ∀ r, y.areg r = x.areg r
  wb : y.wb = x.wb
  slab : y.slab = x.slab
  ws : y.ws = x.ws

theorem SameStore.refl (x : Tile) : SameStore x x := ⟨fun _ => rfl, fun _ => rfl, rfl, rfl, rfl⟩

theorem SameStore.trans {x y z : Tile} (h : SameStore x y) (k : SameStore y z) : SameStore x z :=
  ⟨fun r => (k.sreg r).trans (h.sreg r), fun r => (k.areg r).trans (h.areg r), k.wb.trans h.wb, k.slab.trans h.slab,
   k.ws.trans h.ws⟩

theorem SameStore.sameMemories {x y : Tile} (h : SameStore x y) : SameMemories x y := sameMemories_of_eq h.wb h.slab h.ws

theorem takeFault_sameStore (t : TileId) (e : TileFault) (w : BitVec 64) (s : State) :
    SameStore (s.tile t) ((takeFault t e w s).tile t) :=
  ⟨takeFault_sreg t e w s, takeFault_areg t e w s, takeFault_wb t e w s, takeFault_slab t e w s, takeFault_ws t e w s⟩

theorem intrude_sameStore (i : Intrusion) (x : Tile) : SameStore x (intrude i x) := by
  constructor <;> simp

/-- Issue adds nothing of its own to the registers and memories that the attempt leaves. -/
theorem issue_sameStore (t : TileId) (w : BitVec 64) (f : Tile → Attempt) (s : State) :
    SameStore (s.tile t) ((issue t w f s).tile t) ∨ SameStore (f (s.tile t)).tile ((issue t w f s).tile t) := by
  unfold issue
  split
  · right
    rcases f (s.tile t) with y | ⟨y, p⟩ | ⟨y, k⟩ | ⟨y, e⟩
    · rw [State.tile_putTile]; exact ⟨fun _ => rfl, fun _ => rfl, rfl, rfl, rfl⟩
    · rw [State.tile_putTile]; exact ⟨fun _ => rfl, fun _ => rfl, rfl, rfl, rfl⟩
    · rw [State.tile_putTile]; exact ⟨fun _ => rfl, fun _ => rfl, rfl, rfl, rfl⟩
    · have h := takeFault_sameStore t e w (s.putTile t y.fetch)
      have hfetch : SameStore y y.fetch := ⟨fun _ => rfl, fun _ => rfl, rfl, rfl, rfl⟩
      rw [State.tile_putTile] at h
      dsimp only [Attempt.tile]
      exact hfetch.trans h
  · exact .inl (SameStore.refl _)

/-- `y` is `x` in its registers and memories but for the 72 bytes of the working buffer from `a` on. -/
structure StoresOnly (a : Nat) (x y : Tile) : Prop where
  sreg : ∀ r, y.sreg r = x.sreg r
  areg : ∀ r, y.areg r = x.areg r
  slab : y.slab = x.slab
  ws : y.ws = x.ws
  wb : ∀ b, b < a ∨ a + 72 ≤ b → Mem.readByte y.wb b = Mem.readByte x.wb b

theorem SameStore.storesOnly {x y : Tile} (h : SameStore x y) (a : Nat) : StoresOnly a x y :=
  ⟨h.sreg, h.areg, h.slab, h.ws, fun _ _ => by rw [h.wb]⟩

theorem StoresOnly.trans_sameStore {a : Nat} {x y z : Tile} (h : StoresOnly a x y) (k : SameStore y z) : StoresOnly a x z :=
  ⟨fun r => (k.sreg r).trans (h.sreg r), fun r => (k.areg r).trans (h.areg r), k.slab.trans h.slab, k.ws.trans h.ws,
   fun b hb => by rw [k.wb, h.wb b hb]⟩

theorem tileExec_storesOnly {i : Instr} {t : TileId} {f : Tile → Attempt} {s u : State} {a : Nat}
    (hexec : tileExec i t f s = .next u) (h : StoresOnly a (s.tile t) (f (s.tile t)).tile) :
    StoresOnly a (s.tile t) (u.tile t) := by
  cases hexec
  rcases issue_sameStore t i.word (fun x => if i.encodingOk then f x else illegal x) s with hs | hs
  · exact hs.storesOnly a
  · have hattempt : StoresOnly a (s.tile t) (if i.encodingOk then f (s.tile t) else illegal (s.tile t)).tile := by
      split
      · exact h
      · exact (SameStore.refl _).storesOnly a
    exact hattempt.trans_sameStore hs

/-- STW stores to its line of the working buffer and to no other byte, whatever comes of it (R242). -/
theorem storeWord_storesOnly (f : LoadStoreOps) (i : Intrusion) (x : Tile) :
    StoresOnly (72 * lineOf f x) x (storeWord f i x).tile := by
  unfold storeWord
  dsimp only
  split
  · exact (SameStore.refl x).storesOnly _
  · split
    · exact (SameStore.refl x).storesOnly _
    · unfold accessing
      split
      · exact (intrude_sameStore _ x).storesOnly _
      · refine ⟨fun r => ?_, fun r => ?_, ?_, ?_, fun a ha => ?_⟩
        · exact intrude_sreg _ _ _
        · exact intrude_areg _ _ _
        · exact intrude_slab _ _
        · exact intrude_ws _ _
        · refine (Mem.readByte_writeLine_outside _ _ _ a ha).trans ?_
          rw [intrude_wb]

/-- Settles O12: a line of the working buffer is read or written at issue, one beyond it faults, and STW touches no other byte. -/
theorem wordsAreLoadedAndStored : Obligations.WordsAreLoadedAndStored := by
  refine ⟨fun t f i s => ?inside, fun t f i s c hc hissues hvalid hline => ?beyond,
    fun t f i s u hexec => ?frame⟩
  case inside =>
    intro x l y hline hstops
    refine ⟨fun hissues hfree hcrc => ?_, fun hissues hfree => ?_⟩
    · exact tileExec_done _ t _ s _ hissues (loadWord_done f i x hline hfree hstops hcrc)
    · have hwb : y.wb = x.wb := intrude_wb _ _
      have hkilled : y.killed = x.killed := by simp only [y]; rw [intrude_eq]
      have hstore := Tile.writeLine_memWb y l (storeLine f (x.sreg f.d) (Mem.readLine x.wb l))
      rw [hwb, hkilled] at hstore
      have hdone := tileExec_done _ t _ s _ hissues (storeWord_done f i x hline hfree hstops)
      rw [show intrude (noSlots i) x = y from rfl, show lineOf f x = l from rfl, hstore] at hdone
      exact hdone
  case beyond =>
    have hfault : exec c s = .next (takeFault t (.mem 1 memWb (BitVec.ofNat 16 (lineOf f (s.tile t))) unitSequencer) c.word
        (s.putTile t (s.tile t).fetch)) := by
      rcases hc with rfl | rfl
      · exact tileExec_fault _ t _ s _ _ hissues (loadWord_beyond f i _ hline)
      · exact tileExec_fault _ t _ s _ _ hissues (storeWord_beyond f i _ hline)
    refine ⟨_, hfault, ?_, ?_, ?_⟩
    · rw [takeFault_seq, State.tile_putTile]
      exact if_neg (seq_of_issues hissues.1)
    · have h := takeFault_sameStore t (.mem 1 memWb (BitVec.ofNat 16 (lineOf f (s.tile t))) unitSequencer) c.word
        (s.putTile t (s.tile t).fetch)
      rw [State.tile_putTile] at h
      exact h.sameMemories
    · have hne : TileFault.mem 1 memWb (BitVec.ofNat 16 (lineOf f (s.tile t))) unitSequencer ≠ .compute := nofun
      rw [← show lineOf f (s.tile t) = _ from rfl, takeFault_tile _ _ _ _ hne, State.tile_putTile]
      refine (recordFault_mem_memFault _ _ _ _ _ _ s.dev.time _).trans (if_neg ?_)
      rw [Bool.not_eq_true]
      exact hvalid
  case frame =>
    rw [exec_stw] at hexec
    have hkeeps : StoresOnly (72 * lineOf f (s.tile t)) (s.tile t) (u.tile t) :=
      tileExec_storesOnly hexec (storeWord_storesOnly f i (s.tile t))
    exact ⟨hkeeps.wb, fun a => by rw [hkeeps.slab], fun a => by rw [hkeeps.ws], hkeeps.sreg, hkeeps.areg⟩
end Sys2Proof.Machine

/-! SUPPORT. Branches, LOOP, YIELD and HALT. -/

namespace Sys2Proof.Machine
open Sys2Proof

/-! ### Branches, LOOP, YIELD and HALT (R242, R243, R264, R265) -/

theorem branches_of_branchOp {i : Instr} {t : TileId} {s : State} {c : Word → Word → Bool} {f : BranchOps}
    (hexec : exec i s = tileExec i t (branchOp c f) s) (hi : Issues i t s)
    (h : c ((s.tile t).sreg f.a) ((s.tile t).sreg f.b) = true) : Branches i t s f.target :=
  hexec.trans (tileExec_goto i t _ s _ _ hi (if_pos h))

theorem executes_of_branchOp {i : Instr} {t : TileId} {s : State} {c : Word → Word → Bool} {f : BranchOps}
    (hexec : exec i s = tileExec i t (branchOp c f) s) (hi : Issues i t s)
    (h : c ((s.tile t).sreg f.a) ((s.tile t).sreg f.b) = false) : Executes i t s (s.tile t) :=
  hexec.trans (tileExec_done i t _ s _ hi (if_neg (by simp [h])))

/-- A branch goes to its target where its condition holds, and on where it does not. -/
theorem branchOp_result {i : Instr} {t : TileId} {s : State} {c : Word → Word → Bool} {f : BranchOps} {p : Prop} [Decidable p]
    (hexec : exec i s = tileExec i t (branchOp c f) s) (hi : Issues i t s)
    (hc : c ((s.tile t).sreg f.a) ((s.tile t).sreg f.b) = decide p) :
    if p then Branches i t s f.target else Executes i t s (s.tile t) := by
  split
  case isTrue h => exact branches_of_branchOp hexec hi (by simp [hc, h])
  case isFalse h => exact executes_of_branchOp hexec hi (by simp [hc, h])

theorem exec_beq (t : TileId) (f : BranchOps) (s : State) :
    exec (.beq t f) s = tileExec (.beq t f) t (branchOp (fun a b => a == b) f) s := rfl

theorem exec_bne (t : TileId) (f : BranchOps) (s : State) :
    exec (.bne t f) s = tileExec (.bne t f) t (branchOp (fun a b => a != b) f) s := rfl

theorem exec_blt (t : TileId) (f : BranchOps) (s : State) :
    exec (.blt t f) s = tileExec (.blt t f) t (branchOp (fun a b => a.slt b) f) s := rfl

theorem exec_bge (t : TileId) (f : BranchOps) (s : State) :
    exec (.bge t f) s = tileExec (.bge t f) t (branchOp (fun a b => b.sle a) f) s := rfl

theorem exec_loop (t : TileId) (f : LoopOps) (s : State) : exec (.loop t f) s = tileExec (.loop t f) t (loopOp f) s := rfl

/-- HALT leaves the PC at the next instruction with the sequencer halted, and is reported. -/
theorem exec_halt {t : TileId} {s : State} (hi : Issues (.halt t) t s) :
    exec (.halt t) s = .next ((s.putTile t ({ s.tile t with
      seq := .halted, loops := (nextPc (s.tile t).loops (s.tile t).pc).2 }.branchTo
        (nextPc (s.tile t).loops (s.tile t).pc).1)).updDev (fun d => { d with halts := d.halts ++ [t] })) := by
  obtain ⟨hon, hword, -⟩ := hi
  simp only [exec, execHalt, hon, hword, Bool.and_self, if_true, issue, haltOp]

section
variable {f : LoopOps} {x : Tile}

theorem loopOp_backward (h : f.stop.toNat ≤ x.pc.toNat) : loopOp f x = illegal x := if_pos h

theorem loopOp_fifth (hstop : x.pc.toNat < f.stop.toNat) (h : 4 ≤ x.loops.length) :
    loopOp f x = outOfRange x unitSequencer := by
  simp only [loopOp, if_neg (Nat.not_le.2 hstop), ge_iff_le, if_pos h]

theorem loopOp_body (hstop : x.pc.toNat < f.stop.toNat) (hroom : x.loops.length < 4) :
    loopOp f x = let n := if f.count = 0 then (x.sreg f.a).toNat else f.count.toNat
      if n = 0 then .goto x (f.stop + 1) else .done { x with loops := ⟨x.pc + 1, f.stop, n, 0⟩ :: x.loops } := by
  simp only [loopOp, if_neg (Nat.not_le.2 hstop), ge_iff_le, if_neg (Nat.not_le.2 hroom)]

end

/-- Settles O13: each control instruction's attempt at issue, branch by branch of its condition. -/
theorem controlInstructionsSequence : Obligations.ControlInstructionsSequence := by
  refine ⟨fun t f g s => ?flow, fun t s => ?ends⟩
  case flow =>
    intro x a b n
    refine ⟨?beq, ?bne, ?blt, ?bge, ?jmp, ?body, ?empty, ?backward, ?fifth⟩
    case beq => exact fun hi => branchOp_result (exec_beq t f s) hi (by simp [a, b, x, beq_eq_decide])
    case bne => exact fun hi => branchOp_result (exec_bne t f s) hi (by simp [a, b, x, bne, beq_eq_decide])
    case blt => exact fun hi => branchOp_result (exec_blt t f s) hi rfl
    case bge => exact fun hi => branchOp_result (exec_bge t f s) hi rfl
    case jmp => exact fun hi => tileExec_goto _ t _ s _ _ hi rfl
    case body =>
      intro hi hstop hroom hn
      exact tileExec_done _ t _ s _ hi ((loopOp_body hstop hroom).trans (if_neg hn))
    case empty =>
      intro hi hstop hroom hn
      exact tileExec_goto _ t _ s _ _ hi ((loopOp_body hstop hroom).trans (if_pos hn))
    case backward =>
      intro hi hstop
      exact tileExec_fault _ t _ s _ _ hi (loopOp_backward hstop)
    case fifth =>
      intro hi hstop hfull
      exact tileExec_fault _ t _ s _ _ hi (loopOp_fifth hstop hfull)
  case ends =>
    intro x
    refine ⟨?between, ?behind, ?halt⟩
    case between =>
      intro hi hidle
      refine ⟨_, tileExec_done _ t _ s _ hi (if_neg (not_not.2 hidle)), rfl, rfl, rfl, rfl, rfl, rfl, rfl, SameMemories.refl x⟩
    case behind =>
      intro hi hqueued
      exact tileExec_wait _ t _ s _ _ hi (if_pos hqueued)
    case halt =>
      intro hi
      refine ⟨_, exec_halt hi, ?_⟩
      rw [State.tile_updDev, State.tile_putTile]
      exact ⟨rfl, rfl, rfl, rfl, rfl, SameMemories.refl x⟩

end Sys2Proof.Machine

/-! SUPPORT. PASS and its block ends. -/

namespace Sys2Proof.Machine
open Sys2Proof

/-! ### PASS (R244 to R247) -/

@[simp] theorem intrude_blockEnds (i : Intrusion) (x : Tile) : (intrude i x).blockEnds = x.blockEnds := by rw [intrude_eq]
@[simp] theorem intrude_passes (i : Intrusion) (x : Tile) : (intrude i x).passes = x.passes := by rw [intrude_eq]
@[simp] theorem intrude_regBlocks (i : Intrusion) (x : Tile) : (intrude i x).regBlocks = x.regBlocks := by rw [intrude_eq]
@[simp] theorem intrude_regCount (i : Intrusion) (x : Tile) : (intrude i x).regCount = x.regCount := by rw [intrude_eq]
@[simp] theorem intrude_maxDwell (i : Intrusion) (x : Tile) : (intrude i x).maxDwell = x.maxDwell := by rw [intrude_eq]
@[simp] theorem intrude_takeBlocks (i : Intrusion) (x : Tile) (rs : List LineRange) :
    (intrude i x).takeBlocks rs = x.takeBlocks rs := by rw [intrude_eq]; rfl

/-- What of a PASS nothing stops at issue: TALLY or a self-test, slots in range and open, ranges that exist, the session's own
cache lines, no scoreboard entry, and no event that stops it. -/
structure PassReady (family : BitVec 16) (f : PassOps) (i : Intrusion) (x : Tile) : Prop where
  tally : f.tally = true ∨ x.test = true
  slots : f.slot.toNat + dwellOf f ≤ 16
  allOpen : ∀ k, k < dwellOf f → (x.slot (f.slot.toNat + k)).isOpen = true
  ranges : rangesFault unitPane (passRanges f x) = none
  own : f.isCache = true → ownCheck (.sessionRead x.ctx.session x.ctx.tenant) family x unitPane (x.line f.aw)
    (operandLines f) = none
  free : x.sbBlocks (passRanges f x) [] = false
  events : intrusionStops i unitPane = none

section
variable {family : BitVec 16} {f : PassOps} {i : Intrusion} {x : Tile} (w : BitVec 64)

theorem PassReady.scan (h : PassReady family f i x) :
    (List.range (dwellOf f)).any (fun k => !(x.slot (f.slot.toNat + k)).isOpen) = false := by
  simpa [List.any_eq_false] using h.allOpen

theorem PassReady.ownCheck_none (h : PassReady family f i x) :
    (if f.isCache then ownCheck (.sessionRead x.ctx.session x.ctx.tenant) family x unitPane (x.line f.aw)
      (operandLines f) else none) = none := by
  split
  · next hcache => exact h.own hcache
  · rfl

theorem PassReady.tally_false (h : PassReady family f i x) : (!f.tally && !x.test) = false := by
  rcases h.tally with h | h <;> simp [h]

/-- A PASS behind a TAKE that still fills its lines, or behind such a PASS, keeps its steps for later. -/
theorem passOp_behind (h : PassReady family f i x) (hbehind : x.takeBlocks (passRanges f x) = true ∨ x.passes ≠ []) :
    passOp family f i w x = .done { (intrude i x).startPass f with
      passes := x.passes ++ [⟨f, x.line f.aw, x.line f.aa, x.sreg f.sc, 0, x.pc, w⟩] } := by
  have hlater : (x.takeBlocks (passRanges f x) || !x.passes.isEmpty) = true := by simpa using hbehind
  simp only [passOp, h.tally_false, Bool.false_eq_true, if_false, gt_iff_lt, if_neg (Nat.not_lt.2 h.slots), h.scan, h.ranges,
    h.ownCheck_none, h.free, accessing_on _ _ _ _ h.events, intrude_takeBlocks, intrude_passes, hlater, if_true]

/-- Otherwise its block ends are on their way at once. -/
theorem passOp_now (h : PassReady family f i x) (htakes : x.takeBlocks (passRanges f x) = false) (hpasses : x.passes = [])
    {p : List BlockEnd × Nat}
    (hsteps : passSteps f (x.line f.aw) (x.line f.aa) (x.sreg f.sc) (intrude i x) f.steps.toNat = .ok p) :
    passOp family f i w x = .done (((intrude i x).startPass f).addEnds p) := by
  simp only [passOp, h.tally_false, Bool.false_eq_true, if_false, gt_iff_lt, if_neg (Nat.not_lt.2 h.slots), h.scan, h.ranges,
    h.ownCheck_none, h.free, accessing_on _ _ _ _ h.events, intrude_takeBlocks, intrude_passes, htakes, hpasses, hsteps,
    List.isEmpty_nil, Bool.not_true, Bool.or_self]

end

/-! ### BLOCK_END (R74, R76, R84, R248) -/

theorem feedPass_keeps {n : Nat} {p q : PassRun} {x y : Tile} (h : feedPass n p x = .ok (q, y)) :
    y = { x with blockEnds := y.blockEnds, regBlocks := y.regBlocks, regCount := y.regCount } := by
  induction n generalizing p x with
  | zero => cases h; rfl
  | succ n ih =>
    unfold feedPass at h
    split at h
    · cases h; rfl
    · split at h
      · cases h
      · exact (ih h).trans rfl

/-- Feeding the waiting passes brings block ends and their counts, and drops passes. -/
theorem feedPasses_keeps {ps : List PassRun} {x y : Tile} (h : feedPasses ps x = .ok y) :
    y = { x with blockEnds := y.blockEnds, regBlocks := y.regBlocks, regCount := y.regCount, passes := y.passes } := by
  induction ps generalizing x with
  | nil => cases h; rfl
  | cons p ps ih =>
    unfold feedPasses at h
    split at h
    · cases h
    · next hfeed =>
      have hkeeps := feedPass_keeps hfeed
      split at h
      · rw [ih h, hkeeps]
      · cases h
        rw [hkeeps]

/-- The columns of a slot after a block end: each has its own term added. -/
theorem addColumns_get (b : BlockEnd) (k : Nat) (is : List Int) (ws : List Byte) (m : Tbl Acc40) (n : Nat) :
    Tbl.get 0 (addColumns b k is ws m).1 n =
      if k ≤ n ∧ n - k < is.length ∧ n - k < ws.length then
        (accAdd (Tbl.get 0 m n) (blockTerm b (nth 0 is (n - k)) (nth 0 ws (n - k)))).1
      else Tbl.get 0 m n := by
  induction is generalizing k ws m with
  | nil => simp [addColumns]
  | cons i is ih =>
    cases ws with
    | nil => simp [addColumns]
    | cons w ws =>
      rw [addColumns, ih]
      rcases Nat.lt_trichotomy n k with hlt | rfl | hgt
      · rw [if_neg (by omega), if_neg (by omega), Tbl.get_set_other _ _ _ (by omega)]
      · rw [if_neg (by omega), if_pos (by simp), Tbl.get_set_same]
        simp [nth]
      · obtain ⟨d, rfl⟩ := Nat.exists_eq_add_of_lt hgt
        rw [Tbl.get_set_other _ _ _ (by omega)]
        have hd : k + d + 1 - k = d + 1 := by omega
        have hd' : k + d + 1 - (k + 1) = d := by omega
        simp [hd, hd', nth, show k ≤ k + d + 1 by omega]

theorem Tile.slot_putSlot (x : Tile) (n k : Nat) (y : Slot) : (x.putSlot n y).slot k = if k = n then y else x.slot k :=
  Tbl.get_set _ _ _ _ _

/-- A block end that checks out: its term is added to each column of its slot, whose blocks count one more. -/
theorem retireBlockEnd_slot (b : BlockEnd) (rest : List BlockEnd) (x : Tile) (k : Nat) :
    (retireBlockEnd b rest x).slot k =
      if k = b.slot.toNat then (addBlockEnd b (x.slot b.slot.toNat)).1 else x.slot k :=
  Tile.slot_putSlot x b.slot.toNat k _

theorem addBlockEnd_vals {b : BlockEnd} (hints : b.ints.length = 64) (hscales : b.wscales.length = 64) (x : Slot) {n : Nat}
    (hn : n < 64) : Tbl.get 0 (addBlockEnd b x).1.vals n =
      (accAdd (Tbl.get 0 x.vals n) (blockTerm b (nth 0 b.ints n) (nth 0 b.wscales n))).1 := by
  refine (addColumns_get b 0 b.ints b.wscales x.vals n).trans ?_
  rw [hints, hscales, Nat.sub_zero, if_pos ⟨Nat.zero_le n, hn, hn⟩]

theorem foldl_closes_get (p : Nat → Bool) (ns : List Nat) (m : Tbl Slot) (k : Nat) :
    Tbl.get {} (ns.foldl (fun m n => if p n then Tbl.set {} m n {} else m) m) k =
      if k ∈ ns ∧ p k = true then {} else Tbl.get {} m k := by
  induction ns generalizing m with
  | nil => simp
  | cons n ns ih =>
    rw [List.foldl_cons, ih]
    by_cases hp : p n = true
    · rw [if_pos hp, Tbl.get_set]
      by_cases hk : k = n
      · subst hk; simp [hp]
      · simp [hk]
    · rw [if_neg hp]
      by_cases hk : k = n
      · subst hk; simp [hp]
      · simp [hk]

/-- The slots written in the wave close (R77). -/
theorem Tile.slot_closeWritten (x : Tile) (k : Nat) :
    x.closeWritten.slot k = if k < 16 ∧ bitAt x.written k = true then {} else x.slot k := by
  refine (foldl_closes_get (fun n => bitAt x.written n) (List.range 16) x.slots k).trans ?_
  simp only [List.mem_range]
  rfl

/-- A compute fault closes the wave's slots, drops its block ends, and is counted. -/
theorem takeFault_compute_tile (t : TileId) (w : BitVec 64) (s : State) :
    (takeFault t .compute w s).tile t = { (recordFault .compute (s.tile t).pc w s.dev.time (s.tile t)).closeWritten with
      blockEnds := [], passes := []
      seq := if (s.tile t).seq = .halted then .halted else .held
      wait := .none
      sent := (recordFault .compute (s.tile t).pc w s.dev.time (s.tile t)).sent + 1 } := by
  simp [takeFault, takeFaultAt, takeFaultFor, sendFaultNote, Tile.closeWritten]

theorem exec_blockEnd_ok {t : TileId} {e : PaneError} {s : State} {y : Tile}
    (hactive : (s.block (tileBlock t)).pstate = .active) (hfeed : feedPasses (s.tile t).passes (s.tile t) = .ok y) :
    exec (.blockEnd t e) s = .next (endBlock t e (s.putTile t y)) := by
  simp [exec, execBlockEnd, hactive, hfeed]

theorem exec_blockEnd_error {t : TileId} {e : PaneError} {s : State} {r : ParcelFault × PassRun}
    (hactive : (s.block (tileBlock t)).pstate = .active) (hfeed : feedPasses (s.tile t).passes (s.tile t) = .error r) :
    exec (.blockEnd t e) s = .next (takeFaultAt t (parcelFault unitPane r.1) r.2.pc r.2.word
      (s.updTile t (fun x => { x with passes := [] }))) := by
  simp [exec, execBlockEnd, hactive, hfeed]

theorem endBlock_good {t : TileId} {e : PaneError} {s : State} {b : BlockEnd} {rest : List BlockEnd}
    (hends : (s.tile t).blockEnds = b :: rest) (h : blockEndFaults b e = false) :
    endBlock t e s = s.updTile t (retireBlockEnd b rest) := by
  simp [endBlock, hends, h]

theorem endBlock_bad {t : TileId} {e : PaneError} {s : State} {b : BlockEnd} {rest : List BlockEnd}
    (hends : (s.tile t).blockEnds = b :: rest) (h : blockEndFaults b e = true) :
    endBlock t e s = takeFault t .compute 0 s := by
  simp [endBlock, hends, h]

/-- A bad parcel in a waiting pass is its fault, with every waiting pass dropped. -/
theorem takeFaultAt_parcel_tile (t : TileId) (c : ParcelFault) (pc : BitVec 12) (w : BitVec 64) (s : State) :
    ((takeFaultAt t (parcelFault unitPane c) pc w s).tile t).seq = (if (s.tile t).seq = .halted then .halted else .held) ∧
    ((takeFaultAt t (parcelFault unitPane c) pc w s).tile t).passes = (s.tile t).passes := by
  have hne : parcelFault unitPane c ≠ .compute := by cases c <;> nofun
  simp only [takeFaultAt, takeFaultFor, sendFaultNote, copyNote_tile, tileSends_tile, State.tile_putTile, if_neg hne, true_and]
  rw [recordFault_eq]

/-- Settles O14: what a PASS that nothing stops leaves, and what a block end does by its checks. -/
theorem passesAndBlockEnds : Obligations.PassesAndBlockEnds := by
  refine ⟨fun t f i s => ?pass, fun t e s hactive => ⟨fun y b rest hfeed hends => ?_, fun p hfeed => ?bad⟩⟩
  case pass =>
    intro x y d hissues htally hslots hopen hranges hown hfree hevents
    have hready : PassReady (s.familyOf x.ctx.session) f i x := ⟨htally, hslots, hopen, hranges, hown, hfree, hevents⟩
    refine ⟨fun ends regs htakes hpasses hsteps => ?_, fun hbehind => ?_⟩
    · refine (tileExec_done _ t _ s _ hissues (passOp_now _ hready htakes hpasses hsteps)).trans ?_
      have hends : y.blockEnds = x.blockEnds := intrude_blockEnds _ _
      have hregs : y.regBlocks = x.regBlocks := intrude_regBlocks _ _
      have hcount : y.regCount = x.regCount := intrude_regCount _ _
      have hdwell : y.maxDwell = x.maxDwell := intrude_maxDwell _ _
      rw [← hends, ← hregs, ← hcount, ← hdwell]
      rfl
    · refine (tileExec_done _ t _ s _ hissues (passOp_behind _ hready hbehind)).trans ?_
      have hdwell : y.maxDwell = x.maxDwell := intrude_maxDwell _ _
      rw [← hdwell]
      rfl
  case bad =>
    have h := takeFaultAt_parcel_tile t p.1 p.2.pc p.2.word (s.updTile t (fun x => { x with passes := [] }))
    rw [State.tile_updTile] at h
    exact ⟨_, exec_blockEnd_error hactive hfeed, h⟩
  have hkeeps := feedPasses_keeps hfeed
  have hput : ((s.putTile t y).tile t).blockEnds = b :: rest := by rw [State.tile_putTile, hends]
  have hslot (k : Nat) : y.slot k = (s.tile t).slot k := by rw [hkeeps]; rfl
  have hexec := exec_blockEnd_ok (e := e) hactive hfeed
  refine ⟨fun hgood hints hscales => ?_, fun hbad => ?_⟩
  · rw [endBlock_good hput hgood] at hexec
    refine ⟨_, hexec, ?_⟩
    rw [State.tile_updTile, State.tile_putTile]
    refine ⟨rfl, fun n hn => ?_, ?_, fun k hk => ?_, ?_⟩
    · rw [retireBlockEnd_slot, if_pos rfl, addBlockEnd_vals hints hscales _ hn, hslot]
    · rw [retireBlockEnd_slot, if_pos rfl, ← hslot]
      rfl
    · rw [retireBlockEnd_slot, if_neg hk, hslot]
    · rw [hkeeps]
      exact SameMemories.refl _
  · rw [endBlock_bad hput hbad] at hexec
    refine ⟨_, hexec, ?_⟩
    rw [takeFault_compute_tile, State.tile_putTile, hkeeps]
    refine ⟨rfl, rfl, fun k hk hwritten => ?_, rfl, ?_⟩
    · refine (Tile.slot_closeWritten _ k).trans (if_pos ⟨hk, hwritten⟩)
    · rw [takeFault_cards, State.tile_putTile]
      rfl

end Sys2Proof.Machine

/-! SUPPORT. FIN operations lane by lane. -/

namespace Sys2Proof.Machine
open Sys2Proof

/-! ### FIN operations (R84 to R91, R251 to R253) -/

@[simp] theorem intrude_tables (i : Intrusion) (x : Tile) : (intrude i x).tables = x.tables := by rw [intrude_eq]
@[simp] theorem intrude_killed (i : Intrusion) (x : Tile) : (intrude i x).killed = x.killed := by rw [intrude_eq]
@[simp] theorem intrude_finFlags (i : Intrusion) (x : Tile) : (intrude i x).finFlags = x.finFlags := by rw [intrude_eq]

section
variable (f : FinOps) (i : Intrusion) (x : Tile)

@[simp] theorem xRanges_intrude : xRanges f (intrude i x) = xRanges f x := by simp [xRanges]
@[simp] theorem yRanges_intrude : yRanges f (intrude i x) = yRanges f x := by simp [yRanges]
@[simp] theorem dRanges_intrude : dRanges f (intrude i x) = dRanges f x := by simp [dRanges]
@[simp] theorem recRange_intrude : recRange f (intrude i x) = recRange f x := by simp [recRange]
@[simp] theorem reduceRange_intrude (per : Nat) : reduceRange f per (intrude i x) = reduceRange f per x := by
  simp [reduceRange]
@[simp] theorem killedWords_intrude (k : Nat) : killedWords f k (intrude i x) = killedWords f k x := by simp [killedWords]

end

/-- A FIN that nothing stops writes the lines of its body and sets the body's flags. -/
theorem finOpAfter_done {first : Tile → Option TileFault} {f : FinOps} {i : Intrusion} {reads writes : List LineRange}
    {body : Tile → BitVec 3 × Except TileFault FinOut} {x : Tile} {fl : BitVec 3} {o : FinOut}
    (h : FinReady f i reads writes x) (hfirst : first x = none) (hbody : body (intrude (finEvents f i) x) = (fl, .ok o)) :
    finOpAfter first f i reads writes body x =
      .done (putLines o.writes ((intrude (finEvents f i) x).addFlags (fl ||| o.flags))) := by
  obtain ⟨hslots, hranges, hfree, hevents⟩ := h
  have hin : (f.xslot && decide (f.ax.toNat + vectors f > 16)) = false := by
    cases hx : f.xslot
    · rfl
    · simpa using (hslots hx).1
  have hopen : (f.xslot && (List.range (vectors f)).any (fun c => !(x.slot (f.ax.toNat + c)).isOpen)) = false := by
    cases hx : f.xslot
    · rfl
    · simpa using (hslots hx).2.1
  have hidle : (f.xslot && x.slotBusy f.ax.toNat (vectors f)) = false := by
    cases hx : f.xslot
    · rfl
    · simpa using (hslots hx).2.2
  simp only [finOpAfter, hin, hopen, hranges, hidle, hfree, hfirst, accessing_on _ _ _ _ hevents, hbody, Bool.false_eq_true,
    if_false]

theorem finOp_done {f : FinOps} {i : Intrusion} {reads writes : List LineRange}
    {body : Tile → BitVec 3 × Except TileFault FinOut} {x : Tile} {fl : BitVec 3} {o : FinOut}
    (h : FinReady f i reads writes x) (hbody : body (intrude (finEvents f i) x) = (fl, .ok o)) :
    finOp f i reads writes body x =
      .done (putLines o.writes ((intrude (finEvents f i) x).addFlags (fl ||| o.flags))) :=
  finOpAfter_done h rfl hbody

/-- A FIN instruction that nothing stops, with its ranges as its body's tile has them. -/
theorem executes_of_finOp {c : Instr} {t : TileId} {s : State} {f : FinOps} {i : Intrusion}
    {reads writes : Tile → List LineRange} {body : Tile → BitVec 3 × Except TileFault FinOut} {fl fls : BitVec 3}
    {ws : List (Nat × List Line)}
    (hexec : exec c s = tileExec c t (fun x => finOp f i (reads x) (writes x) body x) s) (hi : Issues c t s)
    (h : FinReady f i (reads (s.tile t)) (writes (s.tile t)) (s.tile t))
    (hbody : body (intrude (finEvents f i) (s.tile t)) = (fl, .ok ⟨ws, fls⟩)) :
    Executes c t s (putLines ws ((intrude (finEvents f i) (s.tile t)).addFlags (fl ||| fls))) :=
  hexec.trans (tileExec_done c t _ s _ hi (finOp_done h hbody))

/-! ### Bodies over vectors -/

theorem map_fst_zipIdx {α β : Type} (g : α → β) (as : List α) (k : Nat) : (as.zipIdx k).map (fun p => g p.1) = as.map g := by
  rw [show (fun p : α × Nat => g p.1) = g ∘ Prod.fst from rfl, ← List.map_map, List.zipIdx_map_fst]

theorem vecWrites_eq (f : FinOps) (x : Tile) (rs : List (List Word × BitVec 3)) :
    vecWrites f x (rs.map Prod.fst) = rs.zipIdx.map (fun p => (x.line f.ad + 4 * p.2, vecLines p.1.1)) := by
  simp [vecWrites, List.zipIdx_map]

/-- The writes and flags of a body over the X vectors. -/
theorem mapX_ok {f : FinOps} {x : Tile} {xs : List (List Word × BitVec 3)} (hx : xVectors f x = .ok xs)
    (g : Tile → Nat → List Word → List Word × BitVec 3) :
    let rs := xs.zipIdx.map (fun p => g x p.2 p.1.1)
    mapX f g x = (orFlags (xs.map Prod.snd),
      .ok ⟨rs.zipIdx.map (fun p => (x.line f.ad + 4 * p.2, vecLines p.1.1)), orFlags (rs.map Prod.snd)⟩) := by
  simp only [mapX, hx, vecWrites_eq]

/-- The writes and flags of a body over the X and Y vectors. -/
theorem mapXY_ok {f : FinOps} {x : Tile} {xs : List (List Word × BitVec 3)} {ys : List (List Word)}
    (hx : xVectors f x = .ok xs) (hy : overVectors (finY f x) 0 (vectors f) = .ok ys)
    (g : Tile → Nat → List Word → List Word → List Word × BitVec 3) :
    let rs := (xs.zip ys).zipIdx.map (fun p => g x p.2 p.1.1.1 p.1.2)
    mapXY f g x = (orFlags (xs.map Prod.snd),
      .ok ⟨rs.zipIdx.map (fun p => (x.line f.ad + 4 * p.2, vecLines p.1.1)), orFlags (rs.map Prod.snd)⟩) := by
  simp only [mapXY, hx, hy, vecWrites_eq]

theorem executes_of_finBin {c : Instr} {t : TileId} {s : State} {f : FinOps} {i : Intrusion} {ovf : Bool}
    {g : Word → Word → Word} {xs : List (List Word × BitVec 3)} {ys : List (List Word)}
    (hexec : exec c s = finBin c t f i ovf g s) (hi : Issues c t s)
    (h : FinReady f i (xRanges f (s.tile t) ++ yRanges f (s.tile t)) (dRanges f (s.tile t)) (s.tile t))
    (hx : xVectors f (intrude (finEvents f i) (s.tile t)) = .ok xs)
    (hy : overVectors (finY f (intrude (finEvents f i) (s.tile t))) 0 (vectors f) = .ok ys) :
    let x := intrude (finEvents f i) (s.tile t)
    let rs := (xs.zip ys).map (fun p => lanes2 ovf g p.1.1 p.2)
    Executes c t s (putLines (rs.zipIdx.map (fun p => (x.line f.ad + 4 * p.2, vecLines p.1.1)))
      (x.addFlags (orFlags (xs.map Prod.snd) ||| orFlags (rs.map Prod.snd)))) := by
  intro x rs
  have hbody := mapXY_ok hx hy (fun _ _ => lanes2 ovf g)
  dsimp only at hbody
  rw [map_fst_zipIdx (fun p : (List Word × BitVec 3) × List Word => lanes2 ovf g p.1.1 p.2) (xs.zip ys) 0] at hbody
  have hexec' : exec c s = tileExec c t (fun x => finOp f i (xRanges f x ++ yRanges f x) (dRanges f x)
    (mapXY f (fun _ _ => lanes2 ovf g)) x) s := hexec
  have hdone := executes_of_finOp hexec' hi h hbody
  exact hdone

theorem executes_of_mapX {c : Instr} {t : TileId} {s : State} {f : FinOps} {i : Intrusion}
    {g : Tile → Nat → List Word → List Word × BitVec 3} {xs : List (List Word × BitVec 3)}
    (hexec : exec c s = tileExec c t (fun x => finOp f i (xRanges f x) (dRanges f x) (mapX f g) x) s) (hi : Issues c t s)
    (h : FinReady f i (xRanges f (s.tile t)) (dRanges f (s.tile t)) (s.tile t))
    (hx : xVectors f (intrude (finEvents f i) (s.tile t)) = .ok xs) (e : List Word → List Word × BitVec 3)
    (hg : ∀ k v, g (intrude (finEvents f i) (s.tile t)) k v = e v) :
    let x := intrude (finEvents f i) (s.tile t)
    let rs := xs.map (fun v => e v.1)
    Executes c t s (putLines (rs.zipIdx.map (fun p => (x.line f.ad + 4 * p.2, vecLines p.1.1)))
      (x.addFlags (orFlags (xs.map Prod.snd) ||| orFlags (rs.map Prod.snd)))) := by
  intro x rs
  have hbody := mapX_ok hx g
  simp only [hg] at hbody
  rw [map_fst_zipIdx (fun v : List Word × BitVec 3 => e v.1) xs 0] at hbody
  have hdone := executes_of_finOp hexec hi h hbody
  exact hdone

theorem executes_of_finUn {c : Instr} {t : TileId} {s : State} {f : FinOps} {i : Intrusion} {ovf : Bool}
    {g : Tile → Word → Word} {xs : List (List Word × BitVec 3)} (hexec : exec c s = finUn c t f i ovf g s) (hi : Issues c t s)
    (h : FinReady f i (xRanges f (s.tile t)) (dRanges f (s.tile t)) (s.tile t))
    (hx : xVectors f (intrude (finEvents f i) (s.tile t)) = .ok xs) :
    let x := intrude (finEvents f i) (s.tile t)
    let rs := xs.map (fun v => lanes1 ovf (g x) v.1)
    Executes c t s (putLines (rs.zipIdx.map (fun p => (x.line f.ad + 4 * p.2, vecLines p.1.1)))
      (x.addFlags (orFlags (xs.map Prod.snd) ||| orFlags (rs.map Prod.snd)))) := by
  have hexec' : exec c s = tileExec c t (fun x => finOp f i (xRanges f x) (dRanges f x)
    (mapX f (fun y _ => lanes1 ovf (g y))) x) s := hexec
  exact executes_of_mapX hexec' hi h hx (lanes1 ovf (g (intrude (finEvents f i) (s.tile t)))) fun _ _ => rfl

theorem noteKilled_done (ks : List Nat) (y : Tile) : noteKilled ks (.done y) = .done { y with killed := y.killed ++ ks } := rfl

theorem exec_finRecip (t : TileId) (f : FinOps) (i : Intrusion) (s : State) :
    exec (.finRecip t ⟨f, i⟩) s = tileExec (.finRecip t ⟨f, i⟩) t (fun x => finOp f i (xRanges f x) (dRanges f x)
      (mapX f (fun _ _ xs =>
        (xs.map frecip, orFlags (xs.map (fun v => laneFlags (!isZeroF v) [v] (frecip v)))))) x) s := rfl

theorem exec_finExpm (t : TileId) (f : FinOps) (i : Intrusion) (s : State) :
    exec (.finExpm t ⟨f, i⟩) s = tileExec (.finExpm t ⟨f, i⟩) t (fun x => finOp f i (xRanges f x) (dRanges f x)
      (mapX f (fun y _ xs => (xs.map (fun v => fexpm v (y.sreg f.ss)),
        orFlags (xs.map (fun v => laneFlags true [v, y.sreg f.ss] (fexpm v (y.sreg f.ss))))))) x) s := rfl

theorem exec_finKill (t : TileId) (f : FinOps) (i : Intrusion) (s : State) :
    exec (.finKill t ⟨f, i⟩) s = tileExec (.finKill t ⟨f, i⟩) t (fun x =>
      if (x.sreg f.ss).toNat / 64 ≥ vectors f then outOfRange x unitFinisher
      else noteKilled (killedWords f (x.sreg f.ss).toNat x) (finOp f i (xRanges f x) (dRanges f x)
        (killLanes f (x.sreg f.ss).toNat) x)) s := rfl

/-- Settles O16: the lanes of each vector go through the operation of its row. -/
theorem finLaneOperations : Obligations.FinLaneOperations := by
  refine ⟨fun t f i s xs ys => ?binary, fun t f i s xs => ?unary⟩
  case binary =>
    intro x hx hy out ready hready
    have h : FinReady f i (xRanges f (s.tile t) ++ yRanges f (s.tile t)) (dRanges f (s.tile t)) (s.tile t) := by
      simpa only [ready, x, xRanges_intrude, yRanges_intrude, dRanges_intrude] using hready
    refine ⟨fun hi => ?_, fun hi => ?_, fun hi => ?_, fun hi => ?_, fun hi => ?_, fun hi => ?_⟩
    · exact executes_of_finBin rfl hi h hx hy
    · exact executes_of_finBin rfl hi h hx hy
    · exact executes_of_finBin rfl hi h hx hy
    · exact executes_of_finBin rfl hi h hx hy
    · exact executes_of_finBin rfl hi h hx hy
    · exact executes_of_finBin rfl hi h hx hy
  case unary =>
    intro x hx hready out each killed
    have h : FinReady f i (xRanges f (s.tile t)) (dRanges f (s.tile t)) (s.tile t) := by
      simpa only [x, xRanges_intrude, dRanges_intrude] using hready
    refine ⟨?copy, ?recip, ?rsqrt, ?exp, ?expm, ?lookup, ?kill⟩
    case copy =>
      intro hi
      have hexec : exec (.finCopy t ⟨f, i⟩) s = finUn (.finCopy t ⟨f, i⟩) t f i false (fun _ => quietNaN) s := rfl
      have hdone := executes_of_finUn hexec hi h hx
      exact hdone
    case recip =>
      intro hi
      have hdone := executes_of_mapX (exec_finRecip t f i s) hi h hx _ fun _ _ => rfl
      exact hdone
    case rsqrt =>
      intro hi
      have hexec : exec (.finRsqrt t ⟨f, i⟩) s = finUn (.finRsqrt t ⟨f, i⟩) t f i false (fun _ => frsqrt) s := rfl
      have hdone := executes_of_finUn hexec hi h hx
      exact hdone
    case exp =>
      intro hi
      have hexec : exec (.finExp t ⟨f, i⟩) s = finUn (.finExp t ⟨f, i⟩) t f i true (fun _ => fexp) s := rfl
      have hdone := executes_of_finUn hexec hi h hx
      exact hdone
    case expm =>
      intro hi
      have hdone := executes_of_mapX (exec_finExpm t f i s) hi h hx
        (fun vs => (vs.map (fun a => fexpm a (x.sreg f.ss)),
          orFlags (vs.map (fun a => laneFlags true [a, x.sreg f.ss] (fexpm a (x.sreg f.ss)))))) fun _ _ => rfl
      exact hdone
    case lookup =>
      intro hi
      have hexec : exec (.finLookup t ⟨f, i⟩) s = finUn (.finLookup t ⟨f, i⟩) t f i false (fun y v => lookupTable (Tbl.get {} y.tables (tableNo f)) v) s := rfl
      have hdone := executes_of_finUn hexec hi h hx
      exact hdone
    case kill =>
      intro hi hlane
      have hsreg : x.sreg f.ss = (s.tile t).sreg f.ss := intrude_sreg _ _ _
      have hbody : killLanes f ((s.tile t).sreg f.ss).toNat x = _ := mapX_ok hx _
      have hwords : killedWords f (x.sreg f.ss).toNat x = killedWords f (x.sreg f.ss).toNat (s.tile t) :=
        killedWords_intrude f _ _ _
      rw [hsreg] at hlane
      rw [hwords]
      refine tileExec_done _ t _ s _ hi ?_
      dsimp only
      rw [if_neg (Nat.not_le.2 hlane), finOp_done h hbody, noteKilled_done, ← hsreg]

end Sys2Proof.Machine

/-! SUPPORT. The other FIN operations, LOADTBL and CLEAR. -/

namespace Sys2Proof.Machine
open Sys2Proof

/-! ### The other FIN operations, LOADTBL and CLEAR (R85 to R91, R251 to R253) -/

section
variable {t : TileId} {s : State} {f : FinOps} {i : Intrusion}

/-- A FIN whose ranges are those of its body's tile, and whose body answers its writes and flags. -/
theorem executes_of_body {c : Instr} {reads writes : Tile → List LineRange}
    {body : Tile → BitVec 3 × Except TileFault FinOut} {fl : BitVec 3} {o : FinOut}
    (hexec : exec c s = tileExec c t (fun x => finOp f i (reads x) (writes x) body x) s) (hi : Issues c t s)
    (hreads : ∀ (k : Intrusion) (x : Tile), reads (intrude k x) = reads x)
    (hwrites : ∀ (k : Intrusion) (x : Tile), writes (intrude k x) = writes x)
    (h : FinReady f i (reads (intrude (finEvents f i) (s.tile t))) (writes (intrude (finEvents f i) (s.tile t))) (s.tile t))
    (hbody : body (intrude (finEvents f i) (s.tile t)) = (fl, .ok o)) :
    Executes c t s (putLines o.writes ((intrude (finEvents f i) (s.tile t)).addFlags (fl ||| o.flags))) := by
  rw [hreads, hwrites] at h
  exact executes_of_finOp hexec hi h hbody

end

theorem exec_finFma (t : TileId) (f : FinOps) (i : Intrusion) (s : State) :
    exec (.finFma t ⟨f, i⟩) s = tileExec (.finFma t ⟨f, i⟩) t (fun x =>
      finOp f i (xRanges f x ++ yRanges f x ++ dRanges f x) (dRanges f x) (fmaBody f) x) s := rfl

theorem exec_finLanesum (t : TileId) (f : FinOps) (i : Intrusion) (s : State) :
    exec (.finLanesum t ⟨f, i⟩) s = tileExec (.finLanesum t ⟨f, i⟩) t (fun x =>
      finOp f i (xRanges f x ++ (if accOf f then reduceRange f 16 x else [])) (reduceRange f 16 x) (sumBody f false) x) s := rfl

theorem exec_finSumsq (t : TileId) (f : FinOps) (i : Intrusion) (s : State) :
    exec (.finSumsq t ⟨f, i⟩) s = tileExec (.finSumsq t ⟨f, i⟩) t (fun x =>
      finOp f i (xRanges f x ++ (if accOf f then reduceRange f 16 x else [])) (reduceRange f 16 x) (sumBody f true) x) s := rfl

theorem exec_finMaxidx (t : TileId) (f : FinOps) (i : Intrusion) (s : State) :
    exec (.finMaxidx t ⟨f, i⟩) s = tileExec (.finMaxidx t ⟨f, i⟩) t (fun x =>
      finOp f i (xRanges f x ++ recRange f x ++ (if accOf f then reduceRange f 8 x else [])) (reduceRange f 8 x)
        (if s.isRouter t then gateBody f else pickBody f false) x) s := rfl

theorem exec_finMinidx (t : TileId) (f : FinOps) (i : Intrusion) (s : State) :
    exec (.finMinidx t ⟨f, i⟩) s = tileExec (.finMinidx t ⟨f, i⟩) t (fun x =>
      finOp f i (xRanges f x ++ recRange f x ++ (if accOf f then reduceRange f 8 x else [])) (reduceRange f 8 x)
        (pickBody f true) x) s := rfl

theorem zipIdx_map_map {α β γ : Type} (h : α → β) (g : β × Nat → γ) (as : List α) :
    (as.map h).zipIdx.map g = as.zipIdx.map (fun p => g (h p.1, p.2)) := by
  rw [List.zipIdx_map, List.map_map]
  rfl

/-- The body of RMS: each lane by R86's factor of the sum register and epsilon. -/
def rmsBody (f : FinOps) : Tile → Nat → List Word → List Word → List Word × BitVec 3 := fun y _ xs ys =>
  let q := y.sreg f.ss
  let eps := y.sreg (f.ss + 1)
  let r := rmsFactor q eps f.opx.toNat
  (zipWords (fun a b => rmsLane a b r) xs ys, orFlags ((xs.zip ys).map (fun p => laneFlags true [p.1, p.2, q, eps] (rmsLane p.1 p.2 r))))

theorem exec_finRms (t : TileId) (f : FinOps) (i : Intrusion) (s : State) :
    exec (.finRms t ⟨f, i⟩) s = tileExec (.finRms t ⟨f, i⟩) t (fun x =>
      finOp f i (xRanges f x ++ yRanges f x) (dRanges f x) (mapXY f (rmsBody f)) x) s := rfl

theorem exec_finRope (t : TileId) (f : FinOps) (i : Intrusion) (s : State) :
    exec (.finRope t ⟨f, i⟩) s = tileExec (.finRope t ⟨f, i⟩) t (fun x =>
      finOp f i (xRanges f x ++ [wbRange (x.line f.ay) (2 * vectors f)]) (dRanges f x) (ropeBody f) x) s := rfl

theorem exec_finMask (t : TileId) (f : FinOps) (i : Intrusion) (s : State) :
    exec (.finMask t ⟨f, i⟩) s = tileExec (.finMask t ⟨f, i⟩) t (fun x =>
      finOp f i (xRanges f x ++ [wbRange (x.line f.ay) 5]) (dRanges f x) (maskBody f) x) s := rfl

theorem exec_finQuant (t : TileId) (f : FinOps) (i : Intrusion) (s : State) :
    exec (.finQuant t ⟨f, i⟩) s = tileExec (.finQuant t ⟨f, i⟩) t (fun x =>
      finOpAfter (quantFirst f) f i (xRanges f x)
        [wbRange (x.line f.ad) ((if bitsAt f.opx 0 2 = 0 then 2 else 1) * vectors f)] (quantBody f (s.regThreshold t)) x) s := rfl

theorem exec_finLoadtbl (t : TileId) (f : FinOps) (i : Intrusion) (s : State) :
    exec (.finLoadtbl t ⟨f, i⟩) s = tileExec (.finLoadtbl t ⟨f, i⟩) t (loadTable f i) s := rfl

theorem exec_finClear (t : TileId) (f : FinOps) (i : Intrusion) (s : State) :
    exec (.finClear t ⟨f, i⟩) s = tileExec (.finClear t ⟨f, i⟩) t (fun x =>
      finOp f i [] [wbRange (x.line f.ad) (vectors f)] (fun y => (0, .ok ⟨[(y.line f.ad, List.replicate (vectors f)
        (if bitAt f.opx 0 then mkPairs (List.replicate 8 (negInf, 0xFFFFFFFF)) else mkWords fmtF32 (List.replicate 16 0)))],
          0⟩)) x) s := rfl

/-- A table filled from a list reads back its entries. -/
theorem foldl_set_get {α : Type} [DecidableEq α] (d : α) (vs : List α) (k : Nat) (m : Tbl α) (n : Nat) :
    Tbl.get d ((vs.zipIdx k).foldl (fun m p => Tbl.set d m p.2 p.1) m) n =
      if k ≤ n ∧ n < k + vs.length then nth d vs (n - k) else Tbl.get d m n := by
  induction vs generalizing k m with
  | nil => rw [if_neg (by simp only [List.length_nil]; omega)]; rfl
  | cons v vs ih =>
    rw [List.zipIdx_cons, List.foldl_cons, ih, List.length_cons, Tbl.get_set]
    rcases Nat.lt_trichotomy n k with hlt | rfl | hgt
    · rw [if_neg (by omega), if_neg (by omega), if_neg (by omega)]
    · rw [if_neg (by omega), if_pos rfl, if_pos (by omega)]
      simp [nth]
    · obtain ⟨e, rfl⟩ := Nat.exists_eq_add_of_lt hgt
      have he : k + e + 1 - k = e + 1 := by omega
      have he' : k + e + 1 - (k + 1) = e := by omega
      rw [if_neg (show ¬k + e + 1 = k by omega), he, he']
      by_cases hlen : e < vs.length
      · rw [if_pos (by omega), if_pos (by omega)]; rfl
      · rw [if_neg (by omega), if_neg (by omega)]

theorem addFlags_zero (x : Tile) : x.addFlags 0 = x := by simp [Tile.addFlags]

/-- The table that LOADTBL reads from 65 lines of F32 words. -/
def tableOf (ws : List Word) : FinTable :=
  ⟨((ws.take 1024).zipIdx).foldl (fun m p => Tbl.set (0 : Word) m p.2 p.1) [], nth 0 ws 1024, nth 0 ws 1025⟩

theorem tableOf_ys (ws : List Word) {k : Nat} (hk : k < 1024) : Tbl.get 0 (tableOf ws).ys k = nth 0 ws k := by
  refine (foldl_set_get 0 (ws.take 1024) 0 [] k).trans ?_
  by_cases hlen : k < ws.length
  · rw [if_pos (by simp; omega)]
    simp [nth, hk]
  · rw [if_neg (by simp; omega)]
    simp [nth, List.getElem?_eq_none (Nat.le_of_not_lt hlen), Tbl.get]

theorem loadTable_done {f : FinOps} {i : Intrusion} {x : Tile} {ws : List Word} (hline : x.line f.ax + 65 ≤ 4096)
    (hfree : x.lineBlocks [wbRange (x.line f.ax) 65] [] = false) (hevents : intrusionStops i unitFinisher = none)
    (hread : readWords [fmtF32] (intrude (noSlots i) x) (x.line f.ax) 65 = .ok ws) :
    loadTable f i x = .done { (intrude (noSlots i) x).addFlags
        (if (ws.take 1026).all isFinite then 0 else flagNonfinite) with
      tables := Tbl.set {} (intrude (noSlots i) x).tables (tableNo f) (tableOf ws) } := by
  have hevents' : intrusionStops (noSlots i) unitFinisher = none := hevents
  simp only [loadTable, rangesFault_wbRange _ _ 65 hline, hfree, Bool.false_eq_true, if_false, accessing_on _ _ _ _ hevents',
    hread, tableOf]

theorem finQuant_done {t : TileId} {f : FinOps} {i : Intrusion} {s : State} {fl : BitVec 3} {o : FinOut}
    (hi : Issues (.finQuant t ⟨f, i⟩) t s)
    (h : FinReady f i (xRanges f (s.tile t))
      [wbRange ((s.tile t).line f.ad) ((if bitsAt f.opx 0 2 = 0 then 2 else 1) * vectors f)] (s.tile t))
    (hscale : posNormal ((s.tile t).sreg f.ss) = true)
    (hbody : quantBody f (s.regThreshold t) (intrude (finEvents f i) (s.tile t)) = (fl, .ok o)) :
    Executes (.finQuant t ⟨f, i⟩) t s
      (putLines o.writes ((intrude (finEvents f i) (s.tile t)).addFlags (fl ||| o.flags))) :=
  tileExec_done _ t _ s _ hi (finOpAfter_done h (if_pos hscale) hbody)

theorem finClear_done {t : TileId} {f : FinOps} {i : Intrusion} {s : State} (hi : Issues (.finClear t ⟨f, i⟩) t s)
    (h : FinReady f i [] [wbRange ((s.tile t).line f.ad) (vectors f)] (s.tile t)) :
    Executes (.finClear t ⟨f, i⟩) t s ((intrude (finEvents f i) (s.tile t)).writeLines memWb ((s.tile t).line f.ad)
      (List.replicate (vectors f)
        (if bitAt f.opx 0 then mkPairs (List.replicate 8 (negInf, 0xFFFFFFFF)) else mkWords fmtF32 (List.replicate 16 0)))) := by
  have hdone := executes_of_finOp (exec_finClear t f i s) hi h rfl
  rw [show (0 : BitVec 3) ||| 0 = 0 from rfl, addFlags_zero, intrude_line] at hdone
  exact hdone

/-- Settles O17: each body's lines are written and its flags set; LOADTBL's table reads back what its lines hold. -/
theorem finOtherOperations : Obligations.FinOtherOperations := by
  refine ⟨fun t f i s fl o => ?bodies, fun t f i s => ?tables⟩
  case bodies =>
    intro x out acc ready
    refine ⟨?fma, ?lanesum, ?sumsq, ?maxidx, ?minidx, fun xs ys => ?rms, ?rope, ?quant, ?mask, ?kill⟩
    case fma =>
      intro hi h hbody
      exact executes_of_body (exec_finFma t f i s) hi (by simp) (by simp) h hbody
    case lanesum =>
      intro hi h hbody
      exact executes_of_body (exec_finLanesum t f i s) hi (by simp) (by simp) h hbody
    case sumsq =>
      intro hi h hbody
      exact executes_of_body (exec_finSumsq t f i s) hi (by simp) (by simp) h hbody
    case maxidx =>
      intro hi h hbody
      refine executes_of_body (exec_finMaxidx t f i s) hi (by simp) (by simp) h ?_
      split at hbody
      · next hrouter => rw [if_pos hrouter]; exact hbody
      · next hrouter => rw [if_neg hrouter]; exact hbody
    case minidx =>
      intro hi h hbody
      exact executes_of_body (exec_finMinidx t f i s) hi (by simp) (by simp) h hbody
    case rms =>
      intro hi h hx hy
      have hbody := mapXY_ok hx hy (rmsBody f)
      have hlanes : (xs.zip ys).zipIdx.map (fun p => rmsBody f x p.2 p.1.1.1 p.1.2) =
          (xs.zip ys).map (fun p => rmsBody f x 0 p.1.1 p.2) :=
        map_fst_zipIdx (fun p : (List Word × BitVec 3) × List Word => rmsBody f x 0 p.1.1 p.2) (xs.zip ys) 0
      dsimp only at hbody
      rw [hlanes, zipIdx_map_map] at hbody
      have hdone := executes_of_body (exec_finRms t f i s) hi (by simp) (by simp) h hbody
      exact ⟨x.addFlags _, hdone, rfl⟩
    case rope =>
      intro hi h hbody
      exact executes_of_body (exec_finRope t f i s) hi (by simp) (by simp) h hbody
    case quant =>
      intro hi h hscale hbody
      have hsreg : x.sreg f.ss = (s.tile t).sreg f.ss := intrude_sreg _ _ _
      have hline : x.line f.ad = (s.tile t).line f.ad := intrude_line _ _ _
      have hranges : xRanges f x = xRanges f (s.tile t) := xRanges_intrude _ _ _
      simp only [ready, hranges, hline] at h
      rw [hsreg] at hscale
      exact finQuant_done hi h hscale hbody
    case mask =>
      intro hi h hbody
      exact executes_of_body (exec_finMask t f i s) hi (by simp) (by simp) h hbody
    case kill =>
      intro hi hlane
      have hsreg : x.sreg f.ss = (s.tile t).sreg f.ss := intrude_sreg _ _ _
      rw [hsreg] at hlane
      exact tileExec_fault _ t _ s _ _ hi (if_pos hlane)
  case tables =>
    intro x z
    refine ⟨fun ws hi hline hfree hevents hread => ?_, fun hi h => finClear_done hi h⟩
    refine ⟨_, tileExec_done _ t _ s _ hi (loadTable_done hline hfree hevents hread), rfl, ?_, fun k hk => ?_, ?_, ?_,
      fun n hn => ?_⟩
    · exact congrArg (· ||| _) (intrude_finFlags _ _)
    · refine Eq.trans ?_ (tableOf_ys ws hk)
      exact congrArg (fun T : FinTable => Tbl.get 0 T.ys k) (Tbl.get_set_same _ _ _ _)
    · exact congrArg FinTable.x0 (Tbl.get_set_same _ _ _ _)
    · exact congrArg FinTable.inv (Tbl.get_set_same _ _ _ _)
    · refine (Tbl.get_set_other _ _ _ hn).trans ?_
      rw [intrude_tables]

end Sys2Proof.Machine

/-! SUPPORT. POST, REDUCE and the post engine's descriptors. -/

namespace Sys2Proof.Machine
open Sys2Proof

/-! ### POST and REDUCE (R117, R237, R255 to R257) -/

section
variable {i : Instr} {t : TileId} {s : State} {d : Desc} {src dst : List LineRange}

/-- A descriptor whose ranges exist and that no earlier instruction stands in the way of joins a queue with room. -/
theorem enqueue_done {x : Tile} (hranges : rangesFault unitPost (src ++ dst) = none) (hfree : x.unretired src dst = false)
    (hroom : x.descq.length + x.running.length < 16) :
    enqueue d src dst x = .done { x with descq := x.descq ++ [d] } := by
  have hnotFull : x.queueFull = false := by simpa [Tile.queueFull, Tile.queued] using hroom
  simp only [enqueue, hranges, hfree, hnotFull, Bool.false_eq_true, if_false]

theorem executes_of_enqueue {f : Tile → Attempt} (hexec : exec i s = tileExec i t f s) (hi : Issues i t s)
    (hf : f (s.tile t) = enqueue d src dst (s.tile t))
    (h : rangesFault unitPost (src ++ dst) = none ∧ (s.tile t).unretired src dst = false ∧
      (s.tile t).descq.length + (s.tile t).running.length < 16) :
    Executes i t s { s.tile t with descq := (s.tile t).descq ++ [d] } := by
  obtain ⟨hranges, hfree, hroom⟩ := h
  exact hexec.trans (tileExec_done i t f s _ hi (hf.trans (enqueue_done hranges hfree hroom)))

end

theorem exec_postCopy (t : TileId) (f : PostOps) (s : State) :
    exec (.postCopy t f) s = tileExec (.postCopy t f) t (fun x => enqueue (copyDesc f (Instr.postCopy t f).word x)
      [⟨f.smem, x.line f.as, postLines f⟩] [⟨f.dmem, x.line f.ad, postLines f⟩] x) s := rfl

/-- A POST by a template: one out of range faults, another's descriptor joins the queue. -/
def templated (f : PostOps) (post : Nat → Tile → Attempt) (x : Tile) : Attempt :=
  match templateNo f x with
  | none => outOfRange x unitPost
  | some n => post n x

theorem templated_some {f : PostOps} {post : Nat → Tile → Attempt} {x : Tile} {n : Nat} (h : templateNo f x = some n) :
    templated f post x = post n x := by simp only [templated, h]

theorem templated_none {f : PostOps} {post : Nat → Tile → Attempt} {x : Tile} (h : templateNo f x = none) :
    templated f post x = outOfRange x unitPost := by simp only [templated, h]

theorem exec_postSend (t : TileId) (f : PostOps) (s : State) :
    exec (.postSend t f) s = tileExec (.postSend t f) t (templated f (fun n x =>
      enqueue (sendDesc f .send n (Instr.postSend t f).word x)
        [⟨f.smem, x.line f.as, postLines f * (if f.reg then 2 else 1)⟩] [] x)) s := rfl

theorem exec_postPull (t : TileId) (f : PostOps) (s : State) :
    exec (.postPull t f) s = tileExec (.postPull t f) t (templated f (fun n x =>
      enqueue (sendDesc f .pull n (Instr.postPull t f).word x) [] [] x)) s := rfl

theorem exec_postCircularRequest (t : TileId) (f : PostOps) (s : State) :
    exec (.postCircularRequest t f) s = tileExec (.postCircularRequest t f) t (templated f (fun n x =>
      enqueue (sendDesc f .circular n (Instr.postCircularRequest t f).word x) [] [] x)) s := rfl

theorem exec_reduce (t : TileId) (f : ReduceOps) (s : State) :
    exec (.reduce t f) s = tileExec (.reduce t f) t (fun x =>
      if envKind (Tbl.get 0 x.templates f.tmpl.toNat) = 0 ∨ envKind (Tbl.get 0 x.templates f.tmpl.toNat) > 3 then illegal x
      else enqueue
        { op := .reduce, smem := memWb, dmem := 0, src := x.line f.as, dst := 0, blocks := f.lines.toNat + 1, reg := false
          last := false, bypass := x.ctx.bypass, position := positionOf f.sp x, tmpl := f.tmpl.toNat, ctx := x.ctx
          pc := x.pc, word := (Instr.reduce t f).word } [wbRange (x.line f.as) (f.lines.toNat + 1)] [] x) s := rfl

theorem exec_templated_none {i : Instr} {t : TileId} {s : State} {f : PostOps} {post : Nat → Tile → Attempt}
    (hexec : exec i s = tileExec i t (templated f post) s) (hi : Issues i t s) (h : templateNo f (s.tile t) = none) :
    exec i s = .next (takeFault t (.seq 0x2 unitPost) i.word (s.putTile t (s.tile t).fetch)) :=
  hexec.trans (tileExec_fault i t _ s _ _ hi (templated_none h))

/-! ### The post engine (R112 to R121, R154) -/

theorem askCircular_eq (t : TileId) (n : Nat) (e : Env) (x : Tile) :
    askCircular t n e x = { x with circulars := (askCircular t n e x).circulars, descq := (askCircular t n e x).descq } := by
  unfold askCircular
  dsimp only
  (repeat' split) <;> rfl

/-- What `askCircular` keeps is kept where the requests of all circulars are asked again. -/
theorem recountAll_kept {β : Type} (g : Tile → β) (hg : ∀ (x : Tile) (cs : Tbl Circular) (ds vs : List Desc),
    g { x with circulars := cs, descq := ds, served := vs } = g x) (t : TileId) (x : Tile) :
    g (recountAll t x) = g x := by
  have hask (n : Nat) (es : List Env) (y : Tile) : g (es.foldl (fun y e => askCircular t n e y) y) = g y := by
    induction es generalizing y with
    | nil => rfl
    | cons e es ih =>
      rw [List.foldl_cons, ih]
      exact (congrArg g (askCircular_eq t n e y)).trans (hg y _ _ y.served)
  have hrecount (ns : List Nat) (y : Tile) : g (ns.foldl (fun y n => recount t n y) y) = g y := by
    induction ns generalizing y with
    | nil => rfl
    | cons n ns ih =>
      rw [List.foldl_cons, ih]
      exact (hask n _ _).trans (hg y _ y.descq y.served)
  have hadmit : g (admitServed x) = g x := by
    unfold admitServed
    split
    · rfl
    · split
      · rfl
      · exact hg x x.circulars _ _
  rw [recountAll, hrecount, hadmit]

theorem recountAll_readLine (t : TileId) (x : Tile) (m : BitVec 2) (l : Nat) : (recountAll t x).readLine m l = x.readLine m l :=
  recountAll_kept (fun y => y.readLine m l) (fun _ _ _ _ => rfl) t x

theorem recountAll_running (t : TileId) (x : Tile) : (recountAll t x).running = x.running :=
  recountAll_kept Tile.running (fun _ _ _ _ => rfl) t x

theorem Tile.readLine_sbCount (x : Tile) (drain : Bool) (n : BitVec 2) (k : Nat) (m : BitVec 2) (l : Nat) :
    (x.sbCount drain n k).readLine m l = x.readLine m l := by
  simp only [Tile.readLine, Tile.sbCount, Tile.wsLine]

theorem Tile.readLine_writeLine_same (x : Tile) (m : BitVec 2) (l : Nat) (v : Line) : (x.writeLine m l v).readLine m l = v := by
  unfold Tile.writeLine Tile.readLine
  split
  · exact Mem.readLine_writeLine_same _ _ _
  · split
    · exact Mem.readLine_writeLine_same _ _ _
    · exact Mem.readLine_writeLine_same _ _ _

@[simp] theorem countNotes_tile (es : List (BitVec 16)) (s : State) (t : TileId) : (countNotes es s).tile t = s.tile t := by
  induction es generalizing s with
  | nil => rfl
  | cons e es ih => exact (ih _).trans rfl

/-- A running copy of one line moves it in one step. -/
theorem runDesc_copyOne (t : TileId) (n : Nat) {d : Desc} (x : Tile) (hop : d.op = .copy) (hblocks : d.blocks = 1)
    (hdone : d.done = 0) : runDesc t (n + 1) d x = ({ d with done := 1 },
      (((x.sbCount true d.smem d.src).writeLine d.dmem d.dst (x.readLine d.smem d.src)).sbCount false d.dmem d.dst)) := by
  have hmoves : ¬ d.done ≥ d.blocks := by omega
  have hends : ∀ y, runDesc t n { d with done := 1 } y = ({ d with done := 1 }, y) := by
    intro y
    cases n with
    | zero => rfl
    | succ n => exact if_pos (by simp [hblocks])
  rw [runDesc, if_neg hmoves]
  simp only [stepDesc, hop, hdone, Nat.add_zero, Nat.zero_add]
  rw [← hop]
  exact hends _

theorem exec_descriptorStart {t : TileId} {i : Intrusion} {s : State} {d : Desc} {rest : List Desc}
    (hqueue : (s.tile t).descq = d :: rest) (hruns : s.postRuns t = true) (hroom : (s.tile t).running.length < 4)
    (henv : descEnvFault d (s.tile t) = none) (hranges : rangesFault unitPost (descSource d ++ descDest d) = none)
    (hown : descOwnFault (s.familyOf d.ctx.session) d (s.tile t) = none)
    (hfree : (s.tile t).sbBlocks (descSource d) (descDest d) = false) (hcredit : creditReady d (s.tile t) = true)
    (hevents : intrusionStops i unitPost = none) (hcirc : d.circ = none) :
    exec (.descriptorStart t i) s = .next (s.putTile t { intrude (noSlots i) (s.tile t) with
      descq := rest, running := (intrude (noSlots i) (s.tile t)).running ++ [{ d with stalled := false }] }) := by
  have hstart : (!s.postRuns t || decide ((s.tile t).running.length ≥ 4)) = false := by simp [hruns, hroom]
  simp only [exec, execDescriptorStart, hqueue, hstart, henv, hranges, hown, hfree, hcredit, hevents, hcirc,
    Bool.false_eq_true, if_false, Bool.not_true]

@[simp] theorem intrude_running (i : Intrusion) (x : Tile) : (intrude i x).running = x.running := by rw [intrude_eq]

/-- A running copy of one line retires in one step: its line is moved and it leaves the running descriptors. -/
theorem exec_descriptorRetire_copyOne {t : TileId} {i : Intrusion} {k : Fin 4} {s : State} {d : Desc}
    (hactive : (s.block (tileBlock t)).pstate = .active) (hrunning : (s.tile t).running[k.val]? = some d)
    (hop : d.op = .copy) (hblocks : d.blocks = 1) (hdone : d.done = 0) (hevents : intrusionStops i unitPost = none) :
    ∃ (y : Tile) (es : List (BitVec 16)), exec (.descriptorRetire t ⟨k, i⟩) s = .next (countNotes es (s.putTile t (recountAll t
        { y with running := (s.tile t).running.eraseIdx k.val }))) ∧
      y.readLine d.dmem d.dst = (s.tile t).readLine d.smem d.src := by
  have hon : ((s.block (tileBlock t)).pstate != .active) = false := by simp [hactive]
  have hrun := runDesc_copyOne t 4096 (intrude (noSlots i) (s.tile t)) hop hblocks hdone
  refine ⟨(((intrude (noSlots i) (s.tile t)).sbCount true d.smem d.src).writeLine d.dmem d.dst
      ((s.tile t).readLine d.smem d.src)).sbCount false d.dmem d.dst,
    notesSent s t d 1 (intrude (noSlots i) (s.tile t)), ?_, ?_⟩
  · simp only [exec, execDescriptorRetire, hon, hrunning, hevents, hrun, Bool.false_eq_true, if_false, intrude_running,
      intrude_readLine]
    rw [if_pos (by simp [hblocks])]
  · rw [Tile.readLine_sbCount, Tile.readLine_writeLine_same]

/-- Settles O18: a POST or REDUCE joins the queue, the head starts, and a copy of one line is moved and retires. -/
theorem postsAndDescriptors : Obligations.PostsAndDescriptors := by
  refine ⟨fun t f g s => ?posts, fun t i k s d rest => ?engine⟩
  case posts =>
    intro x w free queues
    refine ⟨?copy, fun n => ?send, fun n => ?pull, fun n => ?circular, ?reduce, ?template, ?kind⟩
    case copy => exact fun hi h => executes_of_enqueue (exec_postCopy t f s) hi rfl h
    case send => exact fun hi hn h => executes_of_enqueue (exec_postSend t f s) hi (templated_some hn) h
    case pull => exact fun hi hn h => executes_of_enqueue (exec_postPull t f s) hi (templated_some hn) h
    case circular => exact fun hi hn h => executes_of_enqueue (exec_postCircularRequest t f s) hi (templated_some hn) h
    case reduce =>
      intro hi hlow hhigh h
      exact executes_of_enqueue (exec_reduce t g s) hi (if_neg (not_or.2 ⟨Nat.one_le_iff_ne_zero.1 hlow, Nat.not_lt.2 hhigh⟩)) h
    case template =>
      rintro i (rfl | rfl | rfl) hi hn
      · exact exec_templated_none (exec_postSend t f s) hi hn
      · exact exec_templated_none (exec_postPull t f s) hi hn
      · exact exec_templated_none (exec_postCircularRequest t f s) hi hn
    case kind => exact fun hi hkind => tileExec_fault _ t _ s _ _ hi (if_pos hkind)
  case engine =>
    intro x
    refine ⟨fun hqueue hruns hroom henv hranges hown hfree hcredit hevents hcirc => ?_,
      fun hactive hrunning hop hblocks hdone hevents => ?_⟩
    · refine ⟨_, exec_descriptorStart hqueue hruns hroom henv hranges hown hfree hcredit hevents hcirc, ?_⟩
      rw [State.tile_putTile, intrude_running]
      exact ⟨rfl, rfl, sameMemories_of_eq (intrude_wb _ _) (intrude_slab _ _) (intrude_ws _ _)⟩
    · obtain ⟨y, es, hexec, hread⟩ := exec_descriptorRetire_copyOne hactive hrunning hop hblocks hdone hevents
      refine ⟨_, hexec, ?_, ?_⟩
      · rw [countNotes_tile, State.tile_putTile, recountAll_running]
      · rw [countNotes_tile, State.tile_putTile, recountAll_readLine]
        exact hread

end Sys2Proof.Machine

/-! SUPPORT. WAIT and CARD. -/

namespace Sys2Proof.Machine
open Sys2Proof

/-! ### WAIT and CARD (R156, R158, R259, R260) -/

section
variable {i : Instr} {t : TileId} {s : State}

/-- A WAIT goes on where its condition holds, and leaves the tile waiting where it does not. -/
theorem waits_of_waitFor {f : Tile → Attempt} {c : Bool} {k : WaitKind} {p : Prop} (hexec : exec i s = tileExec i t f s)
    (hf : f (s.tile t) = waitFor c k (s.tile t)) (hc : c = true ↔ p) (hi : Issues i t s) :
    (p → Executes i t s (s.tile t)) ∧
    (¬ p → exec i s = .next (s.putTile t { (s.tile t).fetch with wait := k, waitWord := i.word })) := by
  refine ⟨fun hp => ?_, fun hp => ?_⟩
  · exact hexec.trans (tileExec_done i t f s _ hi (hf.trans (if_pos (hc.2 hp))))
  · exact hexec.trans (tileExec_wait i t f s _ _ hi (hf.trans (if_neg fun h => hp (hc.1 h))))

/-- A CARD whose operands are good sends while the block's node has room for the tile's card, and waits otherwise. -/
theorem sends_of_cardExec {ok : Tile → Bool} {card : Tile → Card} (hexec : exec i s = cardExec i t ok card s)
    (hi : Issues i t s) (hok : ok (s.tile t) = true) :
    ((s.tile t).cardsAt s.dev.time < 5 → ∃ u, exec i s = .next u ∧
      u.dev.cards = s.dev.cards ++ [⟨srcTile t, card (s.tile t)⟩] ∧
      u.tile t = { (s.tile t).advance with
        sent := (s.tile t).sent + 1, cardTime := s.dev.time, cardsThen := (s.tile t).cardsAt s.dev.time + 1 }) ∧
    (5 ≤ (s.tile t).cardsAt s.dev.time →
      exec i s = .next (s.putTile t { (s.tile t).fetch with wait := .card, waitWord := i.word })) := by
  obtain ⟨hon, hword, henc⟩ := hi
  refine ⟨fun hroom => ?_, fun hfull => ?_⟩
  · have hgoes : (s.issues t && (s.tile t).mayIssue i.word && i.encodingOk && ok (s.tile t) &&
        (s.tile t).cardRoom s.dev.time) = true := by simp [hon, hword, henc, hok, Tile.cardRoom, hroom]
    refine ⟨_, hexec.trans (if_pos hgoes), rfl, ?_⟩
    simp only [tileSendsOrdinary, tileSends_tile, State.tile_updTile, State.tile_putTile]
    rfl
  · have hwaits : ¬ (s.issues t && (s.tile t).mayIssue i.word && i.encodingOk && ok (s.tile t) &&
        (s.tile t).cardRoom s.dev.time) = true := by simp [Tile.cardRoom, hfull]
    exact hexec.trans ((if_neg hwaits).trans (tileExec_wait i t _ s _ _ ⟨hon, hword, henc⟩ (if_pos hok)))

/-- A CARD with a bad operand faults and sends nothing but the fault's note. -/
theorem faults_of_cardExec {ok : Tile → Bool} {card : Tile → Card} (hexec : exec i s = cardExec i t ok card s)
    (hi : Issues i t s) (hok : ok (s.tile t) = false) :
    exec i s = .next (takeFault t (.seq 0x2 unitSequencer) i.word (s.putTile t (s.tile t).fetch)) := by
  have hstays : ¬ (s.issues t && (s.tile t).mayIssue i.word && i.encodingOk && ok (s.tile t) &&
      (s.tile t).cardRoom s.dev.time) = true := by simp [hok]
  exact hexec.trans ((if_neg hstays).trans (tileExec_fault i t _ s _ _ hi (if_neg (by simp [hok]))))

end

/-- WAIT on a barrier of the field's table waits for the release of the tile's wave. -/
theorem waitBarrier_attempt {t : TileId} {f : WaitOps} {s : State} {n : Nat} (h : s.barrierIndex (tileField t) f.id = some n)
    (x : Tile) :
    (match s.barrierIndex (tileField t) f.id with
      | none => outOfRange x unitSequencer
      | some n => waitFor (Tbl.get none x.latches n == some x.ctx.wave) .barrier x) =
    waitFor (Tbl.get none x.latches n == some x.ctx.wave) .barrier x := by rw [h]

theorem exec_cardBarrierArrive (t : TileId) (f : CardOps) (s : State) :
    exec (.cardBarrierArrive t f) s = cardExec (.cardBarrierArrive t f) t
      (fun _ => (s.barrierIndex (tileField t) f.barrier).isSome)
      (fun x => mkCard (BitVec.ofNat 32 (f.barrier.toNat + 256 * x.ctx.wave.toNat)) cardArrive 2
        (BitVec.ofNat 16 (tileField t))) s := rfl

theorem exec_cardUser (t : TileId) (f : CardOps) (s : State) :
    exec (.cardUser t f) s = cardExec (.cardUser t f) t (fun _ => true)
      (fun x => mkCard (x.sreg f.sp) cardUserType f.dclass f.dest) s := rfl

/-- Settles O20: each WAIT by its condition, and each CARD by the room for it. -/
theorem waitsAndCards : Obligations.WaitsAndCards := by
  refine ⟨fun t f s => ?waits, fun t f s => ?cards⟩
  case waits =>
    intro x either
    refine ⟨?pigeonhole, ?scoreboard, fun n hn => ?barrier, ?descriptors, ?slots, fun c cs hi hinbox => ?user,
      fun hi hinbox => ?noUser, fun hi hnone => ?noBarrier⟩
    case pigeonhole => exact waits_of_waitFor rfl rfl (by simp [x])
    case scoreboard => exact waits_of_waitFor rfl rfl (by simp [x])
    case barrier => exact waits_of_waitFor rfl (waitBarrier_attempt hn x) (by simp [x])
    case descriptors => exact waits_of_waitFor rfl rfl (by simp [x])
    case slots => exact waits_of_waitFor rfl rfl (by simp [x])
    case user => exact tileExec_done _ t _ s _ hi (by simp only [show (s.tile t).inbox = c :: cs from hinbox]; rfl)
    case noUser => exact tileExec_wait _ t _ s _ _ hi (by simp only [show (s.tile t).inbox = [] from hinbox]; rfl)
    case noBarrier => exact tileExec_fault _ t _ s _ _ hi (by simp only [hnone]; rfl)
  case cards =>
    intro x sends
    refine ⟨fun hi hentry => ?_, fun hi => ?_, fun hi hnone => ?_⟩
    · exact sends_of_cardExec (exec_cardBarrierArrive t f s) hi hentry
    · exact sends_of_cardExec (exec_cardUser t f s) hi rfl
    · exact faults_of_cardExec (exec_cardBarrierArrive t f s) hi (by rw [hnone]; rfl)

end Sys2Proof.Machine

/-! SUPPORT. The sampler's instructions. -/

namespace Sys2Proof.Machine
open Sys2Proof

/-! ### SAMPLE (R223 to R230, R263) -/

@[simp] theorem intrude_ctx (i : Intrusion) (x : Tile) : (intrude i x).ctx = x.ctx := by rw [intrude_eq]
@[simp] theorem intrude_samplerOf (i : Intrusion) (x : Tile) : (intrude i x).samplerOf = x.samplerOf := by
  rw [intrude_eq]; rfl
@[simp] theorem intrude_settings (i : Intrusion) (x : Tile) : (intrude i x).settings = x.settings := by simp [Tile.settings]
@[simp] theorem readWords_intrude (fs : List Byte) (i : Intrusion) (x : Tile) (l n : Nat) :
    readWords fs (intrude i x) l n = readWords fs x l n := by simp [readWords, Tile.readLines]

section
variable {i : Intrusion} {x : Tile} {reads writes : List LineRange}

/-- A SAMPLE whose ranges exist, whose lines are free and that no event stops goes on with its operation. -/
theorem sampleRanges_on (op : Tile → Attempt) (hranges : rangesFault unitSampler (reads ++ writes) = none)
    (hfree : x.lineBlocks reads writes = false) (hevents : intrusionStops i unitSampler = none) :
    sampleRanges i x reads writes op = op (intrude (noSlots i) x) := by
  have hevents' : intrusionStops (noSlots i) unitSampler = none := hevents
  simp only [sampleRanges, hranges, hfree, Bool.false_eq_true, if_false, accessing_on _ _ _ _ hevents']

theorem readLogits_ok {l n : Nat} {ws : List Word} (hread : readWords [fmtF32] x l n = .ok ws) (hnan : ws.any isNaN = false) :
    readLogits x l n = .ok ws := by
  simp only [readLogits, hread, hnan, Bool.false_eq_true, if_false]

/-- Logits without a NaN are rewritten in place. -/
theorem mapLogits_done {f : SampleOps} {more : List LineRange} {g : List Word → Except TileFault (List Word)}
    {ws vs : List Word}
    (hranges : rangesFault unitSampler (wbRange (x.line f.ax) (sampleLines f) :: more ++ [wbRange (x.line f.ax) (sampleLines f)]) = none)
    (hfree : x.lineBlocks (wbRange (x.line f.ax) (sampleLines f) :: more) [wbRange (x.line f.ax) (sampleLines f)] = false)
    (hevents : intrusionStops i unitSampler = none)
    (hread : readWords [fmtF32] x (x.line f.ax) (sampleLines f) = .ok ws) (hnan : ws.any isNaN = false) (hg : g ws = .ok vs) :
    mapLogits i f x more g = .done ((intrude (noSlots i) x).writeLines memWb (x.line f.ax) (vecLines vs)) := by
  have hlogits : readLogits (intrude (noSlots i) x) (x.line f.ax) (sampleLines f) = .ok ws :=
    readLogits_ok (by rw [readWords_intrude, hread]) hnan
  refine (sampleRanges_on _ hranges hfree hevents).trans ?_
  simp only [hlogits, hg]

end

/-- An instruction that rewrites the logits at AX in place. -/
theorem executes_of_mapLogits {c : Instr} {t : TileId} {i : Intrusion} {s : State} {f : SampleOps} {op : Tile → Attempt}
    {more : List LineRange} {g : List Word → Except TileFault (List Word)} {ws vs : List Word}
    (hexec : exec c s = tileExec c t op s) (hop : op (s.tile t) = mapLogits i f (s.tile t) more g) (hg : g ws = .ok vs)
    (hevents : intrusionStops i unitSampler = none) (hi : Issues c t s)
    (hranges : rangesFault unitSampler (wbRange ((intrude (noSlots i) (s.tile t)).line f.ax) (sampleLines f) :: more ++
      [wbRange ((intrude (noSlots i) (s.tile t)).line f.ax) (sampleLines f)]) = none)
    (hfree : (s.tile t).lineBlocks (wbRange ((intrude (noSlots i) (s.tile t)).line f.ax) (sampleLines f) :: more)
      [wbRange ((intrude (noSlots i) (s.tile t)).line f.ax) (sampleLines f)] = false)
    (hread : readWords [fmtF32] (intrude (noSlots i) (s.tile t)) ((intrude (noSlots i) (s.tile t)).line f.ax) (sampleLines f) =
      .ok ws) (hnan : ws.any isNaN = false) :
    Executes c t s ((intrude (noSlots i) (s.tile t)).writeLines memWb ((intrude (noSlots i) (s.tile t)).line f.ax)
      (vecLines vs)) := by
  rw [readWords_intrude] at hread
  rw [intrude_line] at hranges hfree hread ⊢
  exact hexec.trans (tileExec_done c t op s _ hi (hop.trans (mapLogits_done hranges hfree hevents hread hnan hg)))

section
variable {t : TileId} {i : Intrusion} {s : State} {f : SampleOps}

theorem gmaskOp_grammar {g : Image} {p : Placement} {x : Tile}
    (hgrammar : s.sessionGrammar x.ctx.session x.settings.grammar = some g) (hplacement : s.dev.placement = some p) :
    gmaskOp i s t f x = mapLogits i f x [] (fun ws => .ok (ws.zipIdx.map (fun e =>
      if grammarAllows g p.vocab x.samplerOf.grammarState (s.tokenBase t + e.2) then e.1 else negInf))) := by
  simp only [gmaskOp, hgrammar, hplacement]

theorem gmaskOp_none {x : Tile} (hgrammar : s.sessionGrammar x.ctx.session x.settings.grammar = none) :
    gmaskOp i s t f x = mapLogits i f x [] .ok := by
  simp only [gmaskOp, hgrammar]

theorem penaltyOp_ok {x : Tile} {ids : List Word}
    (hids : readWords [fmtU32] x (x.line f.ay) (((x.sreg f.ss).toNat + 15) / 16) = .ok ids) :
    penaltyOp i s t f x = mapLogits i f x [wbRange (x.line f.ay) (((x.sreg f.ss).toNat + 15) / 16)] (fun ws =>
      .ok (ws.zipIdx.map (fun e => if (ids.take (x.sreg f.ss).toNat).any (fun i => i.toNat == s.tokenBase t + e.2)
        then penalise x.settings.penalty e.1 else e.1))) := by
  simp only [penaltyOp, hids]

theorem setupOp_done {x : Tile} (hline : x.line f.ax + 1 ≤ 4096)
    (hfree : x.lineBlocks [wbRange (x.line f.ax) 1] [] = false) (hevents : intrusionStops i unitSampler = none) {p : Line}
    (hp : p = x.readLine memWb (x.line f.ax)) (hcheck : parcelCheck [fmtU32, fmtBYTES] p = none)
    (hok : s.settingsOk (readSettings (bytesOf 32 (p.setWidth 256))) = true) :
    setupOp i s f x = .done ((intrude (noSlots i) x).setSampler ⟨p,
      match s.sessionGrammar x.ctx.session (readSettings (bytesOf 32 (p.setWidth 256))).grammar with
      | some g => grammarStart g
      | none => 0⟩) := by
  subst hp
  have hranges : rangesFault unitSampler ([wbRange (x.line f.ax) 1] ++ []) = none := rangesFault_wbRange _ _ 1 hline
  refine (sampleRanges_on _ hranges hfree hevents).trans ?_
  simp only [intrude_readLine, hcheck, hok, Bool.not_true, Bool.false_eq_true, if_false, intrude_ctx] <;> rfl

theorem drawOp_done {x : Tile} {ws : List Word} (hline : x.line f.ax + sampleLines f ≤ 4096)
    (hfree : x.lineBlocks [wbRange (x.line f.ax) (sampleLines f)] [] = false) (hevents : intrusionStops i unitSampler = none)
    (hread : readWords [fmtF32] x (x.line f.ax) (sampleLines f) = .ok ws) :
    drawOp i s t f x = .done ((intrude (noSlots i) x).setS f.sd
      (match drawIndex (x.sreg f.ss) (x.sreg (f.ss + 1)) 0 ws with
        | some i => BitVec.ofNat 32 (s.tokenBase t + i)
        | none => 0xFFFFFFFF)) := by
  have hranges : rangesFault unitSampler ([wbRange (x.line f.ax) (sampleLines f)] ++ []) = none :=
    rangesFault_wbRange _ _ _ hline
  refine (sampleRanges_on _ hranges hfree hevents).trans ?_
  simp only [readWords_intrude, hread, intrude_sreg] <;> rfl

theorem residOp_done {x : Tile} {ps qs : List Word}
    (hranges : rangesFault unitSampler ([wbRange (x.line f.ax) (sampleLines f), wbRange (x.line f.ay) (sampleLines f)] ++
      [wbRange (x.line f.ad) (sampleLines f)]) = none)
    (hfree : x.lineBlocks [wbRange (x.line f.ax) (sampleLines f), wbRange (x.line f.ay) (sampleLines f)]
      [wbRange (x.line f.ad) (sampleLines f)] = false)
    (hevents : intrusionStops i unitSampler = none)
    (hps : readWords [fmtF32] x (x.line f.ax) (sampleLines f) = .ok ps)
    (hqs : readWords [fmtF32] x (x.line f.ay) (sampleLines f) = .ok qs) :
    residOp i f x = .done ((intrude (noSlots i) x).writeLines memWb (x.line f.ad)
      (vecLines (zipWords (fun p q => fmax 0 (fsub p q)) ps qs))) := by
  refine (sampleRanges_on _ hranges hfree hevents).trans ?_
  simp only [readWords_intrude, intrude_line, hps, hqs]

theorem gstepOp_eq {x : Tile} (hevents : intrusionStops i unitSampler = none) :
    gstepOp i s f x = match s.sessionGrammar x.ctx.session x.settings.grammar with
      | none => .done ((intrude (noSlots i) x).setS f.sd 1)
      | some g =>
        match s.walkToken g x.samplerOf.grammarState (x.sreg f.ss).toNat with
        | some st => .done (((intrude (noSlots i) x).setSampler { x.samplerOf with grammarState := st }).setS f.sd 1)
        | none => .done ((intrude (noSlots i) x).setS f.sd 0) := by
  have hevents' : intrusionStops (noSlots i) unitSampler = none := hevents
  simp only [gstepOp, accessing_on _ _ _ _ hevents', intrude_ctx, intrude_settings, intrude_samplerOf, intrude_sreg] <;> rfl

end

/-- Settles O22: each row of the sampler on operands that it can read. -/
theorem samplerInstructions : Obligations.SamplerInstructions := by
  intro t f i s x n l inPlace hevents
  have hevents' : intrusionStops (noSlots i) unitSampler = none := hevents
  have hctx : x.ctx = (s.tile t).ctx := intrude_ctx _ _
  have hsettings : x.settings = (s.tile t).settings := intrude_settings _ _
  have hsampler : x.samplerOf = (s.tile t).samplerOf := intrude_samplerOf _ _
  have hsreg (r : BitVec 5) : x.sreg r = (s.tile t).sreg r := intrude_sreg _ _ _
  have hline (r : BitVec 4) : x.line r = (s.tile t).line r := intrude_line _ _ _
  have hwords (fs : List Byte) (l n : Nat) : readWords fs x l n = readWords fs (s.tile t) l n := readWords_intrude _ _ _ _ _
  refine ⟨fun p => ?setup, fun ws g p => ?gmask, fun ws => ?gmaskNone, fun ws ids => ?penalty, fun ws => ?temp, ?uniform,
    fun ws => ?draw, ?accept, fun ps qs => ?resid, fun g st => ?gstep, fun g => ?gstepDead, ?gstepNone⟩
  case setup =>
    intro hi hin hfree hp hcheck hok
    simp only [l, hline] at hin hfree hp
    rw [show x.readLine memWb ((s.tile t).line f.ax) = (s.tile t).readLine memWb ((s.tile t).line f.ax) from
      intrude_readLine _ _ _ _] at hp
    refine (tileExec_done _ t _ s _ hi (setupOp_done hin hfree hevents hp hcheck hok)).trans ?_
    rw [← hctx] <;> rfl
  case gmask =>
    intro hgrammar hplacement hi hranges hfree hread hnan
    rw [hctx, hsettings] at hgrammar
    rw [hsampler]
    exact executes_of_mapLogits rfl (gmaskOp_grammar hgrammar hplacement) rfl hevents hi hranges hfree hread hnan
  case gmaskNone =>
    intro hgrammar hi hranges hfree hread hnan
    rw [hctx, hsettings] at hgrammar
    exact executes_of_mapLogits rfl (gmaskOp_none hgrammar) rfl hevents hi hranges hfree hread hnan
  case penalty =>
    intro hids hi hranges hfree hread hnan
    rw [hwords, hline, hsreg] at hids
    rw [hline, hsreg] at hranges hfree
    rw [hsreg, hsettings]
    exact executes_of_mapLogits rfl (penaltyOp_ok hids) rfl hevents hi hranges hfree hread hnan
  case temp =>
    intro hi hranges hfree hread hnan
    rw [hsettings]
    exact executes_of_mapLogits rfl rfl (by split <;> rfl) hevents hi hranges hfree hread hnan
  case uniform =>
    intro hi
    refine (tileExec_done _ t _ s _ hi (accessing_on _ _ _ _ hevents')).trans ?_
    rw [← hctx, ← hsreg]
  case draw =>
    intro hi hin hfree hread
    simp only [l, hline] at hin hfree hread
    rw [hwords] at hread
    rw [hsreg, hsreg]
    exact tileExec_done _ t _ s _ hi (drawOp_done hin hfree hevents hread)
  case accept =>
    intro hi
    refine (tileExec_done _ t _ s _ hi (accessing_on _ _ _ _ hevents')).trans ?_
    rw [← hsreg, ← hsreg, ← hsreg]
    rfl
  case resid =>
    intro hi hranges hfree hps hqs
    simp only [l, hline] at hranges hfree hps hqs ⊢
    rw [hwords] at hps hqs
    exact tileExec_done _ t _ s _ hi (residOp_done hranges hfree hevents hps hqs)
  case gstep =>
    intro hi hgrammar hwalk
    rw [hctx, hsettings] at hgrammar
    rw [hsampler, hsreg] at hwalk
    refine tileExec_done _ t _ s _ hi ((gstepOp_eq hevents).trans ?_)
    rw [hsampler]
    simp only [hgrammar, hwalk]
    rfl
  case gstepDead =>
    intro hi hgrammar hwalk
    rw [hctx, hsettings] at hgrammar
    rw [hsampler, hsreg] at hwalk
    refine tileExec_done _ t _ s _ hi ((gstepOp_eq hevents).trans ?_)
    simp only [hgrammar, hwalk]
    rfl
  case gstepNone =>
    intro hi hgrammar
    rw [hctx, hsettings] at hgrammar
    refine tileExec_done _ t _ s _ hi ((gstepOp_eq hevents).trans ?_)
    simp only [hgrammar]
    rfl

end Sys2Proof.Machine

/-! SUPPORT. The mesh: flits hop, credits return, boundary FIFOs. -/

namespace Sys2Proof.Machine
open Sys2Proof

/-! ### Buffers and hop credits of a router (R128, R129, R134) -/

theorem Tile.buf_setBuf (x : Tile) (p : Port) (v : Nat) (l : List Flit) : (x.setBuf p v l).buf p v = l :=
  Tbl.get_set_same _ _ _ _

@[simp] theorem Tile.buf_setFifo (x : Tile) (p q : Port) (v w : Nat) (l : List Flit) : (x.setFifo p v l).buf q w = x.buf q w := rfl
@[simp] theorem Tile.fifo_setBuf (x : Tile) (p q : Port) (v w : Nat) (l : List Flit) : (x.setBuf p v l).fifo q w = x.fifo q w := rfl
@[simp] theorem Tile.buf_setSpent (x : Tile) (p q : Port) (v w n : Nat) : (x.setSpent p v n).buf q w = x.buf q w := rfl
@[simp] theorem Tile.spentOn_setBuf (x : Tile) (p q : Port) (v w : Nat) (l : List Flit) :
    (x.setBuf p v l).spentOn q w = x.spentOn q w := rfl
theorem Tile.fifo_setFifo (x : Tile) (p : Port) (v : Nat) (l : List Flit) : (x.setFifo p v l).fifo p v = l :=
  Tbl.get_set_same _ _ _ _
theorem Tile.spentOn_setSpent (x : Tile) (p : Port) (v n : Nat) : (x.setSpent p v n).spentOn p v = n :=
  Tbl.get_set_same _ _ _ _

theorem tileX_lt (t : TileId) : tileX t < 256 := by
  have ht := t.isLt
  simp only [tileX, tileField, tileXIn, bitsAt]
  omega

theorem tileY_lt (t : TileId) : tileY t < 256 := by
  have ht := t.isLt
  simp only [tileY, tileField, tileYIn, bitsAt]
  omega

theorem toNat_tileAt {x y : Nat} (hx : x < 256) (hy : y < 256) :
    (tileAt x y).toNat = (8 * (y / 32) + x / 32) * 1024 + y % 32 * 32 + x % 32 := by
  have hfit : (8 * (y / 32 % 8) + x / 32 % 8) * 1024 + y % 32 * 32 + x % 32 < 2 ^ 16 := by omega
  rw [tileAt, BitVec.toNat_ofNat, Nat.mod_eq_of_lt hfit]
  omega

theorem tileX_tileAt {x y : Nat} (hx : x < 256) (hy : y < 256) : tileX (tileAt x y) = x := by
  simp only [tileX, tileField, tileXIn, bitsAt, toNat_tileAt hx hy, Nat.shiftRight_eq_div_pow]
  omega

theorem tileY_tileAt {x y : Nat} (hx : x < 256) (hy : y < 256) : tileY (tileAt x y) = y := by
  simp only [tileY, tileField, tileYIn, bitsAt, toNat_tileAt hx hy, Nat.shiftRight_eq_div_pow]
  omega

/-- The tile beyond a mesh port is another tile. -/
theorem neighbour_ne {t n : TileId} {p : Port} (hp : p ≠ .loc) (h : neighbour t p = some n) : n ≠ t := by
  rintro rfl
  have hx := tileX_lt n
  have hy := tileY_lt n
  cases p with
  | loc => exact hp rfl
  | north =>
    obtain ⟨hedge, hn⟩ := Option.ite_none_left_eq_some.1 h
    have hmoved := congrArg tileY (Option.some.inj hn)
    rw [tileY_tileAt hx (by omega)] at hmoved
    omega
  | east =>
    obtain ⟨hedge, hn⟩ := Option.ite_none_left_eq_some.1 h
    have hmoved := congrArg tileX (Option.some.inj hn)
    rw [tileX_tileAt (by omega) hy] at hmoved
    omega
  | south =>
    obtain ⟨hedge, hn⟩ := Option.ite_none_left_eq_some.1 h
    have hmoved := congrArg tileY (Option.some.inj hn)
    rw [tileY_tileAt hx (by omega)] at hmoved
    omega
  | west =>
    obtain ⟨hedge, hn⟩ := Option.ite_none_left_eq_some.1 h
    have hmoved := congrArg tileX (Option.some.inj hn)
    rw [tileX_tileAt (by omega) hy] at hmoved
    omega

theorem tile_updField (s : State) (n : Nat) (f : FieldCtl → FieldCtl) (t : TileId) : (s.updField n f).tile t = s.tile t := rfl

theorem sendCard_tile (src : Nat) (c : Card) (s : State) (t : TileId) : (sendCard src c s).tile t = s.tile t := rfl

section
variable {t n : TileId} {out : Port} {v : Nat} {f : Flit} {s : State}

/-- A flit that crosses a link spends a hop credit of its sender. -/
theorem hopFlit_tile_from (hout : out ≠ .loc) (hn : neighbour t out = some n) :
    (hopFlit t out v f s).tile t = (s.tile t).setSpent out v ((s.tile t).spentOn out v + 1) := by
  have hne := (neighbour_ne hout hn).symm
  simp only [hopFlit, hn]
  split
  · rw [State.tile_updTile_other _ _ hne, State.tile_updTile]
  · split
    · rw [State.tile_updTile_other _ _ hne, State.tile_updTile]
    · rw [sendCard_tile, State.tile_updTile_other _ _ hne, State.tile_updTile]

/-- It enters the neighbour's input buffer, or across a field boundary the FIFO before it. -/
theorem hopFlit_tile_to (hout : out ≠ .loc) (hn : neighbour t out = some n) : (hopFlit t out v f s).tile n =
    if tileField t = tileField n then (s.tile n).setBuf (opposite out) v ((s.tile n).buf (opposite out) v ++ [f])
    else (s.tile n).setFifo (opposite out) v ((s.tile n).fifo (opposite out) v ++ [f]) := by
  have hne := neighbour_ne hout hn
  simp only [hopFlit, hn]
  split
  · rw [State.tile_updTile, State.tile_updTile_other _ _ hne]
  · split
    · rw [State.tile_updTile, State.tile_updTile_other _ _ hne]
    · rw [sendCard_tile, State.tile_updTile, State.tile_updTile_other _ _ hne]

end

theorem noteTurn_tile_other {t n : TileId} (hne : n ≠ t) (p out : Port) (v : Nat) (s : State) :
    (noteTurn t p out v s).tile n = s.tile n := State.tile_updTile_other _ _ hne

theorem popBuf_tile_other {t n : TileId} (hne : n ≠ t) (p : Port) (v : Nat) (s : State) :
    (popBuf t p v s).tile n = s.tile n := State.tile_updTile_other _ _ hne

theorem Tile.spentOn_refill (x : Tile) (v : Nat) (out : Port) (w : Nat) : (x.refill v).spentOn out w = x.spentOn out w := by
  unfold Tile.refill
  (repeat' split) <;> rfl

/-- Taking a flit out of an input spends no hop credit. -/
theorem popBuf_spentOn (t : TileId) (p : Port) (v : Nat) (s : State) (out : Port) (w : Nat) :
    ((popBuf t p v s).tile t).spentOn out w = (s.tile t).spentOn out w := by
  rw [popBuf, State.tile_updTile]
  split
  · exact Tile.spentOn_refill _ _ _ _
  · rfl

theorem Tile.refill_sameMemories (x : Tile) (v : Nat) : SameMemories x (x.refill v) := by
  unfold Tile.refill
  (repeat' split) <;> exact SameMemories.refl x

theorem popBuf_sameMemories (t : TileId) (p : Port) (v : Nat) (s : State) :
    SameMemories (s.tile t) ((popBuf t p v s).tile t) := by
  rw [popBuf, State.tile_updTile]
  split
  · exact Tile.refill_sameMemories _ _
  · exact SameMemories.refl _

theorem popBuf_buf {p : Port} (hp : p ≠ .loc) (t : TileId) (v : Nat) (s : State) :
    ((popBuf t p v s).tile t).buf p v = ((s.tile t).buf p v).tail := by
  rw [popBuf, State.tile_updTile, if_neg hp, Tile.buf_setBuf, List.drop_one]

/-! ### Flits hop (R135, R138, R141, R143, R449) -/

/-- An output serves only under a hop credit, and VCs 0 to 2 only while no flit of VC 3 can go. -/
theorem granted_only {t : TileId} {p out : Port} {v : Nat} {s : State} (h : granted t p out v s = true) :
    hasCredit t out v s = true ∧ (v ≠ 3 → hasCredit t out 3 s = false ∨ askers t out 3 s = []) := by
  simp only [granted, Bool.and_eq_true, Bool.or_eq_true] at h
  obtain ⟨⟨hcredit, hturn⟩, -⟩ := h
  refine ⟨hcredit, fun hv => ?_⟩
  rcases hturn with hthree | ⟨hidle, -⟩
  · exact absurd (beq_iff_eq.1 hthree) hv
  · rcases hc : hasCredit t out 3 s with _ | _
    · exact .inl rfl
    · right
      simpa [hc] using hidle

section
variable {t : TileId} {p : Port} {vc : BitVec 2} {s : State} {f : Flit} (hon : s.routerOn t = true)
  (hhead : s.head t p vc.toNat = some f)
include hon hhead

theorem exec_unicastFlit_crcBad : exec (.unicastFlit t p vc true) s = .next (countHopRetry t p s) := by
  simp only [exec, execUnicastFlit, hon, hhead, Bool.not_true, Bool.false_eq_true, if_false, if_true]

theorem exec_unicastFlit_stays (htable : byTable f = false) (hout : routePort t (envDest f.env) ≠ .loc)
    (h : granted t p (routePort t (envDest f.env)) vc.toNat s = false) : exec (.unicastFlit t p vc false) s = .next s := by
  simp only [exec, execUnicastFlit, hon, hhead, htable, if_neg hout, h, Bool.not_true, Bool.not_false, Bool.false_eq_true, if_false,
    if_true]

theorem exec_unicastFlit_hops (htable : byTable f = false) (hout : routePort t (envDest f.env) ≠ .loc)
    (h : granted t p (routePort t (envDest f.env)) vc.toNat s = true) :
    exec (.unicastFlit t p vc false) s =
      .next (hopFrom t p (routePort t (envDest f.env)) vc.toNat f (popBuf t p vc.toNat s)) := by
  simp only [exec, execUnicastFlit, hon, hhead, htable, if_neg hout, h, Bool.not_true, Bool.false_eq_true, if_false]

end

theorem countHopRetry_tile (t : TileId) (p : Port) (s : State) (q : Port) (v : Nat) :
    ((countHopRetry t p s).tile t).buf q v = (s.tile t).buf q v := by
  rw [countHopRetry, tile_updField, State.tile_updTile]
  rfl

theorem countHopRetry_field (t : TileId) (p : Port) (s : State) :
    ((countHopRetry t p s).field (tileField t)).hopRetries = satAdd (s.field (tileField t)).hopRetries 1 := by
  rw [countHopRetry, State.field_updField]
  rfl

/-- Settles O23: a flit hops where its output serves it; credits and boundary FIFOs move on. -/
theorem flitsHop : Obligations.FlitsHop := by
  refine ⟨fun t p vc s f => ?hops, fun t p vc s f rest => ?links⟩
  case hops =>
    intro v out rest
    refine ⟨fun hp => popBuf_buf hp t v s, granted_only, fun hon hhead => ⟨fun n htable hout hn hgrant => ?_,
      exec_unicastFlit_stays hon hhead, ?_⟩⟩
    · have hne := neighbour_ne hout hn
      have hfrom := hopFlit_tile_from (v := v) (f := f) (s := noteTurn t p out v (popBuf t p v s)) hout hn
      have hto := hopFlit_tile_to (v := v) (f := f) (s := noteTurn t p out v (popBuf t p v s)) hout hn
      rw [noteTurn_tile_other hne, popBuf_tile_other hne] at hto
      refine ⟨_, exec_unicastFlit_hops hon hhead htable hout hgrant, ?_⟩
      rw [hopFrom, hfrom, hto, noteTurn, State.tile_updTile]
      refine ⟨rfl, ?_, ?_, popBuf_sameMemories t p v s, ?_⟩
      · rw [Tile.spentOn_setSpent]
        exact congrArg (· + 1) (popBuf_spentOn t p v s out v)
      · split
        · exact Tile.buf_setBuf _ _ _ _
        · exact Tile.fifo_setFifo _ _ _ _
      · split <;> exact SameMemories.refl _
    · exact ⟨_, exec_unicastFlit_crcBad hon hhead, countHopRetry_tile t p s p v, countHopRetry_field t p s⟩
  case links =>
    intro v back moved
    refine ⟨fun hp hspent => ?_, ?_, fun hfifo hgen hroom => ?_, ?_, fun hfifo hgen => ?_⟩
    · simp only [exec, execHopCreditReturn]
      exact if_pos ⟨hp, hspent⟩
    · simp only [back, State.tile_updTile]
      exact ⟨Tile.spentOn_setSpent _ _ _ _, SameMemories.refl _⟩
    · have hspace : ¬ ((s.tile t).buf p vc.toNat).length ≥ 8 := Nat.not_le.2 hroom
      have hfifo' : (s.tile t).fifo p vc.toNat = f :: rest := hfifo
      simp only [exec, execBoundaryFifoArrival, hfifo', hgen, Bool.not_true, Bool.false_eq_true, if_false, if_neg hspace]
      rfl
    · simp only [moved, State.tile_putTile]
      exact ⟨Tile.fifo_setFifo _ _ _ _, Tile.buf_setBuf _ _ _ _⟩
    · have hfifo' : (s.tile t).fifo p vc.toNat = f :: rest := hfifo
      refine ⟨knockField t s, ?_, rfl, rfl⟩
      simp only [exec, execBoundaryFifoArrival, hfifo', hgen, Bool.not_false, if_true]

end Sys2Proof.Machine

/-! SUPPORT. Parcels at their tile and the credits that return. -/

namespace Sys2Proof.Machine
open Sys2Proof

/-! ### What taking a flit away leaves -/

theorem Tile.refill_eq (x : Tile) (v : Nat) : x.refill v = { x with router := (x.refill v).router } := by
  unfold Tile.refill
  (repeat' split) <;> rfl

/-- Taking a flit out of an input changes its tile's router alone. -/
theorem popBuf_tile (t : TileId) (p : Port) (v : Nat) (s : State) :
    (popBuf t p v s).tile t = { s.tile t with router := ((popBuf t p v s).tile t).router } := by
  simp only [popBuf, State.tile_updTile]
  split
  · exact (Tile.refill_eq _ _).trans rfl
  · rfl

@[simp] theorem popBuf_block (t : TileId) (p : Port) (v : Nat) (s : State) (b : Nat) : (popBuf t p v s).block b = s.block b := rfl
@[simp] theorem popBuf_dev (t : TileId) (p : Port) (v : Nat) (s : State) : (popBuf t p v s).dev = s.dev := rfl
@[simp] theorem popBuf_hole (t : TileId) (p : Port) (v : Nat) (s : State) (q : Nat) :
    ((popBuf t p v s).tile t).hole q = (s.tile t).hole q := by rw [popBuf_tile]; rfl
@[simp] theorem popBuf_takes (t : TileId) (p : Port) (v : Nat) (s : State) :
    ((popBuf t p v s).tile t).takes = (s.tile t).takes := by rw [popBuf_tile]
@[simp] theorem popBuf_landings (t : TileId) (p : Port) (v : Nat) (s : State) :
    ((popBuf t p v s).tile t).landings = (s.tile t).landings := by rw [popBuf_tile]
@[simp] theorem popBuf_credits (t : TileId) (p : Port) (v : Nat) (s : State) :
    ((popBuf t p v s).tile t).credits = (s.tile t).credits := by rw [popBuf_tile]
@[simp] theorem popBuf_purges (t : TileId) (p : Port) (v : Nat) (s : State) (w : Byte) :
    purges t w (popBuf t p v s) = purges t w s := by
  simp only [purges, popBuf_block]
  rw [popBuf_tile]

@[simp] theorem intrude_router (i : Intrusion) (x : Tile) : (intrude i x).router = x.router := by rw [intrude_eq]
@[simp] theorem intrude_landings (i : Intrusion) (x : Tile) : (intrude i x).landings = x.landings := by rw [intrude_eq]

/-! ### Deliveries (R109, R110, R283, R450, R451, R455) -/

/-- Without an issued TAKE an entry stays in its queue. -/
theorem runTakes_none {t : TileId} {x : Tile} (h : x.takes = []) : runTakes t x = x := by
  simp only [runTakes, h, List.foldl_nil, List.dropWhile_nil]
  rw [← h]

section
variable {t : TileId} {f : Flit} {s : State}

theorem deliverHole_purged (hpurge : purges t (envWave f.env) s = true) :
    deliverHole t f s = .taken (s.updTile t (returnCredit t f)) := by
  simp only [deliverHole, hpurge, if_true]

theorem deliverHole_enters {l : List Flit} (hpurge : purges t (envWave f.env) s = false)
    (hawake : (s.block (tileBlock t)).awake = true) (hcrc : crcGood f.line = true)
    (henter : enterHole f ((s.tile t).hole (envQueue f.env).toNat) = some l) :
    deliverHole t f s = .taken (s.updTile t (fun x => runTakes t (x.setHole (envQueue f.env).toNat l))) := by
  simp only [deliverHole, hpurge, hawake, hcrc, henter, Bool.false_eq_true, if_false, Bool.not_true]

theorem deliverLanding_purged (i : Intrusion) (hpurge : purges t (envWave f.env) s = true) :
    deliverLanding t f i s = .taken s := by
  simp only [deliverLanding, hpurge, if_true]

theorem deliverLanding_badCrc (i : Intrusion) (hpurge : purges t (envWave f.env) s = false)
    (hawake : (s.block (tileBlock t)).awake = true) (hcrc : crcGood f.line = false) :
    deliverLanding t f i s = .taken (badArrival t f s) := by
  simp only [deliverLanding, hpurge, hawake, hcrc, Bool.false_eq_true, if_false, Bool.not_true, Bool.not_false, if_true]

/-- A good parcel lands at the pointer of a landing in the working buffer. -/
theorem deliverLanding_lands {i : Intrusion} {e : Landing}
    (he : e = Tbl.get ({} : Landing) (s.tile t).landings ((envQueue f.env).toNat - 16))
    (hpurge : purges t (envWave f.env) s = false) (hawake : (s.block (tileBlock t)).awake = true)
    (hcrc : crcGood f.line = true) (hvalid : e.valid = true) (hmem : e.mem = memWb)
    (hwave : e.lastWave = none ∨ e.lastWave = some (envWave f.env)) (hptr : e.ptr < e.count) (hline : e.first + e.ptr < 4096)
    (hevents : intrusionStops i unitPost = none) : deliverLanding t f i s =
      .taken (s.updTile t (fun y => landLine ((envQueue f.env).toNat - 16) e f (intrude (noSlots i) y))) := by
  have hring : (e.ring && decide (e.ptr ≥ e.count)) = false := by simp [hptr]
  have hws : ¬ (memWb : BitVec 2) = memWs := by decide
  have hslab : ¬ (memWb : BitVec 2) = memSlab := by decide
  have hranges : rangesFault unitPost [⟨memWb, e.first + e.ptr, 1⟩] = none := rangesFault_wbRange unitPost _ 1 hline
  have hready : ¬ e.ptr ≥ e.count := Nat.not_le.2 hptr
  rcases hwave with hwave | hwave <;>
    simp only [deliverLanding, hpurge, hawake, hcrc, ← he, hwave, hring, hvalid, if_neg hready, hmem, if_neg hws, if_neg hslab,
      hranges, hevents, Bool.false_eq_true, if_false, Bool.not_true, if_true]

end

/-- A line that lands in the working buffer is there, and the pointer moves on. -/
theorem landLine_memWb {n : Nat} {e : Landing} (f : Flit) (x : Tile) (hmem : e.mem = memWb) :
    landLine n e f x = { (x.writeLine memWb (e.first + e.ptr) f.line).sbCount false memWb (e.first + e.ptr) with
      landings := Tbl.set {} x.landings n { e with ptr := e.ptr + 1, lastWave := some (envWave f.env) } } := by
  have hws : ¬ (memWb : BitVec 2) = memWs := by decide
  simp only [landLine, hmem, if_neg hws]
  rfl

/-! ### Arrivals at a tile -/

section
variable {t : TileId} {p : Port} {vc : BitVec 2} {s : State} {f : Flit} (harrived : arrived t p vc.toNat s = some f)
  (hcontrol : isControl f = false)
include harrived hcontrol

theorem exec_pigeonholeArrival_taken (hqueue : (envQueue f.env).toNat < 16) {u : State}
    (h : deliverHole t f (popBuf t p vc.toNat s) = .taken u) : exec (.pigeonholeArrival t p vc) s = .next u := by
  have hq : ¬ (isControl f = true ∨ envQueue f.env ≥ 16) := by
    rw [hcontrol, not_or]
    exact ⟨by simp, fun hge => Nat.not_le.2 hqueue (BitVec.le_def.1 hge)⟩
  simp only [exec, execPigeonholeArrival, harrived, if_neg hq, h]

theorem exec_landingArrival_taken (hlow : 16 ≤ (envQueue f.env).toNat) (hhigh : (envQueue f.env).toNat < 32) {i : Intrusion}
    {u : State} (h : deliverLanding t f i (popBuf t p vc.toNat s) = .taken u) :
    exec (.landingArrival t p vc i) s = .next u := by
  have hq : ¬ (isControl f = true ∨ envQueue f.env < 16 ∨ envQueue f.env ≥ 32) := by
    rw [hcontrol, not_or, not_or]
    exact ⟨by simp, fun hlt => Nat.not_lt.2 hlow (BitVec.lt_def.1 hlt), fun hge => Nat.not_le.2 hhigh (BitVec.le_def.1 hge)⟩
  simp only [exec, execLandingArrival, harrived, if_neg hq, h]

end

/-! ### Credits that return (R112, R153) -/

section
variable {t : TileId} {p : Port} {s : State} {f : Flit} (harrived : arrived t p 3 s = some f) (hkind : envKind f.env = 5)
include harrived hkind

theorem exec_creditParcel_gains {i : Nat} (hgroup : envGroup f.env = 0)
    (hentry : creditIndex (s.tile t) (envSource f.env) (envQueue f.env) = some i) :
    exec (.creditParcel t p) s = .next ((popBuf t p 3 s).updTile t (gainCredit i 1)) := by
  have hunicast : groupCredit t p f s = false := by simp [groupCredit, hgroup, hentry]
  have hgoes : ¬ (envKind f.env ≠ 5 ∨ groupCredit t p f s = true) := by simp [hkind, hunicast]
  simp only [exec, execCreditParcel, harrived, if_neg hgoes, hentry]

/-- A group's credit is counted on the branch it came from. -/
theorem exec_groupCredit_counts (hgroup : groupCredit t p f s = true) :
    exec (.groupCredit t p) s = .next (passGroupCredit t (envGroup f.env) (envWave f.env) 32
      ((popBuf t p 3 s).updTile t (setFork (envGroup f.env) { forkEntry (s.tile t) (envGroup f.env) with
        credits := Tbl.set 0 (forkEntry (s.tile t) (envGroup f.env)).credits (portNo p)
          (min 32 (Tbl.get 0 (forkEntry (s.tile t) (envGroup f.env)).credits (portNo p) + 1)) }))) := by
  have hgoes : ¬ (envKind f.env ≠ 5 ∨ (!groupCredit t p f s) = true) := by simp [hkind, hgroup]
  simp only [exec, execGroupCredit, harrived, if_neg hgoes]

end

theorem portNo_inj {p q : Port} (h : portNo p = portNo q) : p = q := by
  cases p <;> cases q <;> simp_all [portNo]

/-- While a branch holds no count, no credit of the group goes on. -/
theorem passGroupCredit_waits {t : TileId} {g : BitVec 16} {w : Byte} {n : Nat} {s : State} {b : Port}
    (hb : b ∈ branches (forkEntry (s.tile t) g).out) (hnone : Tbl.get 0 (forkEntry (s.tile t) g).credits (portNo b) = 0) :
    passGroupCredit t g w n s = s := by
  cases n with
  | zero => rfl
  | succ n =>
    have hfull : ((branches (forkEntry (s.tile t) g).out).all (fun p =>
        decide (Tbl.get 0 (forkEntry (s.tile t) g).credits (portNo p) ≥ 1)) && (forkEntry (s.tile t) g).out != 0) = false := by
      rw [Bool.and_eq_false_iff]
      left
      rw [List.all_eq_false]
      exact ⟨b, hb, by simp [hnone]⟩
    simp only [passGroupCredit, hfull, Bool.not_false, if_true]

theorem forkEntry_setFork (g : BitVec 16) (e : ForkEntry) (x : Tile) : forkEntry (setFork g e x) g = e :=
  Tbl.get_set_same _ _ _ _

theorem gainCredit_held (i n : Nat) (x : Tile) :
    (Tbl.get ({} : CreditEntry) (gainCredit i n x).credits i).held = (Tbl.get ({} : CreditEntry) x.credits i).held + n :=
  congrArg CreditEntry.held (Tbl.get_set_same _ _ _ _)

/-- A parcel with a bad CRC at a landing is dropped with no more than its fault's note. -/
theorem badArrival_tile (t : TileId) (f : Flit) (s : State) (h : ¬ envQueue f.env < 16) :
    (badArrival t f s).tile t = { s.tile t with sent := (s.tile t).sent + 1 } := by
  simp only [badArrival, sendFaultNote, copyNote_tile, tileSends_tile, State.tile_updTile, if_neg h]

/-- Settles O24: what becomes of a parcel at its tile, and of a credit. -/
theorem parcelsArriveAndCreditsReturn : Obligations.ParcelsArriveAndCreditsReturn := by
  refine ⟨fun t p vc i s f => ?parcels, fun t p s f harrived hkind => ?credits⟩
  case parcels =>
    intro v q e rest harrived hcontrol hawake
    have hmem := popBuf_sameMemories t p v s
    refine ⟨fun l hq hpurge hcrc htakes henter => ?_, fun hq hpurge => ?_,
      fun hlow hhigh hpurge hcrc hvalid hwb hwave hptr hline hevents => ?_, fun hlow hhigh hpurge hcrc => ?_,
      fun hlow hhigh hpurge => ?_⟩
    · refine ⟨_, exec_pigeonholeArrival_taken harrived hcontrol hq (deliverHole_enters (by simpa using hpurge)
        (by simpa using hawake) hcrc (l := l) (by rw [popBuf_hole]; exact henter)), ?_⟩
      have htakes' : (((popBuf t p vc.toNat s).tile t).setHole q l).takes = [] := (popBuf_takes t p v s).trans htakes
      rw [State.tile_updTile, runTakes_none htakes']
      exact ⟨Tbl.get_set_same _ _ _ _, rfl, hmem⟩
    · exact exec_pigeonholeArrival_taken harrived hcontrol hq (deliverHole_purged (by simpa using hpurge))
    · refine ⟨_, exec_landingArrival_taken harrived hcontrol hlow hhigh (deliverLanding_lands (e := e) (by rw [popBuf_landings])
        (by simpa using hpurge) (by simpa using hawake) hcrc hvalid hwb hwave hptr hline hevents), ?_⟩
      rw [State.tile_updTile, landLine_memWb _ _ hwb]
      refine ⟨Mem.readLine_writeLine_same _ _ _, ?_, ?_⟩
      · exact congrArg Landing.ptr (Tbl.get_set_same _ _ _ _)
      · exact congrArg (fun r : Router => Tbl.get [] r.bufs (bufKey p v)) (intrude_router _ _)
    · refine ⟨_, exec_landingArrival_taken harrived hcontrol hlow hhigh (deliverLanding_badCrc i (by simpa using hpurge)
        (by simpa using hawake) hcrc), ?_, rfl⟩
      have hpurgeQueue : ¬ envQueue f.env < 16 := fun hlt => Nat.not_lt.2 hlow (BitVec.lt_def.1 hlt)
      rw [badArrival_tile t f _ hpurgeQueue]
      exact hmem
    · exact exec_landingArrival_taken harrived hcontrol hlow hhigh (deliverLanding_purged i (by simpa using hpurge))
  case credits =>
    intro rest
    refine ⟨fun i hgroup hentry => ?_, fun b => ?_⟩
    · refine ⟨_, exec_creditParcel_gains harrived hkind hgroup hentry, ?_⟩
      rw [State.tile_updTile]
      refine ⟨?_, rfl⟩
      rw [gainCredit_held, popBuf_credits]
    · intro e hgroup hvalid hport hb hne hnone
      have hcounts : groupCredit t p f s = true := by
        have hgroup' : envGroup f.env ≠ 0 ∨
            (creditIndex (s.tile t) (envSource f.env) (envQueue f.env)).isNone = true := by simpa using hgroup
        simp only [groupCredit, Bool.and_eq_true, Bool.or_eq_true]
        exact ⟨⟨hvalid, hport⟩, by simpa using hgroup'⟩
      have hcounted (s' : State) (e' : ForkEntry) : forkEntry ((s'.updTile t (setFork (envGroup f.env) e')).tile t)
          (envGroup f.env) = e' := by rw [State.tile_updTile, forkEntry_setFork]
      refine ⟨_, exec_groupCredit_counts harrived hkind hcounts, ?_⟩
      rw [passGroupCredit_waits (b := b) (by rw [hcounted]; exact hb)
        (by rw [hcounted, Tbl.get_set_other _ _ _ fun h => hne (portNo_inj h)]; exact hnone), hcounted]
      exact ⟨Tbl.get_set_same _ _ _ _, by rw [State.tile_updTile]; rfl⟩

end Sys2Proof.Machine

/-! SUPPORT. Trees, forks, pulls and the rim. -/

namespace Sys2Proof.Machine
open Sys2Proof

@[simp] theorem popBuf_descq (t : TileId) (p : Port) (v : Nat) (s : State) :
    ((popBuf t p v s).tile t).descq = (s.tile t).descq := by rw [popBuf_tile]
@[simp] theorem popBuf_served (t : TileId) (p : Port) (v : Nat) (s : State) :
    ((popBuf t p v s).tile t).served = (s.tile t).served := by rw [popBuf_tile]
@[simp] theorem popBuf_running (t : TileId) (p : Port) (v : Nat) (s : State) :
    ((popBuf t p v s).tile t).running = (s.tile t).running := by rw [popBuf_tile]
@[simp] theorem popBuf_netFault (t : TileId) (p : Port) (v : Nat) (s : State) :
    ((popBuf t p v s).tile t).netFault = (s.tile t).netFault := by rw [popBuf_tile]

theorem Tile.waiting_refill (x : Tile) (v : Nat) : (x.refill v).router.waiting = x.router.waiting := by
  unfold Tile.refill
  (repeat' split) <;> rfl

@[simp] theorem popBuf_waiting (t : TileId) (p : Port) (v : Nat) (s : State) :
    ((popBuf t p v s).tile t).router.waiting = (s.tile t).router.waiting := by
  rw [popBuf, State.tile_updTile]
  split
  · exact Tile.waiting_refill _ _
  · rfl

/-! ### What an output that serves lets go (R135, R138) -/

/-- An output that serves an input has a neighbour beyond it. -/
theorem neighbour_of_granted {t : TileId} {p out : Port} {v : Nat} {s : State} (h : granted t p out v s = true) :
    ∃ n, neighbour t out = some n := by
  cases hn : neighbour t out with
  | some n => exact ⟨n, rfl⟩
  | none => simp [granted, hasCredit, hn] at h

theorem hopFrom_tile {t : TileId} {p out : Port} {v : Nat} {f : Flit} {s : State} (hout : out ≠ .loc)
    (h : granted t p out v s = true) : (hopFrom t p out v f s).tile t =
      ((noteTurn t p out v s).tile t).setSpent out v (((noteTurn t p out v s).tile t).spentOn out v + 1) :=
  have ⟨_, hn⟩ := neighbour_of_granted h
  hopFlit_tile_from hout hn

/-! ### Trees and forks (R144, R145, R151, R152) -/

theorem bitAt_of_branches {out : BitVec 5} {p : Port} (h : branches out = [p]) : bitAt out (portNo p) = true := by
  have hp : p ∈ branches out := by rw [h]; exact List.mem_singleton_self p
  exact (List.mem_filter.1 hp).2

theorem forwardTree_granted {t : TileId} {p q : Port} {e : TreeEntry} {f : Flit} {s : State}
    (hparent : portOf e.parent.toNat = some q) (hq : q ≠ .loc) (h : granted t p q 1 s = true) :
    forwardTree t p e f s = .taken (hopFrom t p q 1 f s) := by
  cases q with
  | loc => exact absurd rfl hq
  | _ => simp only [forwardTree, hparent, h, if_true]

theorem sendTree_forwards {t : TileId} {p : Port} {e : TreeEntry} {f : Flit} {s u : State}
    (h : forwardTree t p e f ((popPart t p s).updTile t id) = .taken u) : sendTree t p e f id s = u := by
  have h' : forwardTree t p e f ((popPart t p s).updTile t (fun x => { x with router := id x.router })) = .taken u := h
  simp only [sendTree, h']

/-- A router with one child sends the part on as it is. -/
theorem exec_reductionPart_oneChild {t : TileId} {p : Port} {s : State} {f : Flit} {e : TreeEntry}
    (hhead : s.head t p 1 = some f) (hon : s.routerOn t = true) (hlow : 1 ≤ envKind f.env) (hhigh : envKind f.env ≤ 3)
    (hpurge : purges t (envWave f.env) s = false) (hentry : treeEntry (s.tile t) (envGroup f.env) = some e)
    (hchild : branches e.children = [p]) : exec (.reductionPart t p) s = .next (sendTree t p e f id s) := by
  have hkind : (!s.routerOn t || decide (envKind f.env < 1) || decide (envKind f.env > 3)) = false := by simp [hon]; omega
  have hport := bitAt_of_branches hchild
  have hone : (branches e.children).length = 1 := by rw [hchild]; rfl
  simp only [exec, execReductionPart, hhead, hkind, hpurge, hentry, hport, Bool.not_true, Bool.false_eq_true, if_false,
    if_pos hone]

theorem takeBranch_granted {t : TileId} {p b : Port} {e : ForkEntry} {f : Flit} {s : State} (hb : b ≠ .loc)
    (h : granted t p b 2 s = true) : takeBranch t p e b f s = .taken (hopFrom t p b 2 f s) := by
  simp only [takeBranch, if_neg hb, h, if_true]

/-- The one branch of a fork takes the only copy. -/
theorem exec_multicastFlit_oneBranch {t : TileId} {p b : Port} {s : State} {f : Flit}
    (hhead : s.head t p 2 = some f) (hon : s.routerOn t = true) (hkind : envKind f.env = 4)
    (hnone : Tbl.get [] (s.tile t).router.waiting (portNo p) = [])
    (hvalid : (forkEntry (s.tile t) (envGroup f.env)).valid = true)
    (hup : (forkEntry (s.tile t) (envGroup f.env)).up = portCode p)
    (hbranch : branches (forkEntry (s.tile t) (envGroup f.env)).out = [b]) (hb : b ≠ .loc)
    (h : granted t p b 2 s = true) : exec (.multicastFlit t p) s = .next (popBuf t p 2 (hopFrom t p b 2 f s)) := by
  obtain ⟨n, hn⟩ := neighbour_of_granted h
  have hok : forkOk t p (forkEntry (s.tile t) (envGroup f.env)) = true := by
    simp [forkOk, leadsOff, hvalid, hup, hbranch, hn]
  have hgoes : (!s.routerOn t || envKind f.env != 4 || Tbl.get [] (s.tile t).router.waiting (portNo p) != []) = false := by
    simp [hon, hkind, hnone]
  simp only [exec, execMulticastFlit, hhead, hgoes, hok, hbranch, takeBranches, takeBranch_granted hb h, Bool.not_true,
    Bool.false_eq_true, if_false, if_true]

/-- The last waiting branch takes its copy, and the flit leaves its input. -/
theorem exec_multicastBranchTake_last {t : TileId} {p b : Port} {s : State} {f : Flit}
    (hhead : s.head t p 2 = some f) (hlast : Tbl.get [] (s.tile t).router.waiting (portNo p) = [portNo b]) (hb : b ≠ .loc)
    (h : granted t p b 2 s = true) : exec (.multicastBranchTake t p b) s =
      .next (popBuf t p 2 ((hopFrom t p b 2 f s).updTile t
        (fun y => { y with router := { y.router with waiting := Tbl.set [] y.router.waiting (portNo p) [] } }))) := by
  have hmem : [portNo b].contains (portNo b) = true := by simp
  have hmore : [portNo b].filter (fun n => n != portNo b) = [] := by simp
  simp only [exec, execMulticastBranchTake, hhead, hlast, hmem, hmore, takeBranch_granted hb h, Bool.not_true,
    Bool.false_eq_true, if_false, if_true]

/-! ### Pulls and circulars (R154, R567) -/

theorem recordFault_net_netFault (c : BitVec 4) (port : BitVec 3) (ident : BitVec 16) (u : BitVec 4) (pc : BitVec 12)
    (w now : BitVec 64) (x : Tile) : (recordFault (.net c port ident u) pc w now x).netFault =
      keepFirst x.netFault (netFaultWord c port ident) := by
  simp only [recordFault, TileFault.seqCode]
  split <;> rfl

theorem recordFault_router (e : TileFault) (pc : BitVec 12) (w now : BitVec 64) (x : Tile) :
    (recordFault e pc w now x).router = x.router := by rw [recordFault_eq]

/-- What a malformed request leaves: cause 0x6 with the requester's ID, and its note (R567). -/
theorem refusePull_tile (t : TileId) (p : Port) (f : Flit) (s : State) (h : bitAt (s.tile t).netFault 31 = false) :
    ((refusePull t p f s).tile t).netFault = netFaultWord 6 0 (envSource f.env) ∧
    ((refusePull t p f s).tile t).router = ((popBuf t p 3 s).tile t).router ∧
    (refusePull t p f s).dev.cards = s.dev.cards ++ [⟨srcTile t, faultNoteCard 0x1 (envWave f.env) t⟩] := by
  refine ⟨?_, ?_, rfl⟩
  · simp only [refusePull, takeFaultFor, sendFaultNote, copyNote_tile, tileSends_tile, State.tile_putTile, reduceCtorEq, if_false]
    rw [recordFault_net_netFault, popBuf_netFault, keepFirst, h]
    rfl
  · simp only [refusePull, takeFaultFor, sendFaultNote, copyNote_tile, tileSends_tile, State.tile_putTile, reduceCtorEq, if_false]
    exact recordFault_router _ _ _ _ _

/-- Letting kept replies in keeps their order behind the queue (R117). -/
theorem admitServed_order (x : Tile) : (admitServed x).descq ++ (admitServed x).served = x.descq ++ x.served := by
  unfold admitServed
  split
  · rfl
  · next h => split <;> simp [h]

theorem admitServed_router (x : Tile) : (admitServed x).router = x.router := by
  unfold admitServed
  (repeat' split) <;> rfl

/-- With room in the queue and no reply that waits, a reply joins the queue at once. -/
theorem admitServed_room {x : Tile} {d : Desc} (hnone : x.served = []) (hroom : x.descq.length + x.running.length < 16) :
    (admitServed { x with served := x.served ++ [d] }).descq = x.descq ++ [d] := by
  have hfull : Tile.queueFull { x with served := [d] } = false := by simpa [Tile.queueFull, Tile.queued] using hroom
  simp only [hnone, List.nil_append, admitServed, hfull, Bool.false_eq_true, if_false]

/-- The reply's descriptor that a good pull queues (R154, R567). -/
def pullReply (t : TileId) (f : Flit) : Desc :=
  { op := .send, smem := fieldAt (wordAt f.line 0) 8 2, dmem := 0, src := (wordAt f.line 1).toNat, dst := 0
    blocks := (wordAt f.line 2).toNat + 1, reg := false, last := true, bypass := envBypass f.env
    position := envPosition f.env, tmpl := 0
    ctx := ⟨envSession f.env, envTenant f.env, envPosition f.env, envWave f.env, envReplay f.env, envBypass f.env⟩
    env := some (replyEnv t f.env (bitsAt (wordAt f.line 0) 16 8)) }

section
variable {t : TileId} {p : Port} {s : State} {f : Flit} (harrived : arrived t p 3 s = some f) (hkind : envKind f.env = 9)
include harrived hkind

theorem exec_pullRequest_served (hawake : (s.block (tileBlock t)).awake = true) (hcrc : crcGood f.line = true)
    (hop : bitsAt (wordAt f.line 0) 0 8 = 1) (hok : pullOk f.line = true) :
    exec (.pullRequest t p) s = .next ((popBuf t p 3 s).updTile t (fun x => admitServed { x with served := x.served ++
      [pullReply t f] })) := by
  have hgoes : ¬ (envKind f.env ≠ 9 ∨ bitsAt (wordAt f.line 0) 0 8 = 2) := by simp [hkind, hop]
  simp only [exec, execPullRequest, harrived, if_neg hgoes, hawake, hcrc, hok, pullReply, Bool.not_true, Bool.false_eq_true,
    if_false]

theorem exec_pullRequest_refused (hawake : (s.block (tileBlock t)).awake = true) (hcrc : crcGood f.line = true)
    (hop : bitsAt (wordAt f.line 0) 0 8 ≠ 2) (hok : pullOk f.line = false) :
    exec (.pullRequest t p) s = .next (refusePull t p f s) := by
  have hgoes : ¬ (envKind f.env ≠ 9 ∨ bitsAt (wordAt f.line 0) 0 8 = 2) := by simp [hkind, hop]
  simp only [exec, execPullRequest, harrived, if_neg hgoes, hawake, hcrc, hok, Bool.not_true, Bool.not_false,
    Bool.false_eq_true, if_false, if_true]

theorem exec_circularRequest_asks (hawake : (s.block (tileBlock t)).awake = true) (hcrc : crcGood f.line = true)
    (hop : bitsAt (wordAt f.line 0) 0 8 = 2) (hok : circularOk (s.tile t) f.line = true) :
    exec (.circularRequest t p) s =
      .next ((popBuf t p 3 s).updTile t (askCircular t (wordAt f.line 1).toNat f.env)) := by
  have hgoes : ¬ (envKind f.env ≠ 9 ∨ bitsAt (wordAt f.line 0) 0 8 ≠ 2) := by simp [hkind, hop]
  simp only [exec, execCircularRequest, harrived, if_neg hgoes, hawake, hcrc, hok, Bool.not_true, Bool.false_eq_true, if_false]

theorem exec_circularRequest_refused (hawake : (s.block (tileBlock t)).awake = true) (hcrc : crcGood f.line = true)
    (hop : bitsAt (wordAt f.line 0) 0 8 = 2) (hok : circularOk (s.tile t) f.line = false) :
    exec (.circularRequest t p) s = .next (refusePull t p f s) := by
  have hgoes : ¬ (envKind f.env ≠ 9 ∨ bitsAt (wordAt f.line 0) 0 8 ≠ 2) := by simp [hkind, hop]
  simp only [exec, execCircularRequest, harrived, if_neg hgoes, hawake, hcrc, hok, Bool.not_true, Bool.not_false,
    Bool.false_eq_true, if_false, if_true]

end

/-! ### The rim (R140, R143, R528, R566) -/

/-- Only the two rim queues lead to a die. -/
theorem rimQueue_of_target {t : TileId} {q : Byte} {d : RimDie} (h : rimTarget t q = some d) :
    ¬ (q ≠ 0xF0 ∧ q ≠ 0xF1) := by
  rintro ⟨h0, h1⟩
  simp only [rimTarget, if_neg h0, if_neg h1] at h
  cases h

section
variable {t : TileId} {p : Port} {vc : BitVec 2} {s : State} {f : Flit} (harrived : arrived t p vc.toNat s = some f)
include harrived

theorem exec_rimExit_chiplet {c : Nat} (h : rimTarget t (envQueue f.env) = some (.chiplet c)) :
    exec (.rimExit t p vc) s =
      .next ((popBuf t p vc.toNat s).updChiplet c (fun k => { k with rimIn := k.rimIn ++ [f] })) := by
  simp only [exec, execRimExit, harrived, if_neg (rimQueue_of_target h), h]

theorem exec_rimExit_stack {n : Nat} (h : rimTarget t (envQueue f.env) = some (.stack n)) :
    exec (.rimExit t p vc) s =
      .next ((popBuf t p vc.toNat s).updStk n (fun k => { k with rimIn := k.rimIn ++ [f] })) := by
  simp only [exec, execRimExit, harrived, if_neg (rimQueue_of_target h), h]

theorem exec_rimExit_keeper {k : Nat} (h : rimTarget t (envQueue f.env) = some (.keeper k)) :
    exec (.rimExit t p vc) s =
      .next ((popBuf t p vc.toNat s).updKeeper k (fun y => { y with rimIn := y.rimIn ++ [f] })) := by
  simp only [exec, execRimExit, harrived, if_neg (rimQueue_of_target h), h]

end

/-- A parcel comes through the port that attaches its die, or waits there. -/
theorem exec_rimEntry {t : TileId} {secondary : Bool} {e d : Nat} {env : Env} {l : Line} {s : State}
    (hport : (if secondary then secondaryPort t else primaryPort t) = some (e, d)) (hdie : rimDie e d ≠ .idle) :
    exec (.rimEntry t secondary env l) s = .next ((enterRim t (edgePort e) ⟨env, l⟩ s).getD (awaitRim t s)) := by
  have hattached : (rimDie e d == .idle) = false := by simpa using hdie
  simp only [exec, execRimEntry, hport, hattached, Bool.false_eq_true, if_false]

/-- Settles O25: how trees, forks, pulls and the rim pass a parcel on. -/
theorem treesPullsAndTheRim : Obligations.TreesPullsAndTheRim := by
  refine ⟨fun t p b s f => ?trees, fun t p s f harrived hkind hawake hcrc => ?pulls, fun t p vc s f => ?rim⟩
  case trees =>
    intro popped
    refine ⟨fun e q hhead hon hlow hhigh hpurge hentry hchild hparent hq hgrant => ?_,
      exec_multicastFlit_oneBranch, fun hhead hlast hb hgrant => ?_⟩
    · rw [exec_reductionPart_oneChild hhead hon hlow hhigh hpurge hentry hchild,
        sendTree_forwards (forwardTree_granted hparent hq hgrant)]
    · refine ⟨_, exec_multicastBranchTake_last hhead hlast hb hgrant, ?_, ?_⟩
      · rw [popBuf_waiting, State.tile_updTile]
        simp only [Tbl.get_set_same]
      · rw [popBuf_spentOn, State.tile_updTile]
        have hspent : ((hopFrom t p b 2 f s).tile t).spentOn b 2 = (s.tile t).spentOn b 2 + 1 := by
          rw [hopFrom_tile hb hgrant, Tile.spentOn_setSpent, noteTurn, State.tile_updTile]
          rfl
        exact hspent
  case pulls =>
    intro x rest
    refine ⟨fun hop hok => ?_, exec_circularRequest_asks harrived hkind hawake hcrc, fun i hi hfault => ?_⟩
    · refine ⟨_, pullReply t f, exec_pullRequest_served harrived hkind hawake hcrc hop hok, ?_⟩
      rw [State.tile_updTile]
      refine ⟨?_, fun hnone hroom => ?_, rfl, rfl, rfl, rfl, ?_⟩
      · rw [admitServed_order]
        simp [x]
      · rw [admitServed_room (by simpa using hnone) (by simpa using hroom), popBuf_descq]
      · exact congrArg (fun r : Router => Tbl.get [] r.bufs (bufKey p 3)) (admitServed_router _)
    · obtain ⟨hnet, hrouter, hcards⟩ := refusePull_tile t p f s hfault
      refine ⟨refusePull t p f s, ?_, hnet, congrArg (fun r : Router => Tbl.get [] r.bufs (bufKey p 3)) hrouter, hcards⟩
      obtain ⟨rfl, hop, hok⟩ | ⟨rfl, hop, hok⟩ := hi
      · exact exec_pullRequest_refused harrived hkind hawake hcrc hop hok
      · exact exec_circularRequest_refused harrived hkind hawake hcrc hop hok
  case rim =>
    refine ⟨fun c harrived htarget => ⟨_, exec_rimExit_chiplet harrived htarget, ?_⟩,
      fun n harrived htarget => ⟨_, exec_rimExit_stack harrived htarget, ?_⟩,
      fun k harrived htarget => ⟨_, exec_rimExit_keeper harrived htarget, ?_⟩, fun secondary e d hon hport hdie => ?_⟩
    · rw [State.chiplet_updChiplet]; rfl
    · rw [State.stk_updStk]; rfl
    · rw [State.keeper_updKeeper]; rfl
    · refine ⟨fun hgen hroom => ⟨_, exec_rimEntry hport hdie, ?_⟩, fun hgen => ⟨_, exec_rimEntry hport hdie, ?_⟩⟩
      · have hfree : ¬ 8 ≤ ((s.tile t).buf (edgePort e) (envVc f.env)).length := Nat.not_le.2 hroom
        simp only [enterRim, hon, hgen, Bool.not_true, Bool.or_self, Bool.false_or, decide_eq_true_eq, ge_iff_le, if_neg hfree,
          Option.getD_some, State.tile_putTile]
        exact Tile.buf_setBuf _ _ _ _
      · simp only [enterRim, awaitRim, hon, hgen, Bool.not_true, Bool.not_false, Bool.false_or, Bool.true_or, if_true,
          Bool.and_self, Option.getD_none]
        exact ⟨rfl, rfl⟩

end Sys2Proof.Machine

/-! SUPPORT. The fields of a postcard, and an order at a tile. -/

namespace Sys2Proof.Machine
open Sys2Proof

/-! ### The fields of a postcard (R155) -/

section
variable (payload : Word) (typ : BitVec 4) (dclass : BitVec 3) (dest : BitVec 16)

/-- The number that a card's fields make, without its CRC. -/
def cardNumber : Nat := payload.toNat * 2 ^ 32 + typ.toNat * 2 ^ 28 + dclass.toNat * 2 ^ 25 + dest.toNat * 2 ^ 8

/-- A card's CRC is no part of the fields above it. -/
theorem fieldAt_mkCard {lo w : Nat} (hlo : 8 ≤ lo) :
    (fieldAt (mkCard payload typ dclass dest) lo w).toNat = cardNumber payload typ dclass dest % 2 ^ 64 / 2 ^ lo % 2 ^ w := by
  have hcrc (b : Byte) (c : BitVec 64) : fieldAt (c ||| b.setWidth 64) lo w = fieldAt c lo w := by
    ext i hi
    have hbit : b.getLsbD (lo + i) = false := BitVec.getLsbD_of_ge _ _ (by omega)
    simp [fieldAt, BitVec.getElem_setWidth, hbit]
  rw [mkCard, hcrc, fieldAt, BitVec.toNat_setWidth, BitVec.toNat_ushiftRight, BitVec.toNat_ofNat, Nat.shiftRight_eq_div_pow]
  rfl

@[simp] theorem payload_mkCard : Card.payload (mkCard payload typ dclass dest) = payload := by
  apply BitVec.eq_of_toNat_eq
  rw [Card.payload, fieldAt_mkCard _ _ _ _ (by decide), cardNumber]
  omega

@[simp] theorem typ_mkCard : Card.typ (mkCard payload typ dclass dest) = typ := by
  apply BitVec.eq_of_toNat_eq
  rw [Card.typ, fieldAt_mkCard _ _ _ _ (by decide), cardNumber]
  omega

@[simp] theorem dclass_mkCard : Card.dclass (mkCard payload typ dclass dest) = dclass := by
  apply BitVec.eq_of_toNat_eq
  rw [Card.dclass, fieldAt_mkCard _ _ _ _ (by decide), cardNumber]
  omega

@[simp] theorem dest_mkCard : Card.dest (mkCard payload typ dclass dest) = dest := by
  apply BitVec.eq_of_toNat_eq
  rw [Card.dest, fieldAt_mkCard _ _ _ _ (by decide), cardNumber]
  omega

end

theorem toNat_fieldAt_ofNat {n : Nat} (m lo w : Nat) :
    (fieldAt (BitVec.ofNat n m) lo w).toNat = m % 2 ^ n / 2 ^ lo % 2 ^ w := by
  rw [fieldAt, BitVec.toNat_setWidth, BitVec.toNat_ushiftRight, BitVec.toNat_ofNat, Nat.shiftRight_eq_div_pow]

/-! ### Orders at a tile (R268, R283, R454, R455) -/

section
variable (n : Nat) (w : Byte) (o : BitVec 4)

theorem typ_orderCard : Card.typ (orderCard n w o) = cardOrder := typ_mkCard _ _ _ _

theorem order_orderCard : fieldAt (Card.payload (orderCard n w o)) 8 4 = o := by
  apply BitVec.eq_of_toNat_eq
  rw [orderCard, payload_mkCard, toNat_fieldAt_ofNat]
  omega

theorem wave_orderCard : fieldAt (Card.payload (orderCard n w o)) 0 8 = w := by
  apply BitVec.eq_of_toNat_eq
  rw [orderCard, payload_mkCard, toNat_fieldAt_ofNat]
  omega

end

/-- An order of the four at a tile of an ACTIVE block acts on that tile. -/
theorem tileCard_order {t : TileId} {w : Byte} {o : BitVec 4} {s : State} (hactive : (s.block (tileBlock t)).pstate = .active)
    (hlow : 1 ≤ o.toNat) (hhigh : o.toNat ≤ 4) :
    tileCard t (orderCard (tileField t) w o) s = s.updTile t (orderTile t w o) := by
  have horder : bitsAt (Card.payload (orderCard (tileField t) w o)) 8 4 = o.toNat := by
    have hfield := congrArg BitVec.toNat (order_orderCard (tileField t) w o)
    rwa [fieldAt, BitVec.toNat_setWidth, BitVec.toNat_ushiftRight] at hfield
  have htakes : blockTakes (orderCard (tileField t) w o) = true := by
    have hknock : ¬ Card.typ (orderCard (tileField t) w o) = cardKnock := by rw [typ_orderCard]; decide
    rw [blockTakes, if_neg hknock, if_pos (typ_orderCard _ _ _), horder]
    simp [hlow, hhigh]
  simp only [tileCard, htakes, hactive, Bool.not_true, Bool.false_eq_true, if_false, if_true, deliverCard, typ_orderCard,
    wave_orderCard, order_orderCard]

theorem exec_waveOrderDiscard_active {t : TileId} {w : Byte} {s : State}
    (hactive : (s.block (tileBlock t)).pstate = .active) :
    exec (.waveOrderDiscard t w) s = .next (s.updTile t (discardTile t w)) :=
  congrArg Host.Outcome.next (tileCard_order hactive (by decide) (by decide))

/-- A kept reply of another wave that holds no envelope. -/
def bareReply : Desc :=
  { op := .send, smem := 0, dmem := 0, src := 0, dst := 0, blocks := 1, reg := false, last := true, bypass := false
    position := 0, tmpl := 0, ctx := { ({} : Tile).ctx with wave := 1 } }

/-- A tile in wave 0 that keeps such a reply. -/
def bareReplyTile : Tile := { ({} : Tile) with begun := true, served := [bareReply] }

/-- The device with that tile in an ACTIVE block. -/
def bareReplyState : State := (State.reset.updBlock (tileBlock 0) (fun b => { b with pstate := .active })).putTile 0 bareReplyTile

theorem discardTile_bareReplyTile : (discardTile 0 0 bareReplyTile).descq = [bareReply] := by rfl

/-- Refutes O26: the discard lets a kept reply into the queue, and nothing says that a kept reply holds an envelope. -/
theorem not_waveOrdersActOnTiles : ¬ Obligations.WaveOrdersActOnTiles := by
  intro ⟨_, hdiscard⟩
  have hactive : (bareReplyState.block (tileBlock 0)).pstate = .active := by
    rw [bareReplyState, State.block_putTile, State.block_updBlock]
  have htile : bareReplyState.tile 0 = bareReplyTile := State.tile_putTile _ _ _
  obtain ⟨u, hu, _, _, _, hdescq, _⟩ := hdiscard 0 0 bareReplyState hactive (by rw [htile]; decide)
  rw [exec_waveOrderDiscard_active hactive] at hu
  cases hu
  rw [State.tile_updTile, htile, discardTile_bareReplyTile] at hdescq
  exact absurd (hdescq bareReply (List.mem_singleton_self _)).1 (by decide)

end Sys2Proof.Machine

/-! SUPPORT. Cards at their receivers, and fault notes at the Postmaster. -/

namespace Sys2Proof.Machine
open Sys2Proof

/-! ### A card in its turn (R159) -/

@[simp] theorem cardArrives_tile (c : Card) (s : State) (t : TileId) : (cardArrives c s).tile t = s.tile t := rfl
@[simp] theorem cardArrives_block (c : Card) (s : State) (b : Nat) : (cardArrives c s).block b = s.block b := rfl
@[simp] theorem cardArrives_field (c : Card) (s : State) (f : Nat) : (cardArrives c s).field f = s.field f := rfl
@[simp] theorem cardArrives_cards (c : Card) (s : State) : (cardArrives c s).dev.cards = dropCard c [] s.dev.cards := rfl
@[simp] theorem cardArrives_journal (c : Card) (s : State) : (cardArrives c s).journal = s.journal := rfl
@[simp] theorem cardArrives_wave (c : Card) (s : State) (w : Byte) : (cardArrives c s).wave w = s.wave w := rfl

theorem knockReason_of_range {r : Byte} (hlow : 1 ≤ r.toNat) (hhigh : r.toNat ≤ 5) : knockReason r = true := by
  have hne : (r != 0) = true := bne_iff_ne.2 (by rintro rfl; exact absurd hlow (by decide))
  rw [knockReason, hne, decide_eq_true hhigh, Bool.and_self]

section
variable {reason : Byte} {s : State} (hlow : 1 ≤ reason.toNat) (hhigh : reason.toNat ≤ 5)
include hlow hhigh

theorem exec_knock_block {b : Fin 1024} (hdue : cardDue (knockCard 1 (BitVec.ofNat 16 b.val) reason) s = true)
    (hreason : reason ≠ 1) : exec (.knock 1 (BitVec.ofNat 16 b.val) reason) s =
      .next (askWake b.val (cardArrives (knockCard 1 (BitVec.ofNat 16 b.val) reason) s)) := by
  have hb : (BitVec.ofNat 16 b.val).toNat = b.val := by rw [BitVec.toNat_ofNat]; omega
  have hclass : ¬ (1 : BitVec 3) = 0 := by decide
  simp only [exec, execKnock, hdue, Bool.not_true, Bool.false_eq_true, if_false, if_neg hclass, agentKnock,
    knockReason_of_range hlow hhigh, hb, if_pos (And.intro trivial b.isLt), if_neg hreason]

theorem exec_knock_field {f : Fin 64} (hdue : cardDue (knockCard 2 (BitVec.ofNat 16 f.val) reason) s = true) :
    exec (.knock 2 (BitVec.ofNat 16 f.val) reason) s =
      .next (startGenerator f.val (cardArrives (knockCard 2 (BitVec.ofNat 16 f.val) reason) s)) := by
  have hf : (BitVec.ofNat 16 f.val).toNat = f.val := by rw [BitVec.toNat_ofNat]; omega
  have hclass : ¬ (2 : BitVec 3) = 0 := by decide
  have hnode : ¬ ((2 : BitVec 3) = 1 ∧ f.val < 1024) := by simp
  simp only [exec, execKnock, hdue, Bool.not_true, Bool.false_eq_true, if_false, if_neg hclass, agentKnock,
    knockReason_of_range hlow hhigh, hf, if_neg hnode, if_pos (And.intro trivial f.isLt)]

end

theorem askWake_asks {b : Nat} {s : State} (hasleep : (s.block b).pstate ≠ .active) (hlit : (s.block b).pstate ≠ .dark) :
    ((askWake b s).block b).wakeAsked = true := by
  rw [askWake, if_neg (by simp [hasleep, hlit]), State.block_updBlock]

theorem startGenerator_runs {f : Nat} {s : State} (hrail : (s.field f).railOn = true) :
    ((startGenerator f s).field f).genRunning = true ∧ ((startGenerator f s).field f).mhz = (s.field f).mhz := by
  rw [startGenerator, State.field_updField]
  cases hgen : (s.field f).genRunning <;> simp [hrail, hgen]

/-! ### Cards for tiles (R156, R160, R569) -/

section
variable (t : TileId) (payload : Word)

theorem typ_userCard : Card.typ (userCard t payload) = cardUserType := typ_mkCard _ _ _ _

theorem blockTakes_of_typ {c : Card} (h : Card.typ c = cardRelease ∨ Card.typ c = cardUserType) : blockTakes c = true := by
  have hknock : ¬ Card.typ c = cardKnock := by rcases h with h | h <;> rw [h] <;> decide
  have horder : ¬ Card.typ c = cardOrder := by rcases h with h | h <;> rw [h] <;> decide
  rw [blockTakes, if_neg hknock, if_neg horder]
  simpa using h

/-- At an ACTIVE block a card acts on its tile at once. -/
theorem tileCard_active {t : TileId} {c : Card} {s : State} (hactive : (s.block (tileBlock t)).pstate = .active)
    (h : blockTakes c = true) : tileCard t c s = deliverCard t c s := by
  simp only [tileCard, h, hactive, Bool.not_true, Bool.false_eq_true, if_false, if_true]

theorem deliverCard_user {t : TileId} {c : Card} {s : State} (h : Card.typ c = cardUserType) :
    (deliverCard t c s).tile t = { s.tile t with
      inbox := (enterInbox 8 (s.tile t).inbox (s.tile t).cardHold c).1
      cardHold := (enterInbox 8 (s.tile t).inbox (s.tile t).cardHold c).2 } := by
  have horder : ¬ Card.typ c = cardOrder := by rw [h]; decide
  have hrelease : ¬ Card.typ c = cardRelease := by rw [h]; decide
  rw [deliverCard, if_neg horder, if_neg hrelease, if_pos h, State.tile_updTile]

theorem exec_user_due {s : State} (hdue : cardDue (userCard t payload) s = true) :
    exec (.user t payload) s = .next (tileCard t (userCard t payload) (cardArrives (userCard t payload) s)) := by
  simp only [exec, execUser, hdue, if_true]

end

theorem exec_user_waits {t : TileId} {payload : Word} {s : State} (hdue : cardDue (userCard t payload) s = false) :
    exec (.user t payload) s = .next s := by
  simp only [exec, execUser, hdue, Bool.false_eq_true, if_false]

section
variable (id w : Byte) (n : Nat)

theorem typ_releaseCard : Card.typ (releaseCard id w n) = cardRelease := typ_mkCard _ _ _ _

theorem barrier_releaseCard : fieldAt (Card.payload (releaseCard id w n)) 0 8 = id := by
  apply BitVec.eq_of_toNat_eq
  rw [releaseCard, payload_mkCard, toNat_fieldAt_ofNat]
  omega

theorem wave_releaseCard : fieldAt (Card.payload (releaseCard id w n)) 8 8 = w := by
  apply BitVec.eq_of_toNat_eq
  rw [releaseCard, payload_mkCard, toNat_fieldAt_ofNat]
  omega

end

theorem deliverCard_release {t : TileId} {id w : Byte} {n : Nat} {s : State} :
    deliverCard t (releaseCard id w n) s = latchRelease t id w s := by
  have horder : ¬ Card.typ (releaseCard id w n) = cardOrder := by rw [typ_releaseCard]; decide
  rw [deliverCard, if_neg horder, if_pos (typ_releaseCard _ _ _), barrier_releaseCard, wave_releaseCard]

/-- A release that the root hub sent is latched at the tile. -/
theorem exec_barrierRelease_latches {t : TileId} {id w : Byte} {s : State} {n : Nat}
    (hactive : (s.block (tileBlock t)).pstate = .active) (hindex : s.barrierIndex (tileField t) id = some n)
    (hsent : (id, w) ∈ (s.field (tileField t)).releases) :
    exec (.barrierRelease t id w) s =
      .next (s.updTile t (fun x => { x with latches := Tbl.set none x.latches n (some w) })) := by
  have hreleased : s.released (tileField t) id w = true := by simpa [State.released] using hsent
  have htakes := tileCard_active hactive (blockTakes_of_typ (.inl (typ_releaseCard id w (tileField t))))
  simp only [exec, execBarrierRelease, hreleased, if_true, htakes, deliverCard_release, latchRelease, hindex]

theorem exec_barrierRelease_unsent {t : TileId} {id w : Byte} {s : State}
    (hunsent : (id, w) ∉ (s.field (tileField t)).releases) : exec (.barrierRelease t id w) s = .next s := by
  have hreleased : s.released (tileField t) id w = false := by simpa [State.released] using hunsent
  simp only [exec, execBarrierRelease, hreleased, Bool.false_eq_true, if_false]

/-- A sleeping block's node keeps a user card and asks for the wake (R569). -/
theorem exec_sleepingBlockCard_user {b : Fin 1024} {c : Card} {s : State}
    (hasleep : (s.block b.val).pstate = .diapause ∨ (s.block b.val).pstate = .chrysalis) (hdue : cardDue c s = true)
    (hgood : Card.good c = true) (htyp : Card.typ c = cardUserType) (hclass : Card.dclass c = 0)
    (hblock : tileBlock (Card.dest c) = b.val) : exec (.sleepingBlockCard b c) s =
      .next (sendCard (srcNode b.val) (knockCard 1 (BitVec.ofNat 16 b.val) 0x05)
        ((cardArrives c s).updBlock b.val (fun y => { y with nodeCards := y.nodeCards ++ [c] }))) := by
  have hactive : ¬ (s.block b.val).pstate = .active := by rcases hasleep with h | h <;> rw [h] <;> decide
  have hdark : ¬ (s.block b.val).pstate = .dark := by rcases hasleep with h | h <;> rw [h] <;> decide
  have hawake : (s.block b.val).awake = false := by rcases hasleep with h | h <;> simp [Block.awake, h]
  have hrelease : ¬ Card.typ c = cardRelease := by rw [htyp]; decide
  have horder : ¬ Card.typ c = cardOrder := by rw [htyp]; decide
  have hgoes : ¬ ((s.block b.val).pstate = .active ∨ (!Card.good c) = true ∨ (!cardDue c s) = true ∨
      (Card.typ c = cardRelease ∧
        (!s.released (b.val / 16) (fieldAt (Card.payload c) 0 8) (fieldAt (Card.payload c) 8 8)) = true)) := by
    simp [hactive, hgood, hdue, hrelease]
  have htakes : (decide (cardTiles b.val c = []) || !blockTakes c) = false := by
    simp [cardTiles, hclass, hblock, blockTakes_of_typ (.inr htyp)]
  simp only [exec, execSleepingBlockCard, if_neg hgoes, blockCard, htakes, cardArrives_block, if_neg hactive, hawake,
    Bool.false_eq_true, if_false, if_neg hdark, if_neg horder]

/-! ### Barriers (R160, R286) -/

/-- A barrier's release to one field, if it takes part. -/
def sendRelease (mask : BitVec 64) (r : Byte × Byte) (s : State) (g : Nat) : State :=
  if bitAt mask g then s.updField g (fun y => { y with releases := y.releases ++ [r] }) else s

section
variable {mask : BitVec 64} {r : Byte × Byte} {g : Nat}

theorem sendRelease_keeps (n : Nat) {s : State} (h : r ∈ (s.field g).releases) :
    r ∈ ((sendRelease mask r s n).field g).releases := by
  unfold sendRelease
  split
  · by_cases hne : g = n
    · subst hne
      rw [State.field_updField]
      exact List.mem_append_left _ h
    · rwa [State.field_updField_other _ _ hne]
  · exact h

theorem sendReleases_keep (l : List Nat) {s : State} (h : r ∈ (s.field g).releases) :
    r ∈ ((l.foldl (sendRelease mask r) s).field g).releases := by
  induction l generalizing s with
  | nil => exact h
  | cons n l ih => exact ih (sendRelease_keeps n h)

/-- Every field of the list that takes part holds the release. -/
theorem sendReleases_reach (hg : bitAt mask g = true) {l : List Nat} (hl : g ∈ l) (s : State) :
    r ∈ ((l.foldl (sendRelease mask r) s).field g).releases := by
  induction l generalizing s with
  | nil => cases hl
  | cons n l ih =>
    rcases List.mem_cons.1 hl with rfl | hl
    · rw [List.foldl_cons]
      apply sendReleases_keep
      simp only [sendRelease, hg, if_true, State.field_updField]
      exact List.mem_append_right _ (List.mem_singleton_self _)
    · exact ih hl _

end

/-- Arrivals already counted of an ID and wave. -/
def FieldCtl.arrived (x : FieldCtl) (id w : Byte) : Nat :=
  match x.arrivals.find? (fun a => a.1 == id && a.2.1 == w) with | some a => a.2.2 | none => 0

theorem exec_barrierArrive_counts {f : Fin 64} {id w : Byte} {s : State}
    (hdue : cardDue (arriveCard id w f.val) s = true) :
    exec (.barrierArrive f id w) s = .next (countArrival f.val id w (cardArrives (arriveCard id w f.val) s)) := by
  simp only [exec, execBarrierArrive, hdue, Bool.not_true, Bool.false_eq_true, if_false]

@[simp] theorem field_putField (s : State) (n : Nat) (x : FieldCtl) : (s.putField n x).field n = x := Tbl.get_set_same _ _ _ _

theorem field_putField_other (s : State) {n m : Nat} (x : FieldCtl) (h : m ≠ n) : (s.putField n x).field m = s.field m :=
  Tbl.get_set_other _ _ _ h

/-- Who must report depends on the fields' barrier tables alone. -/
theorem reporters_putField {n : Nat} {y : FieldCtl} {id : Byte} {mask : BitVec 64} {s : State}
    (h : y.barriers = (s.field n).barriers) : reporters (s.putField n y) id mask = reporters s id mask := by
  have hsame (m : Nat) : ((s.putField n y).field m).barriers = (s.field m).barriers := by
    by_cases hm : m = n
    · subst hm
      rw [field_putField, h]
    · rw [field_putField_other _ _ hm]
  simp only [reporters, State.barrier, State.barrierIndex, hsame]

section
variable {n : Nat} {id w : Byte} {s : State} {e : BarrierEntry} (hentry : s.barrier n id = some e)
include hentry

/-- An arrival short of the expected count is counted at the field's hub. -/
theorem countArrival_short (h : (s.field n).arrived id w + 1 < e.expected) :
    ((id, w, (s.field n).arrived id w + 1) ∈ ((countArrival n id w s).field n).arrivals) ∧
    ((countArrival n id w s).field n).releases =
      if ((s.field n).arrivals.find? (fun a => a.1 == id && a.2.1 == w)).isNone
      then (s.field n).releases.filter (fun r => r != (id, w)) else (s.field n).releases := by
  unfold FieldCtl.arrived at h ⊢
  cases hold : (s.field n).arrivals.find? (fun a => a.1 == id && a.2.1 == w) <;>
    simp only [hold] at h <;>
    simp only [countArrival, hentry, hold, if_neg (Nat.not_le.2 h), field_putField, Option.isNone_none,
      Option.isNone_some, Bool.false_eq_true, if_false, if_true, List.mem_append, List.mem_singleton, or_true, true_and]

/-- With the last arrival of the only field that reports, the barrier is released to every field that takes part. -/
theorem countArrival_full (h : e.expected ≤ (s.field n).arrived id w + 1) (hroot : e.root.toNat = n)
    (honly : reporters s id e.mask = [BitVec.ofNat 6 n]) {g : Nat} (hg : g < 64) (hmask : bitAt e.mask g = true) :
    (id, w) ∈ ((countArrival n id w s).field g).releases := by
  subst hroot
  have hfull (y : FieldCtl) (hy : y.barriers = (s.field e.root.toNat).barriers) :
      (id, w) ∈ ((rootReport e.root.toNat id w e.mask e.root.toNat (s.putField e.root.toNat y)).field g).releases := by
    have hall (l : List (BitVec 6)) : ((reporters (s.putField e.root.toNat y) id e.mask).all (fun m =>
        (if l.contains (BitVec.ofNat 6 e.root.toNat) then l else l ++ [BitVec.ofNat 6 e.root.toNat]).contains m)) = true := by
      rw [reporters_putField hy, honly]
      by_cases hin : e.root ∈ l <;> simp [hin]
    rw [rootReport, if_pos (hall _)]
    exact sendReleases_reach hmask (List.mem_range.2 hg) _
  unfold FieldCtl.arrived at h
  cases hold : (s.field e.root.toNat).arrivals.find? (fun a => a.1 == id && a.2.1 == w) <;>
    simp only [hold] at h <;>
    simp only [countArrival, hentry, hold, if_pos h, ge_iff_le]
  · exact hfull _ rfl
  · exact hfull _ rfl

end

/-! ### Fireflies, watchdogs and fault notes (R161, R298, R451, R453, R466, R467) -/

theorem exec_fireflySend_active {t : TileId} {s : State} (hactive : (s.block (tileBlock t)).pstate = .active) :
    exec (.fireflySend t) s = .next (tileSendsOrdinary t (fireflyCard t (s.tile t).ctx.wave) s) := by
  simp only [exec, execFireflySend, if_pos hactive]

theorem exec_firefly_due {t : TileId} {w : Byte} {s : State} (hdue : cardDue (fireflyCard t w) s = true) :
    exec (.firefly t w) s =
      .next ((cardArrives (fireflyCard t w) s).updTile t (fun x => { x with lastFirefly := s.dev.time })) := by
  simp only [exec, execFirefly, hdue, Bool.not_true, Bool.false_eq_true, if_false]

theorem exec_stallWatchdog_stalled {t : TileId} {cause : BitVec 4} {s : State}
    (hawake : (s.block (tileBlock t)).awake = true) (hstalled : (s.tile t).stalledBy cause = true) :
    exec (.stallWatchdog t cause) s = .next (tileSends t (watchdogCard t (s.tile t).ctx.wave cause) s) := by
  simp only [exec, execStallWatchdog, hawake, hstalled, Bool.not_true, Bool.or_self, Bool.false_eq_true, if_false]

/-- The dump of a watchdog's tile, counted for its wave (R467). -/
def dumpTaken (t : TileId) (w : Byte) (cause : BitVec 4) (s : State) : State :=
  journalAdd kindDump (t.setWidth 32) (dumpBody (s.tile t)) ((cardArrives (watchdogCard t w cause) s).updDev
    (fun d => { d with dumps := Tbl.set 0 d.dumps w.toNat (Tbl.get 0 s.dev.dumps w.toNat + 1) }))

/-- A watchdog's card of no wave in flight leaves its dump alone. -/
theorem exec_watchdog_dumps {t : TileId} {w : Byte} {cause : BitVec 4} {s : State}
    (hup : (s.field (tileField t)).restarting = false) (hdue : cardDue (watchdogCard t w cause) s = true)
    (hroom : Tbl.get 0 s.dev.dumps w.toNat < 64) (hnoted : inWindow s.dev.time 1000 s.dev.notes ≠ [])
    (hnone : s.wave w = none) : exec (.watchdog t w cause) s = .next (dumpTaken t w cause s) := by
  have hgoes : ¬ ((s.field (tileField t)).restarting = true ∨ (!cardDue (watchdogCard t w cause) s) = true) := by
    simp [hup, hdue]
  have hdev : (dumpTaken t w cause s).dev.time = s.dev.time ∧ (dumpTaken t w cause s).dev.notes = s.dev.notes ∧
      (dumpTaken t w cause s).wave w = none := by
    rw [State.wave, dumpTaken, journalAdd_dev]
    exact ⟨rfl, rfl, hnone⟩
  obtain ⟨htime, hnotes, hwave⟩ := hdev
  have hreplay : replayWave w (dumpTaken t w cause s) = dumpTaken t w cause s := by simp only [replayWave, hwave]
  have hnoted' : inWindow (dumpTaken t w cause s).dev.time 1000 (dumpTaken t w cause s).dev.notes ≠ [] := by
    rwa [htime, hnotes]
  have htaken : execWatchdog t w cause s = if inWindow (dumpTaken t w cause s).dev.time 1000 (dumpTaken t w cause s).dev.notes = []
      then .next (proceed (endWave w 0x011C (bytesOf 4 (Card.payload (watchdogCard t w cause))) (dumpTaken t w cause s)))
      else .next (replayWave w (dumpTaken t w cause s)) := by
    have hroom' : Tbl.get 0 (cardArrives (watchdogCard t w cause) s).dev.dumps w.toNat < 64 := hroom
    simp only [execWatchdog, if_neg hgoes, if_pos hroom']
    rfl
  rw [if_neg hnoted', hreplay] at htaken
  exact htaken

theorem exec_faultNote_due {cause : BitVec 4} {w : Byte} {source : BitVec 16} {s : State}
    (hdue : cardDue (faultNoteCard cause w source) s = true) : exec (.faultNote cause w source) s =
      .next (proceed (takeNote cause w source (cardArrives (faultNoteCard cause w source) s))) := by
  simp only [exec, execFaultNote, hdue, Bool.not_true, Bool.false_eq_true, if_false]

theorem wave_setWave (s : State) (w : Byte) (v : Option Wave) : (s.setWave w v).wave w = v := Tbl.get_set_same _ _ _ _

/-- A discarded wave is ordered to replay and its number purged. -/
theorem replayWave_orders {w : Byte} {v : Wave} {s : State} (h : s.wave w = some v) :
    (replayWave w s).wave w = some { v with discarded := true } ∧
    (replayWave w s).dev.orders = s.dev.orders ++ [(w, orderReplay)] ∧ w ∈ (replayWave w s).dev.purged := by
  have hset : ∀ u : State, u.dev.waves = Tbl.set none s.dev.waves w.toNat (some { v with discarded := true }) →
      u.wave w = some { v with discarded := true } := fun u hu => by rw [State.wave, hu]; exact Tbl.get_set_same _ _ _ _
  have hpurged : w ∈ (if s.dev.purged.contains w then s.dev.purged else s.dev.purged ++ [w]) := by
    split
    · next hin => simpa using hin
    · exact List.mem_append_right _ (List.mem_singleton_self w)
  simp only [replayWave, h]
  split <;> exact ⟨hset _ rfl, rfl, hpurged⟩

/-! ### Waves that other changes leave (R301, R335) -/

theorem wave_congr {s u : State} (h : u.dev.waves = s.dev.waves) (w : Byte) : u.wave w = s.wave w := by
  rw [State.wave, h]
  rfl

/-- What no step of a fold changes stays. -/
theorem foldl_kept {α β γ : Type} (g : γ → β) {f : γ → α → γ} (hf : ∀ s a, g (f s a) = g s) (l : List α) (s : γ) :
    g (l.foldl f s) = g s := by
  induction l generalizing s with
  | nil => rfl
  | cons a l ih => rw [List.foldl_cons, ih, hf]

theorem invalidateSlots_dev (session : BitVec 16) (last : Int) (s : State) : (invalidateSlots session last s).dev = s.dev := by
  unfold invalidateSlots
  split
  · rfl
  · refine foldl_kept State.dev (fun s g => ?_) _ _
    exact foldl_kept State.dev (fun _ _ => by rfl) _ _

@[simp] theorem takeBack_wave (v : Wave) (s : State) (w : Byte) : (takeBack v s).wave w = s.wave w := by
  unfold takeBack
  split
  · rfl
  · exact wave_congr (by rw [invalidateSlots_dev]) w

@[simp] theorem journalAdd_wave (kind : BitVec 16) (key : Word) (body : List Byte) (s : State) (w : Byte) :
    (journalAdd kind key body s).wave w = s.wave w := wave_congr (by rw [journalAdd_dev]) w

@[simp] theorem finishLetter_wave (k : LetterKey) (st : BitVec 16) (rs : List Byte) (ls : List Line) (s : State) (w : Byte) :
    (finishLetter k st rs ls s).wave w = s.wave w := wave_congr (by rw [finishLetter_dev]) w

@[simp] theorem clearAdapt_wave (n : Nat) (s : State) (w : Byte) : (clearAdapt n s).wave w = s.wave w := rfl

@[simp] theorem restSession_wave (session : BitVec 16) (s : State) (w : Byte) : (restSession session s).wave w = s.wave w := by
  unfold restSession
  dsimp only
  split <;> rfl

/-- A wave that ends is no longer in flight. -/
theorem endWave_wave (w : Byte) (status : BitVec 16) (body : List Byte) (s : State) : (endWave w status body s).wave w = none := by
  unfold endWave
  split
  · next hnone => exact hnone
  · next v _ =>
    dsimp only
    rw [restSession_wave]
    (repeat' split) <;> simp [wave_setWave]

section
variable {cause : BitVec 4} {w : Byte} {source : BitVec 16} {s : State}

/-- A compute, CRC or uncorrectable fault replays its wave (R451, R453). -/
theorem takeNote_replays {v : Wave} (hcause : cause = 2 ∨ cause = 3 ∨ cause = 4) (h : s.wave w = some v) :
    (takeNote cause w source s).wave w = some { v with discarded := true } ∧
    (takeNote cause w source s).dev.orders = s.dev.orders ++ [(w, orderReplay)] ∧ w ∈ (takeNote cause w source s).dev.purged := by
  have hplain : ¬ cause = 1 ∧ ¬ cause = 5 := by rcases hcause with rfl | rfl | rfl <;> decide
  have hjournal (u : State) : (journalAdd kindFault (source.setWidth 32) (noteBody cause w source s) u).dev = u.dev :=
    journalAdd_dev _ _ _ _
  obtain ⟨hreplayed, horders, hpurged⟩ := replayWave_orders (w := w) (v := v)
    (s := journalAdd kindFault (source.setWidth 32) (noteBody cause w source s)
      (s.updDev (fun d => { d with notes := d.time :: inWindow d.time 1000 d.notes }))) (by rw [journalAdd_wave]; exact h)
  rw [takeNote, if_neg hplain.1, if_neg hplain.2, if_pos hcause]
  rw [hjournal] at horders
  exact ⟨hreplayed, horders, hpurged⟩

/-- The causes of a tile's retirement are journalled. -/
theorem takeNote_journals (hcause : cause = 6 ∨ cause = 7 ∨ cause = 8) : (takeNote cause w source s).journal.records =
    s.journal.records ++ [newRecord kindFault (source.setWidth 32) (noteBody cause w source s) s] := by
  have hother : ¬ cause = 1 ∧ ¬ cause = 5 ∧ ¬ (cause = 2 ∨ cause = 3 ∨ cause = 4) := by
    rcases hcause with rfl | rfl | rfl <;> decide
  rw [takeNote, if_neg hother.1, if_neg hother.2.1, if_neg hother.2.2, if_pos hcause]
  exact journalAdd_records _ _ _ _ (.inr (by decide))

end

/-- Settles O27: what each card does at its receiver. -/
theorem cardsReachTheirReceivers : Obligations.CardsReachTheirReceivers := by
  refine ⟨fun s reason t id w payload b f c => ?cards, fun f id w s e => ?barriers, fun t w f cause s => ?reports,
    fun cause w source s hdue => ?notes⟩
  case cards =>
    intro due
    refine ⟨fun hdue hlow hhigh hreason hasleep hlit => ?_, fun hdue hlow hhigh hrail => ?_, fun hdue hactive => ?_,
      fun n hactive hindex hsent => ⟨_, exec_barrierRelease_latches hactive hindex hsent, ?_⟩,
      exec_barrierRelease_unsent, fun hasleep hdue hgood htyp hclass hblock =>
        ⟨_, exec_sleepingBlockCard_user hasleep hdue hgood htyp hclass hblock, ?_, rfl⟩, exec_user_waits⟩
    · refine ⟨_, exec_knock_block hlow hhigh hdue hreason, ?_⟩
      exact askWake_asks (by simpa using hasleep) (by simpa using hlit)
    · refine ⟨_, exec_knock_field hlow hhigh hdue, ?_⟩
      exact startGenerator_runs (by simpa using hrail)
    · have htile := deliverCard_user (t := t) (s := cardArrives (userCard t payload) s) (typ_userCard t payload)
      rw [← tileCard_active (by simpa using hactive) (blockTakes_of_typ (.inr (typ_userCard t payload))),
        cardArrives_tile] at htile
      refine ⟨fun hroom hnone => ⟨_, exec_user_due t payload hdue, ?_⟩, fun hfull => ⟨_, exec_user_due t payload hdue, ?_⟩⟩
      · rw [htile]
        simp only [enterInbox, if_pos (And.intro hroom hnone)]
      · rw [htile]
        have hno : ¬ ((s.tile t).inbox.length < 8 ∧ (s.tile t).cardHold = []) := by omega
        simp only [enterInbox, if_neg hno, and_self]
    · rw [State.tile_updTile]
      simp only [Tbl.get_set_same]
    · rw [sendCard, State.block_updDev, State.block_updBlock, cardArrives_block]
  case barriers =>
    intro old n hentry hdue
    have hentry' : (cardArrives (arriveCard id w f.val) s).barrier f.val id = some e := hentry
    refine ⟨fun hshort => ⟨_, exec_barrierArrive_counts hdue, countArrival_short hentry' hshort⟩,
      fun hfull hroot honly => ⟨_, exec_barrierArrive_counts hdue, fun g hg hmask =>
        countArrival_full hentry' hfull hroot honly hg hmask⟩⟩
  case reports =>
    refine ⟨fun hactive => ⟨_, exec_fireflySend_active hactive, rfl, ?_⟩, fun hdue => ⟨_, exec_firefly_due hdue, ?_, rfl⟩,
      ⟨_, rfl, ?_⟩, fun hawake hstalled => ⟨_, exec_stallWatchdog_stalled hawake hstalled, rfl⟩, ?_,
      fun hup hdue hroom hlive hnoted hnone => ⟨_, exec_watchdog_dumps hup hdue hroom hnoted hnone, ?_, ?_⟩⟩
    · rw [tileSendsOrdinary, tileSends_tile, State.tile_updTile]
    · rw [State.tile_updTile]
    · rw [State.field_updField]
    · simp [Tile.stalledBy]
    · rw [dumpTaken, journalAdd_dev]
      simp only [State.updDev_dev, Tbl.get_set_same]
    · exact journalAdd_records _ _ _ _ (.inl hlive)
  case notes =>
    refine ⟨_, exec_faultNote_due hdue, fun x hcause hwave => ?_, fun x hcause hwave => ?_, fun hcause => ?_⟩
    · obtain ⟨hreplayed, horders, hpurged⟩ := takeNote_replays (w := w) (s := cardArrives (faultNoteCard cause w source) s)
        (source := source) hcause hwave
      exact ⟨hreplayed, horders, hpurged⟩
    · subst hcause
      exact endWave_wave _ _ _ _
    · exact takeNote_journals hcause

end Sys2Proof.Machine

/-! SUPPORT. What a transition lets go on. -/

namespace Sys2Proof.Machine
open Sys2Proof

/-! ### What a transition lets go on (R309, R335, R357, R440) -/

theorem advanceStop_idle {s : State} (h : s.coolant.flowStop = false) : advanceStop s = s := by
  simp [advanceStop, h]

theorem advanceLoad_idle {s : State} (h : s.dev.loadFor = none) : advanceLoad s = s := by
  simp only [advanceLoad, h]

theorem advanceDrain_idle {s : State} (h : s.dev.draining = false) : advanceDrain s = s := by
  simp only [advanceDrain, h]

/-- Where no session's queue holds a letter and none closes, no session is taken up. -/
theorem settleAll_idle {s : State} (h : ∀ e ∈ s.dev.sessions, e.2.queue = [] ∧ e.2.closeKey = none) : settleAll s = s := by
  have hfold (l : List (Nat × Session)) (hl : ∀ e ∈ l, e.2.queue = [] ∧ e.2.closeKey = none) :
      l.foldl (fun s e => if e.2.queue = [] ∧ e.2.closeKey = none then s else settle e.1 s) s = s := by
    induction l with
    | nil => rfl
    | cons e l ih =>
      obtain ⟨he, hl⟩ := List.forall_mem_cons.1 hl
      rw [List.foldl_cons, if_pos he, ih hl]
  exact hfold _ h

/-- Settles O28: nothing of what proceeds finds anything to do. -/
theorem nothingGoesOnInAQuietDevice : Obligations.NothingGoesOnInAQuietDevice := by
  rintro s ⟨hsessions, hload, hstop, hdrain⟩
  rw [proceed, advanceStop_idle hstop, advanceLoad_idle hload, settleAll_idle hsessions, advanceDrain_idle hdrain]

end Sys2Proof.Machine

/-! SUPPORT. The seal and the keepers. -/

namespace Sys2Proof.Machine
open Sys2Proof

/-! ### The journal and the endpoint's events beside the device (R443, R477) -/

@[simp] theorem raiseEvent_journal (e : PlatformEvent) (s : State) : (raiseEvent e s).journal = s.journal := by
  unfold raiseEvent
  split <;> rfl

@[simp] theorem raiseEvent_dev (e : PlatformEvent) (s : State) : (raiseEvent e s).dev = s.dev := by
  unfold raiseEvent
  split <;> rfl

/-! ### The seal and the keepers (R361, R502 to R504) -/

theorem exec_sealBreak_closed {s : State} (h : s.dev.loopClosed = true) : exec .sealBreak s = .next (breakSeal s) := by
  simp only [exec, execSealBreak, h, if_true]

theorem keeper_updKeeper_other (s : State) {n m : Nat} (f : Keeper → Keeper) (h : m ≠ n) :
    (s.updKeeper n f).keeper m = s.keeper m := Tbl.get_set_other _ _ _ h

/-- The state in which a completed reseal is recorded. -/
def resealed (s : State) : State := s.updDev (fun d => { d with sealState := 3, loopClosed := true, resealArmed := false })

theorem exec_resealComplete_armed {s : State} (harmed : s.dev.resealArmed = true) (hopen : s.dev.j7 = false)
    (htime : (s.dev.time - s.dev.resealAt).toNat ≤ 600000000) :
    exec .resealComplete s = .next (journalAdd kindSeal 0 (sealBody (resealed s)) (resealed s)) := by
  have hgoes : s.dev.resealArmed = true ∧ (!s.dev.j7) = true ∧ (s.dev.time - s.dev.resealAt).toNat ≤ resealUs :=
    ⟨harmed, by rw [hopen]; rfl, htime⟩
  simp only [exec, execResealComplete, if_pos hgoes, resealed]

theorem ne_one_sub (a : Fin 2) : a.val ≠ (1 - a).val := by
  revert a
  decide

theorem takeOver_eq {s : State} (h : s.dev.standbyLost = false) : takeOver s =
    ((s.updDev (fun d => { d with activeKeeper := 1 - s.dev.activeKeeper })).updKeeper s.dev.activeKeeper.val
      (fun k => { k with role := 2 })).updKeeper (1 - s.dev.activeKeeper).val (fun k => { k with role := 1 }) := by
  simp only [takeOver, h, Bool.false_eq_true, if_false]

/-- Settles O45: each change of the seal, and what the takeover leaves. -/
theorem sealAndTakeover : Obligations.SealAndTakeover := by
  intro s a
  refine ⟨fun hclosed => ⟨_, exec_sealBreak_closed hclosed, ?_⟩, fun harmed hopen htime =>
    ⟨_, exec_resealComplete_armed harmed hopen htime, ?_⟩, fun harmed htime => ?_, fun hstandby => ?_⟩
  · refine ⟨?_, ?_, ?_, ?_, newRecord kindSeal 0 (sealBody (s.updDev (fun d => { d with
        sealState := 2, sealBreaks := d.sealBreaks + 1, sealTime := d.time, loopClosed := false }))) s, ?_, rfl⟩
    · simp [breakSeal]
    · simp [breakSeal]
    · simp [breakSeal]
    · simp [breakSeal]
    · rw [breakSeal, raiseEvent_journal]
      exact journalAdd_records _ _ _ _ (.inr (by decide))
  · rw [journalAdd_dev]
    exact ⟨rfl, rfl, rfl, newRecord kindSeal 0 (sealBody (resealed s)) (resealed s), journalAdd_records _ _ _ _ (.inr (by decide)), rfl⟩
  · have hgoes : s.dev.resealArmed = true ∧ resealUs ≤ (s.dev.time - s.dev.resealAt).toNat := ⟨harmed, htime⟩
    simp only [exec, execResealTimeout, if_pos hgoes]
  · refine ⟨takeOver s, rfl, ?_⟩
    rw [takeOver_eq hstandby]
    refine ⟨rfl, by rw [State.keeper_updKeeper], ?_, rfl, rfl⟩
    rw [keeper_updKeeper_other _ _ (ne_one_sub _), State.keeper_updKeeper]

end Sys2Proof.Machine

/-! SUPPORT. The same change on several tiles; the way of a block down to rest. -/

namespace Sys2Proof.Machine
open Sys2Proof

/-! ### The same change on several tiles -/

section
variable {f : Tile → Tile} {t : TileId}

theorem updTiles_other {ts : List TileId} (h : t ∉ ts) (s : State) : (updTiles ts f s).tile t = s.tile t := by
  induction ts generalizing s with
  | nil => rfl
  | cons v ts ih =>
    obtain ⟨hv, hts⟩ := not_or.1 (mt List.mem_cons.2 h)
    exact (ih hts _).trans (State.tile_updTile_other s f hv)

/-- A change that, made twice, is the same change reaches each tile of a list once. -/
theorem updTiles_mem (hf : ∀ x, f (f x) = f x) {ts : List TileId} (h : t ∈ ts) (s : State) :
    (updTiles ts f s).tile t = f (s.tile t) := by
  induction ts generalizing s with
  | nil => cases h
  | cons v ts ih =>
    have hstep : updTiles (v :: ts) f s = updTiles ts f (s.updTile v f) := rfl
    rw [hstep]
    by_cases hts : t ∈ ts
    · rw [ih hts]
      by_cases hv : t = v
      · rw [hv, State.tile_updTile, hf]
      · rw [State.tile_updTile_other s f hv]
    · obtain rfl : t = v := (List.mem_cons.1 h).resolve_right hts
      rw [updTiles_other hts, State.tile_updTile]

@[simp] theorem updTiles_block (ts : List TileId) (s : State) (b : Nat) : (updTiles ts f s).block b = s.block b :=
  foldl_kept (fun s : State => s.block b) (fun _ _ => by rfl) ts s
@[simp] theorem updTiles_field (ts : List TileId) (s : State) (n : Nat) : (updTiles ts f s).field n = s.field n :=
  foldl_kept (fun s : State => s.field n) (fun _ _ => by rfl) ts s
@[simp] theorem updTiles_dev (ts : List TileId) (s : State) : (updTiles ts f s).dev = s.dev :=
  foldl_kept State.dev (fun _ _ => by rfl) ts s

end

@[simp] theorem block_updField (s : State) (n : Nat) (f : FieldCtl → FieldCtl) (b : Nat) : (s.updField n f).block b = s.block b := rfl
@[simp] theorem tile_updBlock (s : State) (n : Nat) (f : Block → Block) (t : TileId) : (s.updBlock n f).tile t = s.tile t := rfl
@[simp] theorem field_updBlock (s : State) (n : Nat) (f : Block → Block) (m : Nat) : (s.updBlock n f).field m = s.field m := rfl
@[simp] theorem block_putBlock (s : State) (b : Nat) (x : Block) : (s.putBlock b x).block b = x := Tbl.get_set_same _ _ _ _
@[simp] theorem block_putField (s : State) (n : Nat) (x : FieldCtl) (b : Nat) : (s.putField n x).block b = s.block b := rfl
@[simp] theorem field_putBlock (s : State) (b : Nat) (x : Block) (n : Nat) : (s.putBlock b x).field n = s.field n := rfl

/-! ### The way down (R390 to R395, R402, R404, R541) -/

section
variable {b : Fin 1024} {s : State}

theorem exec_gateEntry_idle (hactive : (s.block b.val).pstate = .active) (hgate : (s.block b.val).gateCycles ≠ 0)
    (hcalm : (s.block b.val).wakeAsked = false) (hidle : s.blockIdle b.val = true) : exec (.gateEntry b) s =
      .next (s.updBlock b.val (fun x => { x with
        pstate := .gated, step := 0, microLoad := x.microLoad || x.microWait, microWait := false })) := by
  have hgoes : (s.block b.val).pstate = .active ∧ (s.block b.val).gateCycles ≠ 0 ∧ (!(s.block b.val).wakeAsked) = true ∧
      s.blockIdle b.val = true := ⟨hactive, hgate, by rw [hcalm]; rfl, hidle⟩
  simp only [exec, execGateEntry, if_pos hgoes]

theorem startShutdown_block (into : PState) (s : State) (b : Nat) :
    ((startShutdown b into s).block b).step = 1 ∧ ((startShutdown b into s).block b).shutTo = into ∧
    ((startShutdown b into s).block b).pstate = (s.block b).pstate ∧ (startShutdown b into s).tiles = s.tiles := by
  rw [startShutdown, State.block_updBlock]
  exact ⟨rfl, rfl, rfl, rfl⟩

theorem exec_chrysalisDelayExpiry_may (hdelay : (s.block b.val).delay ≠ 0) (hmay : s.mayChrysalis b.val = true) :
    exec (.chrysalisDelayExpiry b) s = .next (startShutdown b.val .chrysalis s) := by
  simp only [exec, execChrysalisDelayExpiry, if_pos (And.intro hdelay hmay)]

theorem exec_bsPorderDiapause_may (hpstate : (s.block b.val).pstate = .chrysalis) (hstep : (s.block b.val).step = 0)
    (hramp : (s.block b.val).ramping = false) (htied : (s.block b.val).tied = false)
    (hfeed : (s.block b.val).feeding = false) (hmay : s.mayDiapause b.val = true)
    (hrest : ∀ t ∈ blockTiles b.val, (s.tile t).restable = true) :
    exec (.bsPorderDiapause b) s = .next (startShutdown b.val .diapause s) := by
  have hall : (blockTiles b.val).all (fun t => (s.tile t).restable) = true := List.all_eq_true.2 hrest
  simp [exec, execBsPorderDiapause, hmay, hpstate, hstep, hramp, htied, hfeed, hall]

theorem exec_chrysalisEntry_step (hclosing : (s.block b.val).closing = true) (hstep : (s.block b.val).step < 5) :
    exec (.chrysalisEntry b) s = .next (s.putBlock b.val { s.block b.val with step := (s.block b.val).step + 1 }) := by
  simp only [exec, execChrysalisEntry, hclosing, Bool.true_and, decide_eq_true hstep, if_true]

theorem exec_shutdownComplete_rests (hclosing : (s.block b.val).closing = true) (hstep : (s.block b.val).step = 5)
    (hcalm : (s.block b.val).wakeAsked = false) :
    exec (.shutdownComplete b) s = .next (settleBlock b.val (s.block b.val).shutTo s) := by
  have hgoes : ((s.block b.val).closing && (s.block b.val).step == 5) = true := by rw [hclosing, hstep]; rfl
  simp only [exec, execShutdownComplete, hgoes, if_true, hcalm, Bool.false_eq_true, if_false]

theorem settleBlock_block (b : Nat) (into : PState) (s : State) :
    (settleBlock b into s).block b = { s.block b with pstate := into, step := 0 } := by
  unfold settleBlock
  dsimp only
  split
  · rw [updTiles_block, State.block_updBlock]
  · rw [State.block_updBlock]

theorem settleBlock_diapause_tile {b : Nat} {t : TileId} (ht : t ∈ blockTiles b) (s : State) :
    (settleBlock b .diapause s).tile t = sleepTile (s.tile t) := by
  have htile := updTiles_mem (f := sleepTile) (fun _ => rfl) ht (s.updBlock b (fun x => { x with pstate := .diapause, step := 0 }))
  rwa [tile_updBlock] at htile

theorem darkBlock_block (b : Nat) (s : State) : (darkBlock b s).block b = { s.block b with
    pstate := .dark, step := 0, ramping := false, wakeAsked := false, reload := false, nodeCards := [], nodePurge := [] } := by
  unfold darkBlock
  dsimp only
  rw [updTiles_block, block_updField, State.block_updBlock]

theorem darkBlock_tile {b : Nat} {t : TileId} (ht : t ∈ blockTiles b) (s : State) :
    (darkBlock b s).tile t = { router := (s.tile t).router } := by
  unfold darkBlock
  dsimp only
  rw [updTiles_mem (f := fun x => { router := x.router }) (fun _ => rfl) ht]
  rfl

end

/-- Settles O49: every step of a block's way down. -/
theorem blocksFallAsleep : Obligations.BlocksFallAsleep := by
  intro b s x starts
  have hstarts {i : Instr} {into : PState} (h : exec i s = .next (startShutdown b.val into s)) : starts i into :=
    ⟨_, h, startShutdown_block into s b.val⟩
  refine ⟨fun hactive hgate hcalm hidle => ⟨_, exec_gateEntry_idle hactive hgate hcalm hidle, ?_⟩,
    fun hdelay hmay => hstarts (exec_chrysalisDelayExpiry_may hdelay hmay), fun hmay => hstarts ?_, fun hmay => ?_,
    fun hpstate hstep hramp htied hfeed hmay hrest =>
      hstarts (exec_bsPorderDiapause_may hpstate hstep hramp htied hfeed hmay hrest),
    fun hmay => ?_, fun hclosing hstep => ⟨_, exec_chrysalisEntry_step hclosing hstep, ?_⟩,
    fun hclosing hstep hcalm hto => ⟨_, exec_shutdownComplete_rests hclosing hstep hcalm, ?_⟩,
    fun hclosing hstep hcalm hto => ⟨_, exec_shutdownComplete_rests hclosing hstep hcalm, ?_⟩,
    fun htied => ⟨darkBlock b.val s, ?_, ?_⟩, fun htied => ?_⟩
  · rw [State.block_updBlock]
    exact ⟨rfl, rfl, rfl, rfl⟩
  · simp only [exec, execBsPorderChrysalis, hmay, if_true]
  · simp only [exec, execBsPorderChrysalis, hmay, Bool.false_eq_true, if_false]
  · simp [exec, execBsPorderDiapause, hmay]
  · rw [block_putBlock]
    exact ⟨rfl, rfl⟩
  · rw [settleBlock_block, settleBlock, hto]
    exact ⟨rfl, rfl, rfl⟩
  · rw [settleBlock_block, hto]
    refine ⟨rfl, rfl, fun t ht => ?_⟩
    rw [settleBlock_diapause_tile ht]
    exact ⟨rfl, rfl, rfl, rfl, rfl⟩
  · have htied' : ¬ (s.block b.val).tied = true := by rw [htied]; decide
    simp only [exec, execBsPorderDark, if_neg htied']
  · rw [darkBlock_block]
    exact ⟨rfl, fun t ht => darkBlock_tile ht s⟩
  · have htied' : (s.block b.val).tied = true := htied
    simp only [exec, execBsPorderDark, htied', if_true]

end Sys2Proof.Machine

/-! SUPPORT. The way of a block up. -/

namespace Sys2Proof.Machine
open Sys2Proof

/-! ### Cards, reloads and clocks beside a block (R388, R569) -/

@[simp] theorem latchRelease_block (t : TileId) (id w : Byte) (s : State) (b : Nat) : (latchRelease t id w s).block b = s.block b := by
  unfold latchRelease
  split <;> rfl

@[simp] theorem deliverCard_block (t : TileId) (c : Card) (s : State) (b : Nat) : (deliverCard t c s).block b = s.block b := by
  unfold deliverCard
  dsimp only
  split
  · rfl
  · split
    · exact latchRelease_block _ _ _ _ _
    · split <;> rfl

theorem releaseNode_block (b : Nat) (s : State) :
    (releaseNode b s).block b = { s.block b with nodeCards := [], nodePurge := [] } := by
  unfold releaseNode
  dsimp only
  rw [foldl_kept (fun s : State => s.block b) fun s c => ?_, State.block_updBlock]
  exact foldl_kept (fun s : State => s.block b) (fun s t => deliverCard_block t c s b) _ _

@[simp] theorem streamExtent_block (e : LodgeEntry) (stage : Nat) (s : State) (b : Nat) :
    (streamExtent e stage s).block b = s.block b := by
  unfold streamExtent
  split
  · rfl
  · exact foldl_kept (fun s : State => s.block b) (fun _ _ => by rfl) _ _

@[simp] theorem relodge_block (ts : List TileId) (s : State) (b : Nat) : (relodge ts s).block b = s.block b := by
  unfold relodge
  split
  · rfl
  · refine foldl_kept (fun s : State => s.block b) (fun s e => ?_) _ _
    refine foldl_kept (fun s : State => s.block b) (fun s i => ?_) _ _
    dsimp only
    split
    · exact streamExtent_block _ _ _ _
    · rfl

theorem setClock_kept (x : FieldCtl) : (setClock x).trimMhz = x.trimMhz ∧ (setClock x).batch = x.batch := by
  unfold setClock
  dsimp only
  split <;> exact ⟨rfl, rfl⟩

/-! ### The way up (R393, R397 to R399, R416 to R418) -/

section
variable {b : Fin 1024} {s : State}

theorem wakeGated_block {b : Nat} (hgated : (s.block b).pstate = .gated) (hstep : (s.block b).step = 0)
    (hmicro : (s.block b).microLoad = false) : (wakeGated b s).block b =
      { s.block b with pstate := .active, activeSince := s.dev.time, wakeAsked := false } := by
  have hgoes : (s.block b).pstate = .gated ∧ (s.block b).step = 0 ∧ (!(s.block b).microLoad) = true :=
    ⟨hgated, hstep, by rw [hmicro]; rfl⟩
  simp only [wakeGated, if_pos hgoes, block_putBlock]

theorem pendWake_waits (b : Fin 1024) (s : State) : b ∈ ((pendWake b s).field (b.val / 16)).pendingWakes ∧
    (pendWake b s).block b.val = s.block b.val := by
  refine ⟨?_, rfl⟩
  rw [pendWake, State.field_updField]
  split
  · next hin => simpa using hin
  · exact List.mem_append_right _ (List.mem_singleton_self b)

/-- A block at rest that is asked to wake waits for its admission. -/
theorem wakeRequest_rests (hramp : (s.block b.val).ramping = false) (hstep : (s.block b.val).step = 0)
    (hrest : (s.block b.val).pstate = .chrysalis ∨ (s.block b.val).pstate = .diapause) : wakeRequest b s = pendWake b s := by
  have hclosing : (s.block b.val).closing = false := by simp [Block.closing, hstep]
  rcases hrest with hrest | hrest <;>
    simp only [wakeRequest, hramp, hclosing, hrest, Bool.false_eq_true, if_false]

/-- A wake that overtakes the first two steps of a shutdown makes the GATED block ACTIVE again (R398). -/
theorem wakeRequest_race (hclosing : (s.block b.val).closing = true) (hstep : (s.block b.val).step ≤ 2)
    (hgated : (s.block b.val).pstate = .gated) : ((wakeRequest b s).block b.val).pstate = .active ∧
      ((wakeRequest b s).block b.val).races = satAdd (s.block b.val).races 1 := by
  have hramp : (s.block b.val).ramping = false := by
    simp only [Block.closing, Bool.and_eq_true, Bool.not_eq_true'] at hclosing
    exact hclosing.1.1
  simp only [wakeRequest, hramp, hclosing, Bool.false_eq_true, if_false, if_true, if_pos hstep, if_pos hgated,
    State.block_updBlock, block_putBlock, and_self]

theorem startGenerator_block (f : Nat) (s : State) (b : Nat) : (startGenerator f s).block b = s.block b := rfl

theorem takeWake_block (b : Fin 1024) (s : State) : (takeWake b s).block b.val =
    { s.block b.val with ramping := true, step := 1, wakes := satAdd (s.block b.val).wakes 1 } := by
  rw [takeWake, startGenerator_block, State.block_updBlock, block_updField]

/-- An admitted wake waits no longer. -/
theorem takeWake_pending_wakes (b : Fin 1024) (s : State) : ((takeWake b s).field (b.val / 16)).pendingWakes =
    (s.field (b.val / 16)).pendingWakes.erase b := by
  rw [takeWake, startGenerator, State.field_updField, field_updBlock, State.field_updField]
  split <;> rfl

theorem exec_wakeAdmission_waiting (hup : (s.field (b.val / 16)).restarting = false)
    (hmicro : (s.block b.val).microLoad = false) (hwaits : b ∈ (s.field (b.val / 16)).pendingWakes) :
    exec (.wakeAdmission b) s =
      if lowest (s.field (b.val / 16)).pendingWakes = some b ∧ admitFits s (b.val / 16) [b.val] = true then .next (takeWake b s)
      else .next (s.putField (b.val / 16) { s.field (b.val / 16) with
        deferrals := satAdd (s.field (b.val / 16)).deferrals 1 }) := by
  have hgoes : ¬ ((s.field (b.val / 16)).restarting = true ∨ (s.block b.val).microLoad = true ∨
      (!(s.field (b.val / 16)).pendingWakes.contains b) = true) := by simp [hup, hmicro, hwaits]
  simp only [exec, execWakeAdmission, if_neg hgoes]

/-- The one pending wake of a field is admitted, and then none waits. -/
theorem admitRun_single {n : Nat} (hmicro : (s.block b.val).microLoad = false)
    (honly : (s.field (b.val / 16)).pendingWakes = [b]) (hfits : admitFits s (b.val / 16) [b.val] = true) :
    admitRun (b.val / 16) (n + 2) s = takeWake b s := by
  have hlow : lowest ((s.field (b.val / 16)).pendingWakes.filter (fun b => !(s.block b.val).microLoad)) = some b := by
    simp [honly, hmicro, lowest]
  have hnone : ((takeWake b s).field (b.val / 16)).pendingWakes = [] := by
    rw [takeWake_pending_wakes, honly, List.erase_cons_head]
  have hrest : admitRun (b.val / 16) (n + 1) (takeWake b s) = takeWake b s := by
    simp only [admitRun, hnone, List.filter_nil, lowest]
  simp only [admitRun, hlow, hfits, if_true]
  exact hrest

/-- The state of the field's trim after a deferral's end (R418). -/
def trimBatch (b : Fin 1024) (m : Nat) (y : FieldCtl) : FieldCtl :=
  setClock { y with trimMhz := some (BitVec.ofNat 11 m), batch := [b], trims := satAdd y.trims 1 }

theorem exec_admissionDeferralExpiry_trims {f : Fin 64} {m : Nat} (hup : (s.field f.val).restarting = false)
    (hbatch : (s.field f.val).batch = []) (honly : (s.field f.val).pendingWakes = [b])
    (htrim : trimStep s f.val [b.val] (((s.field f.val).mhz.toNat - 200) / 25) = some m) :
    exec (.admissionDeferralExpiry f) s = .next ((takeWake b s).updField f.val (trimBatch b m)) := by
  have hgoes : ¬ ((s.field f.val).restarting = true ∨ (s.field f.val).batch ≠ []) := by simp [hup, hbatch]
  have hone : [b].filter (fun c => decide (c.val ≤ b.val)) = [b] := by simp
  simp only [exec, execAdmissionDeferralExpiry, honly, if_neg hgoes, hone, List.map_cons, List.map_nil, htrim,
    List.foldl_cons, List.foldl_nil]
  rfl

@[simp] theorem endRamp_block (b : Fin 1024) (s : State) (c : Nat) : (endRamp b s).block c = s.block c := rfl

/-- The block at the end of its ramp. -/
def rampedBlock (s : State) (x : Block) : Block :=
  { x with pstate := .active, activeSince := s.dev.time, ramping := false, step := 0, wakeAsked := false, reload := x.pstate == .diapause }

theorem exec_rampComplete_ramping (hramp : (s.block b.val).ramping = true) : exec (.rampComplete b) s =
    .next (if (s.block b.val).pstate = .diapause then endRamp b (s.putBlock b.val (rampedBlock s (s.block b.val)))
      else releaseNode b.val (endRamp b (s.putBlock b.val (rampedBlock s (s.block b.val))))) := by
  simp only [exec, execRampComplete, hramp, Bool.not_true, Bool.false_eq_true, if_false, rampedBlock]

/-- A reload delivers what the node kept. -/
theorem exec_diapauseReload_delivers {p : Placement} {g : Image} (hactive : (s.block b.val).pstate = .active)
    (hreload : (s.block b.val).reload = true)
    (hplaced : s.dev.placement = none ∨ (s.dev.placement = some p ∧ s.master p = some g)) :
    ∃ v, exec (.diapauseReload b) s = .next (releaseNode b.val v) ∧ (v.block b.val).reload = false := by
  rcases hplaced with hnone | ⟨hplaced, hmaster⟩
  · refine ⟨s.putBlock b.val { s.block b.val with reload := false }, ?_, by rw [block_putBlock]⟩
    simp only [exec, execDiapauseReload, if_pos (And.intro hactive hreload), hnone]
  · refine ⟨relodge ((placedTiles p.lines p.sections).filter (fun t => tileBlock t == b.val))
      (((placedTiles p.lines p.sections).filter (fun t => tileBlock t == b.val)).foldl
        (fun s t => s.updTile t (reloadTile p g t)) (s.putBlock b.val { s.block b.val with reload := false })), ?_, ?_⟩
    · simp only [exec, execDiapauseReload, if_pos (And.intro hactive hreload), hplaced, hmaster]
    · rw [relodge_block, foldl_kept (fun s : State => s.block b.val) fun _ _ => by rfl, block_putBlock]

end

/-- Settles O50: every step of a block's way up. -/
theorem blocksWake : Obligations.BlocksWake := by
  intro b f m p g s x y wakes ramps
  have hramps {i : Instr} (h : exec i s = .next (takeWake b s)) : ramps i := by
    refine ⟨_, h, ?_⟩
    rw [takeWake_block]
    exact ⟨rfl, rfl, rfl, rfl⟩
  refine ⟨fun hgated hstep hmicro => ⟨_, rfl, ?_⟩, fun hramp hstep hrest => ?_, fun hclosing hstep hgated =>
    ⟨_, rfl, wakeRequest_race hclosing hstep hgated⟩, fun hup hmicro hwaits hlow hfits => hramps ?_,
    fun hup hmicro hwaits hfits => ?_, fun hf hup hmicro honly hfits => hramps ?_, fun hf hup hbatch honly htrim => ?_,
    fun hramp => ⟨_, exec_rampComplete_ramping hramp, ?_⟩, fun hactive hreload hplaced => ?_⟩
  · rw [wakeGated_block hgated hstep hmicro]
    exact ⟨rfl, rfl⟩
  · obtain ⟨hwaits, hsame⟩ := pendWake_waits b s
    have hwakes : wakes (.wakeRequest b) := by
      refine ⟨wakeRequest b s, rfl, ?_⟩
      rw [wakeRequest_rests hramp hstep hrest, hsame]
      exact ⟨hwaits, rfl⟩
    exact ⟨hwakes, hwakes⟩
  · rw [exec_wakeAdmission_waiting hup hmicro hwaits, if_pos ⟨hlow, hfits⟩]
  · rw [exec_wakeAdmission_waiting hup hmicro hwaits, if_neg (by simp [hfits])]
  · have hup' : (s.field f.val).restarting = false := by rw [← hf]; exact hup
    simp only [exec, execAdmissionRetry, hup', Bool.false_eq_true, if_false]
    rw [← hf, admitRun_single hmicro honly hfits]
  · have hf' : s.field f.val = y := by rw [← hf]
    have hexec := exec_admissionDeferralExpiry_trims (b := b) (f := f) (m := m) (by rw [hf']; exact hup)
      (by rw [hf']; exact hbatch) (by rw [hf']; exact honly) (by rw [hf']; exact htrim)
    refine ⟨⟨_, hexec, ?_⟩, _, hexec, ?_⟩
    · rw [block_updField, takeWake_block]
      exact ⟨rfl, rfl, rfl, rfl⟩
    · rw [State.field_updField]
      exact setClock_kept _
  · by_cases hdiapause : x.pstate = .diapause
    · rw [if_pos hdiapause, if_pos hdiapause, endRamp_block, block_putBlock]
      exact ⟨rfl, rfl, beq_eq_decide _ _, rfl⟩
    · rw [if_neg hdiapause, if_neg hdiapause, releaseNode_block, endRamp_block, block_putBlock]
      exact ⟨rfl, rfl, beq_eq_decide _ _, rfl⟩
  · obtain ⟨v, hv, hdone⟩ := exec_diapauseReload_delivers hactive hreload hplaced
    refine ⟨_, hv, ?_⟩
    rw [releaseNode_block]
    exact ⟨hdone, rfl⟩

end Sys2Proof.Machine

/-! SUPPORT. The same change on every field; boost at a refill of the peak credit. -/

namespace Sys2Proof.Machine
open Sys2Proof

/-! ### The same change on every field -/

theorem updFields_field (g : FieldCtl → FieldCtl) (s : State) {n : Nat} (h : n < 64) :
    (updFields g s).field n = g (s.field n) := by
  have hfold (k : Nat) : (((List.range k).foldl (fun s f => s.updField f g) s).field n) =
      if n < k then g (s.field n) else s.field n := by
    induction k with
    | zero => rfl
    | succ k ih =>
      rw [List.range_succ, List.foldl_append, List.foldl_cons, List.foldl_nil]
      by_cases hk : n = k
      · subst hk
        rw [State.field_updField, ih, if_neg (Nat.lt_irrefl n), if_pos (Nat.lt_succ_self n)]
      · rw [State.field_updField_other _ _ hk, ih]
        exact if_congr (by omega) rfl rfl
  exact (hfold 64).trans (if_pos h)

/-! ### Boost at a refill of the peak credit (R424, R425) -/

/-- A field that boosts in a device whose peak credit is spent and refills with the next millisecond. -/
def refillingState : State :=
  { State.reset with
    power := { State.reset.power with credit := 0, refillTicks := 9 }
    wear := { State.reset.wear with operatingUs := 1 }
    dev := { State.reset.dev with profile := 2 }
    fieldCtls := [(0, { ({} : FieldCtl) with boostGrant := true })] }

/-- The same device with the measurement of no power in its registers. -/
def measuredState : State :=
  { refillingState with power := { refillingState.power with watts := 0, vin := 4800, outOfRange := false } }

/-- The same device after the millisecond: the credit is back, and the boost goes on. -/
def refilledState : State :=
  { measuredState with power := { measuredState.power with
      credit := 1, refillTicks := 0, sustainedW := BitVec.ofNat 16 measuredState.sustained } }

theorem exec_powerMeasure_refill : exec (.powerMeasure 0 4800) refillingState =
    .next (updFields (fun x => if x.measuredMa.toNat > railRating x then lowerTarget x else x) refilledState) := by
  have hmeasured : ({ refillingState with power := { refillingState.power with
      watts := (0 : BitVec 16).toNat, vin := 4800
      outOfRange := decide ((4800 : BitVec 16).toNat < 4000 ∨ (4800 : BitVec 16).toNat > 6000) } } : State) = measuredState := by rfl
  have hcredit : creditTick measuredState = { measuredState.power with credit := 1, refillTicks := 0 } := by decide
  have hmay : refilledState.mayBoost = true := by decide
  have hboost : endBoost refilledState = refilledState := by simp only [endBoost, hmay, Bool.true_or, if_true]
  have hlow : ¬ (0 : BitVec 16).toNat > refilledState.peak := Nat.not_lt_zero _
  simp only [exec, execPowerMeasure, hmeasured, hcredit]
  exact (congrArg (fun s : State => if (0 : BitVec 16).toNat > s.peak then Host.Outcome.next (lowerAll s)
    else .next (updFields (fun x => if x.measuredMa.toNat > railRating x then lowerTarget x else x) s)) hboost).trans (if_neg hlow)

/-- Refutes O51: a measurement that refills a spent peak credit by its first millisecond leaves the boost granted, though boost
could not be granted before it. -/
theorem not_clocksAndPower : ¬ Obligations.ClocksAndPower := by
  rintro ⟨_, hpower⟩
  obtain ⟨⟨u, hu, _, _, _, _, hboost⟩, _⟩ := hpower 0 4800 0 0 [] refillingState
  rw [exec_powerMeasure_refill] at hu
  cases hu
  have hended := hboost (by decide) 0 (by decide)
  rw [updFields_field _ _ (by decide)] at hended
  exact absurd hended (by decide)

end Sys2Proof.Machine

/-! SUPPORT. The input and its loss. -/

namespace Sys2Proof.Machine
open Sys2Proof

/-! ### The input (R405 to R407, R444, R476, R496) -/

/-- A loss of the input leaves a committed journal, the keepers and nothing else powered. -/
theorem shutDown_lost (s : State) : (shutDown 1 s).power.otherRailsOn = false ∧ (shutDown 1 s).tiles = [] ∧
    (shutDown 1 s).ports = [] ∧ (∀ j ∈ (shutDown 1 s).journal.records, j.committed = true) ∧ (shutDown 1 s).bring.step = 0 ∧
    (shutDown 1 s).bring.warmable = true ∧ (shutDown 1 s).bring.keepersUp = true := by
  refine ⟨rfl, rfl, rfl, fun j hj => ?_, rfl, rfl, rfl⟩
  obtain ⟨_, _, rfl⟩ := List.mem_map.1 (show j ∈ (shutdownRecord 1 (writeWear s)).journal.records.map _ from hj)
  rfl

/-- Settles O52: the input's switches, its loss, and the wear ledger. -/
theorem inputPowerComesAndGoes : Obligations.InputPowerComesAndGoes := by
  intro straps vin s lost
  have hlost {i : Instr} {v : State} (h : exec i s = .next (shutDown 1 v)) : lost i := ⟨_, h, shutDown_lost v⟩
  refine ⟨⟨_, rfl, rfl, rfl⟩, fun hmated => ?_, ⟨_, rfl, rfl, Bool.and_true _⟩, fun hrails => ?_, fun hrails => hlost
    (v := { s with power := { s.power with presence := false, mainClosed := false, charged := false } }) ?_,
    fun hvin => hlost (v := { s with power := { s.power with
      vin := vin, outOfRange := true, mainClosed := s.power.mainClosed && decide (vin.toNat < 4000) } }) ?_,
    fun hlow hhigh => ?_, writeWear s, newRecord kindWear 0 (wearBody s) s, rfl, ?_, rfl, rfl⟩
  · refine ⟨{ s with power := closeMain { s.power with charged := true } }, ?_, rfl, Bool.true_and _⟩
    simp only [exec, execPrechargeComplete, hmated, if_true]
  · refine ⟨{ s with power := { s.power with presence := false, mainClosed := false, charged := false } }, ?_, rfl, rfl⟩
    simp only [exec, execPresenceOpen, hrails, Bool.false_eq_true, if_false]
  · simp only [exec, execPresenceOpen, hrails, if_true]
  · simp only [exec, execInputOutOfRange, gt_iff_lt, if_pos hvin]
  · have hin : ¬ (vin.toNat < 4000 ∨ 6000 < vin.toNat) := by omega
    simp only [exec, execInputOutOfRange, gt_iff_lt, if_neg hin]
  · exact journalAdd_records _ _ _ _ (.inr (by decide))

end Sys2Proof.Machine

/-! SUPPORT. Rails, segments and phases. -/

namespace Sys2Proof.Machine
open Sys2Proof

/-! ### Work on sessions and letters: no unit's registers move -/

/-- `u` is `s` but for the tiles, the ports, the device manager, the journal and the management endpoint. -/
def SessionWork (s u : State) : Prop :=
  u = { s with tiles := u.tiles, ports := u.ports, dev := u.dev, journal := u.journal, mgmt := u.mgmt }

theorem SessionWork.refl (s : State) : SessionWork s s := rfl

theorem SessionWork.trans {s u w : State} (h : SessionWork s u) (k : SessionWork u w) : SessionWork s w := by
  unfold SessionWork at h k
  rw [h] at k
  exact k

theorem SessionWork.foldl {α : Type} {f : State → α → State} (hf : ∀ s a, SessionWork s (f s a)) (l : List α) (s : State) :
    SessionWork s (l.foldl f s) := by
  induction l generalizing s with
  | nil => exact SessionWork.refl s
  | cons a l ih => exact (hf s a).trans (ih _)

section
variable {s u : State} (h : SessionWork s u)
include h

theorem SessionWork.field (n : Nat) : u.field n = s.field n := by rw [h]; rfl
theorem SessionWork.block (n : Nat) : u.block n = s.block n := by rw [h]; rfl
theorem SessionWork.stk (n : Nat) : u.stk n = s.stk n := by rw [h]; rfl

end

theorem SessionWork.updDev (f : Dev → Dev) (s : State) : SessionWork s (s.updDev f) := rfl
theorem SessionWork.updSession (n : Nat) (f : Session → Session) (s : State) : SessionWork s (s.updSession n f) := rfl
theorem SessionWork.updTile (t : TileId) (f : Tile → Tile) (s : State) : SessionWork s (s.updTile t f) := rfl

theorem SessionWork.journalAdd (kind : BitVec 16) (key : Word) (body : List Byte) (s : State) :
    SessionWork s (Machine.journalAdd kind key body s) := by
  unfold Machine.journalAdd
  dsimp only
  split <;> rfl

theorem SessionWork.raiseEvent (e : PlatformEvent) (s : State) : SessionWork s (Machine.raiseEvent e s) := by
  unfold Machine.raiseEvent
  split <;> rfl

theorem SessionWork.sendReceipt (x : Receipt) (s : State) : SessionWork s (Machine.sendReceipt x s) := by
  unfold Machine.sendReceipt
  split <;> rfl

theorem SessionWork.sendFinal (k : LetterKey) (st : BitVec 16) (rs : List Byte) (ls : List Line) (s : State) :
    SessionWork s (Machine.sendFinal k st rs ls s) := by
  unfold Machine.sendFinal
  split
  · exact SessionWork.refl s
  · next r _ =>
    obtain ⟨n, hn⟩ := retryFor_state (finalStatus r st) s
    have hretry : SessionWork s (retryFor (finalStatus r st) s).2 := by rw [hn]; rfl
    exact hretry.trans ((SessionWork.sendReceipt _ _).trans (SessionWork.updDev _ _))

theorem SessionWork.auditLetter (r : LetterRec) (st : BitVec 16) (s : State) : SessionWork s (Machine.auditLetter r st s) := by
  unfold Machine.auditLetter
  split
  · exact (SessionWork.updDev _ s).trans (SessionWork.journalAdd _ _ _ _)
  · exact SessionWork.refl s

theorem SessionWork.finishLetter (k : LetterKey) (st : BitVec 16) (rs : List Byte) (ls : List Line) (s : State) :
    SessionWork s (Machine.finishLetter k st rs ls s) := by
  unfold Machine.finishLetter
  split
  · exact SessionWork.refl s
  · next r _ =>
    split
    · exact SessionWork.refl s
    · dsimp only
      split
      · exact (SessionWork.auditLetter r _ s).trans (SessionWork.updDev _ _)
      · exact (SessionWork.auditLetter r _ s).trans (SessionWork.sendFinal _ _ _ _ _)

theorem SessionWork.clearAdapt (n : Nat) (s : State) : SessionWork s (Machine.clearAdapt n s) := rfl

theorem SessionWork.abandonAdapt (n : Nat) (s : State) : SessionWork s (Machine.abandonAdapt n s) := by
  unfold Machine.abandonAdapt
  split
  · exact SessionWork.refl s
  · exact (SessionWork.clearAdapt n s).trans (SessionWork.finishLetter _ _ _ _ _)

theorem SessionWork.restSession (session : BitVec 16) (s : State) : SessionWork s (Machine.restSession session s) := by
  unfold Machine.restSession
  dsimp only
  split <;> rfl

theorem SessionWork.releaseAdapter (n : Nat) (s : State) : SessionWork s (Machine.releaseAdapter n s) := by
  unfold Machine.releaseAdapter
  split
  · exact SessionWork.refl s
  · next a _ =>
    have hpages : SessionWork s (a.pages.foldl (fun s e => s.updTile e.1 (fun x => x.release e.2 1)) s) :=
      SessionWork.foldl (fun s e => SessionWork.updTile _ _ s) _ s
    exact hpages.trans (SessionWork.updSession _ _ _)

theorem SessionWork.loseOwn (gone : TileId → Nat → Nat → Bool) (s : State) : SessionWork s (Machine.loseOwn gone s) := by
  refine SessionWork.foldl (fun s e => ?_) _ s
  have hadapt : SessionWork s (if e.2.adapt.any (fun a => a.stats.any (fun c => gone c.2.1 c.2.2 1)) then
      Machine.restSession (BitVec.ofNat 16 e.1) (Machine.abandonAdapt e.1 s) else s) := by
    split
    · exact (SessionWork.abandonAdapt _ s).trans (SessionWork.restSession _ _)
    · exact SessionWork.refl s
  dsimp only
  split
  · exact hadapt.trans (SessionWork.releaseAdapter _ _)
  · exact hadapt

/-! ### The loss of a field (R295, R410, R413, R419 to R421) -/

theorem darkBlock_block_other {b c : Nat} (h : c ≠ b) (s : State) : (darkBlock b s).block c = s.block c := by
  unfold darkBlock
  dsimp only
  rw [updTiles_block, block_updField, State.block_updBlock_other _ _ h]

theorem darkBlock_dark {b c : Nat} {s : State} (h : (s.block c).pstate = .dark) : ((darkBlock b s).block c).pstate = .dark := by
  by_cases hc : c = b
  · rw [hc, darkBlock_block]
  · rw [darkBlock_block_other hc, h]

theorem darkBlock_segFailed (b c : Nat) (s : State) : ((darkBlock b s).block c).segFailed = (s.block c).segFailed := by
  by_cases hc : c = b
  · rw [hc, darkBlock_block]
  · rw [darkBlock_block_other hc]

/-- Of the fields' registers only the lists of waking blocks move. -/
theorem darkBlock_field {β : Type} (g : FieldCtl → β) (hg : ∀ x p q, g { x with pendingWakes := p, batch := q } = g x)
    (b n : Nat) (s : State) : g ((darkBlock b s).field n) = g (s.field n) := by
  unfold darkBlock
  dsimp only
  rw [updTiles_field]
  by_cases hn : n = b / 16
  · subst hn
    rw [State.field_updField, field_updBlock]
    exact hg _ _ _
  · rw [State.field_updField_other _ _ hn, field_updBlock]

/-- The blocks of a field go DARK one after another. -/
def darkField16 (f : Nat) (s : State) : State := (List.range 16).foldl (fun s i => darkBlock (16 * f + i) s) s

theorem darkField16_dark (f : Nat) {i : Nat} (hi : i < 16) (s : State) :
    ((darkField16 f s).block (16 * f + i)).pstate = .dark := by
  have hfold (l : List Nat) (s : State) (h : i ∈ l ∨ (s.block (16 * f + i)).pstate = .dark) :
      ((l.foldl (fun s i => darkBlock (16 * f + i) s) s).block (16 * f + i)).pstate = .dark := by
    induction l generalizing s with
    | nil => exact h.resolve_left (List.not_mem_nil)
    | cons k l ih =>
      rw [List.foldl_cons]
      apply ih
      rcases h with h | h
      · rcases List.mem_cons.1 h with rfl | h
        · exact .inr (by rw [darkBlock_block])
        · exact .inl h
      · exact .inr (darkBlock_dark h)
  exact hfold _ s (.inl (List.mem_range.2 hi))

theorem darkField16_segFailed (f b : Nat) (s : State) : ((darkField16 f s).block b).segFailed = (s.block b).segFailed :=
  foldl_kept (fun s : State => (s.block b).segFailed) (fun s i => darkBlock_segFailed (16 * f + i) b s) _ s

theorem darkField16_field {β : Type} (g : FieldCtl → β) (hg : ∀ x p q, g { x with pendingWakes := p, batch := q } = g x)
    (f n : Nat) (s : State) : g ((darkField16 f s).field n) = g (s.field n) :=
  foldl_kept (fun s : State => g (s.field n)) (fun s i => darkBlock_field g hg (16 * f + i) n s) _ s

section
variable {f : Nat} {s : State} (retire : Bool) (h : (s.field f).lost = false)
include h

/-- What the loss of a field makes of its hardware; its frames and adapters go before, its records come after. -/
theorem loseField_work : ∃ v, SessionWork s v ∧ SessionWork ((darkField16 f v).updField f (fun x => { x with
    railOn := false, genRunning := false, settingMv := 0, lost := true, retired := x.retired || retire })) (loseField f retire s) := by
  refine ⟨detachFrames (inField f) (loseFrames (inField f) (loseOwn (inField f) s)),
    (SessionWork.loseOwn _ s).trans ((SessionWork.updDev _ _).trans (SessionWork.updDev _ _)), ?_⟩
  simp only [loseField, h, Bool.false_eq_true, if_false]
  split
  · exact (SessionWork.journalAdd _ _ _ _).trans (SessionWork.journalAdd _ _ _ _)
  · exact SessionWork.journalAdd _ _ _ _

theorem loseField_field : ((loseField f retire s).field f).lost = true ∧ ((loseField f retire s).field f).railOn = false ∧
    ((loseField f retire s).field f).retired = ((s.field f).retired || retire) ∧
    ((loseField f retire s).field f).breaker = (s.field f).breaker ∧
    ((loseField f retire s).field f).railRetired = (s.field f).railRetired ∧
    ((loseField f retire s).field f).phasesFailed = (s.field f).phasesFailed := by
  obtain ⟨v, hv, hlost⟩ := loseField_work retire h
  have hkept {β : Type} (g : FieldCtl → β) (hg : ∀ x p q, g { x with pendingWakes := p, batch := q } = g x) :
      g ((darkField16 f v).field f) = g (s.field f) := by rw [darkField16_field g hg, hv.field]
  have hretired := hkept FieldCtl.retired fun _ _ _ => rfl
  have hbreaker := hkept FieldCtl.breaker fun _ _ _ => rfl
  have hboard := hkept FieldCtl.railRetired fun _ _ _ => rfl
  have hphases := hkept FieldCtl.phasesFailed fun _ _ _ => rfl
  rw [hlost.field, State.field_updField]
  generalize (darkField16 f v).field f = y at hretired hbreaker hboard hphases ⊢
  exact ⟨rfl, rfl, by rw [hretired], hbreaker, hboard, hphases⟩

theorem loseField_dark {i : Nat} (hi : i < 16) : ((loseField f retire s).block (16 * f + i)).pstate = .dark := by
  obtain ⟨v, _, hlost⟩ := loseField_work retire h
  rw [hlost.block, block_updField, darkField16_dark f hi]

theorem loseField_segFailed (b : Nat) : ((loseField f retire s).block b).segFailed = (s.block b).segFailed := by
  obtain ⟨v, hv, hlost⟩ := loseField_work retire h
  rw [hlost.block, block_updField, darkField16_segFailed, hv.block]

/-- A trip of the breaker loses the field, and a second one after the retry retires it. -/
theorem tripBreaker_trips : ((tripBreaker f s).field f).breaker = true ∧
    ((tripBreaker f s).field f).retired = ((s.field f).retired || (s.field f).retryUsed) ∧
    ((tripBreaker f s).field f).phasesFailed = (s.field f).phasesFailed ∧
    ((tripBreaker f s).field f).lost = true ∧ ((tripBreaker f s).field f).railOn = false ∧
    ∀ i, i < 16 → ((tripBreaker f s).block (16 * f + i)).pstate = .dark := by
  have hopen : (raiseEvent (.breaker f) (s.updField f (fun x => { x with
      breaker := true, railRetired := x.railRetired || (s.field f).retryUsed }))).field f =
      { s.field f with breaker := true, railRetired := (s.field f).railRetired || (s.field f).retryUsed } := by
    rw [(SessionWork.raiseEvent _ _).field, State.field_updField]
  have hlive : ((raiseEvent (.breaker f) (s.updField f (fun x => { x with
      breaker := true, railRetired := x.railRetired || (s.field f).retryUsed }))).field f).lost = false := by rw [hopen, h]
  obtain ⟨hlost, hrail, hretired, hbreaker, _, hphases⟩ := loseField_field (s.field f).retryUsed hlive
  rw [hopen] at hretired hbreaker hphases
  exact ⟨hbreaker, hretired, hphases, hlost, hrail, fun i hi => loseField_dark _ hlive hi⟩

end

/-! ### Segments and phases (R410, R413) -/

theorem ringNeighbours_ne {b n : Nat} (h : n ∈ ringNeighbours b) : n ≠ b := by
  simp only [ringNeighbours, List.mem_cons, List.not_mem_nil, or_false] at h
  omega

/-- What a feed to the ring's neighbours leaves of the block itself, and what it makes of them. -/
theorem failSegments_few {b : Nat} {m : Byte} (h : popCount m < 2) (s : State) :
    (failSegments b m s).block b = { s.block b with segFailed := m } := by
  simp only [failSegments, ge_iff_le, if_neg (Nat.not_le.2 h), State.block_updBlock]

theorem failSegments_many {b : Nat} {m : Byte} (h : 2 ≤ popCount m) (s : State) :
    (failSegments b m s).block b = { s.block b with segFailed := m, tied := true, skip := true } ∧
    ∀ n ∈ ringNeighbours b, ((failSegments b m s).block n).feeding = true := by
  have hfeed (v : State) (n : Nat) : ((v.updBlock n (fun y => { y with feeding := true })).block n).feeding = true := by
    rw [State.block_updBlock]
  have hleft : b ≠ b / 4 * 4 + (b + 1) % 4 := (ringNeighbours_ne (b := b) (by simp [ringNeighbours])).symm
  have hright : b ≠ b / 4 * 4 + (b + 3) % 4 := (ringNeighbours_ne (b := b) (by simp [ringNeighbours])).symm
  have hapart : b / 4 * 4 + (b + 1) % 4 ≠ b / 4 * 4 + (b + 3) % 4 := by omega
  simp only [failSegments, ge_iff_le, if_pos h, ringNeighbours, List.foldl_cons, List.foldl_nil]
  refine ⟨?_, fun n hn => ?_⟩
  · rw [State.block_updBlock_other _ _ hright, State.block_updBlock_other _ _ hleft, State.block_updBlock, State.block_updBlock]
  · simp only [List.mem_cons, List.not_mem_nil, or_false] at hn
    rcases hn with rfl | rfl
    · rw [State.block_updBlock_other _ _ hapart]
      exact hfeed _ _
    · exact hfeed _ _

theorem exec_segmentCheck_fails {b : Fin 1024} {failed : Byte} {s : State}
    (h : (s.block b.val).segFailed ||| failed ≠ (s.block b.val).segFailed) : exec (.segmentCheck b failed) s =
      .next (failSegments b.val ((s.block b.val).segFailed ||| failed) (journalAdd kindRetirement (retireKey 2 b.val)
        (segmentBody ((s.block b.val).segFailed ||| failed)) s)) := by
  simp only [exec, execSegmentCheck, if_neg h]

theorem failSegments_journal (b : Nat) (m : Byte) (s : State) : (failSegments b m s).journal = s.journal := by
  unfold failSegments
  dsimp only
  split
  · exact foldl_kept State.journal (fun _ _ => by rfl) _ _
  · rfl

/-- The rail with one more phase failed, recorded (R410). -/
def phaseFailed (f : Nat) (m : Byte) (s : State) : State :=
  journalAdd kindPower (BitVec.ofNat 32 f) [1, m] (s.updField f (fun x => { x with phasesFailed := m }))

theorem phaseFailed_field (f : Nat) (m : Byte) (s : State) : (phaseFailed f m s).field f = { s.field f with phasesFailed := m } := by
  rw [phaseFailed, (SessionWork.journalAdd _ _ _ _).field, State.field_updField]

theorem exec_phaseFailure (f : Fin 64) (phase : Fin 8) (s : State) : exec (.phaseFailure f phase) s =
    if popCount ((s.field f.val).phasesFailed ||| ((1 : Byte) <<< phase.val)) ≥ 2 then
      .next (tripBreaker f.val (phaseFailed f.val ((s.field f.val).phasesFailed ||| ((1 : Byte) <<< phase.val)) s))
    else .next ((phaseFailed f.val ((s.field f.val).phasesFailed ||| ((1 : Byte) <<< phase.val)) s).updField f.val
      (fun x => if x.measuredMa.toNat > railRating x then lowerTarget x else x)) := rfl

theorem lowerTarget_kept (x : FieldCtl) : (lowerTarget x).phasesFailed = x.phasesFailed ∧ (lowerTarget x).lost = x.lost ∧
    (lowerTarget x).breaker = x.breaker := by
  unfold lowerTarget setClock
  dsimp only
  split <;> exact ⟨rfl, rfl, rfl⟩

/-- Settles O53: what each failure of a rail, segment or phase leaves. -/
theorem railsFailAndDerate : Obligations.RailsFailAndDerate := by
  intro f b phase failed cycles ended p s x y m seg dark
  refine ⟨fun hlive => ⟨_, rfl, ?_⟩, fun hlive => ⟨_, rfl, ?_⟩, fun hfew => ?_, fun hmany hlive => ?_, fun hseg => ?_,
    fun hactive => ?_, fun hgen => ⟨_, rfl, ?_⟩, fun hlive => ⟨_, newRecord kindPower (BitVec.ofNat 32 b.val) [2] s, rfl,
      journalAdd_records _ _ _ _ (.inl hlive), rfl, rfl⟩⟩
  · obtain ⟨hbreaker, hretired, _, hlost⟩ := tripBreaker_trips hlive
    exact ⟨hbreaker, hretired, hlost⟩
  · have hfield : (((s.updBlock b.val (fun x => { x with segFailed := 0xFF, tied := false })).updField (b.val / 16)
        (fun x => { x with railRetired := true })).field (b.val / 16)) = { s.field (b.val / 16) with railRetired := true } := by
      rw [State.field_updField, field_updBlock]
    have hlive' := (congrArg FieldCtl.lost hfield).trans hlive
    obtain ⟨hlost, hrail, hretired, _, hboard, _⟩ := loseField_field true hlive'
    rw [hfield] at hboard
    refine ⟨⟨hlost, hrail, fun i hi => loseField_dark true hlive' hi⟩, hretired.trans (Bool.or_true _), hboard, ?_⟩
    rw [loseField_segFailed true hlive', block_updField, State.block_updBlock]
  · refine ⟨_, (exec_phaseFailure f phase s).trans (if_neg (Nat.not_le.2 hfew)), ?_⟩
    rw [State.field_updField, phaseFailed_field]
    split
    · exact lowerTarget_kept _
    · exact ⟨rfl, rfl, rfl⟩
  · obtain ⟨hbreaker, _, hphases, hlost⟩ := tripBreaker_trips (f := f.val) (s := phaseFailed f.val m s)
      (by rw [phaseFailed_field]; exact hlive)
    rw [phaseFailed_field] at hphases
    exact ⟨_, (exec_phaseFailure f phase s).trans (if_pos hmany), hphases, hbreaker, hlost⟩
  · have hblock (n : Nat) : (journalAdd kindRetirement (retireKey 2 b.val) (segmentBody seg) s).block n = s.block n :=
      (SessionWork.journalAdd _ _ _ _).block n
    refine ⟨_, newRecord kindRetirement (retireKey 2 b.val) (segmentBody seg) s, exec_segmentCheck_fails hseg, ?_, ?_, rfl, rfl,
      fun hmany => ?_, fun hfew => ?_⟩
    · by_cases hmany : 2 ≤ popCount seg
      · rw [(failSegments_many hmany _).1]
      · rw [failSegments_few (Nat.not_le.1 hmany)]
    · rw [failSegments_journal]
      exact journalAdd_records _ _ _ _ (.inr (by decide))
    · obtain ⟨hown, hring⟩ := failSegments_many (b := b.val) hmany
        (journalAdd kindRetirement (retireKey 2 b.val) (segmentBody seg) s)
      rw [hown]
      exact ⟨rfl, rfl, hring⟩
    · rw [failSegments_few hfew, hblock]
      exact ⟨rfl, rfl⟩
  · simp only [exec, execPowerControllerTakeover, hactive]
    exact ⟨_, rfl, rfl, rfl, rfl⟩
  · have hgen' : (s.field f.val).genRunning = true := hgen
    rw [State.field_updField, if_pos hgen']
    exact ⟨rfl, rfl⟩

end Sys2Proof.Machine

/-! SUPPORT. Readings, thermal limits and refresh. -/

namespace Sys2Proof.Machine
open Sys2Proof

/-! ### What the readings' bookkeeping leaves (R436 to R438, R443) -/

theorem journal_updField (s : State) (n : Nat) (f : FieldCtl → FieldCtl) : (s.updField n f).journal = s.journal := rfl

@[simp] theorem takeTjmax_block (f : Nat) (s : State) (b : Nat) : (takeTjmax f s).block b = s.block b := by
  rw [takeTjmax, block_updField]
@[simp] theorem takeTjmax_tile (f : Nat) (s : State) (t : TileId) : (takeTjmax f s).tile t = s.tile t := by
  rw [takeTjmax, tile_updField]
@[simp] theorem takeTjmax_journal (f : Nat) (s : State) : (takeTjmax f s).journal = s.journal := by
  rw [takeTjmax, journal_updField]

theorem journalSensors_work (b : Nat) (old new : Block) (s : State) : SessionWork s (journalSensors b old new s) := by
  unfold journalSensors
  split
  · exact SessionWork.refl s
  · exact SessionWork.journalAdd _ _ _ _

/-- A newly retired sensor is journalled. -/
theorem journalSensors_records {b : Nat} {old new : Block} (h : old.diodeRetired ≠ new.diodeRetired) (s : State) :
    ∃ j, (journalSensors b old new s).journal.records = s.journal.records ++ [j] ∧ j.kind = kindRetirement := by
  rw [journalSensors, if_neg fun hboth => h hboth.1]
  exact ⟨_, journalAdd_records _ _ _ _ (.inr (by decide)), rfl⟩

theorem capBlock_eq (x : Block) : capBlock x = { x with capped := (capBlock x).capped, skip := (capBlock x).skip } := by
  unfold capBlock
  split <;> rfl

theorem setThermal_thermalMhz (m : Nat) (x : FieldCtl) : (setThermal m x).thermalMhz = BitVec.ofNat 11 m := by
  unfold setThermal setClock
  dsimp only
  split <;> rfl

/-! ### A sample of a block's sensors (R436, R438, R442) -/

/-- The samples at 110 °C in a row, counted. -/
def countHot (x : Block) : Block := { x with hotSamples := if x.reading ≥ 110 then x.hotSamples + 1 else 0 }

/-- The block with its sensors' new values. -/
def sampled (x : Block) (diode ring : Option Byte) : Block :=
  let d := takeSensor x.diode x.diodeRetired diode
  let r := takeSensor x.ring x.ringRetired ring
  countHot (capBlock { x with diode := d.1, diodeRetired := d.2, ring := r.1, ringRetired := r.2, model := x.model })

/-- The device with a block's sample taken, before any shutdown. -/
def sampleTaken (b : Fin 1024) (z : Block) (s : State) : State :=
  let s1 := journalSensors b.val (s.block b.val) z (s.putBlock b.val z)
  takeTjmax (b.val / 16) (if z.reading > 95 then updTiles (blockTiles b.val) (fun t => { t with double := true }) s1 else s1)

theorem exec_sensorSample (b : Fin 1024) (diode ring : Option Byte) (s : State) : exec (.sensorSample b diode ring none) s =
    .next (if (sampled (s.block b.val) diode ring).hotSamples ≥ 2
      then hardShutdown b.val (sampleTaken b (sampled (s.block b.val) diode ring) s)
      else sampleTaken b (sampled (s.block b.val) diode ring) s) := rfl

theorem sampleTaken_block (b : Fin 1024) (z : Block) (s : State) : (sampleTaken b z s).block b.val = z := by
  unfold sampleTaken
  dsimp only
  rw [takeTjmax_block]
  split
  · rw [updTiles_block, (journalSensors_work _ _ _ _).block, block_putBlock]
  · rw [(journalSensors_work _ _ _ _).block, block_putBlock]

theorem sampleTaken_double {b : Fin 1024} {z : Block} (h : 95 < z.reading) (s : State) {t : TileId}
    (ht : t ∈ blockTiles b.val) : ((sampleTaken b z s).tile t).double = true := by
  unfold sampleTaken
  dsimp only
  rw [takeTjmax_tile, if_pos h, updTiles_mem (f := fun t => { t with double := true }) (fun _ => rfl) ht]

theorem sampleTaken_journal (b : Fin 1024) (z : Block) (s : State) : (sampleTaken b z s).journal =
    (journalSensors b.val (s.block b.val) z (s.putBlock b.val z)).journal := by
  unfold sampleTaken
  dsimp only
  rw [takeTjmax_journal]
  split
  · exact foldl_kept State.journal (fun _ _ => by rfl) _ _
  · rfl

section
variable {x : Block} {a c : Byte} (hring : x.ringRetired = false)
include hring

/-- With both sensors in use, the reading is the higher value. -/
theorem sampled_both (hdiode : x.diodeRetired = false) : sampled x (some a) (some c) = countHot { x with diode := a, ring := c } := by
  simp only [sampled, takeSensor, capBlock, hdiode, hring, Bool.false_and, Bool.false_eq_true, if_false]

theorem reading_both (hdiode : x.diodeRetired = false) : ({ x with diode := a, ring := c } : Block).reading = max a.toNat c.toNat := by
  simp only [Block.reading, hdiode, hring, Bool.false_and, Bool.false_eq_true, if_false]

/-- A diode out of range is retired, and the reading is the other sensor's. -/
theorem sampled_diodeLost : sampled x none (some c) = countHot { x with diodeRetired := true, ring := c } := by
  simp only [sampled, takeSensor, capBlock, hring, Bool.and_false, Bool.false_eq_true, if_false]

theorem reading_diodeLost : ({ x with diodeRetired := true, ring := c } : Block).reading = c.toNat := by
  simp only [Block.reading, hring, Bool.and_false, Bool.false_eq_true, if_false, if_true]

end

/-- A hard shutdown is noted, and the rails go off. -/
theorem hardShutdown_off (b : Nat) (s : State) :
    (hardShutdown b s).bring.hardShutdown = true ∧ (hardShutdown b s).power.otherRailsOn = false := ⟨rfl, rfl⟩

/-! ### Sensors under suspicion (R438) -/

/-- The block after a comparison of its sensors with the model. -/
def compared (x : Block) : Block :=
  let d := !x.diodeRetired && decide (gap x.diode x.model > 6)
  let r := !x.ringRetired && decide (gap x.ring x.model > 6)
  let y := capBlock { x with diodeRetired := x.diodeRetired || d, ringRetired := x.ringRetired || r }
  if d || r then { y with suspectSamples := 0 }
  else if y.suspectSamples + 1 ≥ 10000 then { y with suspect := false, suspectSamples := 0 }
  else { y with suspectSamples := y.suspectSamples + 1 }

theorem exec_sensorModelCompare_suspect {b : Fin 1024} {s : State} (h : (s.block b.val).suspect = true) :
    exec (.sensorModelCompare b) s = .next (takeTjmax (b.val / 16)
      (journalSensors b.val (s.block b.val) (compared (s.block b.val)) (s.putBlock b.val (compared (s.block b.val))))) := by
  have hgoes : (!(s.block b.val).suspect) = false := by rw [h]; rfl
  simp only [exec, execSensorModelCompare, hgoes, Bool.false_eq_true, if_false, compared]

theorem compared_diodeLost {x : Block} (hdiode : x.diodeRetired = false) (hgap : 6 < gap x.diode x.model) :
    (compared x).diodeRetired = true := by
  have hd : (!x.diodeRetired && decide (gap x.diode x.model > 6)) = true := by simp [hdiode, hgap]
  simp only [compared, hd, Bool.true_or, if_true, Bool.or_true]
  rw [capBlock_eq]

theorem compared_agrees {x : Block} (hdiode : gap x.diode x.model ≤ 6) (hring : gap x.ring x.model ≤ 6)
    (hlong : 9999 ≤ x.suspectSamples) : (compared x).suspect = false ∧ (compared x).diodeRetired = x.diodeRetired := by
  have hd : (!x.diodeRetired && decide (gap x.diode x.model > 6)) = false := by simp [Nat.not_lt.2 hdiode]
  have hr : (!x.ringRetired && decide (gap x.ring x.model > 6)) = false := by simp [Nat.not_lt.2 hring]
  have hsame : (capBlock x).suspectSamples = x.suspectSamples ∧ (capBlock x).diodeRetired = x.diodeRetired := by
    rw [capBlock_eq]
    exact ⟨rfl, rfl⟩
  have hlong' : (capBlock x).suspectSamples + 1 ≥ 10000 := by omega
  simp only [compared, hd, hr, Bool.or_false, Bool.false_eq_true, if_false, if_pos hlong', true_and]
  exact hsame.2

/-! ### Refresh (R104 to R107) -/

theorem exec_slabRefreshWindow_awake {t : TileId} {freeSlots : BitVec 7} {corrected : Fin 3} {s : State}
    (h : (s.block (tileBlock t)).awake = true) : exec (.slabRefreshWindow t freeSlots corrected) s =
      .next (s.updTile t (fun x => { x with
        steals := satAdd x.steals ((if x.double then 2 else 1) - freeSlots.toNat)
        scrubGroup := (x.scrubGroup + (if x.double then 2 else 1)) % 8192
        eccSlab := satAdd x.eccSlab (min corrected.val (if x.double then 2 else 1)) })) := by
  simp only [exec, execSlabRefreshWindow, h, Bool.not_true, Bool.false_eq_true, if_false]

/-- Settles O54: every reading, limit and refresh of a block. -/
theorem blockTemperatures : Obligations.BlockTemperatures := by
  refine ⟨fun b f a c s => ?readings, fun t freeSlots corrected b s => ⟨fun hawake => ?_, fun hcool => ?_⟩⟩
  case readings =>
    intro x y m
    refine ⟨fun hdiode hring hcool => ?_, fun hdiode hring hcool => ?_, fun hdiode hring hhot hagain => ?_,
      fun hhot => ⟨_, rfl, ?_⟩, fun hcool => ⟨_, rfl, ?_⟩, fun hwarm hcool => ⟨_, rfl, ?_⟩,
      fun hdiode hring hgap => ⟨_, rfl, ?_⟩, fun hgap => ⟨_, rfl, ?_⟩,
      fun hsuspect hdiode hgap => ⟨_, exec_sensorModelCompare_suspect hsuspect, ?_⟩,
      fun hsuspect hdiode hring hlong => ⟨_, exec_sensorModelCompare_suspect hsuspect, ?_⟩⟩
    · have hread := reading_both (a := a) (c := c) hring hdiode
      have hnone : (sampled x (some a) (some c)).hotSamples = 0 := by
        rw [sampled_both hring hdiode, countHot, hread, if_neg (Nat.not_le.2 hcool)]
      refine ⟨_, (exec_sensorSample _ _ _ s).trans (congrArg _ (if_neg (by rw [hnone]; decide))), ?_⟩
      rw [sampleTaken_block]
      refine ⟨by rw [sampled_both hring hdiode]; rfl, by rw [sampled_both hring hdiode]; rfl, hnone, fun hhot t ht => ?_⟩
      refine sampleTaken_double ?_ s ht
      rw [sampled_both hring hdiode]
      exact hhot.trans_eq hread.symm
    · have hread := reading_diodeLost (c := c) hring
      have hnone : (sampled x none (some c)).hotSamples = 0 := by
        rw [sampled_diodeLost hring, countHot, hread, if_neg (Nat.not_le.2 hcool)]
      have hlost : (sampled x none (some c)).diodeRetired = true := by rw [sampled_diodeLost hring]; rfl
      obtain ⟨j, hj, hkind⟩ := journalSensors_records (b := b.val) (old := x) (new := sampled x none (some c))
        (by rw [hlost, hdiode]; decide) (s.putBlock b.val (sampled x none (some c)))
      refine ⟨_, j, (exec_sensorSample _ _ _ s).trans (congrArg _ (if_neg (by rw [hnone]; decide))), ?_⟩
      rw [sampleTaken_block, sampleTaken_journal]
      exact ⟨hlost, by rw [sampled_diodeLost hring]; exact hring, hj, hkind⟩
    · have htwo : (sampled x (some a) (some c)).hotSamples ≥ 2 := by
        rw [sampled_both hring hdiode, countHot, reading_both hring hdiode, if_pos hhot]
        exact Nat.succ_le_succ hagain
      exact ⟨_, (exec_sensorSample _ _ _ s).trans (congrArg _ (if_pos htwo)), hardShutdown_off _ _⟩
    · rw [State.field_updField]
      dsimp only
      rw [if_pos hhot, setThermal_thermalMhz]
    · rw [State.field_updField]
      dsimp only
      rw [if_neg (Nat.not_lt.2 (hcool.trans (by decide))), if_pos hcool, setThermal_thermalMhz]
    · rw [State.field_updField]
      dsimp only
      rw [if_neg (Nat.not_lt.2 hcool), if_neg (Nat.not_le.2 hwarm)]
    · have hgoes : (!(s.block b.val).diodeRetired && !(s.block b.val).ringRetired &&
          decide (gap (s.block b.val).diode (s.block b.val).ring > 4)) = true := by
        simp only [Bool.and_eq_true, Bool.not_eq_true', decide_eq_true_eq]
        exact ⟨⟨hdiode, hring⟩, hgap⟩
      rw [State.block_updBlock, if_pos hgoes]
      exact ⟨rfl, rfl⟩
    · have hstays : ¬ (!(s.block b.val).diodeRetired && !(s.block b.val).ringRetired &&
          decide (gap (s.block b.val).diode (s.block b.val).ring > 4)) = true := by
        simp only [Bool.and_eq_true, decide_eq_true_eq]
        exact fun hgoes => Nat.not_le.2 hgoes.2 hgap
      rw [State.block_updBlock, if_neg hstays]
    · rw [takeTjmax_block, (journalSensors_work _ _ _ _).block, block_putBlock]
      exact compared_diodeLost hdiode hgap
    · rw [takeTjmax_block, (journalSensors_work _ _ _ _).block, block_putBlock]
      exact compared_agrees hdiode hring hlong
  · refine ⟨_, exec_slabRefreshWindow_awake hawake, ?_⟩
    rw [State.tile_updTile]
    exact ⟨rfl, rfl, rfl, SameMemories.refl _⟩
  · refine ⟨updTiles (blockTiles b.val) (fun x => { x with double := false }) s, ?_, fun v hv => ?_⟩
    · simp only [exec, execDoubleRefreshEnd, if_pos hcool]
    · rw [updTiles_mem (f := fun x => { x with double := false }) (fun _ => rfl) hv]

end Sys2Proof.Machine

/-! SUPPORT. The coolant. -/

namespace Sys2Proof.Machine
open Sys2Proof

@[simp] theorem raiseEvent_coolant (e : PlatformEvent) (s : State) : (raiseEvent e s).coolant = s.coolant := by
  unfold raiseEvent
  split <;> rfl

@[simp] theorem updFields_coolant (g : FieldCtl → FieldCtl) (s : State) : (updFields g s).coolant = s.coolant :=
  foldl_kept State.coolant (fun _ _ => by rfl) _ s

@[simp] theorem updFields_dev (g : FieldCtl → FieldCtl) (s : State) : (updFields g s).dev = s.dev :=
  foldl_kept State.dev (fun _ _ => by rfl) _ s

theorem SessionWork.setDeviceState (v : Byte) (s : State) : SessionWork s (Machine.setDeviceState v s) := by
  unfold Machine.setDeviceState
  split
  · exact SessionWork.refl s
  · exact (SessionWork.updDev _ s).trans (SessionWork.raiseEvent _ _)

theorem SessionWork.coolant {s u : State} (h : SessionWork s u) : u.coolant = s.coolant := by rw [h]

theorem setDeviceState_deviceState (v : Byte) (s : State) : (setDeviceState v s).dev.deviceState = v := by
  unfold setDeviceState
  split
  · next h => exact h
  · rw [raiseEvent_dev]
    rfl

theorem setClock_clkTarget (x : FieldCtl) : (setClock x).clkTarget = x.clkTarget ∧ (setClock x).boostGrant = x.boostGrant := by
  unfold setClock
  dsimp only
  split <;> exact ⟨rfl, rfl⟩

/-- The newest entry of a ring is the one just pushed. -/
theorem getLast?_ringPush {α : Type} {n : Nat} (hn : 1 ≤ n) (r : List α) (x : α) : (ringPush n r x).getLast? = some x := by
  have hlen : r.length + 1 - n ≤ r.length := by omega
  rw [ringPush, List.drop_append_of_le_length hlen, List.getLast?_append]
  rfl

/-! ### A coolant sample (R434, R439, R440) -/

/-- The coolant registers after a sample. -/
def sampledCoolant (fi fo : BitVec 16) (a b : Option (BitVec 16)) (c : Coolant) : Coolant :=
  let failed := c.sensorFailed || a.isNone || b.isNone
  let t := coolantTemps failed a b
  { c with
    flowIn := fi, flowOut := fo, inlet := t.1, outlet := t.2, sensorFailed := failed
    lowSamples := if min fi.toNat fo.toNat < 800 then c.lowSamples + 1 else 0
    hotInletSamples := if t.1.toInt > 4500 then c.hotInletSamples + 1 else 0
    flowAlarm := c.flowAlarm || decide (min fi.toNat fo.toNat < 3200)
    inletAlarm := decide (t.1.toInt < 1700) }

/-- The sample stops the flow: a fall below 8 L/min, or 100 samples low or hot (R440). -/
def sampleStops (fi fo : BitVec 16) (a b : Option (BitVec 16)) (c : Coolant) : Bool :=
  (decide (min fi.toNat fo.toNat < 800) && decide (c.flow ≥ 800)) ||
    decide ((sampledCoolant fi fo a b c).lowSamples ≥ 100) || decide ((sampledCoolant fi fo a b c).hotInletSamples ≥ 100)

/-- The device with the sample and its alarm. -/
def coolantSampled (fi fo : BitVec 16) (a b : Option (BitVec 16)) (s : State) : State :=
  let s1 := { s with coolant := sampledCoolant fi fo a b s.coolant }
  let s2 := { s1 with power := { s1.power with sustainedW := BitVec.ofNat 16 s1.sustained } }
  if (sampledCoolant fi fo a b s.coolant).flowAlarm && !s.coolant.flowAlarm then raiseEvent .flowAlarm s2 else s2

theorem coolantSampled_coolant (fi fo : BitVec 16) (a b : Option (BitVec 16)) (s : State) :
    (coolantSampled fi fo a b s).coolant = sampledCoolant fi fo a b s.coolant := by
  unfold coolantSampled
  dsimp only
  split
  · rw [raiseEvent_coolant]
  · rfl

theorem exec_coolantSample (fi fo : BitVec 16) (a b : Option (BitVec 16)) (s : State) :
    exec (.coolantSample fi fo a b) s = .next (if sampleStops fi fo a b s.coolant && !s.coolant.flowStop
      then flowStopped (coolantSampled fi fo a b s) else coolantSampled fi fo a b s) := rfl

/-- The flow-stop outcome before what it lets go on: held waves, no boost, targets at 200 MHz. -/
def flowHalted (s : State) : State :=
  let s2 := updFields (fun x => setClock { x with boostGrant := false, clkTarget := 200 })
    { s with coolant := { s.coolant with flowStop := true } }
  raiseEvent .flowStop (if s2.dev.deviceState = 2 then setDeviceState 3 s2 else s2)

theorem flowStopped_eq (s : State) : flowStopped s = proceed (flowHalted s) := rfl

theorem flowHalted_work (s : State) : SessionWork (updFields (fun x => setClock { x with boostGrant := false, clkTarget := 200 })
    { s with coolant := { s.coolant with flowStop := true } }) (flowHalted s) := by
  unfold flowHalted
  dsimp only
  split
  · exact (SessionWork.setDeviceState _ _).trans (SessionWork.raiseEvent _ _)
  · exact SessionWork.raiseEvent _ _

theorem flowHalted_coolant (s : State) : (flowHalted s).coolant = { s.coolant with flowStop := true } := by
  rw [(flowHalted_work s).coolant, updFields_coolant]

theorem flowHalted_field (s : State) {g : Nat} (hg : g < 64) :
    ((flowHalted s).field g).clkTarget = 200 ∧ ((flowHalted s).field g).boostGrant = false := by
  rw [(flowHalted_work s).field, updFields_field _ _ hg]
  exact setClock_clkTarget _

/-! ### Recovery, terms and restart (R435, R441, R475) -/

theorem exec_flowRecovery_recovers {s : State} (hstop : s.coolant.flowStop = true) (hflow : 3200 ≤ s.coolant.flow)
    (hinlet : s.coolant.inletGood = true) : exec .flowRecovery s = .next (proceed
      (if s.dev.deviceState = 3 ∧ (!s.dev.quiesced) = true then
        setDeviceState 2 { s with coolant := { s.coolant with flowStop := false } }
      else { s with coolant := { s.coolant with flowStop := false } })) := by
  have hgoes : (s.coolant.flowStop && decide (s.coolant.flow ≥ 3200) && s.coolant.inletGood) = true := by
    rw [hstop, hinlet, decide_eq_true hflow]
    rfl
  simp only [exec, execFlowRecovery, hgoes, if_true]

/-- The coolant registers after a step of the outlet term. -/
def outletStepped (c : Coolant) : Coolant :=
  if c.outlet.toInt > 5200 then { c with outletTermW := min c.outletTermW c.baseTerm - 1000, outletActing := true }
  else if c.outlet.toInt < 5100 ∧ c.outletActing then
    { c with
      outletTermW := if min c.baseTerm (c.outletTermW + 1000) ≥ c.baseTerm then 20000 else min c.baseTerm (c.outletTermW + 1000)
      outletActing := decide (min c.baseTerm (c.outletTermW + 1000) < c.baseTerm) }
  else c

theorem exec_outletTermStep (s : State) : ∃ u, exec .outletTermStep s = .next u ∧ u.coolant = outletStepped s.coolant :=
  ⟨_, rfl, rfl⟩

/-- Below 51 °C an acting outlet term rises toward the coolant's other terms. -/
theorem outletStepped_rises {c : Coolant} (hcool : c.outlet.toInt < 5100) (hacting : c.outletActing = true)
    (hbelow : c.outletTermW + 1000 < c.baseTerm) :
    (outletStepped c).outletTermW = c.outletTermW + 1000 ∧ (outletStepped c).outletActing = true := by
  have hmin : min c.baseTerm (c.outletTermW + 1000) = c.outletTermW + 1000 := Nat.min_eq_right (Nat.le_of_lt hbelow)
  have hnothot : ¬ c.outlet.toInt > 5200 := by omega
  rw [outletStepped, if_neg hnothot, if_pos ⟨hcool, hacting⟩, hmin, if_neg (Nat.not_le.2 hbelow), decide_eq_true hbelow]
  exact ⟨rfl, rfl⟩

theorem exec_thermalRecord_pushes (s : State) : ∃ u, exec .thermalRecord s = .next u ∧
    u.power.thermalSeq = s.power.thermalSeq + 1 ∧
    u.power.thermalRing = ringPush 600 s.power.thermalRing (s.power.thermalSeq, bytesLines (thermalBytes s)) := by
  simp only [exec, execThermalRecord]
  refine ⟨_, rfl, ?_, ?_⟩ <;> dsimp only

theorem exec_warmRestart_warms {s : State} (hwarm : s.bring.warmable = true) (hkeepers : s.bring.keepersUp = true)
    (hstep : s.bring.step = 0) (hmain : s.power.mainClosed = true) (hrange : s.power.outOfRange = false)
    (hcool : s.bring.hardShutdown = false ∨ cooledDown s = true) : exec .warmRestart s =
      .next (statusLights 2 { s with bring := { step := 2, warm := true, keepersUp := true } }) := by
  have hcool' : (!s.bring.hardShutdown || cooledDown s) = true := by
    rcases hcool with h | h <;> rw [h]
    · rfl
    · exact Bool.or_true _
  have hgoes : s.bring.warmable = true ∧ s.bring.keepersUp = true ∧ s.bring.step = 0 ∧ s.power.mainClosed = true ∧
      (!s.power.outOfRange) = true ∧ (!s.bring.hardShutdown || cooledDown s) = true :=
    ⟨hwarm, hkeepers, hstep, hmain, by rw [hrange]; rfl, hcool'⟩
  simp only [exec, execWarmRestart, if_pos hgoes]

/-- Settles O55: what each reading of the coolant does. -/
theorem coolantIsWatched : Obligations.CoolantIsWatched := by
  intro fi fo i o s c n
  refine ⟨fun hsensor hflow hinlet => ?_, fun hlow a b => ?_, fun hwas hlow hstop => ?_, fun hstop hflow hinlet => ?_,
    fun hgap => ?_, fun hhot => ?_, fun hcool hacting hbelow => ?_, fun hhigh hlow => ?_, fun hflow => ?_, fun hflow => ?_,
    ?_, fun hwarm hkeepers hstep hmain hrange hcool =>
      ⟨_, exec_warmRestart_warms hwarm hkeepers hstep hmain hrange hcool, rfl, rfl⟩⟩
  · have hfailed : (c.sensorFailed || (some i).isNone || (some o).isNone) = false := by rw [hsensor]; rfl
    have hsample : sampledCoolant fi fo (some i) (some o) c = { c with
        flowIn := fi, flowOut := fo, inlet := i, outlet := o, sensorFailed := false, lowSamples := 0, hotInletSamples := 0
        flowAlarm := c.flowAlarm || decide (n < 3200), inletAlarm := decide (i.toInt < 1700) } := by
      have hnotlow : ¬ min fi.toNat fo.toNat < 800 := Nat.not_lt.2 hflow
      have hnothot : ¬ i.toInt > 4500 := not_lt.2 hinlet
      simp only [sampledCoolant, hfailed, coolantTemps, if_neg hnotlow, if_neg hnothot, n]
    have hgoes : (sampleStops fi fo (some i) (some o) s.coolant && !s.coolant.flowStop) = false := by
      have hnotlow : ¬ min fi.toNat fo.toNat < 800 := Nat.not_lt.2 hflow
      rw [sampleStops, hsample]
      simp [hnotlow]
    refine ⟨_, exec_coolantSample fi fo (some i) (some o) s, ?_⟩
    rw [hgoes, if_neg (by decide), coolantSampled_coolant, hsample]
    exact ⟨rfl, rfl, rfl, rfl, rfl, rfl⟩
  · have halarm : (sampledCoolant fi fo a b s.coolant).flowAlarm = true := by
      have hlow' : decide (min fi.toNat fo.toNat < 3200) = true := decide_eq_true hlow
      simp only [sampledCoolant, hlow', Bool.or_true]
    by_cases hgoes : (sampleStops fi fo a b s.coolant && !s.coolant.flowStop) = true
    · refine ⟨flowHalted (coolantSampled fi fo a b s), ?_, .inr ?_⟩
      · rw [flowHalted_coolant, coolantSampled_coolant]
        exact halarm
      · rw [exec_coolantSample, if_pos hgoes, flowStopped_eq]
    · refine ⟨coolantSampled fi fo a b s, ?_, .inl ?_⟩
      · rw [coolantSampled_coolant, halarm]
      · rw [exec_coolantSample, if_neg hgoes]
  · have hgoes : (sampleStops fi fo (some i) (some o) s.coolant && !s.coolant.flowStop) = true := by
      have hlow' : decide (min fi.toNat fo.toNat < 800) = true := decide_eq_true hlow
      have hwas' : decide (s.coolant.flow ≥ 800) = true := decide_eq_true hwas
      have hstop' : (!s.coolant.flowStop) = true := by rw [show s.coolant.flowStop = false from hstop]; rfl
      rw [sampleStops, hlow', hwas', hstop']
      rfl
    refine ⟨flowHalted (coolantSampled fi fo (some i) (some o) s), ?_, ?_, fun g hg => flowHalted_field _ hg⟩
    · rw [exec_coolantSample, if_pos hgoes, flowStopped_eq]
    · rw [flowHalted_coolant]
  · refine ⟨_, exec_flowRecovery_recovers hstop hflow hinlet, ?_, fun hstate hquiet => ?_⟩
    · split
      · rw [(SessionWork.setDeviceState _ _).coolant]
      · rfl
    · rw [if_pos ⟨hstate, by rw [hquiet]; rfl⟩, setDeviceState_deviceState]
  · have hgap' : 10 * (max s.coolant.flowIn.toNat s.coolant.flowOut.toNat - s.coolant.flow) > s.coolant.flow := hgap
    refine ⟨{ s with coolant := { s.coolant with meterSuspect := true } }, ?_, rfl⟩
    simp only [exec, execMeterSuspect, if_pos hgap']
  · obtain ⟨u, hu, hc⟩ := exec_outletTermStep s
    refine ⟨u, hu, ?_⟩
    rw [hc, outletStepped, if_pos hhot]
    exact ⟨rfl, rfl⟩
  · obtain ⟨u, hu, hc⟩ := exec_outletTermStep s
    refine ⟨u, hu, ?_⟩
    rw [hc]
    exact outletStepped_rises hcool hacting hbelow
  · obtain ⟨u, hu, hc⟩ := exec_outletTermStep s
    refine ⟨u, hu, ?_⟩
    rw [hc, outletStepped, if_neg (not_lt.2 hhigh), if_neg fun hfall => not_lt.2 hlow hfall.1]
  · have hflow' : s.coolant.flow ≥ 3400 := hflow
    refine ⟨{ s with coolant := { s.coolant with flowAlarm := false } }, ?_, rfl⟩
    simp only [exec, execFlowAlarmClear, if_pos hflow']
  · have hflow' : ¬ s.coolant.flow ≥ 3400 := Nat.not_le.2 hflow
    simp only [exec, execFlowAlarmClear, if_neg hflow']
  · obtain ⟨u, hu, hseq, hring⟩ := exec_thermalRecord_pushes s
    refine ⟨u, hu, hseq, ?_⟩
    rw [hring, getLast?_ringPush (by norm_num)]

end Sys2Proof.Machine

/-! SUPPORT. Bring-up, step by step. -/

namespace Sys2Proof.Machine
open Sys2Proof

@[simp] theorem keeper_updKeeper0 (s : State) (f g : Keeper → Keeper) :
    ((s.updKeeper 0 f).updKeeper 1 g).keeper 0 = f (s.keeper 0) := by
  rw [keeper_updKeeper_other _ _ (by decide), State.keeper_updKeeper]

@[simp] theorem keeper_updKeeper1 (s : State) (f g : Keeper → Keeper) :
    ((s.updKeeper 0 f).updKeeper 1 g).keeper 1 = g (s.keeper 1) := by
  rw [State.keeper_updKeeper, keeper_updKeeper_other _ _ (by decide)]

theorem statusLights_keeper (v : BitVec 4) (s : State) :
    (statusLights v s).keeper 0 = { s.keeper 0 with statusLight := v } ∧
    (statusLights v s).keeper 1 = { s.keeper 1 with statusLight := v } :=
  ⟨keeper_updKeeper0 _ _ _, keeper_updKeeper1 _ _ _⟩

/-! ### Power-on (R471 to R476, R502) -/

theorem SessionWork.keeper {s u : State} (h : SessionWork s u) (k : Nat) : u.keeper k = s.keeper k := by rw [h]; rfl
theorem SessionWork.bring {s u : State} (h : SessionWork s u) : u.bring = s.bring := by rw [h]

/-- What a break of the seal leaves: the tiles, the member number, and that the journal is not mounted. -/
theorem breakSeal_kept (s : State) : SessionWork s (breakSeal s) ∧ (breakSeal s).tiles = s.tiles ∧
    (breakSeal s).dev.member = s.dev.member ∧ (breakSeal s).journal.mounted = s.journal.mounted := by
  have hmounted (kind : BitVec 16) (key : Word) (body : List Byte) (s : State) :
      (journalAdd kind key body s).journal.mounted = s.journal.mounted := by
    unfold journalAdd
    dsimp only
    split <;> rfl
  have htiles (e : PlatformEvent) (s : State) : (raiseEvent e s).tiles = s.tiles := by
    unfold raiseEvent
    split <;> rfl
  refine ⟨(SessionWork.updDev _ s).trans ((SessionWork.journalAdd _ _ _ _).trans (SessionWork.raiseEvent _ _)), ?_, ?_, ?_⟩
  · rw [breakSeal, htiles, journalAdd_tiles]
    rfl
  · rw [breakSeal, raiseEvent_dev, journalAdd_dev]
    rfl
  · rw [breakSeal, raiseEvent_journal, hmounted]
    rfl

theorem senseLoop_kept (closed : Bool) (s : State) : SessionWork s (senseLoop closed s) ∧ (senseLoop closed s).tiles = s.tiles ∧
    (senseLoop closed s).dev.member = s.dev.member ∧ (senseLoop closed s).journal.mounted = s.journal.mounted := by
  unfold senseLoop
  split
  · exact ⟨rfl, rfl, rfl, rfl⟩
  · split
    · exact breakSeal_kept s
    · exact ⟨rfl, rfl, rfl, rfl⟩

/-- The device with its keepers up, as step 1 leaves it before the loop is sensed. -/
def poweredOn (straps : BitVec 4) (ka kb : Bool) (s : State) : State :=
  bootKeepers ka kb (({ railsOff s with
    mailboxes := [], mgmt := {}, coolant := {}
    power := { s.power with precharge := true, active := some 0, twinOk := true, watts := 0 }
    journal := { s.journal with mounted := false }
    bring := { step := if ka || kb then 1 else 0, keepersUp := ka || kb } } : State).updDev
      (fun d => { d with member := straps, keeperLagAlarm := false }))

theorem exec_powerOn_off {straps : BitVec 4} {ka kb closed : Bool} {s : State} (h : s.power.otherRailsOn = false) :
    exec (.powerOn straps ka kb closed) s = .next (if ka || kb then senseLoop closed (poweredOn straps ka kb s)
      else statusLights 3 (poweredOn straps ka kb s)) := by
  cases hgood : (ka || kb) <;>
    simp only [exec, execPowerOn, h, hgood, Bool.false_eq_true, if_false, if_true, poweredOn]

theorem poweredOn_keepers (straps : BitVec 4) (ka kb : Bool) (s : State) :
    ((poweredOn straps ka kb s).keeper 0).role = (if ka then 1 else 0) ∧
    ((poweredOn straps ka kb s).keeper 1).role = (if kb then (if ka then 2 else 1) else 0) := by
  rw [poweredOn, bootKeepers]
  dsimp only
  rw [State.keeper_updDev, State.keeper_updDev, keeper_updKeeper0, keeper_updKeeper1]
  exact ⟨rfl, rfl⟩

/-! ### The memory wafer's rails (R471) -/

theorem stk_updStk_other (s : State) {n m : Nat} (f : Stack → Stack) (h : m ≠ n) : (s.updStk n f).stk m = s.stk m :=
  Tbl.get_set_other _ _ _ h

/-- The same change on each stack below `k`. -/
theorem stk_foldl (g : Stack → Stack) (k : Nat) (s : State) (n : Nat) :
    ((List.range k).foldl (fun s n => s.updStk n g) s).stk n = if n < k then g (s.stk n) else s.stk n := by
  induction k with
  | zero => rfl
  | succ k ih =>
    rw [List.range_succ, List.foldl_append, List.foldl_cons, List.foldl_nil]
    by_cases hk : n = k
    · subst hk
      rw [State.stk_updStk, ih, if_neg (Nat.lt_irrefl n), if_pos (Nat.lt_succ_self n)]
    · rw [stk_updStk_other _ _ hk, ih]
      exact if_congr (by omega) rfl rfl

/-! ### Rings and fields (R23, R471, R477, R478) -/

/-- A field runs: rail and generator are on, and its blocks are ACTIVE. -/
def FieldUp (g : Nat) (s : State) : Prop :=
  (s.field g).railOn = true ∧ (s.field g).genRunning = true ∧ ∀ i, i < 16 → (s.block (16 * g + i)).pstate = .active

/-- The blocks of a field that starts. -/
def wakeBlocks (f : Nat) (s : State) : State :=
  (List.range 16).foldl (fun s i => s.updBlock (16 * f + i) (fun b => { b with pstate := .active, activeSince := s.dev.time })) s

theorem wakeBlocks_field (f g : Nat) (s : State) : (wakeBlocks f s).field g = s.field g :=
  foldl_kept (fun s : State => s.field g) (fun _ _ => by rfl) _ s

theorem wakeBlocks_active (f b : Nat) (s : State) (h : (∃ i, i < 16 ∧ b = 16 * f + i) ∨ (s.block b).pstate = .active) :
    ((wakeBlocks f s).block b).pstate = .active := by
  have hfold (l : List Nat) (s : State) (h : (∃ i ∈ l, b = 16 * f + i) ∨ (s.block b).pstate = .active) :
      ((l.foldl (fun s i => s.updBlock (16 * f + i) (fun b => { b with pstate := .active, activeSince := s.dev.time })) s).block
        b).pstate = .active := by
    induction l generalizing s with
    | nil =>
      rcases h with ⟨_, hi, _⟩ | h
      · cases hi
      · exact h
    | cons k l ih =>
      rw [List.foldl_cons]
      apply ih
      by_cases hb : b = 16 * f + k
      · subst hb
        exact .inr (by rw [State.block_updBlock])
      · rw [State.block_updBlock_other _ _ hb]
        rcases h with ⟨i, hi, rfl⟩ | h
        · rcases List.mem_cons.1 hi with rfl | hi
          · exact absurd rfl hb
          · exact .inl ⟨i, hi, rfl⟩
        · exact .inr h
  refine hfold _ s (h.imp_left ?_)
  rintro ⟨i, hi, hb⟩
  exact ⟨i, List.mem_range.2 hi, hb⟩

/-- The rail and the clock of a field that starts (R477). -/
def startClock (x : FieldCtl) : FieldCtl :=
  { x with railOn := true, genRunning := true, mhz := BitVec.ofNat 11 (clockLimit x).1, limit := (clockLimit x).2
           settingMv := BitVec.ofNat 10 (operatingMv (clockLimit x).1) }

theorem startField_eq {f : Nat} {s : State} (h : (s.field f).retired = false) : startField f s =
    updTiles (fieldTiles f) (fun t => { t with lastFirefly := s.dev.time, test := true })
      (wakeBlocks f (s.updField f startClock)) := by
  simp only [startField, h, Bool.false_eq_true, if_false]
  rfl

theorem startField_field {f : Nat} {s : State} (h : (s.field f).retired = false) (g : Nat) :
    (startField f s).field g = if g = f then startClock (s.field g) else s.field g := by
  rw [startField_eq h, updTiles_field, wakeBlocks_field]
  by_cases hg : g = f
  · subst hg
    rw [State.field_updField, if_pos rfl]
  · rw [State.field_updField_other _ _ hg, if_neg hg]

theorem startField_retired (f g : Nat) (s : State) : ((startField f s).field g).retired = (s.field g).retired := by
  cases h : (s.field f).retired with
  | true => simp only [startField, h, if_true]
  | false =>
    rw [startField_field h]
    split <;> rfl

/-- A field that starts runs. -/
theorem startField_up {f : Nat} {s : State} (h : (s.field f).retired = false) : FieldUp f (startField f s) := by
  refine ⟨?_, ?_, fun i hi => ?_⟩
  · rw [startField_field h, if_pos rfl]
    rfl
  · rw [startField_field h, if_pos rfl]
    rfl
  · rw [startField_eq h, updTiles_block]
    exact wakeBlocks_active _ _ _ (.inl ⟨i, hi, rfl⟩)

/-- A field that runs goes on while others start. -/
theorem FieldUp.startField {g : Nat} {s : State} (hup : FieldUp g s) (f : Nat) : FieldUp g (startField f s) := by
  obtain ⟨hrail, hgen, hblocks⟩ := hup
  cases h : (s.field f).retired with
  | true =>
    simp only [Machine.startField, h, if_true]
    exact ⟨hrail, hgen, hblocks⟩
  | false =>
    refine ⟨?_, ?_, fun i hi => ?_⟩
    · rw [startField_field h]
      split
      · rfl
      · exact hrail
    · rw [startField_field h]
      split
      · rfl
      · exact hgen
    · rw [startField_eq h, updTiles_block]
      exact wakeBlocks_active _ _ _ (.inr (hblocks i hi))

theorem startFields_up {l : List Nat} {g : Nat} (hg : g ∈ l) {s : State} (h : (s.field g).retired = false) :
    FieldUp g (l.foldl (fun s f => startField f s) s) := by
  have hstay (l : List Nat) (s : State) (hup : FieldUp g s) : FieldUp g (l.foldl (fun s f => startField f s) s) := by
    induction l generalizing s with
    | nil => exact hup
    | cons f l ih => exact ih _ (hup.startField f)
  induction l generalizing s with
  | nil => cases hg
  | cons f l ih =>
    rw [List.foldl_cons]
    rcases List.mem_cons.1 hg with rfl | hg
    · exact hstay l _ (startField_up h)
    · exact ih hg (by rw [startField_retired, h])

/-- The steps that the rings complete move the step of bring-up alone. -/
theorem advanceRings_eq (s : State) : ∃ n, advanceRings s = { s with bring := { s.bring with step := n } } := by
  unfold advanceRings
  dsimp only
  split
  · exact ⟨_, rfl⟩
  · exact ⟨s.bring.step, rfl⟩

theorem advanceRings_field (s : State) (g : Nat) : (advanceRings s).field g = s.field g := by
  obtain ⟨n, hn⟩ := advanceRings_eq s
  rw [hn]
  rfl

theorem advanceRings_block (s : State) (b : Nat) : (advanceRings s).block b = s.block b := by
  obtain ⟨n, hn⟩ := advanceRings_eq s
  rw [hn]
  rfl

theorem FieldUp.advanceRings {g : Nat} {s : State} (hup : FieldUp g s) : FieldUp g (advanceRings s) := by
  obtain ⟨n, hn⟩ := advanceRings_eq s
  rw [hn]
  exact hup

theorem startFields_bring (l : List Nat) (s : State) : (l.foldl (fun s f => startField f s) s).bring = s.bring := by
  refine foldl_kept State.bring (fun s f => ?_) l s
  cases h : (s.field f).retired with
  | true => simp only [startField, h, if_true]
  | false =>
    rw [startField_eq h]
    exact (foldl_kept State.bring (fun _ _ => by rfl) _ _).trans (foldl_kept State.bring (fun _ _ => by rfl) _ _)

theorem SessionWork.republishServing (s : State) : SessionWork s (republishServing s) := by
  unfold Machine.republishServing
  split <;> rfl

section
variable {f : Fin 64} {found : TestFinds} {bad : Bool} {s : State} (hrail : (s.field f.val).railOn = true)
  (htest : (s.field f.val).selfTested = false) (hlive : (s.field f.val).retired = false)
include hrail htest hlive

/-- The outcome of a field's self-test, by the map that it builds. -/
theorem exec_fieldSelfTest_passes {m : Tbl (BitVec 4)} (hbad : bad = false)
    (hmap : buildMap (s.bring.warm && !mapReserved (s.field f.val).spareMap && !(s.field f.val).lost)
      (s.field f.val).spareMap found.sites = some m) :
    ∃ v, exec (.fieldSelfTest f found bad) s = .next (advanceRings (passField f.val m v)) := by
  have hgoes : (!(s.field f.val).railOn || (s.field f.val).selfTested || (s.field f.val).retired) = false := by
    rw [hrail, htest, hlive]; rfl
  simp only [exec, execFieldSelfTest, hgoes, Bool.false_eq_true, if_false, hmap, hbad]
  exact ⟨_, rfl⟩

theorem exec_fieldSelfTest_fails
    (hmap : buildMap (s.bring.warm && !mapReserved (s.field f.val).spareMap && !(s.field f.val).lost)
      (s.field f.val).spareMap found.sites = none ∨ bad = true) :
    ∃ v, exec (.fieldSelfTest f found bad) s = .next (advanceRings (failField f.val v)) := by
  have hgoes : (!(s.field f.val).railOn || (s.field f.val).selfTested || (s.field f.val).retired) = false := by
    rw [hrail, htest, hlive]; rfl
  simp only [exec, execFieldSelfTest, hgoes, Bool.false_eq_true, if_false]
  rcases hmap with hmap | hbad
  · simp only [hmap]
    exact ⟨_, rfl⟩
  · subst hbad
    split
    · exact ⟨_, rfl⟩
    · exact ⟨_, rfl⟩

end

theorem passField_field (f : Nat) (m : Tbl (BitVec 4)) (s : State) : (passField f m s).field f =
    { s.field f with spareMap := m, selfTested := true, lost := false, lossDone := false } := by
  rw [passField, (SessionWork.republishServing _).field, journalMap, (SessionWork.journalAdd _ _ _ _).field,
    State.field_updField, updTiles_field]

/-- The registers of a field that fails its self-test. -/
def failedField (x : FieldCtl) : FieldCtl :=
  { x with selfTested := true, retired := true, lost := true, lossDone := true, railOn := false, genRunning := false
           settingMv := 0, railRetired := x.railRetired || x.retryUsed }

theorem failField_eq (f : Nat) (s : State) : failField f s = republishServing (journalAdd kindRetirement (retireKey 3 f)
    (fieldBody f) ((darkField16 f s).updField f failedField)) := by
  unfold failField darkField16 failedField
  dsimp only

theorem failField_field (f : Nat) (s : State) : (failField f s).field f = failedField ((darkField16 f s).field f) := by
  rw [failField_eq, (SessionWork.republishServing _).field, (SessionWork.journalAdd _ _ _ _).field, State.field_updField]

theorem failField_dark (f : Nat) {i : Nat} (hi : i < 16) (s : State) :
    ((failField f s).block (16 * f + i)).pstate = .dark := by
  rw [failField_eq, (SessionWork.republishServing _).block, (SessionWork.journalAdd _ _ _ _).block, block_updField,
    darkField16_dark f hi]

/-- The device that serves, before its lights say so. -/
def servingNow (s : State) : State :=
  setDeviceState (if s.coolant.flowStop then 3 else 2)
    ((republish { s with bring := { s.bring with step := 9 } }).updDev (fun d => { d with published := true }))

theorem exec_bringUpComplete_serves {s : State} (h : s.bring.step = 8) :
    exec .bringUpComplete s = .next (statusLights 1 (servingNow s)) := by
  simp only [exec, execBringUpComplete, if_pos h]
  rfl

/-- A new device state leaves the rest of the device manager. -/
theorem setDeviceState_dev (v : Byte) (s : State) : (setDeviceState v s).dev = { s.dev with deviceState := v } := by
  unfold setDeviceState
  split
  · next h => rw [← h]
  · rw [raiseEvent_dev]
    rfl

/-- Settles O56: each step of bring-up. -/
theorem bringUpGoesStepByStep : Obligations.BringUpGoesStepByStep := by
  intro straps ka kb closed ring f blocks failed bad s x warm
  refine ⟨fun hoff => ⟨_, exec_powerOn_off hoff, ?_⟩, fun hon => ?_, fun hstep hflow hinlet => ?_, fun hstep hmain => ?_,
    fun hstep hring hdone => ?_, fun m hrail htest hlive hmap hbad => ?_, fun hrail htest hlive hmap => ?_,
    fun hstep => ⟨_, exec_bringUpComplete_serves hstep, ?_⟩⟩
  · obtain ⟨hrole0, hrole1⟩ := poweredOn_keepers straps ka kb s
    split
    · next hgood =>
      obtain ⟨hwork, htiles, hmember, hmounted⟩ := senseLoop_kept closed (poweredOn straps ka kb s)
      rw [htiles, hwork.bring, hmember, hmounted, hwork.keeper, hwork.keeper]
      refine ⟨rfl, ?_, rfl, rfl, hrole0, hrole1⟩
      exact if_pos hgood
    · next hgood =>
      obtain ⟨hlight0, hlight1⟩ := statusLights_keeper 3 (poweredOn straps ka kb s)
      rw [hlight0, hlight1]
      refine ⟨rfl, ?_, rfl, rfl, hrole0, hrole1⟩
      exact if_neg hgood
  · simp only [exec, execPowerOn, hon, if_true]
  · have hgoes : s.bring.step = 2 ∧ s.coolant.flow ≥ 3200 ∧ s.coolant.inletGood = true := ⟨hstep, hflow, hinlet⟩
    refine ⟨{ s with bring := { s.bring with step := 3 } }, ?_, rfl⟩
    simp only [exec, execCoolantVerified, if_pos hgoes]
  · refine ⟨(List.range 24).foldl (fun s n => s.updStk n (fun x => if x.st = 4 then x else { x with st := 2 }))
      { s with bring := { s.bring with step := 4 }, power := { s.power with otherRailsOn := true } }, ?_, ?_, ?_, fun n hn => ?_⟩
    · simp only [exec, execRimBringUp, if_pos (And.intro hstep hmain)]
    · rw [foldl_kept State.bring (fun _ _ => by rfl)]
    · rw [foldl_kept State.power (fun _ _ => by rfl)]
    · rw [stk_foldl (fun x => if x.st = 4 then x else { x with st := 2 }) 24, if_pos hn]
      have hstk : ({ s with bring := { s.bring with step := 4 }, power := { s.power with otherRailsOn := true } } : State).stk n =
        s.stk n := rfl
      rw [hstk]
      split
      · next h => exact h
      · rfl
  · have hgoes : 4 ≤ s.bring.step ∧ s.bring.ringsStarted = ring.val ∧ (ring.val = 0 ∨ s.ringDone (ring.val - 1) = true) :=
      ⟨hstep, hring, hdone⟩
    refine ⟨advanceRings ((ringFields ring.val).foldl (fun s f => startField f s)
      { s with bring := { s.bring with ringsStarted := ring.val + 1 } }), ?_, ?_, fun g hg hlive => ?_⟩
    · simp only [exec, execRingStart, if_pos hgoes]
    · obtain ⟨n, hn⟩ := advanceRings_eq ((ringFields ring.val).foldl (fun s f => startField f s)
        { s with bring := { s.bring with ringsStarted := ring.val + 1 } })
      rw [hn]
      exact congrArg BringUp.ringsStarted (startFields_bring _ _)
    · have hlive' : (({ s with bring := { s.bring with ringsStarted := ring.val + 1 } } : State).field g).retired = false := hlive
      exact (startFields_up hg hlive').advanceRings
  · obtain ⟨v, hv⟩ := exec_fieldSelfTest_passes (found := ⟨blocks, failed⟩) hrail htest hlive hbad hmap
    refine ⟨_, hv, ?_⟩
    rw [advanceRings_field, passField_field]
    exact ⟨rfl, rfl, rfl⟩
  · obtain ⟨v, hv⟩ := exec_fieldSelfTest_fails (found := ⟨blocks, failed⟩) hrail htest hlive hmap
    refine ⟨_, hv, ?_⟩
    rw [advanceRings_field, failField_field]
    refine ⟨rfl, rfl, rfl, fun i hi => ?_⟩
    rw [advanceRings_block, failField_dark f.val hi]
  · obtain ⟨hlight0, hlight1⟩ := statusLights_keeper 1 (servingNow s)
    have hbring : (servingNow s).bring.step = 9 := congrArg BringUp.step (SessionWork.setDeviceState _ _).bring
    have hdev : (statusLights 1 (servingNow s)).dev = (servingNow s).dev := rfl
    rw [hlight0, hlight1, hdev, servingNow, setDeviceState_dev]
    exact ⟨hbring, rfl, rfl, rfl, rfl, rfl⟩

end Sys2Proof.Machine

/-! SUPPORT. The journal. -/

namespace Sys2Proof.Machine
open Sys2Proof

/-! ### The journal's records (R480 to R486) -/

theorem journalAdd_nextSeq (kind : BitVec 16) (key : Word) (body : List Byte) (s : State) (h : s.journal.throttled = false) :
    (journalAdd kind key body s).journal.nextSeq = s.journal.nextSeq + 1 := by
  simp [journalAdd, h]

theorem journalAdd_throttled (kind : BitVec 16) (key : Word) (body : List Byte) (s : State) :
    (journalAdd kind key body s).journal.throttled = s.journal.throttled := by
  simp only [journalAdd]
  split <;> rfl

/-- History that the throttle withholds is counted and not written. -/
theorem journalAdd_withheld {kind : BitVec 16} (key : Word) (body : List Byte) {s : State} (h : s.journal.throttled = true)
    (hkind : kind = kindDump ∨ kind = kindPower) :
    journalAdd kind key body s = { s with journal := { s.journal with withheld := s.journal.withheld + 1 } } := by
  obtain rfl | rfl := hkind <;> simp [journalAdd, h]

theorem exec_journalAppend_legal {kind : BitVec 16} {key : Word} {body : List Byte} {s : State} (h1 : 1 ≤ kind.toNat)
    (h15 : kind.toNat ≤ 15) (hlen : (paddedBytes body).length ≤ 4064) :
    exec (.journalAppend kind key body) s = .next (journalAdd kind key body s) := by
  simp only [exec, execJournalAppend, if_pos (And.intro h1 (And.intro h15 hlen))]

/-! ### Commits -/

theorem sendHeld_noLetters {s : State} (h : s.dev.letters = []) : sendHeld s = s := by
  simp [sendHeld, h]

theorem endDrain_noDrain {s : State} (h : s.dev.drainLetter = none) : endDrain s = s := by
  simp only [endDrain, h]

/-! ### A mount -/

theorem applyRetirement_journal (s : State) (j : JRecord) : (applyRetirement s j).journal = s.journal := by
  simp only [applyRetirement]
  split
  · exact failSegments_journal _ _ _
  all_goals rfl

theorem updFields_wear_journal (g : Nat → FieldCtl → FieldCtl) (l : List Nat) (w : Wear) (s : State) :
    ({ l.foldl (fun s f => s.updField f (g f)) s with wear := w } : State).journal = s.journal :=
  foldl_kept State.journal (fun _ _ => by rfl) l s

theorem applyWear_journal (b : List Byte) (s : State) : (applyWear b s).journal = s.journal := by
  unfold applyWear
  exact updFields_wear_journal _ _ _ s

theorem applyRetirements_journal (s : State) : (applyRetirements s).journal = s.journal := by
  simp only [applyRetirements]
  rw [foldl_kept State.journal applyRetirement_journal]

theorem applySlots_journal (s : State) : (applySlots s).journal = s.journal := by
  simp only [applySlots]
  rw [foldl_kept State.journal (fun _ _ => by rfl)]

/-- What a mount applies is read from the journal, which it leaves. -/
theorem applyJournal_journal (s : State) : (applyJournal s).journal = s.journal := by
  simp only [applyJournal, State.updDev_journal]
  rw [applySlots_journal, applyRetirements_journal]
  split
  · rw [applyWear_journal, foldl_kept State.journal (fun _ _ => by rfl)]
    split <;> rfl
  · dsimp only
    rw [foldl_kept State.journal (fun _ _ => by rfl)]
    split <;> rfl

/-! ### Compaction (R485) -/

theorem appendCopy_throttled (s : State) (j : JRecord) : (appendCopy s j).journal.throttled = s.journal.throttled := rfl

/-- The records that stay once a compaction that began under number `b` has committed. -/
def sinceBegin (b : BitVec 64) (js : List JRecord) : List JRecord :=
  js.filter (fun j => decide (b.toNat ≤ j.seqNo.toNat) || (!j.committed && !j.obsolete))

theorem mem_sinceBegin {b : BitVec 64} {js : List JRecord} {r : JRecord} (h : r ∈ sinceBegin b js) :
    b.toNat ≤ r.seqNo.toNat ∨ (r.committed = false ∧ r.obsolete = false) := by
  simpa [sinceBegin] using (List.mem_filter.1 h).2

/-- The checkpoint, the copies and the commit of a compaction. -/
def checkpointed (s : State) : State :=
  journalAdd kindCommit 0 (bytesOf 8 s.journal.nextSeq ++ leBytes 8 (copied s.journal.records).length)
    ((copied s.journal.records).foldl appendCopy (journalAdd kindCheckpoint 0 [] s))

theorem checkpointed_throttled (s : State) : (checkpointed s).journal.throttled = s.journal.throttled := by
  rw [checkpointed, journalAdd_throttled, foldl_kept (fun s : State => s.journal.throttled) appendCopy_throttled,
    journalAdd_throttled]

theorem exec_journalCompaction_erases {s : State} (hfull : 1536 ≤ s.journal.segments) (h : s.journal.throttled = false) :
    exec .journalCompaction s = .next { checkpointed s with journal := { (checkpointed s).journal with
      records := sinceBegin s.journal.nextSeq (checkpointed s).journal.records, commitBegin := s.journal.nextSeq } } := by
  have hopen : (checkpointed s).journal.throttled = false := (checkpointed_throttled s).trans h
  simp only [exec, execJournalCompaction, if_neg (Nat.not_lt.2 hfull)]
  exact if_neg (fun hthrottled => Bool.false_ne_true (hopen.symm.trans hthrottled))

/-! ### The loss of the standby keeper -/

/-- The device that runs on its active keeper. -/
def standbyGone (s : State) : State :=
  (({ s with journal := { s.journal with
    records := s.journal.records.map (fun j : JRecord => if j.committed then j else { j with single := true }) } } : State).updDev
      (fun d => { d with standbyLost := true })).updKeeper (1 - s.dev.activeKeeper.val) (fun k => { k with role := 0 })

theorem exec_standbyKeeperLoss_live {s : State} (h : s.dev.standbyLost = false) :
    exec .standbyKeeperLoss s = .next (raiseEvent .standbyLost (standbyGone s)) := by
  simp only [exec, execStandbyKeeperLoss, h]
  rfl

theorem raiseEvent_keeper (e : PlatformEvent) (s : State) (k : Nat) : (raiseEvent e s).keeper k = s.keeper k := by
  simp only [raiseEvent]
  split <;> rfl

theorem val_sub_one (a : Fin 2) : (1 - a).val = 1 - a.val := by
  revert a
  decide

/-- Settles O57: each row of the journal. -/
theorem theJournalKeepsRecords : Obligations.TheJournalKeepsRecords := by
  intro kind key body cut s j a
  refine ⟨fun h1 h15 hlen hthrottled => ⟨_, exec_journalAppend_legal h1 h15 hlen, ?_, ?_⟩,
    fun hthrottled hlen hkind => ?_, fun hquiet hletters hdrain => ?_, fun hrole hstep => ?_, fun hfew => ?_,
    fun hfull hthrottled => ⟨_, exec_journalCompaction_erases hfull hthrottled, rfl, fun r hr => mem_sinceBegin hr⟩,
    fun hfull => ?_, fun hfew => ?_, fun hlive => ⟨_, exec_standbyKeeperLoss_live hlive, ?_, ?_, ?_⟩⟩
  · have hopen : s.journal.throttled = false := hthrottled
    simp [journalAdd, hopen, newRecord, j]
  · exact journalAdd_nextSeq kind key body s hthrottled
  · have hlegal : 1 ≤ kind.toNat ∧ kind.toNat ≤ 15 := by
      obtain rfl | rfl := hkind <;> decide
    obtain ⟨h1, h15⟩ := hlegal
    refine ⟨_, exec_journalAppend_legal h1 h15 hlen, ?_⟩
    rw [journalAdd_withheld key body hthrottled hkind]
    exact ⟨rfl, rfl⟩
  · simp only [exec, execJournalCommit]
    rw [sendHeld_noLetters (by exact hletters), nothingGoesOnInAQuietDevice _ (by exact hquiet), endDrain_noDrain (by exact hdrain)]
  · have hgoes : ¬ (((s.keeper a.val).role = 0 || s.bring.step != 1) = true) := by
      simpa [hstep] using hrole
    simp only [exec, execJournalMount]
    rw [if_neg hgoes, if_pos rfl]
    exact ⟨_, rfl, rfl, rfl, congrArg Journal.records (applyJournal_journal _)⟩
  · simp only [exec, execJournalCompaction, if_pos hfew, j] at *
  · simp only [exec, execHistoryThrottle]
    exact if_pos hfull
  · simp only [exec, execHistoryThrottle]
    exact if_neg (Nat.not_le.2 hfew)
  · rw [raiseEvent_dev]
    rfl
  · rw [raiseEvent_keeper]
    rw [val_sub_one a]
    exact congrArg Keeper.role (State.keeper_updKeeper ..)
  · have hne : a.val ≠ 1 - a.val := by
      omega
    rw [raiseEvent_keeper]
    exact congrArg Keeper.role (keeper_updKeeper_other _ _ hne)

end Sys2Proof.Machine

/-! SUPPORT. The management endpoint. -/

namespace Sys2Proof.Machine
open Sys2Proof

/-! ### The management endpoint (R531 to R533, R560) -/

theorem onMgmt_up {s : State} (h : s.mgmtUp = true) (f : State → State) : onMgmt f s = f s := if_pos h

theorem onMgmt_down {s : State} (h : s.mgmtUp = false) (f : State → State) : onMgmt f s = s := by
  simp [onMgmt, h]

@[simp] theorem answer_mgmt (r : MgmtReply) (s : State) :
    (answer r s).mgmt = { s.mgmt with replies := s.mgmt.replies ++ [r] } := rfl

@[simp] theorem answerBody_mgmt (s : State) : (answerBody s).mgmt = { s.mgmt with
    replies := s.mgmt.replies ++ [.body (Config.mgmtBody s.mgmt.bodies)], bodies := s.mgmt.bodies + 1 } := rfl

@[simp] theorem State.updMgmt_mgmt (s : State) (f : Mgmt → Mgmt) : (s.updMgmt f).mgmt = f s.mgmt := rfl

/-- A message that only reads the endpoint gets its own reply. -/
theorem answers_body {i : Instr} {s : State} (h : s.mgmtUp = true) (hexec : exec i s = .next (onMgmt answerBody s)) :
    ∃ u, exec i s = .next u ∧ u.mgmt.replies = s.mgmt.replies ++ [.body (Config.mgmtBody s.mgmt.bodies)] :=
  ⟨answerBody s, by rw [hexec, onMgmt_up h], rfl⟩

/-- A message that sets a register of the endpoint gets its own reply. -/
theorem answers_set {i : Instr} {s : State} {f : Mgmt → Mgmt} (h : s.mgmtUp = true)
    (hexec : exec i s = .next (onMgmt (fun s => answerBody (s.updMgmt f)) s)) :
    exec i s = .next (answerBody (s.updMgmt f)) := by
  rw [hexec, onMgmt_up h]

/-- A reading that exists is the reply. -/
theorem answers_reading {i : Instr} {s : State} {v : State → Option Word} {w : Word} (h : s.mgmtUp = true)
    (hexec : exec i s = .next (onMgmt (fun s => answerReading (v s) s) s)) (hv : v s = some w) :
    ∃ u, exec i s = .next u ∧ u.mgmt.replies = s.mgmt.replies ++ [.value w] :=
  ⟨answer (.value w) s, by rw [hexec, onMgmt_up h, hv]; rfl, rfl⟩

/-- Settles O59: each message while the endpoint answers, and three of them before. -/
theorem theEndpointAnswers : Obligations.TheEndpointAnswers := by
  intro b sensor w r e es t s
  refine ⟨fun hup => ?_, fun hdown => ?_⟩
  · have hvalue (f : State → MgmtReply) (i : Instr) (hexec : exec i s = .next (onMgmt (fun s => answer (f s) s) s)) :
        ∃ u, exec i s = .next u ∧ u.mgmt.replies = s.mgmt.replies ++ [f s] :=
      ⟨answer (f s) s, by rw [hexec, onMgmt_up hup], rfl⟩
    refine ⟨⟨_, answers_set hup rfl, rfl, rfl⟩, ⟨_, answers_set hup rfl, rfl, rfl⟩, ⟨_, answers_set hup rfl, rfl, rfl⟩,
      hvalue (fun s => .value (s.mgmt.eid.setWidth 32)) _ rfl, hvalue (fun s => .value (s.mgmt.tid.setWidth 32)) _ rfl,
      hvalue (fun _ => .unsupported) _ rfl, answers_body hup rfl, answers_body hup rfl, answers_body hup rfl,
      answers_body hup rfl, answers_body hup rfl, answers_body hup rfl, answers_body hup rfl, answers_body hup rfl,
      answers_body hup rfl, answers_body hup rfl, fun hreading => answers_reading hup rfl hreading,
      fun hreading => answers_reading hup rfl hreading, fun hevents hreceiver => ?_⟩
    refine ⟨s.updMgmt (fun m => { m with events := es, sentEvents := m.sentEvents ++ [(r, e)], alert := es != [] }), ?_,
      rfl, rfl, rfl⟩
    simp only [exec, execPlatformEventMessage, onMgmt_up hup, State.updMgmt, hevents, hreceiver]
  · exact ⟨congrArg _ (onMgmt_down hdown _), congrArg _ (onMgmt_down hdown _), congrArg _ (onMgmt_down hdown _)⟩

/-! ### The update's states (R487, R533) -/

/-- A message of the update that changes the endpoint alone. -/
theorem updates {i : Instr} {s t : State} {f : State → State} (h : s.mgmtUp = true) (hexec : exec i s = .next (onMgmt f s))
    (hf : f s = t) : exec i s = .next t := by
  rw [hexec, onMgmt_up h, hf]

@[simp] theorem State.agent_updMgmt (s : State) (f : Mgmt → Mgmt) (a : Nat) : (s.updMgmt f).agent a = s.agent a := rfl

@[simp] theorem answerBody_agent (s : State) (a : Nat) : (answerBody s).agent a = s.agent a := rfl

@[simp] theorem State.agent_updAgent (s : State) (a : Nat) (f : FwAgent → FwAgent) : (s.updAgent a f).agent a = f (s.agent a) :=
  Tbl.get_set_same ..

@[simp] theorem State.updAgent_mgmt (s : State) (a : Nat) (f : FwAgent → FwAgent) : (s.updAgent a f).mgmt = s.mgmt := rfl

@[simp] theorem fillSlot_valid (a : Nat) (ls : List Line) (x : FwAgent) : (fillSlot a ls x).valid = true := by
  simp only [fillSlot]
  split <;> rfl

theorem endComponent_agent (into : UpdState) (s : State) :
    ((endComponent into s).agent s.mgmt.agentNo).onMgmt = false := by
  simp [endComponent]

theorem endComponent_mgmt (into : UpdState) (s : State) :
    (endComponent into s).mgmt = { s.mgmt with upd := into, component := none, updLines := [] } := rfl

/-- Settles O60: each message of the update in its state. -/
theorem updatesGoThroughTheirStates : Obligations.UpdatesGoThroughTheirStates := by
  intro component lines s m a g good goes hup
  refine ⟨fun hidle hfree => ⟨_, updates hup rfl (if_neg ?_), rfl⟩, fun hbusy => ⟨_, updates hup rfl (if_pos (.inl hbusy)), rfl, rfl⟩,
    fun hlearn => ⟨_, updates hup rfl (congrArg answerBody (if_pos hlearn)), rfl⟩,
    fun hready h1 h5 hhost hrun => ⟨_, updates hup rfl ((if_neg ?_).trans (if_neg ?_)), rfl, rfl, rfl, ?_, ?_⟩,
    fun hload => ⟨_, updates hup rfl (if_pos hload), rfl, hload⟩,
    fun hload => ⟨_, updates hup rfl (if_pos hload), rfl⟩,
    fun hverify => ?_,
    fun happly => ⟨_, updates hup rfl (if_pos happly), rfl, rfl, endComponent_agent .ready s⟩,
    fun hin => ⟨_, updates hup rfl (congrArg answerBody (if_pos hin)), rfl, endComponent_agent .ready s⟩,
    ?_⟩
  · rintro (hbusy | hstaged)
    · exact hbusy hidle
    · simp [hfree] at hstaged
  · rintro (hother | hzero | hmany)
    · exact hother hready
    · omega
    · omega
  · have hfree : s.hostStages component.toNat = false := hhost
    have hidle : (s.agent component.toNat).activating = false := hrun
    simp [hfree, hidle]
  · simp [a]
  · simp [a]
  · cases hgood : good with
    | true =>
      refine ⟨_, updates hup rfl ((if_pos hverify).trans (if_pos hgood)), fun _ => ⟨rfl, ?_⟩, nofun⟩
      simp [m]
    | false =>
      refine ⟨_, updates hup rfl ((if_pos hverify).trans (if_neg (fun hpass => Bool.false_ne_true (hgood.symm.trans hpass)))), nofun, fun _ => ⟨hverify, rfl⟩⟩
  · by_cases hin : s.mgmt.inComponent = true
    · exact ⟨_, updates hup rfl (congrArg answerBody (if_pos hin)), rfl⟩
    · exact ⟨_, updates hup rfl (congrArg answerBody (if_neg hin)), rfl⟩

end Sys2Proof.Machine

/-! SUPPORT. Register writes. -/

namespace Sys2Proof.Machine
open Sys2Proof

/-! ### Register writes and their errors (R534 to R543) -/

/-- The first failed access is logged and changes nothing else. -/
theorem csrError_first {s : State} (h : bitAt s.dev.csrErr 31 = false) (g : Agent) (a : Word) (kind : Nat) :
    csrError g a kind s = s.updDev (fun d => { d with
      csrErr := BitVec.ofNat 32 (2 ^ 31 + agentCode g * 2 ^ 28 + kind * 2 ^ 25), csrAddr := a }) :=
  if_neg (by rw [h]; exact Bool.false_ne_true)

/-- A word and an address logged as a failed access leave every unit as it is. -/
theorem logged_kept (w a : Word) (s : State) :
    let u := s.updDev (fun d => { d with csrErr := w, csrAddr := a })
    u.dev.csrErr = w ∧ u.dev.csrAddr = a ∧ u.tiles = s.tiles ∧ u.blocks = s.blocks ∧ u.fieldCtls = s.fieldCtls ∧
      u.mailboxes = s.mailboxes := ⟨rfl, rfl, rfl, rfl, rfl, rfl⟩

theorem logged_keepers (w a : Word) (s : State) :
    (s.updDev (fun d => { d with csrErr := w, csrAddr := a })).keepers = s.keepers := rfl

/-- While VALID is set no further failed access is logged. -/
theorem csrError_held {s : State} (h : bitAt s.dev.csrErr 31 = true) (g : Agent) (a : Word) (kind : Nat) :
    csrError g a kind s = s := if_pos h

section
variable {g : Agent} {a v : Word} {r : Csr} {s : State}

theorem exec_csrWrite_reserved (h : csrAt a = none) : exec (.csrWrite g a v) s = .next (csrError g a 0 s) := by
  simp only [exec, execCsrWrite, h]

theorem exec_csrWrite_foreign (h : csrAt a = some r) (hmay : mayWrite g r = false) :
    exec (.csrWrite g a v) s = .next (csrError g a 2 s) := by
  simp [exec, execCsrWrite, h, hmay]

theorem exec_csrWrite_unpowered (h : csrAt a = some r) (hmay : mayWrite g r = true) (hpower : s.csrPowered r = false) :
    exec (.csrWrite g a v) s = .next (csrError g a 4 s) := by
  simp [exec, execCsrWrite, h, hmay, hpower]

theorem exec_csrWrite_readOnly (h : csrAt a = some r) (hmay : mayWrite g r = true) (hpower : s.csrPowered r = true)
    (hfield : csrWritable r = false) : exec (.csrWrite g a v) s = .next (csrError g a 1 s) := by
  simp [exec, execCsrWrite, h, hmay, hpower, hfield]

theorem exec_csrWrite_passes (h : csrAt a = some r) (hmay : mayWrite g r = true) (hpower : s.csrPowered r = true)
    (hfield : csrWritable r = true) : exec (.csrWrite g a v) s = .next (csrApply g a r v s) := by
  simp [exec, execCsrWrite, h, hmay, hpower, hfield]

end

/-- A write of a tile's register reaches the tile, and asks its block to wake where that sleeps. -/
theorem tile_csrApply_ts (g : Agent) (a v : Word) (t : TileId) (o : Nat) (s : State) :
    (csrApply g a (.ts t o) v s).tile t = tsWrite o v (s.tile t) := by
  have hasked (b : Nat) (s : State) : (askWake b s).tile t = s.tile t := by
    unfold askWake
    split <;> rfl
  simp only [csrApply]
  split
  · exact State.tile_updTile ..
  · rw [hasked]
    exact State.tile_updTile ..

theorem execKpTimeLoRead_postmaster (k : Fin 2) (s : State) : exec (.kpTimeLoRead k .postmaster) s =
    .next (s.updKeeper k.val (fun x => { x with
      timeHigh := Tbl.set none x.timeHigh (agentKey .postmaster) (some (fieldAt s.dev.time 32 32)) })) := by
  simp only [exec, execKpTimeLoRead, if_true]

/-- Settles O48: each check of a write, the write itself, and the latch of the time. -/
theorem registersAreWritten : Obligations.RegistersAreWritten := by
  intro g a v r k b f e t s fails passes
  have hfails {n : Nat} (hexec : exec (.csrWrite g a v) s = .next (csrError g a n s)) : fails n := by
    intro hfirst
    refine ⟨_, hexec, ?_⟩
    rw [csrError_first hfirst]
    exact logged_kept _ _ _
  have hpasses (h : passes) : exec (.csrWrite g a v) s = .next (csrApply g a r v s) := by
    obtain ⟨hreg, hmay, hpower, hfield⟩ := h
    exact exec_csrWrite_passes hreg hmay hpower hfield
  refine ⟨fun hreg => hfails (exec_csrWrite_reserved hreg), fun hreg hmay => hfails (exec_csrWrite_foreign hreg hmay),
    fun hreg hmay hpower => hfails (exec_csrWrite_unpowered hreg hmay hpower),
    fun hreg hmay hpower hfield => hfails (exec_csrWrite_readOnly hreg hmay hpower hfield), fun hfailed hheld => ?_, hpasses,
    fun h hr => ⟨_, hpasses h, ?_⟩, fun h hr => ⟨_, hpasses h, ?_⟩, fun h hr => ⟨_, hpasses h, ?_⟩,
    fun h hr => ⟨_, hpasses h, ?_⟩, fun h hr => ⟨_, hpasses h, ?_⟩, fun h hr => ⟨_, hpasses h, ?_⟩,
    ⟨_, execKpTimeLoRead_postmaster k s, ?_, rfl, rfl⟩, fun hagent hfirst => ⟨_, if_neg hagent, ?_, ?_⟩⟩
  · obtain hreg | ⟨hreg, hmay⟩ := hfailed
    · rw [exec_csrWrite_reserved hreg, csrError_held hheld]
    · rw [exec_csrWrite_foreign hreg hmay, csrError_held hheld]
  · subst hr
    rfl
  · subst hr
    have hwrite : (csrApply g a (.bs b 0x12) v s).block b =
        { s.block b with delay := fieldAt v 16 16, gateCycles := fieldAt v 0 16 } := by
      simp [csrApply, bsWrite, State.block_updBlock]
    rw [hwrite]
    exact ⟨rfl, rfl, rfl⟩
  · subst hr
    rw [tile_csrApply_ts]
    exact ⟨rfl, SameMemories.refl _⟩
  · subst hr
    rw [tile_csrApply_ts]
    rfl
  · subst hr
    refine ⟨?_, rfl, rfl⟩
    change ((writeClkTarget f v s).field f).clkTarget = _
    rw [writeClkTarget, State.field_updField]
    exact (setClock_clkTarget _).1
  · subst hr
    have hmbx : (csrApply g a (.mbx e 0xE4) v s).mbx e = { s.mbx e with ctrl := fieldAt v 0 3 } := Tbl.get_set_same ..
    rw [hmbx]
    exact ⟨rfl, rfl⟩
  · rw [State.keeper_updKeeper]
    simp only [Tbl.get_set_same]
  · rw [csrError_first hfirst]
    exact (logged_kept _ _ _).1
  · rw [csrError_first hfirst]
    exact logged_keepers _ _ _

end Sys2Proof.Machine

/-! SUPPORT. Key letters. -/

namespace Sys2Proof.Machine
open Sys2Proof

/-! ### A letter whose action has begun (R335, R350) -/

/-- `s` but for its open roles, the letters sent to members and the letters in flight. -/
def begun (roles : Tbl (List OpenRole)) (own : List (BitVec 4 × BitVec 16 × BitVec 16)) (letters : List LetterRec) (s : State) : State :=
  s.updDev (fun d => { d with roles := roles, ownLetters := own, letters := letters })

section
variable (roles : Tbl (List OpenRole)) (own : List (BitVec 4 × BitVec 16 × BitVec 16)) (letters : List LetterRec) (s : State)

theorem begun_self : begun s.dev.roles s.dev.ownLetters s.dev.letters s = s := rfl

theorem begun_enters (x : LetterRec) : (begun roles own letters s).updDev (fun d => { d with letters := d.letters ++ [x] }) =
    begun roles own (letters ++ [x]) s := rfl

theorem begun_leads (ms : List (BitVec 4 × BitVec 16 × BitVec 16)) :
    (begun roles own letters s).updDev (fun d => { d with ownLetters := d.ownLetters ++ ms }) = begun roles (own ++ ms) letters s := rfl

theorem updRoles_begun (f : Dev → Tbl (List OpenRole)) : s.updDev (fun d => { d with roles := f d }) =
    begun (f s.dev) s.dev.ownLetters s.dev.letters s := rfl

end

theorem touchRole_begun (op : BitVec 16) (l : Letter) (s : State) :
    ∃ roles, touchRole op l s = begun roles s.dev.ownLetters s.dev.letters s := by
  unfold touchRole
  split
  · exact ⟨_, (begun_self s).symm⟩
  · exact ⟨_, updRoles_begun s _⟩

/-- Entering flight touches roles and letters alone. -/
theorem entered_begun (op : BitVec 16) (l : Letter) (r : LetterRule) (s : State) :
    ∃ roles own letters, entered op l r s = begun roles own letters s := by
  obtain ⟨roles, hroles⟩ := touchRole_begun op l s
  rw [entered, enterLetter, hroles, begun_enters]
  unfold leadLetter
  split
  · exact ⟨_, _, _, begun_leads ..⟩
  · exact ⟨_, _, _, rfl⟩

/-- An accepted letter's action begins on the state with the letter under way. -/
theorem Accepted.entered {op : BitVec 16} {l : Letter} {r : LetterRule} {s : State} (h : Accepted op l r s) :
    ∃ roles own letters, Machine.entered op l r s = begun roles own letters s ∧ UnderWay l s (begun roles own letters s) := by
  obtain ⟨roles, own, letters, heq⟩ := entered_begun op l r s
  exact ⟨roles, own, letters, heq, heq ▸ h.underWay⟩

/-- So it does with the letter's first step taken. -/
theorem Accepted.progressed {op : BitVec 16} {l : Letter} {r : LetterRule} {s : State} (h : Accepted op l r s) :
    ∃ roles own letters, progress (letterKey l) (Machine.entered op l r s) = begun roles own letters s ∧
      UnderWay l s (begun roles own letters s) := by
  obtain ⟨roles, own, letters, heq, hway⟩ := h.entered
  rw [heq]
  exact ⟨roles, own, _, rfl, hway.progress⟩

/-- An accepted letter's row runs its action. -/
theorem Accepted.runs {i : Instr} {op : BitVec 16} {l : Letter} {r : LetterRule} {s u : State} {act : LetterKey → State → State}
    (h : Accepted op l r s) (hexec : exec i s = .next (receive op l r act s))
    (hact : act (letterKey l) (Machine.entered op l r s) = u) : exec i s = .next u := by
  rw [hexec, receive_accepted _ _ _ _ _ h, hact]

/-- A letter under way is over with the status, results and train it ends with. -/
theorem UnderWay.answered {l : Letter} {s t : State} (h : UnderWay l s t) (st : BitVec 16) (rs : List Byte) (ls : List Line) :
    Answered l st rs ls s (Machine.finishLetter (letterKey l) st rs ls t) := by
  obtain ⟨r, hletter, hlive, _⟩ := h.2
  have haudited := h.auditLetter (letter_key hletter) (finalStatus r st)
  simp only [Machine.finishLetter, hletter, hlive, Option.isSome_none, Bool.false_eq_true, if_false]
  split
  · obtain ⟨r', hletter', _⟩ := haudited.2
    refine .inr ⟨{ r' with finalStatus := some (st, rs, ls) }, ?_, rfl⟩
    rw [letter_updLetter _ _ _ (by intro; rfl), hletter']
    rfl
  · exact haudited.sendFinal st rs ls

/-- What a letter journals moves only letters and the journal. -/
theorem journalFor_dev (k : LetterKey) (kind : BitVec 16) (key : Word) (body : List Byte) (s : State) :
    (journalFor k kind key body s).dev = { s.dev with letters := (journalFor k kind key body s).dev.letters } := by
  rw [journalFor, journalAdd_dev]
  rfl

section
variable (k : LetterKey) (st : BitVec 16) (rs : List Byte) (ls : List Line) (s : State)

theorem finishLetter_authImages : (finishLetter k st rs ls s).dev.authImages = s.dev.authImages := by rw [finishLetter_dev]
theorem finishLetter_wrapKeys : (finishLetter k st rs ls s).dev.wrapKeys = s.dev.wrapKeys := by rw [finishLetter_dev]
theorem finishLetter_tenantKeys : (finishLetter k st rs ls s).dev.tenantKeys = s.dev.tenantKeys := by rw [finishLetter_dev]

end

/-! ### Key letters (R508, R511, R512) -/

theorem unwrapDer_begun (roles : Tbl (List OpenRole)) (own : List (BitVec 4 × BitVec 16 × BitVec 16)) (letters : List LetterRec)
    (l : Letter) (s : State) : unwrapDer l (begun roles own letters s) = unwrapDer l s := rfl

theorem unwrapTenant_begun (roles : Tbl (List OpenRole)) (own : List (BitVec 4 × BitVec 16 × BitVec 16))
    (letters : List LetterRec) (l : Letter) (s : State) : unwrapTenant l (begun roles own letters s) = unwrapTenant l s := rfl

/-- A changed tenant key is stored, journalled, and its generation is the letter's result. -/
theorem UnderWay.putTenantKey {l : Letter} {s t : State} (h : UnderWay l s t) (x : TenantKey) :
    Answered l stDone (leBytes 1 x.gen) [] s (Machine.putTenantKey l (letterKey l) x t) ∧
      (Machine.putTenantKey l (letterKey l) x t).tenantKey (keysTenant l) = x := by
  have hstored : UnderWay l s (t.updDev (fun d => { d with tenantKeys := Tbl.set {} d.tenantKeys (keysTenant l) x })) :=
    h.of_eq rfl rfl
  refine ⟨(hstored.journalFor _ _ _).answered _ _ _, ?_⟩
  rw [State.tenantKey, Machine.putTenantKey, finishLetter_tenantKeys, journalFor_dev]
  exact Tbl.get_set_same ..

theorem UnderWay.drawSalt {l : Letter} {s t : State} (h : UnderWay l s t) : UnderWay l s (Machine.drawSalt t).2 := h.of_eq rfl rfl

/-- Settles O46: each key letter, with its block opened or not. -/
theorem keysAreEnrolled : Obligations.KeysAreEnrolled := by
  intro l s n x wrap
  refine ⟨fun h => ?image, fun h => ?wrapping, fun h => ?enrol, fun h => ?rotate, fun h => ?revoke⟩
  case image =>
    obtain ⟨roles, own, letters, heq, hway⟩ := h.progressed
    have hlist : UnderWay l s ((begun roles own letters s).updDev (fun d => { d with authImages := newAuthList l s.dev.authImages })) :=
      hway.of_eq rfl rfl
    refine ⟨_, ?_, (hlist.journalFor kindKeys 0xFFFFFFFE ((newAuthList l s.dev.authImages).flatMap (bytesOf 8))).finishLetter
      stDone [] [], ?_⟩
    · refine h.runs rfl ?_
      obtain ⟨roles', own', letters', hentered⟩ := entered_begun opKeyEnrol l (enrolRule l 2 2 (keySlot l == 1 || keySlot l == 2)
        [(decide (256 < (newAuthList l s.dev.authImages).length), 0x0301)] s) s
      have hsame : (entered opKeyEnrol l (enrolRule l 2 2 (keySlot l == 1 || keySlot l == 2)
          [(decide (256 < (newAuthList l s.dev.authImages).length), 0x0301)] s) s).dev.authImages = s.dev.authImages := by
        rw [hentered]
        rfl
      simp only [heq, hsame]
    · rw [finishLetter_authImages, journalFor_dev]
      rfl
  case wrapping =>
    obtain ⟨roles, own, letters, heq, hway⟩ := h.progressed
    cases hder : unwrapDer l s with
    | none =>
      refine ⟨finishLetter (letterKey l) 0x0205 [] [] (begun roles own letters s), ?_, fun _ =>
        ⟨hway.finishLetter _ _ _, finishLetter_wrapKeys ..⟩, nofun⟩
      refine h.runs rfl ?_
      simp only [heq, unwrapDer_begun, hder]
    | some der =>
      have hstored : UnderWay l s ((begun roles own letters s).updDev (fun d =>
          { d with wrapKeys := Tbl.set none d.wrapKeys (keySlot l) (some (Config.keyIdOf der)) })) := hway.of_eq rfl rfl
      refine ⟨_, ?_, nofun, fun der' hder' => ⟨(hstored.journalFor kindKeys (BitVec.ofNat 32 (65536 + keySlot l))
        (bytesOf 32 (Config.keyIdOf der))).finishLetter stDone [] [], ?_⟩⟩
      · refine h.runs rfl ?_
        simp only [heq, unwrapDer_begun, hder]
      · obtain rfl := Option.some.inj hder'
        rw [finishLetter_wrapKeys, journalFor_dev]
        simp only [State.updDev_dev, Tbl.get_set_same]
  case enrol =>
    obtain ⟨roles, own, letters, heq, hway⟩ := h.progressed
    cases hkey : unwrapTenant l s with
    | none =>
      refine ⟨finishLetter (letterKey l) 0x0205 [] [] (begun roles own letters s), ?_, fun _ =>
        ⟨hway.finishLetter _ _ _, finishLetter_tenantKeys ..⟩, nofun⟩
      refine h.runs rfl ?_
      simp only [heq, unwrapTenant_begun, hkey]
    | some key =>
      obtain ⟨hanswered, hput⟩ := hway.drawSalt.putTenantKey
        { gen := 1, key := key, salt := (drawSalt (begun roles own letters s)).1 }
      refine ⟨_, ?_, nofun, fun key' hkey' => ⟨hanswered, ?_⟩⟩
      · refine h.runs rfl ?_
        simp only [heq, unwrapTenant_begun, hkey]
      · obtain rfl := Option.some.inj hkey'
        rw [hput]
        exact ⟨rfl, rfl, rfl⟩
  case rotate =>
    obtain ⟨roles, own, letters, heq, hway⟩ := h.progressed
    cases hkey : unwrapTenant l s with
    | none =>
      refine ⟨finishLetter (letterKey l) 0x0205 [] [] (begun roles own letters s), ?_, fun _ =>
        ⟨hway.finishLetter _ _ _, finishLetter_tenantKeys ..⟩, nofun⟩
      refine h.runs rfl ?_
      simp only [heq, unwrapTenant_begun, hkey]
    | some key =>
      obtain ⟨hanswered, hput⟩ := hway.drawSalt.putTenantKey
        { gen := nextGen x.gen, key := key, salt := (drawSalt (begun roles own letters s)).1, older := some (x.gen, x.key, x.salt) }
      refine ⟨_, ?_, nofun, fun key' hkey' => ⟨⟨_, _, hanswered⟩, ?_⟩⟩
      · refine h.runs rfl ?_
        simp only [heq, unwrapTenant_begun, hkey]
        rfl
      · obtain rfl := Option.some.inj hkey'
        rw [hput]
        exact ⟨rfl, rfl, rfl⟩
  case revoke =>
    obtain ⟨hanswered, hput⟩ := h.underWay.progress.putTenantKey {}
    exact ⟨_, h.runs rfl rfl, ⟨_, _, hanswered⟩, hput⟩

end Sys2Proof.Machine

/-! SUPPORT. Letters that read the device. -/

namespace Sys2Proof.Machine
open Sys2Proof

/-! ### Letters that read the device (R344, R345, R348, R486, R510) -/

/-- A letter that is answered in its first step is over with that answer. -/
theorem Accepted.answers {i : Instr} {op : BitVec 16} {l : Letter} {r : LetterRule} {s : State} {rs : State → List Byte}
    {ls : State → List Line} (h : Accepted op l r s)
    (hexec : exec i s = .next (receive op l r (fun k t => finishLetter k stDone (rs t) (ls t) (progress k t)) s))
    {results : List Byte} {train : List Line} (hrs : rs (Machine.entered op l r s) = results)
    (hls : ls (Machine.entered op l r s) = train) :
    ∃ u, exec i s = .next u ∧ Answered l stDone results train s u :=
  ⟨_, h.runs hexec rfl, hrs ▸ hls ▸ h.underWay.progress.answered _ _ _⟩

/-- What the reading letters read is neither roles nor letters. -/
theorem begun_reads (roles : Tbl (List OpenRole)) (own : List (BitVec 4 × BitVec 16 × BitVec 16)) (letters : List LetterRec)
    (s : State) : (∀ n, statusBytes n (begun roles own letters s) = statusBytes n s) ∧
      (∀ a n, expertRange (begun roles own letters s) a n = expertRange s a n) ∧
      (∀ a n, tenantRange (begun roles own letters s) a n = tenantRange s a n) ∧
      (∀ a n b, readRecords a n b (begun roles own letters s) = readRecords a n b s) ∧
      (∀ t, (begun roles own letters s).distance t = s.distance t) ∧ (begun roles own letters s).power = s.power ∧
      (begun roles own letters s).dev.distGen = s.dev.distGen ∧
      (begun roles own letters s).dev.activeKeeper = s.dev.activeKeeper :=
  ⟨fun _ => by rfl, fun _ _ => by rfl, fun _ _ => by rfl, fun _ _ _ => by rfl, fun _ => by rfl, by rfl, by rfl, by rfl⟩

/-- Settles O38: each reading letter answers in its first step with what it reads. -/
theorem readingLettersAnswer : Obligations.ReadingLettersAnswer := by
  intro l s a n answers
  refine ⟨fun h => ?_, fun h => ?_, fun h => ?_, fun h => ?_, fun h => ?_, fun h => ?_, fun h => ?_,
    fun h => h.answers (ls := fun s => bytesLines (Config.certificate s.dev.activeKeeper.val)) rfl rfl ?_, fun h => ?_⟩
  rotate_right
  · have hmeasured : UnderWay l s (measure (progress (letterKey l) (entered opDiag l (diagRule l 1 2 true true) s))).2 :=
      h.underWay.progress.of_eq rfl rfl
    obtain ⟨roles, own, letters, heq, _⟩ := h.progressed
    refine ⟨_, h.runs rfl rfl, ?_⟩
    have hvalue : (measure (progress (letterKey l) (entered opDiag l (diagRule l 1 2 true true) s))).1 =
        Config.measured s.dev.measures := by
      rw [heq]
      rfl
    rw [← hvalue]
    exact hmeasured.answered _ _ _
  all_goals
    obtain ⟨roles, own, letters, heq, _⟩ := h.entered
    obtain ⟨hstatus, hexperts, htenants, hrecords, hdistance, hpower, hgen, hkeeper⟩ := begun_reads roles own letters s
  · exact h.answers (rs := statusBytes l.session) (ls := fun _ => []) rfl (heq ▸ hstatus _) rfl
  · exact h.answers (rs := fun _ => []) (ls := fun s => ringLines s.power.currentRing a n) rfl rfl (by rw [heq, hpower])
  · exact h.answers (rs := fun _ => []) (ls := fun s => bytesLines (expertRange s a n)) rfl rfl (by rw [heq, hexperts])
  · exact h.answers (rs := fun _ => []) (ls := fun s => bytesLines (tenantRange s a n)) rfl rfl (by rw [heq, htenants])
  · exact h.answers (rs := fun _ => []) (ls := fun s => ringLines s.power.thermalRing a n) rfl rfl (by rw [heq, hpower])
  · exact h.answers (rs := fun s => bytesOf 2 s.dev.distGen) (ls := fun s => bytesLines
      ((List.range (letterNum l 2 2 + 1)).flatMap (fun i => s.distance (letterNum l 0 2 + i)))) rfl (by rw [heq, hgen])
      (by simp only [heq, hdistance])
  · exact h.answers (rs := fun _ => []) (ls := fun s => bytesLines
      (readRecords (letterNum l 0 8) (letterNum l 8 4) (letterNum l 12 1 == 1) s)) rfl rfl (by rw [heq, hrecords])
  · rw [heq, hkeeper]

end Sys2Proof.Machine

/-! SUPPORT. Letters that set the device. -/

namespace Sys2Proof.Machine
open Sys2Proof

/-! ### What the checks of an accepted letter say (R350) -/

theorem firstBad_none {cs : List (Bool × BitVec 16)} (h : firstBad cs = none) : ∀ c ∈ cs, c.1 = false := by
  induction cs with
  | nil => nofun
  | cons c cs ih =>
    obtain ⟨bad, st⟩ := c
    cases bad with
    | true => exact nomatch h
    | false => exact List.forall_mem_cons.2 ⟨rfl, ih h⟩

/-- The parameters of an accepted letter pass its rule. -/
theorem Accepted.params {op : BitVec 16} {l : Letter} {r : LetterRule} {s : State} (h : Accepted op l r s) : r.params = true := by
  obtain ⟨_, _, _, _, _, hchecks⟩ := h
  have hparams := firstBad_none hchecks (l.paramLen.toNat != r.len || l.params.length != r.len || !r.params, 0x0104)
    (by simp [commonChecks])
  simpa using (Bool.or_eq_false_iff.1 hparams).2

/-- A change of the device manager that keeps the letters leaves a letter under way. -/
theorem UnderWay.updDev {l : Letter} {s t : State} (h : UnderWay l s t) (f : Dev → Dev) (hf : (f t.dev).letters = t.dev.letters) :
    UnderWay l s (t.updDev f) := h.of_eq rfl hf

theorem UnderWay.takeExclusive {l : Letter} {s t : State} (h : UnderWay l s t) (k : LetterKey) :
    UnderWay l s (Machine.takeExclusive k t) := h.updDev _ rfl

/-! ### POWER_CAP (R345, R423) -/

theorem UnderWay.setCap {l : Letter} {s t : State} (h : UnderWay l s t) (w : BitVec 16) : UnderWay l s (Machine.setCap w t) :=
  h.of_eq rfl rfl

theorem setCap_capW (w : BitVec 16) (s : State) : (setCap w s).power.capW = w := rfl

theorem bytesOf_ofNat16 {n : Nat} (h : n < 2 ^ 16) : bytesOf 4 ((BitVec.ofNat 16 n).setWidth 32) = leBytes 4 n := by
  have hn : ((BitVec.ofNat 16 n).setWidth 32).toNat = n := by
    rw [BitVec.toNat_setWidth, BitVec.toNat_ofNat]
    omega
  rw [bytesOf, hn]

theorem SessionWork.power {s u : State} (h : SessionWork s u) : u.power = s.power := by rw [h]

theorem SessionWork.journalFor (k : LetterKey) (kind : BitVec 16) (key : Word) (body : List Byte) (s : State) :
    SessionWork s (Machine.journalFor k kind key body s) :=
  (SessionWork.updDev _ s).trans (.journalAdd kind key body _)

/-! ### SET_PROFILE (R347) -/

theorem setProfile_dev (l : Letter) (t : State) : (setProfile l t).dev = { t.dev with
    nextProfile := BitVec.ofNat 2 (letterNum l 0 1), nextTenant := BitVec.ofNat 12 (letterNum l 2 2)
    keeperTo := BitVec.ofNat 8 (letterNum l 1 1), favoured := BitVec.ofNat 16 (letterNum l 4 2)
    slotUs := BitVec.ofNat 16 (letterNum l 8 4), quotas := newQuotas l t } := rfl

theorem toNat_ofNat_small {w n : Nat} (h : n < 2 ^ w) : (BitVec.ofNat w n).toNat = n :=
  (BitVec.toNat_ofNat ..).trans (Nat.mod_eq_of_lt h)

/-- A keeper newly named, and the letter exclusive: the device before a SET_PROFILE's own settings. -/
def profileReady (l : Letter) (t : State) : State :=
  progress (letterKey l) (takeExclusive (letterKey l)
    (if t.dev.keeperTo = BitVec.ofNat 8 (letterNum l 1 1) then t else forgetKeeper t))

theorem UnderWay.profileReady {l : Letter} {s t : State} (h : UnderWay l s t) : UnderWay l s (Machine.profileReady l t) := by
  have hkept : UnderWay l s (Machine.takeExclusive (letterKey l)
      (if t.dev.keeperTo = BitVec.ofNat 8 (letterNum l 1 1) then t else forgetKeeper t)) := by
    split <;> exact h.of_eq rfl rfl
  exact hkept.progress

theorem profileReady_kept (l : Letter) (t : State) : (profileReady l t).dev.profile = t.dev.profile ∧
    (profileReady l t).dev.expressTenant = t.dev.expressTenant ∧ (profileReady l t).dev.quotas = t.dev.quotas := by
  unfold profileReady
  split <;> exact ⟨rfl, rfl, rfl⟩

/-! ### DRAIN (R357, R495) -/

theorem UnderWay.setDeviceState {l : Letter} {s t : State} (h : UnderWay l s t) (v : Byte) :
    UnderWay l s (Machine.setDeviceState v t) := by
  refine h.of_eq ?_ (by rw [setDeviceState_dev])
  unfold Machine.setDeviceState raiseEvent
  split
  · rfl
  · split <;> rfl

/-- What the drain of a device goes by. -/
def drainMark (s : State) : Bool × Option LetterKey := (s.dev.draining, s.dev.drainLetter)

theorem drainMark_finishLetter (k : LetterKey) (st : BitVec 16) (rs : List Byte) (ls : List Line) (s : State) :
    drainMark (finishLetter k st rs ls s) = drainMark s := by
  rw [drainMark, finishLetter_dev]
  rfl

theorem drainMark_dropWaiting (k : LetterKey) (s : State) : drainMark (dropWaiting k s) = drainMark s :=
  drainMark_finishLetter ..

theorem drainMark_endSessionLetter (k : LetterKey) (code : Byte) (st : BitVec 16) (s : State) :
    drainMark (endSessionLetter k code st s) = drainMark s := by
  unfold endSessionLetter
  split
  · rfl
  · split <;> exact drainMark_finishLetter ..

theorem drainMark_restSession (session : BitVec 16) (s : State) : drainMark (restSession session s) = drainMark s := by
  simp only [restSession]
  split <;> rfl

theorem drainMark_setDeviceState (v : Byte) (s : State) : drainMark (setDeviceState v s) = drainMark s := by
  rw [drainMark, setDeviceState_dev]
  rfl

/-- The ADAPT of a session ends where the drain begins. -/
def drainAdapt (n : Nat) (s : State) : State :=
  match (s.session n).adapt with
  | some a => restSession (BitVec.ofNat 16 n) (finishLetter a.key 0x0403 [] [] (clearAdapt n s))
  | none => s

/-- The queue of a session `x` with number `n` where the drain begins. -/
def drainLetters (n : Nat) (x : Session) (s : State) : State :=
  match x.queue with
  | [] => s
  | k :: ks =>
    let s1 := ks.foldl (fun s j => dropWaiting j s) s
    match s1.letter k with
    | none => s1
    | some r =>
      if !r.progressed then dropWaiting k s1
      else if !x.settled || !s1.betweenWaves n then s1
      else restSession (BitVec.ofNat 16 n) (endSessionLetter k 0x03 0x0403 s1)

theorem drainQueue_eq (n : Nat) (s : State) : drainQueue n s = drainLetters n (s.session n) (drainAdapt n s) := rfl

theorem drainMark_drainAdapt (n : Nat) (s : State) : drainMark (drainAdapt n s) = drainMark s := by
  unfold drainAdapt
  split
  · rw [drainMark_restSession, drainMark_finishLetter]
    rfl
  · rfl

theorem drainMark_drainLetters (n : Nat) (x : Session) (s : State) : drainMark (drainLetters n x s) = drainMark s := by
  have hwaiting (ks : List LetterKey) (s : State) : drainMark (ks.foldl (fun s j => dropWaiting j s) s) = drainMark s :=
    foldl_kept drainMark (fun s k => drainMark_dropWaiting k s) ks s
  simp only [drainLetters]
  split
  · rfl
  · split
    · exact hwaiting _ _
    · split
      · rw [drainMark_dropWaiting, hwaiting]
      · split
        · exact hwaiting _ _
        · rw [drainMark_restSession, drainMark_endSessionLetter, hwaiting]

/-- The letters of a session that a drain ends leave the drain as it is. -/
theorem drainMark_drainQueue (n : Nat) (s : State) : drainMark (drainQueue n s) = drainMark s := by
  rw [drainQueue_eq, drainMark_drainLetters, drainMark_drainAdapt]

/-- The device as a DRAIN REMOVE begins to empty it. -/
def drainBegins (l : Letter) (t : State) : State :=
  (takeExclusive (letterKey l) (progress (letterKey l) t)).updDev (fun d => { d with
    draining := true, drainLetter := some (letterKey l), drainPeers := BitVec.ofNat 16 (letterNum l 2 2), drainMigrated := 0, drainLeft := 0 })

/-- The device that has told its sessions to leave. -/
def drainTold (l : Letter) (t : State) : State :=
  setDeviceState 4 (((drainBegins l t).dev.sessions.map Prod.fst).foldl (fun s n => drainQueue n s) (drainBegins l t))

theorem drainTold_mark (l : Letter) (t : State) : drainMark (drainTold l t) = (true, some (letterKey l)) := by
  rw [drainTold, drainMark_setDeviceState, foldl_kept drainMark (fun s n => drainMark_drainQueue n s)]
  rfl

theorem drainTold_deviceState (l : Letter) (t : State) : (drainTold l t).dev.deviceState = 4 := by
  rw [drainTold, setDeviceState_dev]

/-- A device without sessions is empty at once. -/
theorem advanceDrain_empty {t : State} {k : LetterKey} (hmark : drainMark t = (true, some k)) (hnone : t.dev.sessions = [])
    (hstate : t.dev.deviceState = 4) : advanceDrain t = finishLetter k stDone (leBytes 4 t.dev.drainMigrated ++ leBytes 4 0) []
      (setDeviceState 5 (t.updDev (fun d => { d with drainLeft := 0 }))) := by
  obtain ⟨hdraining, hletter⟩ := Prod.mk.inj hmark
  simp only [advanceDrain, hdraining, hletter, hnone, List.foldl_nil, List.all_nil, hstate]
  rfl

/-- Where no session stands, none is told. -/
theorem drainTold_alone {l : Letter} {t : State} (hnone : t.dev.sessions = []) :
    drainTold l t = setDeviceState 4 (drainBegins l t) := by
  have hsessions : (drainBegins l t).dev.sessions = [] := hnone
  rw [drainTold, hsessions, List.map_nil, List.foldl_nil]

/-- SERVE's device: quiesced no more, and serving where the coolant flows. -/
def served (t : State) : State :=
  if t.dev.deviceState = 3 ∧ (!t.coolant.flowStop) = true then setDeviceState 2 t else t

theorem served_dev (t : State) : (served t).dev = { t.dev with
    deviceState := if t.dev.deviceState = 3 ∧ t.coolant.flowStop = false then 2 else t.dev.deviceState } := by
  by_cases h : t.dev.deviceState = 3 ∧ t.coolant.flowStop = false
  · rw [served, if_pos (by simpa using h), if_pos h, setDeviceState_dev]
  · rw [served, if_neg (by simpa using h), if_neg h]

theorem UnderWay.served {l : Letter} {s t : State} (h : UnderWay l s t) : UnderWay l s (Machine.served t) := by
  unfold Machine.served
  split
  · exact h.setDeviceState 2
  · exact h

/-- DRAIN REMOVE of a device without sessions, loads and flow stops: it is told, and is empty. -/
theorem proceed_drainTold {l : Letter} {t : State} (hnone : t.dev.sessions = []) (hload : t.dev.loadFor = none)
    (hflow : t.coolant.flowStop = false) : proceed (drainTold l t) =
      finishLetter (letterKey l) stDone (leBytes 4 0 ++ leBytes 4 0) []
        (setDeviceState 5 ((drainTold l t).updDev (fun d => { d with drainLeft := 0 }))) := by
  have htold := drainTold_alone (l := l) hnone
  have hdev : (drainTold l t).dev = { (drainBegins l t).dev with deviceState := 4 } := by
    rw [htold, setDeviceState_dev]
  have hcoolant : (drainTold l t).coolant = t.coolant := by
    rw [htold, (SessionWork.setDeviceState 4 _).coolant]
    rfl
  have hsessions : (drainTold l t).dev.sessions = [] := (congrArg Dev.sessions hdev).trans hnone
  have hloads : (drainTold l t).dev.loadFor = none := (congrArg Dev.loadFor hdev).trans hload
  have hmigrated : (drainTold l t).dev.drainMigrated = 0 := congrArg Dev.drainMigrated hdev
  have hsettled : settleAll (drainTold l t) = drainTold l t := by
    rw [settleAll, hsessions, List.foldl_nil]
  rw [proceed, advanceStop_idle ((congrArg Coolant.flowStop hcoolant).trans hflow), advanceLoad_idle hloads, hsettled,
    advanceDrain_empty (drainTold_mark l t) hsessions (drainTold_deviceState l t), hmigrated]

/-- Settles O39: each letter that sets the device. -/
theorem deviceSettingsTakeEffect : Obligations.DeviceSettingsTakeEffect := by
  intro l s
  refine ⟨fun h => ?cap, fun h => ?profile, fun h => ?quiesce, fun h => ?serve, fun h => ?remove, fun h hnone hload hflow => ?empty⟩
  case cap =>
    have hlow : letterNum l 0 4 ≤ 24500 := by
      have hparams := h.params
      simp only [powerCapRule, Bool.and_eq_true, decide_eq_true_eq] at hparams
      exact hparams.2
    have hset := (h.underWay.progress.setCap (BitVec.ofNat 16 (letterNum l 0 4))).journalFor kindConfig 0
      (configBody (setCap (BitVec.ofNat 16 (letterNum l 0 4)) (progress (letterKey l) (entered opPowerCap l (powerCapRule l) s))))
    refine ⟨_, h.runs rfl rfl, ?_, ?_⟩
    · rw [← bytesOf_ofNat16 (by omega)]
      exact hset.answered _ _ _
    · rw [(SessionWork.finishLetter ..).power, journalConfig, (SessionWork.journalFor ..).power, setCap_capW, BitVec.toNat_ofNat]
      omega
  case profile =>
    obtain ⟨hprofile, htenant, hslot⟩ : letterNum l 0 1 ≤ 2 ∧ letterNum l 2 2 ≤ 4095 ∧ letterNum l 8 4 ≤ 1000 := by
      have hparams := h.params
      simp only [profileRule, Bool.and_eq_true, Bool.or_eq_true, beq_iff_eq, decide_eq_true_eq] at hparams
      omega
    obtain ⟨roles, own, letters, heq, hway⟩ := h.entered
    obtain ⟨hkept, hexpress, hquotas⟩ := profileReady_kept l (begun roles own letters s)
    have hset : UnderWay l s (setProfile l (profileReady l (begun roles own letters s))) := hway.profileReady.of_eq rfl rfl
    refine ⟨finishLetter (letterKey l) stDone [] [] (journalConfig (letterKey l) (setProfile l
      (profileReady l (begun roles own letters s)))), h.runs rfl ?_, (hset.journalFor _ _ _).finishLetter _ _ _, ?_⟩
    · rw [heq]
      rfl
    · have hdev := setProfile_dev l (profileReady l (begun roles own letters s))
      have hnew : newQuotas l (profileReady l (begun roles own letters s)) = newQuotas l s := by
        rw [newQuotas, hquotas]
        rfl
      rw [finishLetter_dev, journalConfig, journalFor_dev, hdev, hnew]
      dsimp only
      exact ⟨hkept, hexpress, toNat_ofNat_small (by omega), toNat_ofNat_small (by omega), rfl, rfl, toNat_ofNat_small (by omega),
        rfl⟩
  case quiesce =>
    have hway : UnderWay l s ((progress (letterKey l) (takeExclusive (letterKey l) (entered opDrain l (drainRule l 2 s) s))).updDev
        (fun d => { d with quiesced := true })) :=
      (h.underWay.takeExclusive _).progress.updDev _ rfl
    refine ⟨_, h.runs rfl rfl, (hway.setDeviceState 3).answered _ _ _, ?_, ?_⟩
    · rw [finishLetter_dev, setDeviceState_dev]
    · rw [finishLetter_dev, setDeviceState_dev]
      rfl
  case serve =>
    obtain ⟨roles, own, letters, heq, hbegun⟩ := h.entered
    have hway : UnderWay l s ((progress (letterKey l) (takeExclusive (letterKey l) (begun roles own letters s))).updDev
        (fun d => { d with quiesced := false })) :=
      (hbegun.takeExclusive _).progress.updDev _ rfl
    refine ⟨finishLetter (letterKey l) stDone noMoves [] (served ((progress (letterKey l) (takeExclusive (letterKey l)
      (begun roles own letters s))).updDev (fun d => { d with quiesced := false }))), h.runs rfl ?_, hway.served.answered _ _ _, ?_⟩
    · rw [heq]
      rfl
    · rw [finishLetter_dev, served_dev]
      dsimp only
      exact ⟨by rfl, by rfl⟩
  case remove =>
    obtain ⟨hdraining, hletter⟩ := Prod.mk.inj (drainTold_mark l (entered opDrain l (drainRule l 1 s) s))
    exact ⟨drainTold l (entered opDrain l (drainRule l 1 s) s), h.runs rfl rfl, hdraining, hletter, drainTold_deviceState ..⟩
  case empty =>
    obtain ⟨roles, own, letters, heq, hway⟩ := h.entered
    have hbegins : UnderWay l s (drainBegins l (begun roles own letters s)) := (hway.progress.takeExclusive _).updDev _ rfl
    have htold : UnderWay l s (drainTold l (begun roles own letters s)) := by
      rw [drainTold_alone (t := begun roles own letters s) hnone]
      exact hbegins.setDeviceState 4
    have hleft : UnderWay l s ((drainTold l (begun roles own letters s)).updDev (fun d => { d with drainLeft := 0 })) :=
      htold.updDev _ rfl
    refine ⟨_, h.runs rfl ((congrArg (fun t => proceed (drainTold l t)) heq).trans
      (proceed_drainTold (t := begun roles own letters s) hnone hload hflow)), ?_, (hleft.setDeviceState 5).answered _ _ _⟩
    rw [finishLetter_dev, setDeviceState_dev]

end Sys2Proof.Machine

/-! SUPPORT. Calibration and diagnosis. -/

namespace Sys2Proof.Machine
open Sys2Proof

/-! ### A letter whose end is journalled (R483, R507) -/

/-- In `u` the letter is in flight, no status ends it yet, and its end is audited. -/
def Booked (l : Letter) (u : State) : Prop :=
  ∃ r, u.letter (letterKey l) = some r ∧ r.finalStatus = none ∧ r.audit = true

/-- A letter that passes every check is in flight with the record of its arrival. -/
theorem Accepted.letter {op : BitVec 16} {l : Letter} {r : LetterRule} {s : State} (h : Accepted op l r s) :
    (Machine.entered op l r s).letter (letterKey l) = some (recordOf op l (audited op r)) := by
  obtain ⟨_, _, _, hfly, _⟩ := h
  have hnew : s.dev.letters.find? (fun x => x.key == letterKey l) = none := by
    rw [State.inFlight, Bool.or_eq_false_iff] at hfly
    simpa using hfly.1
  have htouched : (touchRole op l s).dev.letters = s.dev.letters := by
    unfold touchRole
    split <;> rfl
  have hletters : (Machine.entered op l r s).dev.letters = s.dev.letters ++ [recordOf op l (audited op r)] := by
    unfold Machine.entered leadLetter
    split <;> exact congrArg (· ++ _) htouched
  rw [State.letter, hletters, List.find?_append, hnew]
  simp [recordOf]

theorem Accepted.booked {op : BitVec 16} {l : Letter} {r : LetterRule} {s : State} (h : Accepted op l r s)
    (hrole : (r.role != 0) = true) : Booked l (Machine.entered op l r s) :=
  ⟨_, h.letter, rfl, by rw [recordOf, audited, hrole]; rfl⟩

section
variable {l : Letter} {t : State}

theorem Booked.of_letters {u : State} (h : Booked l t) (hletters : u.dev.letters = t.dev.letters) : Booked l u := by
  obtain ⟨r, hletter, hr⟩ := h
  exact ⟨r, (congrArg _ hletters).trans hletter, hr⟩

theorem Booked.updLetter (h : Booked l t) (f : LetterRec → LetterRec)
    (hf : ∀ r, (f r).key = r.key ∧ (f r).finalStatus = r.finalStatus ∧ (f r).audit = r.audit) :
    Booked l (t.updLetter (letterKey l) f) := by
  obtain ⟨r, hletter, hlive, haudit⟩ := h
  obtain ⟨_, hstatus, hsame⟩ := hf r
  refine ⟨f r, ?_, hstatus.trans hlive, hsame.trans haudit⟩
  rw [letter_updLetter _ _ _ fun r => (hf r).1, hletter]
  rfl

theorem Booked.progress (h : Booked l t) : Booked l (Machine.progress (letterKey l) t) := h.updLetter _ fun _ => ⟨rfl, rfl, rfl⟩

theorem Booked.journalFor (h : Booked l t) (kind : BitVec 16) (key : Word) (body : List Byte) :
    Booked l (Machine.journalFor (letterKey l) kind key body t) := by
  have hwaits := h.updLetter (fun r => { r with journalWait := true, waitSeq := t.journal.nextSeq }) fun _ => ⟨rfl, rfl, rfl⟩
  exact hwaits.of_letters (congrArg Dev.letters (journalAdd_dev _ _ _ _))

/-- The audit record that a letter appends is one that its receipt waits for. -/
theorem waitsCommit_journalFor {r : LetterRec} (h : t.letter (letterKey l) = some r) (key : Word) (body : List Byte) :
    (Machine.journalFor (letterKey l) kindAudit key body t).waitsCommit (letterKey l) = true := by
  have hletter : (Machine.journalFor (letterKey l) kindAudit key body t).letter (letterKey l) =
      some { r with journalWait := true, waitSeq := t.journal.nextSeq } := by
    have hwaits := letter_updLetter t (letterKey l) (fun r => { r with journalWait := true, waitSeq := t.journal.nextSeq })
      (by intro; rfl)
    rw [h] at hwaits
    rw [State.letter, Machine.journalFor, journalAdd_dev]
    exact hwaits
  have hrecords : (Machine.journalFor (letterKey l) kindAudit key body t).journal.records =
      t.journal.records ++ [newRecord kindAudit key body t] := journalAdd_records _ _ _ _ (.inr (by decide))
  simp only [State.waitsCommit, hletter, hrecords]
  simp [newRecord]

/-- An audited letter waits, with its status, for the commit of its audit record. -/
theorem Booked.answered (h : Booked l t) (s : State) (st : BitVec 16) (rs : List Byte) (ls : List Line) :
    Answered l st rs ls s (Machine.finishLetter (letterKey l) st rs ls t) := by
  obtain ⟨r, hletter, hlive, haudit⟩ := h
  have hkey := letter_key hletter
  have hbooked : auditLetter r (finalStatus r st) t = Machine.journalFor (letterKey l) kindAudit 0
      (auditBody r.opcode (finalStatus r st) r.role r.key.port.val r.session (r.tenant.setWidth 16) r.key.id t.dev.member 0) t := by
    rw [auditLetter, if_pos haudit, hkey]
  have hwaits := waitsCommit_journalFor hletter 0
    (auditBody r.opcode (finalStatus r st) r.role r.key.port.val r.session (r.tenant.setWidth 16) r.key.id t.dev.member 0)
  obtain ⟨r', hletter', _⟩ := Booked.journalFor ⟨r, hletter, hlive, haudit⟩ kindAudit 0
    (auditBody r.opcode (finalStatus r st) r.role r.key.port.val r.session (r.tenant.setWidth 16) r.key.id t.dev.member 0)
  refine .inr ⟨{ r' with finalStatus := some (st, rs, ls) }, ?_, rfl⟩
  simp only [Machine.finishLetter, hletter, hlive, Option.isSome_none, Bool.false_eq_true, if_false, hbooked]
  rw [if_pos hwaits, letter_updLetter _ _ _ (by intro; rfl), hletter']
  rfl

theorem Booked.ends (h : Booked l t) (s : State) (st : BitVec 16) (rs : List Byte) (ls : List Line) :
    Ends l st s (Machine.finishLetter (letterKey l) st rs ls t) := ⟨rs, ls, h.answered s st rs ls⟩

end

/-! ### The journal only grows (R481) -/

/-- Every record of `s` is one of `u`. -/
def Grown (s u : State) : Prop := s.journal.records ⊆ u.journal.records

theorem Grown.refl (s : State) : Grown s s := List.Subset.refl _

theorem Grown.trans {s t u : State} (h : Grown s t) (k : Grown t u) : Grown s u := List.Subset.trans h k

theorem Grown.of_eq {s u : State} (h : u.journal = s.journal) : Grown s u := by
  rw [Grown, h]
  exact List.Subset.refl _

theorem Grown.foldl {α : Type} {f : State → α → State} (hf : ∀ s a, Grown s (f s a)) (l : List α) (s : State) :
    Grown s (l.foldl f s) := by
  induction l generalizing s with
  | nil => exact .refl s
  | cons a l ih => exact (hf s a).trans (ih (f s a))

theorem Grown.journalAdd (kind : BitVec 16) (key : Word) (body : List Byte) (s : State) :
    Grown s (Machine.journalAdd kind key body s) := by
  rw [Grown]
  simp only [Machine.journalAdd]
  split
  · exact List.Subset.refl _
  · exact List.subset_append_left _ _

theorem Grown.journalFor (k : LetterKey) (kind : BitVec 16) (key : Word) (body : List Byte) (s : State) :
    Grown s (Machine.journalFor k kind key body s) :=
  (Grown.of_eq (u := s.updLetter k _) rfl).trans (.journalAdd kind key body _)

theorem sendReceipt_journal (x : Receipt) (s : State) : (sendReceipt x s).journal = s.journal := by
  unfold sendReceipt
  split <;> rfl

theorem sendFinal_journal (k : LetterKey) (st : BitVec 16) (rs : List Byte) (ls : List Line) (s : State) :
    (sendFinal k st rs ls s).journal = s.journal := by
  unfold sendFinal
  split
  · rfl
  · next r _ =>
    obtain ⟨n, hn⟩ := retryFor_state (finalStatus r st) s
    dsimp only
    rw [State.updDev_journal, sendReceipt_journal, hn]
    rfl

/-- The end of a letter appends its audit record at most. -/
theorem Grown.finishLetter (k : LetterKey) (st : BitVec 16) (rs : List Byte) (ls : List Line) (s : State) :
    Grown s (Machine.finishLetter k st rs ls s) := by
  unfold Machine.finishLetter
  split
  · exact .refl s
  · next r _ =>
    split
    · exact .refl s
    · have haudit : Grown s (auditLetter r (finalStatus r st) s) := by
        unfold auditLetter
        split
        · exact .journalFor ..
        · exact .refl s
      dsimp only
      split
      · exact haudit.trans (.of_eq rfl)
      · exact haudit.trans (.of_eq (sendFinal_journal ..))

theorem Grown.closeRoles (test : OpenRole → Bool) (port : Nat) (reason : Byte) (s : State) :
    Grown s (Machine.closeRoles test port reason s) :=
  (Grown.of_eq (u := s.updDev _) rfl).trans (.foldl (fun s _ => .journalAdd _ _ _ s) _ _)

/-! ### RECALIBRATE and DIAG (R348, R492, R493, R504) -/

theorem restoreSensors_letters (b : Nat) (s : State) : (restoreSensors b s).dev.letters = s.dev.letters := by
  have hjournal (old new : Block) (s : State) : (journalSensors b old new s).dev = s.dev := by
    unfold journalSensors
    split
    · rfl
    · exact journalAdd_dev ..
  simp only [restoreSensors]
  split
  · rfl
  · rw [hjournal]
    rfl

theorem checkCoolant_letters (s : State) : (checkCoolant s).dev.letters = s.dev.letters := by
  simp only [checkCoolant]
  split <;> rfl

theorem recalSensors_letters (l : Letter) (s : State) : (recalSensors l s).dev.letters = s.dev.letters := by
  unfold recalSensors
  split
  · rfl
  · rw [foldl_kept (fun s : State => s.dev.letters)
      (fun s f => foldl_kept (fun s : State => s.dev.letters) (fun s i => restoreSensors_letters (16 * f + i) s) (List.range 16) s)]
    exact checkCoolant_letters s

theorem Booked.measure {l : Letter} {t : State} (h : Booked l t) : Booked l (Machine.measure t).2 := h.of_letters rfl

theorem Booked.journalCalibration {l : Letter} {t : State} (h : Booked l t) :
    Booked l (Machine.journalCalibration l (letterKey l) t) := by
  have hpieces (cs : List (List Byte)) (key : Word) (t : State) (h : Booked l t) :
      Booked l (cs.foldl (fun s c => Machine.journalFor (letterKey l) kindCalibration key c s) t) := by
    induction cs generalizing t with
    | nil => exact h
    | cons c cs ih => exact ih _ (h.journalFor kindCalibration key c)
  simp only [Machine.journalCalibration]
  split
  · exact hpieces _ _ _ h
  · exact h.measure.journalFor _ _ _

/-- A measured calibration is journalled under the letter's TARGET and INDEX. -/
theorem journalCalibration_records {l : Letter} (h : overridden l = false) (t : State) :
    ∃ j ∈ (journalCalibration l (letterKey l) t).journal.records, j.kind = kindCalibration ∧
      j.key = BitVec.ofNat 32 (65536 * letterNum l 0 1 + unitIndex l) ∧ j.committed = false := by
  have hrecords (key : Word) (body : List Byte) (s : State) :
      newRecord kindCalibration key body (s.updLetter (letterKey l) (fun r =>
        { r with journalWait := true, waitSeq := s.journal.nextSeq })) ∈
        (journalFor (letterKey l) kindCalibration key body s).journal.records := by
    rw [journalFor, journalAdd_records _ _ _ _ (.inr (by decide))]
    exact List.mem_append_right _ (List.mem_singleton_self _)
  rw [journalCalibration, if_neg (by rw [h]; exact Bool.false_ne_true)]
  exact ⟨_, hrecords _ _ _, rfl, rfl, rfl⟩

theorem Grown.updPort (p : Nat) (f : LinkPort → LinkPort) (s : State) : Grown s (s.updPort p f) := .of_eq rfl

theorem stopPort_kept (st : PortState) (p : Nat) (s : State) :
    (stopPort st p s).dev.letters = s.dev.letters ∧ Grown s (stopPort st p s) := by
  unfold stopPort
  refine ⟨?_, (Grown.updPort ..).trans (.closeRoles ..)⟩
  rw [closeRoles_dev]
  rfl

/-- A port that retrains keeps the letters, and the journal only grows. -/
theorem retrainPort_kept (p : Nat) (good : Byte) (s : State) :
    (retrainPort p good s).dev.letters = s.dev.letters ∧ Grown s (retrainPort p good s) := by
  unfold retrainPort trainPort
  split
  · obtain ⟨hletters, hgrown⟩ := stopPort_kept .failed p ((s.updPort p (fun x =>
      { x with retrains := satAdd x.retrains 1, firmwarePending := false })).updPort p (fun x => { x with lanesGood := good }))
    exact ⟨hletters.trans (by rfl), ((Grown.updPort ..).trans (.updPort ..)).trans hgrown⟩
  · exact ⟨by rfl, (Grown.updPort ..).trans (.updPort ..)⟩

theorem recalLinks_kept (l : Letter) (s : State) : (recalLinks l s).dev.letters = s.dev.letters ∧ Grown s (recalLinks l s) := by
  have hport (s : State) (p : Nat) : (if (s.port p).st = .down ∨ (s.chiplet (portChiplet p)).retired then s
      else retrainPort p (s.port p).lanesGood s).dev.letters = s.dev.letters ∧ Grown s (if (s.port p).st = .down ∨
        (s.chiplet (portChiplet p)).retired then s else retrainPort p (s.port p).lanesGood s) := by
    split
    · exact ⟨rfl, .refl s⟩
    · exact retrainPort_kept _ _ _
  exact ⟨foldl_kept (fun s : State => s.dev.letters) (fun s p => (hport s p).1) _ _, .foldl (fun s p => (hport s p).2) _ _⟩

theorem recalRule_role (l : Letter) (g : Nat) (ok : Bool) (later : List (Bool × BitVec 16)) :
    ((recalRule l g ok later).role != 0) = true := by
  unfold recalRule
  dsimp only
  split <;> rfl

theorem journalMap_fieldCtls (f : Nat) (s : State) : (journalMap f s).fieldCtls = s.fieldCtls := journalAdd_fieldCtls ..

/-- A field whose spare map is edited has it, and the distances have a new generation. -/
theorem editSpares_kept (f : Nat) (m : Tbl (BitVec 4)) (s : State) : ((editSpares f m s).field f).spareMap = m ∧
    (editSpares f m s).dev = { s.dev with distGen := s.dev.distGen + 1 } := by
  have hmoved (ts : List TileId) (s : State) : (ts.foldl (fun s t => s.updTile t
      (movedIn (s.block (tileBlock t)).pstate s.dev.placement (s.usedTiles.contains t) t s.dev.time)) s).fieldCtls = s.fieldCtls ∧
      (ts.foldl (fun s t => s.updTile t
        (movedIn (s.block (tileBlock t)).pstate s.dev.placement (s.usedTiles.contains t) t s.dev.time)) s).dev = s.dev :=
    ⟨foldl_kept State.fieldCtls (fun _ _ => by rfl) ts s, foldl_kept State.dev (fun _ _ => by rfl) ts s⟩
  constructor
  · have hpublished (u : State) : (republish u).fieldCtls = u.fieldCtls := rfl
    have hfield : (editSpares f m s).field f = (s.updField f (fun x => { x with spareMap := m })).field f := by
      simp only [State.field, editSpares, hpublished, hmoved, journalMap_fieldCtls]
    rw [hfield, State.field_updField]
  · simp only [editSpares, republish, State.updDev_dev]
    rw [(hmoved _ _).2, journalMap, journalAdd_dev]
    rfl

theorem finishLetter_distGen (k : LetterKey) (st : BitVec 16) (rs : List Byte) (ls : List Line) (s : State) :
    (finishLetter k st rs ls s).dev.distGen = s.dev.distGen := by
  rw [finishLetter_dev]

/-- Settles O43: a calibration is journalled and its letter waits for it; a breaker's retry, an edited map, an armed reseal. -/
theorem recalibrationAndDiagnosis : Obligations.RecalibrationAndDiagnosis := by
  intro l s i key measured retry
  refine ⟨fun h => ?sensors, fun h => ?regulators, fun h => ?links, fun h => ?retry, fun h => ?map, fun h => ?reseal⟩
  case sensors =>
    have hbooked := (h.booked (recalRule_role ..)).progress
    have hchecked := hbooked.of_letters (recalSensors_letters l _)
    exact ⟨_, h.runs rfl rfl, hchecked.journalCalibration.ends s _ _ _, fun hover =>
      (journalCalibration_records hover _).imp fun j hj => hj.imp_left fun hmem => Grown.finishLetter _ _ _ _ _ hmem⟩
  case regulators =>
    have hbooked := (h.booked (recalRule_role ..)).progress
    exact ⟨_, h.runs rfl rfl, hbooked.journalCalibration.ends s _ _ _, fun hover =>
      (journalCalibration_records hover _).imp fun j hj => hj.imp_left fun hmem => Grown.finishLetter _ _ _ _ _ hmem⟩
  case links =>
    have hbooked := (h.booked (recalRule_role ..)).progress.journalCalibration
    obtain ⟨hletters, hgrown⟩ := recalLinks_kept l (journalCalibration l (letterKey l)
      (progress (letterKey l) (entered opRecalibrate l (recalRule l 3 (indexOk l 48) []) s)))
    exact ⟨_, h.runs rfl rfl, (hbooked.of_letters hletters).ends s _ _ _, fun hover =>
      (journalCalibration_records hover _).imp fun j hj => hj.imp_left fun hmem =>
        (hgrown.trans (Grown.finishLetter _ _ _ _ _)) hmem⟩
  case retry =>
    have hway := h.underWay.progress.journalFor kindPower (BitVec.ofNat 32 (retryField l)) [4]
    refine ⟨_, h.runs rfl rfl, (hway.of_eq (u := retryBreaker (retryField l) _) rfl rfl).finishLetter _ _ _, ?_⟩
    rw [(SessionWork.finishLetter ..).field, retryBreaker, State.field_updField]
    exact ⟨rfl, rfl, rfl, rfl⟩
  case map =>
    have hbooked := (h.booked (r := diagRule l 2 3 (decide (i < 64) && mapLegal (editMap l)) (l.train.length == 1)) rfl).progress
    obtain ⟨hmap, hdev⟩ := editSpares_kept i (editMap l)
      (progress (letterKey l) (entered opDiag l (diagRule l 2 3 (decide (i < 64) && mapLegal (editMap l)) (l.train.length == 1)) s))
    have hletters := congrArg Dev.letters hdev
    refine ⟨_, h.runs rfl rfl, (hbooked.of_letters hletters).ends s _ _ _, ?_, ?_⟩
    · rw [(SessionWork.finishLetter ..).field]
      exact hmap
    · obtain ⟨roles, own, letters, heq, _⟩ := h.progressed
      rw [heq, finishLetter_distGen, (editSpares_kept _ _ _).2]
      rfl
  case reseal =>
    obtain ⟨roles, own, letters, heq, hway⟩ := h.progressed
    have harmed := hway.updDev (fun d => { d with resealArmed := true, resealAt := d.time }) rfl
    refine ⟨_, h.runs rfl rfl, ?_⟩
    rw [heq]
    refine ⟨harmed.finishLetter _ _ _, ?_, ?_⟩
    · rw [finishLetter_dev]
      rfl
    · rw [finishLetter_dev]
      rfl

end Sys2Proof.Machine

/-! SUPPORT. RETIRE letters. -/

namespace Sys2Proof.Machine
open Sys2Proof

/-! ### RETIRE (R348, R493) -/

theorem retireRule_booked {l : Letter} {u n : Nat} {later : List (Bool × BitVec 16)} {s : State}
    (h : Accepted opRetire l (retireRule l u n later) s) : Booked l (entered opRetire l (retireRule l u n later) s) :=
  h.booked rfl

theorem Booked.takeExclusive {l : Letter} {t : State} (h : Booked l t) (k : LetterKey) : Booked l (Machine.takeExclusive k t) :=
  h.of_letters rfl

/-- A retired segment counts as a failed one. -/
theorem retireSegmentOf_kept (b seg : Nat) (s : State) :
    ((retireSegmentOf b seg s).block b).segFailed = (s.block b).segFailed ||| ((1 : Byte) <<< seg) ∧
      (retireSegmentOf b seg s).dev.letters = s.dev.letters := by
  have hletters (m : Byte) (s : State) : (failSegments b m s).dev.letters = s.dev.letters := by
    simp only [failSegments]
    split
    · exact foldl_kept (fun s : State => s.dev.letters) (fun _ _ => by rfl) _ _
    · rfl
  have hsegments (m : Byte) (s : State) : ((failSegments b m s).block b).segFailed = m := by
    by_cases hmany : 2 ≤ popCount m
    · rw [(failSegments_many hmany s).1]
    · rw [failSegments_few (Nat.not_le.1 hmany)]
  simp only [retireSegmentOf]
  split
  · next hsame => exact ⟨hsame.symm, rfl⟩
  · exact ⟨hsegments _ _, by rw [hletters, journalAdd_dev]⟩

/-- A lost field is retired too. -/
theorem retireLost_kept (f : Nat) (s : State) : ((retireLost f s).field f).retired = true ∧
    (retireLost f s).dev.letters = s.dev.letters := by
  have hpublished (u : State) : (republish u).fieldCtls = u.fieldCtls := rfl
  have hfield : (retireLost f s).field f = { s.field f with retired := true } := by
    rw [retireLost, State.field, hpublished, journalAdd_fieldCtls]
    exact State.field_updField ..
  refine ⟨by rw [hfield], ?_⟩
  simp only [retireLost, republish, State.updDev_dev]
  rw [journalAdd_dev]
  rfl

theorem fitsWithout_congr {s u : State} (hstacks : u.stackCtls = s.stackCtls) (himages : u.dev.images = s.dev.images)
    (hstaging : u.dev.staging = s.dev.staging) (hsessions : u.dev.sessions = s.dev.sessions) : u.fitsWithout = s.fitsWithout := by
  have hused : u.usedBytes = s.usedBytes := by
    unfold State.usedBytes
    rw [himages, hstaging, hsessions]
  unfold State.fitsWithout State.standingStacks State.stk
  rw [hused, hstacks]

theorem retireFieldNow_standing {f : Nat} {s : State} (h : (s.field f).lost = false) :
    retireFieldNow f s = fieldLoss f (loseField f true s) := by
  simp only [retireFieldNow, h, Bool.false_eq_true, if_false]

/-- Where the rest fits, a stack's retirement begins. -/
theorem retireStackNow_fits (n : Nat) {s : State} (h : s.fitsWithout = true) :
    retireStackNow n s = some (s.updStk n (fun x => { x with st := 3 })) := by
  have hroom : makeRoom s.dev.sessions.length s = s := by
    cases s.dev.sessions.length with
    | zero => rfl
    | succ fuel => rw [makeRoom, if_pos h]
  simp only [retireStackNow, hroom, h, if_true]

/-- The content of a stack that the others can hold is copied onto them, and its letter waits. -/
theorem retireStackFor_fits (n : Nat) (k : LetterKey) {s : State} (hstack : (s.stk n).st = 2) (h : s.fitsWithout = true) :
    retireStackFor n k s = proceed (journalFor k kindRetirement (retireKey 4 n) (stackBody n)
      (s.updStk n (fun x => { x with st := 3 }))) := by
  rw [retireStackFor, if_neg (fun hne => hne hstack), retireStackNow_fits n h]

theorem journalAdd_stk (kind : BitVec 16) (key : Word) (body : List Byte) (s : State) (n : Nat) :
    (journalAdd kind key body s).stk n = s.stk n := (SessionWork.journalAdd kind key body s).stk n

/-! ### Ports that stop -/

theorem stopPort_port (st : PortState) (p : Nat) (s : State) : ((stopPort st p s).port p).st = st := by
  rw [stopPort, State.port, closeRoles_ports]
  exact congrArg LinkPort.st (State.port_updPort ..)

theorem stopPort_port_other (st : PortState) {p q : Nat} (s : State) (h : q ≠ p) : (stopPort st p s).port q = s.port q := by
  rw [stopPort, State.port, closeRoles_ports]
  exact State.port_updPort_other _ _ h

theorem SessionWork.chiplets {s u : State} (h : SessionWork s u) : u.chiplets = s.chiplets := by rw [h]

theorem closeRoles_chiplets (test : OpenRole → Bool) (port : Nat) (reason : Byte) (s : State) :
    (closeRoles test port reason s).chiplets = s.chiplets := by
  have haudit (s : State) (r : OpenRole) : (auditClosure r.maker port reason s).chiplets = s.chiplets :=
    (SessionWork.journalAdd _ _ _ s).chiplets
  exact foldl_kept State.chiplets haudit _ _

/-- The ports of a list that stop are down, and keep the letters and the chiplets. -/
theorem stopPorts_kept (ps : List Nat) (s : State) : (∀ p ∈ ps, ((ps.foldl (fun s p => stopPort .down p s) s).port p).st = .down) ∧
    (ps.foldl (fun s p => stopPort .down p s) s).dev.letters = s.dev.letters ∧
    (ps.foldl (fun s p => stopPort .down p s) s).chiplets = s.chiplets := by
  have hdown (qs : List Nat) (p : Nat) (s : State) (h : (s.port p).st = .down) :
      ((qs.foldl (fun s p => stopPort .down p s) s).port p).st = .down := by
    induction qs generalizing s with
    | nil => exact h
    | cons q qs ih =>
      refine ih _ ?_
      by_cases hq : p = q
      · exact hq ▸ stopPort_port ..
      · rw [stopPort_port_other _ _ hq, h]
  refine ⟨?_, foldl_kept (fun s : State => s.dev.letters) (fun s p => (stopPort_kept .down p s).1) ps s,
    foldl_kept State.chiplets (f := fun s p => stopPort .down p s)
      (fun s p => closeRoles_chiplets _ _ _ (s.updPort p (fun x => { x with st := .down, width := 0 }))) ps s⟩
  induction ps generalizing s with
  | nil => nofun
  | cons p ps ih => exact List.forall_mem_cons.2 ⟨hdown ps p _ (stopPort_port ..), ih _⟩

theorem journalAdd_updChiplet_letters (kind : BitVec 16) (key : Word) (body : List Byte) (c : Nat) (f : Chiplet → Chiplet)
    (s : State) : ((journalAdd kind key body s).updChiplet c f).dev.letters = s.dev.letters :=
  congrArg Dev.letters (journalAdd_dev kind key body s)

/-- A retired chiplet is marked, and its four ports are down. -/
theorem retireChipletNow_kept (c : Nat) (s : State) : ((retireChipletNow c s).chiplet c).retired = true ∧
    (∀ q, q < 4 → ((retireChipletNow c s).port (4 * c + q)).st = .down) ∧
    (retireChipletNow c s).dev.letters = s.dev.letters := by
  have hports (s : State) : (List.range 4).foldl (fun s q => stopPort .down (4 * c + q) s) s =
      ((List.range 4).map (fun q => 4 * c + q)).foldl (fun s p => stopPort .down p s) s := by
    rw [List.foldl_map]
  have hpublished (u : State) : (∀ n, (republish u).chiplet n = u.chiplet n) ∧ (∀ p, (republish u).port p = u.port p) ∧
      (republish u).dev.letters = u.dev.letters := ⟨fun _ => rfl, fun _ => rfl, rfl⟩
  obtain ⟨hdown, hletters, hchiplets⟩ := stopPorts_kept ((List.range 4).map (fun q => 4 * c + q))
    ((journalAdd kindRetirement (retireKey 5 c) (chipletBody c) s).updChiplet c (fun x => { x with retired := true }))
  simp only [retireChipletNow, hports]
  refine ⟨?_, fun q hq => ?_, ?_⟩
  · rw [(hpublished _).1, State.chiplet, hchiplets]
    exact congrArg Chiplet.retired (State.chiplet_updChiplet ..)
  · rw [(hpublished _).2.1]
    exact hdown _ (List.mem_map.2 ⟨q, List.mem_range.2 hq, rfl⟩)
  · rw [(hpublished _).2.2, hletters, journalAdd_updChiplet_letters]

/-- The end of a letter leaves every port's state: a receipt is at most held there. -/
theorem finishLetter_portSt (k : LetterKey) (st : BitVec 16) (rs : List Byte) (ls : List Line) (s : State) (p : Nat) :
    ((finishLetter k st rs ls s).port p).st = (s.port p).st := by
  have hreceipt (x : Receipt) (s : State) : ((sendReceipt x s).port p).st = (s.port p).st := by
    unfold sendReceipt
    split
    · by_cases hp : p = x.port.val
      · rw [hp, State.port_updPort]
      · rw [State.port_updPort_other _ _ hp]
    · rfl
  have hfinal (s : State) : ((sendFinal k st rs ls s).port p).st = (s.port p).st := by
    unfold sendFinal
    split
    · rfl
    · next r _ =>
      obtain ⟨n, hn⟩ := retryFor_state (finalStatus r st) s
      exact (hreceipt _ _).trans (by rw [hn]; rfl)
  have haudit (r : LetterRec) (s : State) : (auditLetter r (finalStatus r st) s).ports = s.ports := by
    unfold auditLetter
    split
    · exact journalAdd_ports ..
    · rfl
  unfold finishLetter
  split
  · rfl
  · split
    · rfl
    · dsimp only
      split
      · exact congrArg (fun ps => (Tbl.get {} ps p).st) (haudit _ s)
      · exact (hfinal _).trans (congrArg (fun ps => (Tbl.get {} ps p).st) (haudit _ s))

/-- A field that stands is lost to its own retirement. -/
theorem retireField_standing {l : Letter} {s : State} (h : Accepted opRetire l (retireRule l 3 64 [exclusiveCheck s]) s)
    (hlost : (s.field (unitIndex l)).lost = false) :
    ∃ v, exec (.retireField l) s = .next (finishLetter (letterKey l) stDone [] [] (fieldLoss (unitIndex l) v)) ∧
      (v.field (unitIndex l)).lost = true ∧ (v.field (unitIndex l)).retired = true := by
  have hexec : exec (.retireField l) s = .next (finishLetter (letterKey l) stDone [] [] (retireFieldNow (unitIndex l)
      (progress (letterKey l) (takeExclusive (letterKey l) (entered opRetire l (retireRule l 3 64 [exclusiveCheck s]) s))))) :=
    h.runs rfl rfl
  obtain ⟨roles, own, letters, heq, _⟩ := h.entered
  have hready (u : State) : (progress (letterKey l) (takeExclusive (letterKey l) u)).field (unitIndex l) = u.field (unitIndex l) := by rfl
  have hlost' := (congrArg FieldCtl.lost (hready (begun roles own letters s))).trans hlost
  rw [← heq] at hlost'
  obtain ⟨hgone, _, hretired, _⟩ := loseField_field true hlost'
  rw [retireFieldNow_standing hlost'] at hexec
  exact ⟨_, hexec, hgone, hretired.trans (Bool.or_true _)⟩

/-- A stack that fits on the others goes to its copy. -/
theorem retireStack_fits {l : Letter} {s : State} (h : Accepted opRetire l (retireRule l 4 24 [exclusiveCheck s]) s)
    (hstack : (s.stk (unitIndex l)).st = 2) (hfits : s.fitsWithout = true) :
    ∃ v, exec (.retireStack l) s = .next (proceed v) ∧ (v.stk (unitIndex l)).st = 3 ∧
      (v.letter (letterKey l)).isSome = true := by
  obtain ⟨roles, own, letters, heq, hway⟩ := h.entered
  have hready := (hway.takeExclusive (letterKey l)).progress
  generalize hv : progress (letterKey l) (takeExclusive (letterKey l) (begun roles own letters s)) = v at hready
  have hsame : v.fitsWithout = s.fitsWithout := by
    rw [← hv]
    exact fitsWithout_congr (by rfl) (by rfl) (by rfl) (by rfl)
  have hrests : (v.stk (unitIndex l)).st = 2 := by
    rw [← hv]
    exact hstack
  have hcopied : UnderWay l s (v.updStk (unitIndex l) (fun x => { x with st := 3 })) := hready.of_eq rfl rfl
  refine ⟨journalFor (letterKey l) kindRetirement (retireKey 4 (unitIndex l)) (stackBody (unitIndex l))
    (v.updStk (unitIndex l) (fun x => { x with st := 3 })), h.runs rfl ?_, ?_,
    (hcopied.journalFor kindRetirement (retireKey 4 (unitIndex l)) (stackBody (unitIndex l))).letter_isSome⟩
  · rw [heq, hv]
    exact retireStackFor_fits (unitIndex l) (letterKey l) hrests (hsame.trans hfits)
  · rw [journalFor, journalAdd_stk]
    have hupd (k : LetterKey) (f : LetterRec → LetterRec) (s : State) (n : Nat) : (s.updLetter k f).stk n = s.stk n := rfl
    rw [hupd, State.stk_updStk]

/-- Settles O42: each RETIRE letter. -/
theorem retireLettersRetire : Obligations.RetireLettersRetire := by
  intro l s i k
  refine ⟨fun h => h.runs rfl rfl, fun h => ?segment, fun h hlost hlive => ?lost, fun h hlost => retireField_standing h hlost,
    fun h hstack hfits => retireStack_fits h hstack hfits, fun h => ?chiplet⟩
  case segment =>
    obtain ⟨hsegments, hletters⟩ := retireSegmentOf_kept i (letterNum l 1 1)
      (progress k (entered opRetire l (retireRule l 2 1024 []) s))
    refine ⟨_, h.runs rfl rfl, ((retireRule_booked h).progress.of_letters hletters).ends s _ _ _, ?_⟩
    obtain ⟨roles, own, letters, heq, _⟩ := h.progressed
    rw [(SessionWork.finishLetter ..).block]
    exact hsegments.trans (by rw [heq]; rfl)
  case lost =>
    obtain ⟨roles, own, letters, heq, _⟩ := h.entered
    obtain ⟨hretired, hletters⟩ := retireLost_kept i (progress k (takeExclusive k (begun roles own letters s)))
    have hbooked := ((retireRule_booked h).takeExclusive k).progress
    rw [heq] at hbooked
    have hnow : retireFieldNow i (progress k (takeExclusive k (begun roles own letters s))) =
        retireLost i (progress k (takeExclusive k (begun roles own letters s))) :=
      (if_pos hlost).trans (if_neg (fun hgone => Bool.false_ne_true (hlive.symm.trans hgone)))
    refine ⟨_, h.runs rfl rfl, ?_⟩
    rw [heq, hnow]
    refine ⟨(hbooked.of_letters hletters).ends s _ _ _, ?_⟩
    rw [(SessionWork.finishLetter ..).field]
    exact hretired
  case chiplet =>
    obtain ⟨hretired, hdown, hletters⟩ := retireChipletNow_kept i
      (progress k (entered opRetire l (retireRule l 5 12 [(s.onlyHostPath i, 0x0107)]) s))
    have hbooked := (retireRule_booked h).progress
    refine ⟨_, h.runs rfl rfl, (hbooked.of_letters hletters).ends s _ _ _, ?_, fun q hq => ?_⟩
    · rw [State.chiplet, (SessionWork.finishLetter ..).chiplets]
      exact hretired
    · rw [finishLetter_portSt]
      exact hdown q hq

end Sys2Proof.Machine

/-! SUPPORT. Firmware. -/

namespace Sys2Proof.Machine
open Sys2Proof

/-! ### Firmware slots (R411, R487 to R491) -/

theorem SessionWork.fw {s u : State} (h : SessionWork s u) : u.fw = s.fw := by rw [h]

theorem agent_congr {s u : State} (h : u.fw = s.fw) (a : Nat) : u.agent a = s.agent a := by rw [State.agent, h]; rfl

theorem retrainPort_fw (p : Nat) (good : Byte) (s : State) : (retrainPort p good s).fw = s.fw := by
  have hclose (test : OpenRole → Bool) (port : Nat) (reason : Byte) (s : State) : (closeRoles test port reason s).fw = s.fw :=
    foldl_kept State.fw (f := fun s (r : OpenRole) => auditClosure r.maker port reason s)
      (fun s _ => (SessionWork.journalAdd _ _ _ s).fw) _ _
  unfold retrainPort trainPort
  split
  · exact hclose _ _ _ _
  · rfl

theorem restartPorts_fw (c : Nat) (s : State) : (restartPorts c s).fw = s.fw := by
  refine foldl_kept State.fw (fun s q => ?_) _ _
  dsimp only
  split
  · rfl
  · split
    · exact retrainPort_fw ..
    · rfl

theorem switchController_fw (i : Nat) (s : State) : (switchController i s).fw = s.fw := by
  unfold switchController
  generalize (if i = 0 then (0 : Fin 2) else 1) = q
  dsimp only
  split
  · split <;> rfl
  · rfl

/-- The boot of an instance leaves every slot pointer. -/
theorem bootEffect_fw (a i : Nat) (s : State) : (bootEffect a i s).fw = s.fw := by
  have htake (s : State) : (takeOver s).fw = s.fw := by
    simp only [takeOver]
    split <;> rfl
  unfold bootEffect
  split
  · split
    · exact htake s
    · rfl
  · split
    · rfl
    · split
      · rfl
      · split
        · exact restartPorts_fw i s
        · exact switchController_fw (1 - i) s

/-- So does the end of a boot. -/
theorem bootEnd_fw (a i : Nat) (s : State) : (bootEnd a i s).fw = s.fw := by
  have hgated (b : Nat) (s : State) : (wakeGated b s).fw = s.fw := by
    simp only [wakeGated]
    split <;> rfl
  have hloaded (b : Nat) (s : State) : (bootEnd.wakeLoaded b s).fw = s.fw := by
    unfold bootEnd.wakeLoaded
    split
    · exact hgated b s
    · rfl
  unfold bootEnd
  split
  · rfl
  · split
    · exact hloaded i _
    · split <;> rfl

theorem journalSlot_fw (a : Nat) (k : Option LetterKey) (b : Bool) (i : Nat) (s : State) : (journalSlot a k b i s).fw = s.fw := by
  unfold journalSlot
  dsimp only
  split
  · exact (SessionWork.journalFor ..).fw
  · exact (SessionWork.journalAdd ..).fw

/-- With no repair waiting, a field controller that restarted goes on with none. -/
theorem resumeRepairs_none {f : Nat} {s : State} (h : (s.field f).repairs = []) :
    resumeRepairs f s = s.putField f { s.field f with restarting := false, repairs := [] } := by
  simp only [resumeRepairs, h, List.foldl_nil]

/-- With instances left, the next one boots its other slot. -/
theorem bootNext_boots {a i : Nat} {is : List Nat} {s : State} (slot : Bool) (h : (s.agent a).pendingInst = i :: is) :
    (bootNext a slot s).agent a = { flipSlot i (s.agent a) with pendingInst := is, booting := some i } := by
  simp only [bootNext, h]
  rw [agent_congr (bootEffect_fw ..), State.agent_updAgent]

/-- With none left the activation is over. -/
theorem bootNext_ends {a : Nat} {s : State} (slot : Bool) (h : (s.agent a).pendingInst = []) :
    (bootNext a slot s).agent a = { s.agent a with booting := none, letter := none } := by
  unfold bootNext
  dsimp only
  split
  · next hmore => exact nomatch h.symm.trans hmore
  · split
    · rw [agent_congr (SessionWork.finishLetter ..).fw, State.agent_updAgent]
    · exact State.agent_updAgent ..

theorem bootEnd_repairs (a i : Nat) (s : State) : ((bootEnd a i s).field i).repairs = (s.field i).repairs := by
  have hgated (b : Nat) (s : State) : (wakeGated b s).field i = s.field i := by
    simp only [wakeGated]
    split <;> rfl
  have hloaded (b : Nat) (s : State) : (bootEnd.wakeLoaded b s).field i = s.field i := by
    unfold bootEnd.wakeLoaded
    split
    · exact hgated b s
    · rfl
  unfold bootEnd
  split
  · rw [State.field_updField]
  · split
    · exact congrArg FieldCtl.repairs (hloaded i _)
    · split <;> rfl

/-- The repairs of a field whose controller's instance ended its boot, where none waits. -/
def repairsResumed (a i : Nat) (s : State) : State := if a = 2 then resumeRepairs i s else s

theorem repairsResumed_fw {a i : Nat} {s : State} (h : a = 2 → (s.field i).repairs = []) : (repairsResumed a i s).fw = s.fw := by
  unfold repairsResumed
  split
  · next ha => rw [resumeRepairs_none (h ha)]; rfl
  · rfl

section
variable {agent : BitVec 3} {inst : BitVec 16} {s : State}

/-- An instance that reports healthy makes its image's SVN the least one its agent takes. -/
def healthy (a i : Nat) (s : State) : State :=
  s.updAgent a (fun x => { x with minSvn := x.stagedSvn, newer := x.newer ++ [i], booting := none })

theorem exec_instanceReportedHealthy_boots (hboot : (s.agent agent.toNat).booting = some inst.toNat)
    (hmicro : agent.toNat = 3 → (s.block inst.toNat).microWait = false) :
    exec (.instanceReportedHealthy agent inst) s = .next (bootNext agent.toNat (Tbl.get false (s.agent agent.toNat).active inst.toNat)
      (repairsResumed agent.toNat inst.toNat (bootEnd agent.toNat inst.toNat (healthy agent.toNat inst.toNat s)))) := by
  refine if_neg ?_
  rintro (hnot | ⟨ha, hwait⟩)
  · exact hnot hboot
  · exact Bool.false_ne_true ((hmicro ha).symm.trans hwait)

/-- An instance that did not boot is back in its old slot, and the activation stops. -/
def fallenBack (a i : Nat) (s : State) : State :=
  (i :: (s.agent a).pendingInst).foldl (fun u j => journalSlot a (s.agent a).letter (Tbl.get false (u.agent a).active j) j u)
    (bootEnd a i (s.updAgent a (fun y => { flipSlot i y with booting := none, pendingInst := [] })))

theorem exec_fwHealthTimeout_falls (hboot : (s.agent agent.toNat).booting = some inst.toNat)
    (hmicro : agent.toNat = 3 → (s.block inst.toNat).microWait = false) :
    exec (.fwHealthTimeout agent inst) s = .next (bootNext agent.toNat (!Tbl.get false (s.agent agent.toNat).active inst.toNat)
      (repairsResumed agent.toNat inst.toNat (fallenBack agent.toNat inst.toNat s))) := by
  refine if_neg ?_
  rintro (hnot | ⟨ha, hwait⟩)
  · exact hnot hboot
  · exact Bool.false_ne_true ((hmicro ha).symm.trans hwait)

theorem fallenBack_agent (a i : Nat) (s : State) :
    (fallenBack a i s).agent a = { flipSlot i (s.agent a) with booting := none, pendingInst := [] } := by
  have hfw : (fallenBack a i s).fw = (s.updAgent a (fun y => { flipSlot i y with booting := none, pendingInst := [] })).fw := by
    rw [fallenBack, foldl_kept State.fw (fun s j => journalSlot_fw ..), bootEnd_fw]
  rw [agent_congr hfw, State.agent_updAgent]

theorem fallenBack_repairs (a i : Nat) (s : State) : ((fallenBack a i s).field i).repairs = (s.field i).repairs := by
  have hslot (k : Option LetterKey) (b : Bool) (j : Nat) (s : State) : (journalSlot a k b j s).fieldCtls = s.fieldCtls := by
    unfold journalSlot
    dsimp only
    split
    · exact journalAdd_fieldCtls ..
    · exact journalAdd_fieldCtls ..
  rw [fallenBack, State.field, foldl_kept State.fieldCtls (fun s j => hslot _ _ _ _)]
  exact bootEnd_repairs ..

end

/-- The device as an activation's first step begins: one of the keepers' is exclusive. -/
def activateReady (l : Letter) (t : State) : State :=
  progress (letterKey l) (if fwAgentOf l = 1 then takeExclusive (letterKey l) t else t)

/-- FW_ACTIVATE's agent, its targets journalled and waiting to boot. -/
def activated (l : Letter) (t : State) : State :=
  ((fwTargets (fwAgentOf l) (fwInstance l) t).foldl (fun s i => journalSlot (fwAgentOf l) (some (letterKey l))
    (!Tbl.get false (s.agent (fwAgentOf l)).active i) i s) t).updAgent (fwAgentOf l) (fun x => { x with
      pendingInst := fwTargets (fwAgentOf l) (fwInstance l) t, letter := some (letterKey l) })

theorem activated_agent (l : Letter) (t : State) : (activated l t).agent (fwAgentOf l) = { t.agent (fwAgentOf l) with
    pendingInst := fwTargets (fwAgentOf l) (fwInstance l) t, letter := some (letterKey l) } := by
  rw [activated, State.agent_updAgent, agent_congr (foldl_kept State.fw (fun s i => journalSlot_fw ..) _ _)]

/-- Settles O40: lines that are staged, and each turn of an activation. -/
theorem firmwareIsStagedAndActivated : Obligations.FirmwareIsStagedAndActivated := by
  intro l agent inst s a x b y
  refine ⟨fun h hmore => ?stage, fun i is h htargets => ?activate, fun hboot hlast hfield hmicro => ?healthy, fun hb hwait => ?waits,
    fun hboot hfield hmicro => ?falls⟩
  case stage =>
    obtain ⟨roles, own, letters, heq, hway⟩ := h.progressed
    have htaken : takeFirmware a (stagedAfter l x) x = ({ x with staged := stagedAfter l x, valid := false }, false) := by
      simp only [takeFirmware, hmore, Bool.not_false, if_true]
    have hstaged : UnderWay l s ((begun roles own letters s).updAgent a (fun _ => { x with staged := stagedAfter l x, valid := false })) :=
      hway.of_eq rfl rfl
    refine ⟨_, h.runs rfl ?_, hstaged.answered stDone (leBytes 4 (stagedAfter l x).length) [], ?_⟩
    · simp only [heq]
      change finishLetter (letterKey l) (if (takeFirmware a (stagedAfter l x) x).2 = true then 0x0205 else stDone)
        (leBytes 4 (if (takeFirmware a (stagedAfter l x) x).2 = true then 0 else (stagedAfter l x).length)) []
        ((begun roles own letters s).updAgent a (fun _ => (takeFirmware a (stagedAfter l x) x).1)) = _
      rw [htaken]
      rfl
    · rw [agent_congr (SessionWork.finishLetter ..).fw]
      exact State.agent_updAgent ..
  case activate =>
    obtain ⟨roles, own, letters, heq, _⟩ := h.entered
    have hsame : fwTargets a (fwInstance l) (activateReady l (begun roles own letters s)) = i :: is := by
      refine Eq.trans ?_ htargets
      unfold activateReady
      split <;> rfl
    have hready : (activateReady l (begun roles own letters s)).agent a = x := by
      unfold activateReady
      split <;> rfl
    have hagent := activated_agent l (activateReady l (begun roles own letters s))
    rw [hsame, hready] at hagent
    have hboots := bootNext_boots false (congrArg FwAgent.pendingInst hagent)
    refine ⟨bootNext a false (activated l (activateReady l (begun roles own letters s))), h.runs rfl (by rw [heq]; rfl), ?_⟩
    rw [hboots, hagent]
    exact ⟨rfl, rfl, rfl, Tbl.get_set_same ..⟩
  case healthy =>
    have hrepairs : b = 2 → ((bootEnd b inst.toNat (healthy b inst.toNat s)).field inst.toNat).repairs = [] := fun hb =>
      (bootEnd_repairs ..).trans (hfield hb)
    have hagent : (repairsResumed b inst.toNat (bootEnd b inst.toNat (healthy b inst.toNat s))).agent b =
        { y with minSvn := y.stagedSvn, newer := y.newer ++ [inst.toNat], booting := none } := by
      rw [agent_congr (repairsResumed_fw hrepairs), agent_congr (bootEnd_fw ..)]
      exact State.agent_updAgent ..
    refine ⟨_, exec_instanceReportedHealthy_boots hboot hmicro, ?_⟩
    rw [bootNext_ends _ (by rw [hagent]; exact hlast), hagent]
    exact ⟨rfl, rfl, rfl, rfl, List.mem_append_right _ (List.mem_singleton_self _)⟩
  case waits =>
    exact ⟨if_pos (.inr ⟨hb, hwait⟩), if_pos (.inr ⟨hb, hwait⟩)⟩
  case falls =>
    have hrepairs : b = 2 → ((fallenBack b inst.toNat s).field inst.toNat).repairs = [] := fun hb =>
      (fallenBack_repairs ..).trans (hfield hb)
    have hagent : (repairsResumed b inst.toNat (fallenBack b inst.toNat s)).agent b =
        { flipSlot inst.toNat y with booting := none, pendingInst := [] } := by
      rw [agent_congr (repairsResumed_fw hrepairs)]
      exact fallenBack_agent ..
    refine ⟨_, exec_fwHealthTimeout_falls hboot hmicro, ?_⟩
    rw [bootNext_ends _ (by rw [hagent]), hagent]
    exact ⟨rfl, rfl, rfl, Tbl.get_set_same ..⟩

end Sys2Proof.Machine

/-! SUPPORT. Images at the gate. -/

namespace Sys2Proof.Machine
open Sys2Proof

/-! ### Stagings (R344, R370, R371) -/

theorem stagingOf_congr {s u : State} (h : u.dev.staging = s.dev.staging) (id : BitVec 64) : u.stagingOf id = s.stagingOf id := by
  rw [State.stagingOf, h, State.stagingOf]

@[simp] theorem stagingOf_putStaging (id : BitVec 64) (g : Option Staging) (s : State) : (putStaging id g s).stagingOf id = g :=
  Tbl.get_set_same ..

theorem stagingOf_finishLetter (k : LetterKey) (st : BitVec 16) (rs : List Byte) (ls : List Line) (s : State) (id : BitVec 64) :
    (finishLetter k st rs ls s).stagingOf id = s.stagingOf id :=
  stagingOf_congr (by rw [finishLetter_dev]) id

/-- The end of a staging's letter leaves its lines in the gate. -/
theorem stagingOf_endStage {id : BitVec 64} {g : Staging} {s : State} (status : BitVec 16) (n : Nat)
    (h : s.stagingOf id = some g) : (endStage id status n s).stagingOf id = some { g with key := none } := by
  simp only [endStage, h]
  cases hkey : g.key with
  | none => exact h.trans (congrArg some (by rw [← hkey]))
  | some k =>
    have hletters (f : LetterRec → LetterRec) (s : State) : (s.updLetter k f).stagingOf id = s.stagingOf id := rfl
    exact (stagingOf_finishLetter ..).trans ((hletters _ _).trans (stagingOf_putStaging ..))

/-- A letter under way that stages an image is over with the number of its lines. -/
theorem UnderWay.endStage {l : Letter} {s t : State} (h : UnderWay l s t) {id : BitVec 64} {g : Staging}
    (hstage : t.stagingOf id = some g) (hkey : g.key = some (letterKey l)) (status : BitVec 16) (n : Nat) :
    Answered l status (countBytes n) [] s (Machine.endStage id status n t) := by
  simp only [Machine.endStage, hstage, hkey]
  have hput : UnderWay l s (putStaging id (some { g with key := none }) t) := h.updDev _ rfl
  exact (hput.updLetter (fun r => { r with emitted := n }) fun _ => ⟨rfl, rfl, rfl⟩).answered _ _ _

/-- What an answer says is of letters in flight and receipts sent. -/
theorem Answered.of_eq {l : Letter} {st : BitVec 16} {rs : List Byte} {ls : List Line} {s u v : State}
    (h : Answered l st rs ls s u) (hletters : v.dev.letters = u.dev.letters) (hreceipts : v.dev.receipts = u.dev.receipts) :
    Answered l st rs ls s v := by
  unfold Answered State.letter at *
  rwa [hletters, hreceipts]

/-- Entries of a table that agree under `F` give the same list of values of `F`. -/
theorem map_set_congr {α β : Type} [DecidableEq α] {d v w : α} (hv : v ≠ d) (hw : w ≠ d) (F : α → β) (hF : F v = F w)
    (t : Tbl α) (i : Nat) : (Tbl.set d t i v).map (fun e => F e.2) = (Tbl.set d t i w).map (fun e => F e.2) := by
  rw [Tbl.set, if_neg hv, Tbl.set, if_neg hw]
  induction t with
  | nil => simp [Tbl.insert, hF]
  | cons e t ih =>
    unfold Tbl.insert
    split
    · simp [hF]
    · split
      · simp [hF]
      · simp [ih]

/-- Records that a staging is to bring. -/
def stagedRecords : Option Staging → Nat
  | some g => fileRecords (nth 0 g.lines 0)
  | none => 0

def heldRecords : Option Image → Nat
  | some g => g.records.length
  | none => 0

theorem usedBytes_eq (s : State) : s.usedBytes = 64 * ((s.dev.images.map (fun e => heldRecords e.2)).sum +
    (s.dev.staging.map (fun e => stagedRecords e.2)).sum + linesOf (s.dev.sessions.map Prod.snd)) := by
  rfl

/-- What a staging takes of the stacks is the number of its file's records: neither its letter nor other letters matter. -/
theorem stackFits_begun (roles : Tbl (List OpenRole)) (own : List (BitVec 4 × BitVec 16 × BitVec 16)) (letters : List LetterRec)
    (id : BitVec 64) {g h : Staging} (hlines : h.lines = g.lines) (s : State) :
    (putStaging id (some h) (begun roles own letters s)).stackFits = (putStaging id (some g) s).stackFits := by
  have hused : (putStaging id (some h) (begun roles own letters s)).usedBytes = (putStaging id (some g) s).usedBytes := by
    have hstaged : (Tbl.set none s.dev.staging id.toNat (some h)).map (fun e => stagedRecords e.2) =
        (Tbl.set none s.dev.staging id.toNat (some g)).map (fun e => stagedRecords e.2) :=
      map_set_congr (by simp) (by simp) stagedRecords (by simp only [stagedRecords, hlines]) _ _
    rw [usedBytes_eq, usedBytes_eq]
    exact congrArg (fun m : List Nat => 64 * ((s.dev.images.map (fun e => heldRecords e.2)).sum + m.sum +
      linesOf (s.dev.sessions.map Prod.snd))) hstaged
  have hbytes : (putStaging id (some h) (begun roles own letters s)).stackBytes = (putStaging id (some g) s).stackBytes := by
    rfl
  rw [State.stackFits, State.stackRoom, hused, hbytes, State.stackFits, State.stackRoom]

/-! ### STAGE_IMAGE (R344, R370) -/

/-- The staging that a letter begins: its lines, and the letter that waits for the gate. -/
def freshStage (l : Letter) : Staging :=
  { kind := stageKind l, slot := BitVec.ofNat 8 (letterNum l 9 1), lines := l.train.map imageLine, key := some (letterKey l) }

section
variable {l : Letter} {s : State} (h : Accepted opStageImage l (stageRule l s) s) (hoff : letterNum l 12 4 = 0)
include h hoff

/-- A STAGE_IMAGE from OFFSET 0 has its lines looked at. -/
theorem exec_stageImage_fresh {roles : Tbl (List OpenRole)} {own : List (BitVec 4 × BitVec 16 × BitVec 16)} {letters : List LetterRec}
    (heq : progress (letterKey l) (entered opStageImage l (stageRule l s) s) = begun roles own letters s) :
    exec (.stageImage l) s =
      .next (takeLines (stageId l) (putStaging (stageId l) (some (freshStage l)) (begun roles own letters s))) := by
  refine h.runs rfl ?_
  simp only [stageLines, heq, if_pos hoff]
  rfl

end

section
variable {id : BitVec 64} {g : Staging} {s : State} (h : s.stagingOf id = some g) (hlines : g.lines ≠ [])
include h hlines

theorem takeLines_badHead (hhead : fileHeadOk g.kind id (nth 0 g.lines 0) = false) :
    takeLines id s = dropStage id 0x0108 s := by
  have hbad : (!fileHeadOk g.kind id (nth 0 g.lines 0) || !s.holdsKey (fileWrap (nth 0 g.lines 0))
      (fileKeyId (nth 0 g.lines 0))) = true := by rw [hhead]; rfl
  simp only [takeLines, h, if_neg hlines, hbad, if_true]

/-- Lines of a file's head alone, of a key that the device holds and that fit, end their letter. -/
theorem takeLines_head (hhead : fileHeadOk g.kind id (nth 0 g.lines 0) = true)
    (hkey : s.holdsKey (fileWrap (nth 0 g.lines 0)) (fileKeyId (nth 0 g.lines 0)) = true) (hfits : s.stackFits = true)
    (hfew : g.lines.length ≤ 8) : takeLines id s = endStage id stDone g.lines.length s := by
  have hblock : ¬ (9 ≤ g.lines.length ∧ contentKey id g.lines = none) := fun hmore => by omega
  have hready : g.chunkReady = false := by
    have hstart : ¬ chunkStart (nth 0 g.lines 0) (g.chunk + 1) ≤ g.lines.length := by
      unfold chunkStart headLines
      omega
    simp only [Staging.chunkReady, hstart, decide_false, Bool.and_false]
  have hgood : (!fileHeadOk g.kind id (nth 0 g.lines 0) || !s.holdsKey (fileWrap (nth 0 g.lines 0))
      (fileKeyId (nth 0 g.lines 0))) = false := by rw [hhead, hkey]; rfl
  simp only [takeLines, h, if_neg hlines, hgood, hfits, if_neg hblock, hready, Bool.not_true, Bool.false_eq_true, if_false]

end

/-! ### The gate (R371, R372) -/

/-- A staging whose current chunk has passed. -/
def chunkPassed (g : Staging) (rs : List Line) : Staging := { g with chunk := g.chunk + 1, records := g.records ++ rs }

/-- The checks of a chunk, opened under `key`, at the gate. -/
def chunkGood (image : BitVec 64) (g : Staging) (key : BitVec 256) : Bool :=
  gateChecks g.records.getLast? (decide (g.chunk + 1 < fileChunks (nth 0 g.lines 0)))
    (recordsOf (openChunk image g.lines key g.chunk).1)

/-- The staging after a chunk that passed every check. -/
def passedChunk (image : BitVec 64) (g : Staging) (key : BitVec 256) : Staging :=
  chunkPassed g (recordsOf (openChunk image g.lines key g.chunk).1)

theorem chunk_waits {g : Staging} (hready : g.chunkReady = true) (hkey : g.key.isSome = true) :
    (!g.chunkReady || g.key.isNone) = false := by
  rw [hready, Option.isNone_eq_false_iff.2 hkey]
  rfl

section
variable {image : BitVec 64} {g : Staging} {s : State} (h : s.stagingOf image = some g) (hready : g.chunkReady = true)
  (hkey : g.key.isSome = true)
include h hready hkey

theorem exec_gateChunkEnd_noKey (hnone : contentKey image g.lines = none) :
    exec (.gateChunkEnd image) s = .next (dropStage image 0x0205 s) := by
  have hwaits := chunk_waits hready hkey
  simp only [exec, execGateChunkEnd, h, hwaits, hnone, Bool.false_eq_true, if_false]

section
variable {key : BitVec 256} (hsome : contentKey image g.lines = some key)
include hsome

theorem exec_gateChunkEnd_badRecord (hgood : chunkGood image g key = false) :
    exec (.gateChunkEnd image) s = .next (failChunk image g 0x0108 s) := by
  have hwaits := chunk_waits hready hkey
  rw [chunkGood] at hgood
  simp only [exec, execGateChunkEnd, h, hwaits, hsome, hgood, Bool.false_eq_true, if_false, Bool.not_false, if_true]

theorem exec_gateChunkEnd_badTag (hgood : chunkGood image g key = true) (htag : (openChunk image g.lines key g.chunk).2 = false) :
    exec (.gateChunkEnd image) s = .next (failChunk image g 0x0205 s) := by
  have hwaits := chunk_waits hready hkey
  rw [chunkGood] at hgood
  simp only [exec, execGateChunkEnd, h, hwaits, hsome, hgood, htag, Bool.false_eq_true, if_false, Bool.not_false, Bool.not_true, if_true]

section
variable (hgood : chunkGood image g key = true) (htag : (openChunk image g.lines key g.chunk).2 = true)
include hgood htag

/-- The last chunk that passed makes the image held. -/
theorem exec_gateChunkEnd_last (hlast : g.chunk + 1 = fileChunks (nth 0 g.lines 0)) : exec (.gateChunkEnd image) s =
    .next (becomeHeld image (passedChunk image g key) (putStaging image (some (passedChunk image g key)) s)) := by
  have hwaits := chunk_waits hready hkey
  rw [chunkGood] at hgood
  rw [hlast] at hgood
  simp only [exec, execGateChunkEnd, h, hwaits, hsome, hgood, htag, hlast, Bool.false_eq_true, if_false, Bool.not_true, if_true]
  rw [passedChunk, chunkPassed, hlast]

/-- Another chunk that passed is held, and the letter waits for the next one where it has arrived. -/
theorem exec_gateChunkEnd_more (hmore : g.chunk + 1 ≠ fileChunks (nth 0 g.lines 0))
    (hnext : (passedChunk image g key).chunkReady = true) :
    exec (.gateChunkEnd image) s = .next (putStaging image (some (passedChunk image g key)) s) := by
  have hwaits := chunk_waits hready hkey
  rw [chunkGood] at hgood
  rw [passedChunk, chunkPassed] at hnext
  simp only [exec, execGateChunkEnd, h, hwaits, hsome, hgood, htag, hmore, hnext, Bool.false_eq_true, if_false, Bool.not_true, if_true]
  rfl

theorem exec_gateChunkEnd_ends (hmore : g.chunk + 1 ≠ fileChunks (nth 0 g.lines 0))
    (hnext : (passedChunk image g key).chunkReady = false) : exec (.gateChunkEnd image) s =
      .next (endStage image stDone g.lines.length (putStaging image (some (passedChunk image g key)) s)) := by
  have hwaits := chunk_waits hready hkey
  rw [chunkGood] at hgood
  rw [passedChunk, chunkPassed] at hnext
  simp only [exec, execGateChunkEnd, h, hwaits, hsome, hgood, htag, hmore, hnext, Bool.false_eq_true, if_false, Bool.not_true]
  rfl

end

end

end

theorem finishLetter_images (k : LetterKey) (st : BitVec 16) (rs : List Byte) (ls : List Line) (s : State) :
    (finishLetter k st rs ls s).dev.images = s.dev.images := by
  rw [finishLetter_dev]

/-- A chunk that fails keeps the lines before it, and the records that passed; its letter is over. -/
theorem failChunk_keeps (image : BitVec 64) (g : Staging) (status : BitVec 16) (s : State) :
    (failChunk image g status s).stagingOf image =
      some { g with lines := g.lines.take (chunkStart (nth 0 g.lines 0) g.chunk), key := none } :=
  stagingOf_endStage status _ (stagingOf_putStaging ..)

/-- Settles O35: a head that the gate takes or drops, an image that is discarded, and a chunk by each of its checks. -/
theorem imagesPassTheGate : Obligations.ImagesPassTheGate := by
  refine ⟨fun l s => ?letters, fun image g s hstage hready hkey => ?gate⟩
  case letters =>
    intro id ls hd g
    refine ⟨fun h hoff htrain hfew hhead hheld hfits => ?taken, fun h hoff htrain hhead => ?bad, fun h => ?discard⟩
    case taken =>
      obtain ⟨roles, own, letters, heq, hway⟩ := h.progressed
      have hstage := stagingOf_putStaging id (some (freshStage l)) (begun roles own letters s)
      have hlines : (freshStage l).lines ≠ [] := by simpa [freshStage] using htrain
      have hlook := takeLines_head hstage hlines hhead hheld
        ((stackFits_begun roles own letters id (g := g) (h := freshStage l) rfl s).trans hfits) (by simpa [freshStage] using hfew)
      refine ⟨_, (exec_stageImage_fresh h hoff heq).trans (congrArg _ hlook), (hway.updDev _ rfl).endStage hstage rfl _ _, ?_⟩
      exact stagingOf_endStage _ _ hstage
    case bad =>
      obtain ⟨roles, own, letters, heq, hway⟩ := h.progressed
      have hstage := stagingOf_putStaging id (some (freshStage l)) (begun roles own letters s)
      have hlines : (freshStage l).lines ≠ [] := by simpa [freshStage] using htrain
      have hlook := takeLines_badHead hstage hlines hhead
      refine ⟨_, (exec_stageImage_fresh h hoff heq).trans (congrArg _ hlook),
        ⟨_, _, ((hway.updDev _ rfl).endStage hstage rfl 0x0108 0).of_eq rfl rfl⟩, stagingOf_putStaging ..⟩
    case discard =>
      have hgone := h.underWay.progress.updDev (fun d => { d with images := Tbl.set none d.images id.toNat none }) rfl
      refine ⟨_, h.runs rfl rfl, hgone.finishLetter _ _ _, ?_⟩
      rw [State.image, finishLetter_images, State.updDev_dev]
      dsimp only
      exact Tbl.get_set_same (none : Option Image) _ _ _
  case gate =>
    cases hcontent : contentKey image g.lines with
    | none => exact ⟨_, exec_gateChunkEnd_noKey hstage hready hkey hcontent, fun _ => stagingOf_putStaging .., nofun⟩
    | some key =>
      suffices hchunk : ∃ u, exec (.gateChunkEnd image) s = .next u ∧
          ((chunkGood image g key = false ∨ (openChunk image g.lines key g.chunk).2 = false → u.stagingOf image =
            some { g with lines := g.lines.take (chunkStart (nth 0 g.lines 0) g.chunk), key := none }) ∧
          (chunkGood image g key = true → (openChunk image g.lines key g.chunk).2 = true →
            g.chunk + 1 ≠ fileChunks (nth 0 g.lines 0) → ∃ h, u.stagingOf image = some h ∧ h.chunk = g.chunk + 1 ∧
              h.records = g.records ++ recordsOf (openChunk image g.lines key g.chunk).1) ∧
          (chunkGood image g key = true → (openChunk image g.lines key g.chunk).2 = true →
            g.chunk + 1 = fileChunks (nth 0 g.lines 0) → u =
              becomeHeld image (passedChunk image g key) (putStaging image (some (passedChunk image g key)) s))) by
        obtain ⟨u, hexec, hfails, hmore, hlast⟩ := hchunk
        refine ⟨u, hexec, nofun, fun key' hkey' => ?_⟩
        obtain rfl := Option.some.inj hkey'
        exact ⟨fun hbad => ⟨_, hfails hbad, rfl, rfl, rfl, rfl⟩, hmore, hlast⟩
      cases hgood : chunkGood image g key with
      | false => exact ⟨_, exec_gateChunkEnd_badRecord hstage hready hkey hcontent hgood, fun _ => failChunk_keeps .., nofun, nofun⟩
      | true =>
        cases htag : (openChunk image g.lines key g.chunk).2 with
        | false => exact ⟨_, exec_gateChunkEnd_badTag hstage hready hkey hcontent hgood htag, fun _ => failChunk_keeps .., nofun, nofun⟩
        | true =>
          by_cases hlast : g.chunk + 1 = fileChunks (nth 0 g.lines 0)
          · exact ⟨_, exec_gateChunkEnd_last hstage hready hkey hcontent hgood htag hlast, by simp,
              fun _ _ hmore => absurd hlast hmore, fun _ _ _ => rfl⟩
          · cases hnext : (passedChunk image g key).chunkReady with
            | true => exact ⟨_, exec_gateChunkEnd_more hstage hready hkey hcontent hgood htag hlast hnext, by simp,
                fun _ _ _ => ⟨_, stagingOf_putStaging .., rfl, rfl⟩, fun _ _ hend => absurd hend hlast⟩
            | false => exact ⟨_, exec_gateChunkEnd_ends hstage hready hkey hcontent hgood htag hlast hnext, by simp,
                fun _ _ _ => ⟨_, stagingOf_endStage _ _ (stagingOf_putStaging ..), rfl, rfl⟩, fun _ _ hend => absurd hend hlast⟩

end Sys2Proof.Machine

/-! SUPPORT. A live swap: its build, its flip and its members' reports. -/

namespace Sys2Proof.Machine
open State

theorem updSwap_tile (f : Swap → Swap) (s : State) (t : TileId) : (s.updSwap f).tile t = s.tile t := rfl

theorem askWake_tiles (b : Nat) (s : State) : (askWake b s).tiles = s.tiles := by
  unfold askWake
  split <;> rfl

theorem askWake_dev (b : Nat) (s : State) : (askWake b s).dev = s.dev := by
  unfold askWake
  split <;> rfl

theorem wakeTiles_tiles (ts : List TileId) (s : State) : (wakeTiles ts s).tiles = s.tiles :=
  foldl_kept State.tiles (fun s b => askWake_tiles b s) _ s

theorem wakeTiles_dev (ts : List TileId) (s : State) : (wakeTiles ts s).dev = s.dev :=
  foldl_kept State.dev (fun s b => askWake_dev b s) _ s

theorem streamExtent_dev (e : LodgeEntry) (i : Nat) (s : State) : (streamExtent e i s).dev = s.dev := by
  unfold streamExtent
  split
  · rfl
  · exact foldl_kept State.dev (fun _ _ => by rfl) _ s

theorem lodgePinned_dev (s : State) (e : LodgeEntry) : (lodgePinned s e).dev = s.dev := by
  unfold lodgePinned
  dsimp only
  split
  · rfl
  · exact streamExtent_dev ..

theorem loadLodging_dev (s : State) : (loadLodging s).dev = s.dev := by
  unfold loadLodging
  split
  · rfl
  · exact foldl_kept State.dev lodgePinned_dev _ _

/-- A change of each tile of a list that keeps something of a tile keeps it of every tile. -/
theorem foldl_updTile_kept {β : Type} (g : Tile → β) {f : State → TileId → Tile → Tile} (hf : ∀ s t x, g (f s t x) = g x)
    (ts : List TileId) (s : State) (t : TileId) : g ((ts.foldl (fun s t => s.updTile t (f s t)) s).tile t) = g (s.tile t) := by
  refine foldl_kept (fun s : State => g (s.tile t)) (fun s v => ?_) ts s
  by_cases h : t = v
  · rw [h, State.tile_updTile, hf]
  · rw [State.tile_updTile_other _ _ h]

/-- A change of the tiles of a list leaves every other tile. -/
theorem foldl_updTile_other {f : State → TileId → Tile → Tile} {ts : List TileId} {t : TileId} (h : t ∉ ts) (s : State) :
    (ts.foldl (fun s t => s.updTile t (f s t)) s).tile t = s.tile t := by
  induction ts generalizing s with
  | nil => rfl
  | cons v ts ih =>
    rw [List.foldl_cons, ih (fun hmem => h (List.mem_cons_of_mem _ hmem)),
      State.tile_updTile_other _ _ (fun heq => h (List.mem_cons.2 (.inl heq)))]

theorem foldl_updTile_dev {α : Type} (t : α → TileId) (f : State → α → Tile → Tile) (l : List α) (s : State) :
    (l.foldl (fun s e => s.updTile (t e) (f s e)) s).dev = s.dev := foldl_kept State.dev (fun _ _ => by rfl) l s

theorem Tile.writeLine_slab_kept (x : Tile) (n : Nat) (v : Line) :
    (x.writeLine memSlab n v).facing = x.facing ∧ (x.writeLine memSlab n v).wb = x.wb := ⟨rfl, rfl⟩

theorem Tile.writeLines_slab_kept (ls : List Line) (n : Nat) (x : Tile) :
    (x.writeLines memSlab n ls).facing = x.facing ∧ (x.writeLines memSlab n ls).wb = x.wb := by
  induction ls generalizing n x with
  | nil => exact ⟨rfl, rfl⟩
  | cons v vs ih => exact ih (n + 1) (x.writeLine memSlab n v)

theorem fillStaging_kept (ls : List Line) (ps : List Nat) (x : Tile) :
    (fillStaging ls ps x).facing = x.facing ∧ (fillStaging ls ps x).wb = x.wb :=
  ⟨foldl_kept Tile.facing (f := fun (x : Tile) (e : Nat × List Line) => x.writeLines memSlab (32 * e.1) e.2)
      (fun x e => (Tile.writeLines_slab_kept e.2 _ x).1) _ x,
    foldl_kept Tile.wb (f := fun (x : Tile) (e : Nat × List Line) => x.writeLines memSlab (32 * e.1) e.2)
      (fun x e => (Tile.writeLines_slab_kept e.2 _ x).2) _ x⟩

/-- The build of a tile leaves the half in use and the working buffer. -/
theorem buildTile_kept (g : Image) (p : Placement) (half : Bool) (pages : List (TileId × List Nat)) (t : TileId) (x : Tile) :
    (buildTile g p half pages t x).facing = x.facing ∧ (buildTile g p half pages t x).wb = x.wb := by
  unfold buildTile
  split
  · exact ⟨rfl, rfl⟩
  · split
    · exact fillStaging_kept ..
    · exact ⟨rfl, rfl⟩

/-- Without a letter that waits, no flip starts. -/
theorem startFlip_noLetter {s : State} (h : s.dev.swap.letter = none) : startFlip s = s := by
  simp only [startFlip, h]

/-- With no member to wait for, the swap ends: admission is open, and only the image before it is remembered. -/
theorem endSwap_ends {s : State} (h : s.dev.swap.members = []) :
    (endSwap s).dev.admissionClosed = false ∧ (endSwap s).dev.swap = { previous := s.dev.swap.previous } ∧
      (endSwap s).dev.placement = s.dev.placement := by
  unfold endSwap
  rw [if_neg (fun hne => hne h)]
  dsimp only
  split
  · exact ⟨by rw [finishLetter_dev, State.updDev_dev], by rw [finishLetter_dev, State.updDev_dev],
      by rw [finishLetter_dev, State.updDev_dev]⟩
  · exact ⟨rfl, rfl, rfl⟩

/-- The state a flip leaves before its end. -/
def flipped (g : Image) (p q : Placement) (s : State) : State :=
  let s1 := (placedTiles p.lines p.sections).foldl (fun s' t => s'.updTile t (flipTile g p q s.dev.swap.half t))
    (wakeTiles (placedTiles p.lines p.sections) s)
  let s2 := s1.dev.swap.pages.foldl (fun s e => s.updTile e.1 (fun x => e.2.foldl (fun x i => x.release i 1) x)) s1
  loadLodging (s2.updDev (fun d => { d with
    placement := some q
    swap := { d.swap with pages := [], members := s.splitMembers, previous := if s.dev.swap.half then some p.imageId else none } }))

theorem flipped_dev (g : Image) (p q : Placement) (s : State) : (flipped g p q s).dev = { s.dev with
    placement := some q
    swap := { s.dev.swap with pages := [], members := s.splitMembers, previous := if s.dev.swap.half then some p.imageId else none } } := by
  unfold flipped
  dsimp only
  rw [loadLodging_dev, State.updDev_dev, foldl_updTile_dev (fun e : TileId × List Nat => e.1), foldl_updTile_dev (fun t => t), wakeTiles_dev]

theorem execSwapFlip_flips {s : State} {id : BitVec 64} {p q : Placement} {g : Image} (hid : s.dev.swap.candidate = some id)
    (hp : s.dev.placement = some p) (hflip : s.dev.swap.flipping = true) (hwaves : s.dev.waves = []) (hmembers : s.dev.swap.members = [])
    (hbetween : s.betweenAll (placedTiles p.lines p.sections) = true) (hq : s.candidatePlacement id = some q)
    (hg : s.master q = some g) : execSwapFlip s = .next (endSwap (flipped g p q s)) := by
  simp only [execSwapFlip, hid, hp, hflip, hwaves, hmembers, hbetween, hq, hg]
  rfl

/-- The state a build leaves before a flip starts. -/
def swapBuilt (g : Image) (q : Placement) (s : State) : State :=
  ((sectionTiles q.sections).foldl (fun s t => s.updTile t (buildTile g q s.dev.swap.half s.dev.swap.pages t))
    (wakeTiles (sectionTiles q.sections) s)).updSwap (fun w => { w with building := false, built := true })

theorem swapBuilt_dev (g : Image) (q : Placement) (s : State) :
    (swapBuilt g q s).dev = { s.dev with swap := { s.dev.swap with building := false, built := true } } := by
  rw [swapBuilt, State.updSwap, State.updDev_dev, foldl_updTile_dev (fun t => t) (fun s t => buildTile g q s.dev.swap.half s.dev.swap.pages t), wakeTiles_dev]

/-- A build leaves the half in use and the working buffer of every tile, and all of a tile that is not built. -/
theorem swapBuilt_tile (g : Image) (q : Placement) (s : State) (t : TileId) :
    ((swapBuilt g q s).tile t).facing = (s.tile t).facing ∧ ((swapBuilt g q s).tile t).wb = (s.tile t).wb ∧
      (t ∉ sectionTiles q.sections → (swapBuilt g q s).tile t = s.tile t) := by
  have hwoken : (wakeTiles (sectionTiles q.sections) s).tile t = s.tile t := by
    rw [State.tile, wakeTiles_tiles]
    rfl
  rw [swapBuilt, updSwap_tile]
  exact ⟨(foldl_updTile_kept Tile.facing (f := fun s t => buildTile g q s.dev.swap.half s.dev.swap.pages t)
      (fun _ t x => (buildTile_kept _ _ _ _ t x).1) _ _ t).trans (congrArg Tile.facing hwoken),
    (foldl_updTile_kept Tile.wb (f := fun s t => buildTile g q s.dev.swap.half s.dev.swap.pages t)
      (fun _ t x => (buildTile_kept _ _ _ _ t x).2) _ _ t).trans (congrArg Tile.wb hwoken),
    fun hmem => (foldl_updTile_other (f := fun s t => buildTile g q s.dev.swap.half s.dev.swap.pages t) hmem _).trans hwoken⟩

theorem execSwapBuildComplete_builds {s : State} {id : BitVec 64} {q : Placement} {g : Image} (hid : s.dev.swap.candidate = some id)
    (hbuilding : s.dev.swap.building = true) (hq : s.candidatePlacement id = some q) (hg : s.master q = some g) :
    execSwapBuildComplete s = .next (startFlip (swapBuilt g q s)) := by
  simp only [execSwapBuildComplete, hid, hbuilding, hq, hg, Bool.not_true, Bool.false_eq_true, if_false]
  rfl

/-- Settles O37: the steps of a swap. -/
theorem swapsBuildAndFlip : Obligations.SwapsBuildAndFlip := by
  intro id m p q g s w
  refine ⟨fun hid hidle hnew hcandidate hheld hq hp hold hhalf => ?start, fun hid hbuilding hq hg hletter => ?complete,
    fun hid hp hflip hwaves hmembers hbetween hq hg hsplit => ?flip, fun hlast => ?report, fun hother => ?stranger⟩
  case start =>
    refine ⟨s.updSwap (fun w => { w with building := true, half := true, previous := none }), ?_, rfl, rfl, rfl⟩
    simp only [exec, execSwapBuildStart, show s.dev.swap.candidate = some id from hid, show s.dev.swap.building = false from hidle,
      show s.dev.swap.built = false from hnew, hq, hp, hcandidate, hheld, hold, hhalf, Bool.and_self, if_true, Bool.not_true, Bool.or_self,
      Bool.false_eq_true, if_false]
  case complete =>
    have hstays : startFlip (swapBuilt g q s) = swapBuilt g q s := startFlip_noLetter (by rw [swapBuilt_dev]; exact hletter)
    refine ⟨swapBuilt g q s, (execSwapBuildComplete_builds hid hbuilding hq hg).trans (by rw [hstays]), ?_, ?_, ?_,
      swapBuilt_tile g q s⟩
    all_goals rw [swapBuilt_dev]
  case flip =>
    have hdev := flipped_dev g p q s
    obtain ⟨hopen, hswap, hplaced⟩ := endSwap_ends (s := flipped g p q s) (by rw [hdev]; exact hsplit)
    refine ⟨_, execSwapFlip_flips hid hp hflip hwaves hmembers hbetween hq hg, ?_, hopen, ?_, ?_⟩
    · rw [hplaced, hdev]
    · rw [hswap]
    · rw [hswap, hdev]
  case report =>
    have hgone : (s.updSwap (fun w => { w with members := w.members.filter (fun m' => m' != m) })).dev.swap.members = [] := by
      show s.dev.swap.members.filter (fun m' => m' != m) = []
      rw [hlast]
      exact List.filter_cons_of_neg (by simp)
    obtain ⟨hopen, hswap, _⟩ := endSwap_ends hgone
    refine ⟨_, ?_, hopen, by rw [hswap]⟩
    have hlisted : s.dev.swap.members.contains m = true := by rw [hlast]; simp
    exact if_pos hlisted
  case stranger => exact if_neg (by simpa using hother)

end Sys2Proof.Machine

/-! SUPPORT. Placements, adapters and the letter of a swap. -/

namespace Sys2Proof.Machine
open State

/-- The end of a letter adds no session. -/
theorem finishLetter_noSessions {s : State} (h : s.dev.sessions = []) (k : LetterKey) (st : BitVec 16) (rs : List Byte)
    (ls : List Line) : (finishLetter k st rs ls s).dev.sessions = [] := by
  have haudit (r : LetterRec) : (auditLetter r (finalStatus r st) s).dev.sessions = [] := by
    rw [auditLetter_dev]
    exact h
  have hfinal (u : State) (hu : u.dev.sessions = []) : (sendFinal k st rs ls u).dev.sessions = [] := by
    unfold sendFinal
    split
    · exact hu
    · next r _ =>
      obtain ⟨n, hn⟩ := retryFor_state (finalStatus r st) u
      rw [State.updDev_dev, sendReceipt_dev, hn]
      simp only [State.updDev_dev, hu]
      rfl
  unfold finishLetter
  split
  · exact h
  · split
    · exact h
    · dsimp only
      split
      · exact haudit _
      · exact hfinal _ (haudit _)

/-! ### A placement without sessions (R354, R379) -/

theorem foldl_updTile_ports {α : Type} (t : α → TileId) (f : State → α → Tile → Tile) (l : List α) (s : State) :
    (l.foldl (fun s e => s.updTile (t e) (f s e)) s).ports = s.ports := foldl_kept State.ports (fun _ _ => by rfl) l s

theorem foldl_updField_kept (f : Nat → FieldCtl → FieldCtl) (l : List Nat) (s : State) :
    (l.foldl (fun s n => s.updField n (f n)) s).ports = s.ports ∧ (l.foldl (fun s n => s.updField n (f n)) s).dev = s.dev :=
  ⟨foldl_kept State.ports (fun _ _ => by rfl) l s, foldl_kept State.dev (fun _ _ => by rfl) l s⟩

theorem wakeTiles_ports (ts : List TileId) (s : State) : (wakeTiles ts s).ports = s.ports :=
  foldl_kept State.ports (fun s b => by unfold askWake; split <;> rfl) _ s

theorem streamExtent_ports (e : LodgeEntry) (i : Nat) (s : State) : (streamExtent e i s).ports = s.ports := by
  unfold streamExtent
  split
  · rfl
  · exact foldl_kept State.ports (fun _ _ => by rfl) _ s

theorem lodgePinned_ports (s : State) (e : LodgeEntry) : (lodgePinned s e).ports = s.ports := by
  unfold lodgePinned
  dsimp only
  split
  · rfl
  · exact streamExtent_ports ..

theorem loadLodging_ports (s : State) : (loadLodging s).ports = s.ports := by
  unfold loadLodging
  split
  · rfl
  · exact foldl_kept State.ports lodgePinned_ports _ _

theorem installPlacement_kept (p : Placement) (ts : List TileId) (load : TileId → Tile → Tile) (s : State) :
    (installPlacement p ts load s).ports = s.ports ∧
      (installPlacement p ts load s).dev = { s.dev with placement := some p, experts := [] } := by
  unfold installPlacement
  dsimp only
  constructor
  · rw [loadLodging_ports, State.updDev_ports, (foldl_updField_kept (loadField p) _ _).1,
      foldl_updTile_ports (fun t => t) (fun _ t => load t), wakeTiles_ports]
  · rw [loadLodging_dev, State.updDev_dev, (foldl_updField_kept (loadField p) _ _).2,
      foldl_updTile_dev (fun t => t) (fun _ t => load t), wakeTiles_dev]

theorem updFields_ports (g : FieldCtl → FieldCtl) (s : State) : (updFields g s).ports = s.ports :=
  foldl_kept State.ports (fun _ _ => by rfl) _ s

theorem endBoost_kept (s : State) : (endBoost s).ports = s.ports ∧ (endBoost s).dev = s.dev := by
  unfold endBoost
  split
  · exact ⟨rfl, rfl⟩
  · exact ⟨updFields_ports _ s, updFields_dev _ s⟩

/-- Without a session, the profile that waits is taken, and nothing else of the letters and sessions moves. -/
theorem takeProfile_kept {s : State} (h : s.dev.sessions = []) :
    (takeProfile s).ports = s.ports ∧
      (takeProfile s).dev = { s.dev with profile := s.dev.nextProfile, expressTenant := s.dev.nextTenant } := by
  have hsealed (u : State) (hu : u.dev.sessions = []) : sealAll u = u := by rw [sealAll, hu]; rfl
  unfold takeProfile
  dsimp only
  split
  · exact ⟨rfl, rfl⟩
  · split
    · rw [hsealed _ (by rw [(endBoost_kept _).2, journalAdd_dev]; exact h), (endBoost_kept _).1, (endBoost_kept _).2, journalAdd_ports, journalAdd_dev]
      exact ⟨rfl, rfl⟩
    · rw [journalAdd_ports, journalAdd_dev]
      exact ⟨rfl, rfl⟩

theorem releaseHold_kept (s : State) : (releaseHold s).ports = s.ports ∧
    ∃ held since, (releaseHold s).dev = { s.dev with wavesHeld := held, heldSince := since } := by
  unfold releaseHold
  split
  · exact ⟨rfl, s.dev.wavesHeld, s.dev.heldSince, rfl⟩
  · dsimp only
    split
    · exact ⟨journalAdd_ports .., false, none, by rw [State.updDev_dev, journalAdd_dev]⟩
    · exact ⟨rfl, false, none, rfl⟩

/-- The frames that go leave a session list without sessions. -/
theorem forgetFrames_takeProfile_kept {s : State} (h : s.dev.sessions = []) : (forgetFrames (takeProfile s)).ports = s.ports ∧
    (forgetFrames (takeProfile s)).dev = { s.dev with profile := s.dev.nextProfile, expressTenant := s.dev.nextTenant } := by
  obtain ⟨hports, hdev⟩ := takeProfile_kept h
  rw [forgetFrames, State.updDev_dev, State.updDev_ports, hdev]
  simp only [h, List.map_nil]
  exact ⟨hports, trivial⟩

/-- A placement's tiles are cleared, and the pins of experts it does not lodge go. -/
def clearedFor (p : Placement) (s : State) : State :=
  (clearTiles s).updDev (fun d => { d with pinned := d.pinned.filter (fun e => p.lodging.any (fun x => x.expert.toNat == e.1)) })

theorem clearedFor_kept (p : Placement) (s : State) : (clearedFor p s).ports = s.ports ∧
    (clearedFor p s).dev = { s.dev with pinned := (clearedFor p s).dev.pinned } := ⟨rfl, rfl⟩

theorem installImage_eq (g w : Image) (s : State) : installImage g w s = forgetFrames (takeProfile
    (installPlacement (placementOf g.records none) (placedTiles (placementOf g.records none).lines (placementOf g.records none).sections)
      (fun t => loadTile (placementOf g.records none) w t) (clearedFor (placementOf g.records none) s))) := rfl

theorem installImage_kept (g w : Image) {s : State} (h : s.dev.sessions = []) : (installImage g w s).ports = s.ports ∧
    ∃ pins, (installImage g w s).dev = { s.dev with pinned := pins, placement := some (placementOf g.records none), experts := []
                                                    profile := s.dev.nextProfile, expressTenant := s.dev.nextTenant } := by
  rw [installImage_eq]
  generalize placementOf g.records none = p
  obtain ⟨hclports, hcldev⟩ := clearedFor_kept p s
  obtain ⟨hports, hdev⟩ := installPlacement_kept p (placedTiles p.lines p.sections) (fun t => loadTile p w t) (clearedFor p s)
  rw [hcldev] at hdev
  obtain ⟨hfports, hfdev⟩ := forgetFrames_takeProfile_kept (s := installPlacement p (placedTiles p.lines p.sections) (fun t => loadTile p w t)
    (clearedFor p s)) (by rw [hdev]; exact h)
  rw [hdev] at hfdev
  exact ⟨hfports.trans (hports.trans hclports), _, hfdev⟩

/-- The state in which a load ends, before its letter does. -/
def loaded (g w : Image) (s : State) : State :=
  releaseHold ((installImage g w s).updDev (fun d => { d with loadFor := none, reloads := [] }))

/-- A load that finds no session puts the image's placement in force and leaves letters, ports and drain. -/
theorem loaded_kept (g w : Image) {s : State} (h : s.dev.sessions = []) :
    (loaded g w s).ports = s.ports ∧ (loaded g w s).dev.letters = s.dev.letters ∧ (loaded g w s).dev.sessions = [] ∧
      (loaded g w s).dev.draining = s.dev.draining ∧ (loaded g w s).dev.loadFor = none ∧
      (loaded g w s).dev.placement = some (placementOf g.records none) := by
  obtain ⟨hports, held, since, hdev⟩ := releaseHold_kept ((installImage g w s).updDev (fun d => { d with loadFor := none, reloads := [] }))
  obtain ⟨hinports, pins, hindev⟩ := installImage_kept g w h
  rw [State.updDev_ports, hinports] at hports
  rw [State.updDev_dev, hindev] at hdev
  rw [loaded, hports, hdev]
  exact ⟨rfl, rfl, h, rfl, rfl, rfl⟩

/-- A load that its letter started ends at once where no session and no wave stands. -/
theorem advanceLoad_ends {s : State} {k : LetterKey} {r : LetterRec} {g w : Image} (hload : s.dev.loadFor = some k)
    (hletter : s.letter k = some r) (hsessions : s.dev.sessions = []) (hwaves : s.dev.waves = [])
    (himage : s.image (BitVec.ofNat 64 (leAt r.params 0 8)) = some g) (hmaster : s.master (placementOf g.records none) = some w) :
    advanceLoad s = finishLetter k stDone [] [] (loaded g w s) := by
  simp only [advanceLoad, hload, hletter, hsessions, List.filter_nil, List.foldl_nil, hwaves, List.any_nil, Bool.or_self,
    Bool.false_eq_true, if_false, himage, hmaster]
  rfl

/-- The state of an accepted LOAD_PLACEMENT before what it lets go on. -/
def loadBegun (k : LetterKey) (s : State) : State :=
  (cancelBuild (progress k s)).updDev (fun d => { d with exclusive := some k, loadFor := some k })

theorem cancelBuild_kept (s : State) : (cancelBuild s).dev = { s.dev with swap := {} } ∧ (cancelBuild s).ports = s.ports ∧
    (cancelBuild s).coolant = s.coolant := by
  unfold cancelBuild
  refine ⟨?_, foldl_kept State.ports (fun _ _ => by rfl) _ s, foldl_kept State.coolant (fun _ _ => by rfl) _ s⟩
  dsimp only
  rw [State.updDev_dev, foldl_updTile_dev (fun e : TileId × List Nat => e.1)]

theorem loadBegun_dev (k : LetterKey) (s : State) : (loadBegun k s).dev = { (progress k s).dev with
    swap := {}, exclusive := some k, loadFor := some k } := by
  rw [loadBegun, State.updDev_dev, (cancelBuild_kept _).1]

theorem image_congr {s u : State} (h : u.dev.images = s.dev.images) (id : BitVec 64) : u.image id = s.image id := by
  rw [State.image, h, State.image]

theorem master_congr {s u : State} (h : u.dev.images = s.dev.images) (p : Placement) : u.master p = s.master p := by
  unfold State.master State.intact
  rw [image_congr h, image_congr h]

theorem letter_progress (k : LetterKey) (s : State) :
    (progress k s).letter k = (s.letter k).map (fun r => { r with progressed := true }) :=
  letter_updLetter s k (fun r => { r with progressed := true }) fun _ => rfl

/-- The load that a letter starts goes on at once and ends where nothing stands in its way. -/
theorem proceed_loads {v : State} {k : LetterKey} {r : LetterRec} {g w : Image} (hload : v.dev.loadFor = some k)
    (hletter : v.letter k = some r) (hsessions : v.dev.sessions = []) (hwaves : v.dev.waves = []) (hflow : v.coolant.flowStop = false)
    (hdrain : v.dev.draining = false) (himage : v.image (BitVec.ofNat 64 (leAt r.params 0 8)) = some g)
    (hmaster : v.master (placementOf g.records none) = some w) :
    proceed v = finishLetter k stDone [] [] (loaded g w v) := by
  obtain ⟨_, _, hlsessions, hldraining, _, _⟩ := loaded_kept g w hsessions
  rw [proceed, advanceStop_idle hflow, advanceLoad_ends hload hletter hsessions hwaves himage hmaster, settleAll_idle, advanceDrain_idle]
  · rw [finishLetter_dev]
    exact hldraining.trans hdrain
  · rw [finishLetter_noSessions hlsessions]
    exact fun e he => absurd he List.not_mem_nil

/-- What an accepted LOAD_PLACEMENT begins with: its letter under way, the load named, all else as before. -/
theorem loadBegun_ready {l : Letter} {s : State} (h : Accepted opLoadPlacement l (loadRule l s) s) :
    ∃ v, exec (.loadPlacement l) s = .next (proceed v) ∧ UnderWay l s v ∧ v.dev.loadFor = some (letterKey l) ∧
      (∃ r, v.letter (letterKey l) = some r ∧ r.params = l.params) ∧ v.coolant = s.coolant ∧
      v.dev = { s.dev with roles := v.dev.roles, ownLetters := v.dev.ownLetters, letters := v.dev.letters
                           swap := {}, exclusive := some (letterKey l), loadFor := some (letterKey l) } := by
  obtain ⟨roles, own, letters, heq, hway⟩ := h.progressed
  have hrecord : (begun roles own letters s).letter (letterKey l) =
      some { recordOf opLoadPlacement l (audited opLoadPlacement (loadRule l s)) with progressed := true } := by
    rw [← heq, letter_progress, h.letter, Option.map_some]
  have hdev := loadBegun_dev (letterKey l) (entered opLoadPlacement l (loadRule l s) s)
  rw [heq] at hdev
  have hports : (loadBegun (letterKey l) (entered opLoadPlacement l (loadRule l s) s)).ports = (begun roles own letters s).ports := by
    rw [loadBegun, State.updDev_ports, (cancelBuild_kept _).2.1, heq]
  have hcool : (loadBegun (letterKey l) (entered opLoadPlacement l (loadRule l s) s)).coolant = (begun roles own letters s).coolant := by
    rw [loadBegun, State.updDev_coolant, (cancelBuild_kept _).2.2, heq]
  have hexec : exec (.loadPlacement l) s = .next (proceed (loadBegun (letterKey l) (entered opLoadPlacement l (loadRule l s) s))) :=
    h.runs rfl rfl
  generalize loadBegun (letterKey l) (entered opLoadPlacement l (loadRule l s) s) = v at *
  have hletters : v.dev.letters = (begun roles own letters s).dev.letters := by rw [hdev]
  refine ⟨v, hexec, hway.of_eq hports hletters, by rw [hdev], ⟨_, (congrArg (List.find? (fun r : LetterRec => r.key == letterKey l)) hletters).trans hrecord, rfl⟩,
    hcool, ?_⟩
  rw [hdev]
  rfl

/-- LOAD_PLACEMENT without sessions and waves: the placement is in force at once. -/
theorem loadPlacement_ends {l : Letter} {s : State} {g w : Image} (h : Accepted opLoadPlacement l (loadRule l s) s)
    (hg : s.image (stageId l) = some g) (hw : s.master (placementOf g.records none) = some w) (hsessions : s.dev.sessions = [])
    (hwaves : s.dev.waves = []) (hflow : s.coolant.flowStop = false) (hdrain : s.dev.draining = false) :
    ∃ u, exec (.loadPlacement l) s = .next u ∧ Ends l 0x0000 s u ∧ u.dev.loadFor = none ∧
      u.dev.placement = some (placementOf g.records none) := by
  obtain ⟨v, hexec, hway, hload, ⟨r, hletter, hparams⟩, hcool, hdev⟩ := loadBegun_ready h
  have himages : v.dev.images = s.dev.images := by rw [hdev]
  have hnone : v.dev.sessions = [] := by rw [hdev]; exact hsessions
  obtain ⟨hlports, hlletters, _, _, hlload, hlplacement⟩ := loaded_kept g w hnone
  have hends := proceed_loads (g := g) (w := w) hload hletter hnone (by rw [hdev]; exact hwaves) (by rw [hcool]; exact hflow)
    (by rw [hdev]; exact hdrain) (by rw [hparams, image_congr himages]; exact hg) (by rw [master_congr himages]; exact hw)
  refine ⟨_, hexec.trans (congrArg Host.Outcome.next hends), ⟨[], [], (hway.of_eq hlports hlletters).answered _ _ _⟩, ?_, ?_⟩
  · rw [finishLetter_dev]
    exact hlload
  · rw [finishLetter_dev]
    exact hlplacement

/-! ### COMMIT_SWAP (R377) -/

theorem startFlip_kept {s : State} {k : LetterKey} (h : s.dev.swap.letter = some k) :
    (startFlip s).dev.swap.letter = some k ∧ (startFlip s).dev.exclusive = s.dev.exclusive ∧
      (startFlip s).dev.swap.flipping = (s.dev.swap.built || s.dev.swap.flipping) ∧
      (startFlip s).dev.admissionClosed = (s.dev.swap.built || s.dev.admissionClosed) := by
  have hprogress : (progress k s).dev = { s.dev with letters := (progress k s).dev.letters } := rfl
  simp only [startFlip, h]
  cases s.dev.swap.built
  · exact ⟨h, by simp⟩
  · rw [if_pos rfl, State.updDev_dev, hprogress]
    exact ⟨h, rfl, (Bool.true_or _).symm, (Bool.true_or _).symm⟩

theorem foldl_updStk_kept {α : Type} (n : α → Nat) (f : State → α → Stack → Stack) (l : List α) (s : State) :
    (l.foldl (fun s e => s.updStk (n e) (f s e)) s).ports = s.ports ∧ (l.foldl (fun s e => s.updStk (n e) (f s e)) s).dev = s.dev :=
  ⟨foldl_kept State.ports (fun _ _ => by rfl) l s, foldl_kept State.dev (fun _ _ => by rfl) l s⟩

theorem pinStages_kept (s : State) : (pinStages s).ports = s.ports ∧ (pinStages s).dev = s.dev := by
  unfold pinStages
  split
  · exact ⟨rfl, rfl⟩
  · exact foldl_updStk_kept (fun e : LodgeEntry => e.home) _ _ s

/-- Settles O36: the letters of placements, adapters and swaps. -/
theorem placementsAndAdaptersLoad : Obligations.PlacementsAndAdaptersLoad := by
  intro l s id k
  refine ⟨fun h => ?load, fun g w h hg hw hsessions hwaves hflow hdrain => loadPlacement_ends h hg hw hsessions hwaves hflow hdrain,
    fun h => ?adapter, fun h => ?policy, fun h hcandidate => ?swap⟩
  case load =>
    obtain ⟨roles, own, letters, heq, _⟩ := h.progressed
    have hdev := loadBegun_dev k (entered opLoadPlacement l (loadRule l s) s)
    refine ⟨_, h.runs rfl rfl, ?_⟩
    show (loadBegun k _).dev.loadFor = some k ∧ (loadBegun k _).dev.exclusive = some k ∧ (loadBegun k _).dev.swap = {} ∧
      (loadBegun k _).dev.placement = s.dev.placement
    rw [hdev, heq]
    exact ⟨rfl, rfl, rfl, rfl⟩
  case adapter =>
    obtain ⟨roles, own, letters, heq, hway⟩ := h.progressed
    refine ⟨_, h.runs rfl rfl, ⟨[], [], ?_⟩, ?_⟩
    · rw [heq]
      exact (hway.updDev _ rfl).answered _ _ _
    · rw [finishLetter_dev]
      exact Tbl.get_set_same (0 : BitVec 64) _ _ _
  case policy =>
    obtain ⟨roles, own, letters, heq, hway⟩ := h.progressed
    obtain ⟨hports, hdev⟩ := pinStages_kept (withClasses l (begun roles own letters s))
    refine ⟨_, h.runs rfl rfl, ⟨[], [], ?_⟩, ?_⟩
    · rw [heq]
      exact ((hway.updDev _ rfl).of_eq hports (congrArg Dev.letters hdev)).answered _ _ _
    · rw [heq, finishLetter_dev]
      exact congrArg Dev.pinned hdev
  case swap =>
    obtain ⟨roles, own, letters, heq, _⟩ := h.entered
    refine ⟨_, h.runs rfl rfl, ?_⟩
    rw [heq]
    dsimp only
    rw [if_pos (by exact hcandidate)]
    exact startFlip_kept (k := k) rfl

end Sys2Proof.Machine

/-! SUPPORT. Sessions' letters. -/

namespace Sys2Proof.Machine
open State

/-! ### The end of an unaudited letter (R335, R337) -/

/-- A letter that waits for no record: it is in flight with its ports as they were, and nothing of it is in the journal. -/
def Unaudited (l : Letter) (s t : State) : Prop :=
  t.ports = s.ports ∧ t.dev.member = s.dev.member ∧ ∃ r, t.letter (letterKey l) = some r ∧ r.finalStatus = none ∧
    r.recovered = none ∧ r.audit = false ∧ r.journalWait = false ∧ r.session = l.session

section
variable {l : Letter} {s t : State}

theorem Unaudited.of_eq {u : State} (h : Unaudited l s t) (hports : u.ports = t.ports) (hletters : u.dev.letters = t.dev.letters)
    (hmember : u.dev.member = t.dev.member) : Unaudited l s u := by
  obtain ⟨hsame, hsender, r, hletter, hr⟩ := h
  exact ⟨hports.trans hsame, hmember.trans hsender, r, (congrArg _ hletters).trans hletter, hr⟩

/-- A letter that no role signs is not audited. -/
theorem Accepted.unaudited {op : BitVec 16} {r : LetterRule} (h : Accepted op l r s) (haudit : audited op r = false) :
    Unaudited l s (Machine.entered op l r s) := by
  obtain ⟨roles, own, letters, heq, hway⟩ := h.entered
  obtain ⟨hports, _⟩ := hway
  rw [← heq] at hports
  refine ⟨hports, ?_, _, h.letter, rfl, rfl, haudit, rfl, rfl⟩
  rw [heq]
  rfl

theorem Unaudited.progress (h : Unaudited l s t) : Unaudited l s (Machine.progress (letterKey l) t) := by
  obtain ⟨hports, hmember, r, hletter, hr⟩ := h
  refine ⟨hports, hmember, { r with progressed := true }, ?_, hr⟩
  rw [letter_progress, hletter, Option.map_some]

/-- An unaudited letter ends with its receipt. -/
theorem Unaudited.sends (h : Unaudited l s t) (st : BitVec 16) (rs : List Byte) (ls : List Line) :
    finishLetter (letterKey l) st rs ls t = sendFinal (letterKey l) st rs ls t := by
  obtain ⟨_, _, r, hletter, hlive, _, haudit, hwait, _⟩ := h
  simp only [finishLetter, hletter, hlive, Option.isSome_none, Bool.false_eq_true, if_false, auditLetter, haudit, State.waitsCommit,
    hwait, Bool.false_and]

/-- An unaudited letter is over with the status it ends with. -/
theorem Unaudited.finished (h : Unaudited l s t) (st : BitVec 16) (rs : List Byte) (ls : List Line) :
    Finished l st s (finishLetter (letterKey l) st rs ls t) := by
  rw [h.sends]
  obtain ⟨hports, hmember, r, hletter, _, hrecovered, _, _, hsession⟩ := h
  have hkey := letter_key hletter
  have hstatus : finalStatus r st = st := by
    unfold finalStatus
    split
    · next hst => rw [hrecovered, hst]; rfl
    · rfl
  obtain ⟨n, hn⟩ := retryFor_state (finalStatus r st) t
  simp only [sendFinal, hletter]
  refine ⟨?_, fun hopen => ⟨receiptOf (retryFor (finalStatus r st) t).2 r (finalStatus r st) true
    (if r.noRetry then 0 else (retryFor (finalStatus r st) t).1) rs ls, ?_, ?_, ?_, hstatus, rfl, hsession, ?_⟩⟩
  · rw [State.letter, State.updDev_dev]
    simp only [List.find?_eq_none]
    intro x hx
    simpa using (List.mem_filter.1 hx).2
  · rw [State.updDev_dev, sendReceipt, if_neg]
    · exact List.mem_append_right _ (List.mem_singleton_self _)
    · have hport : ((retryFor (finalStatus r st) t).2.port r.key.port.val) = s.port l.port.val := by
        rw [hn, hkey, State.port, State.updDev_ports, hports]
        rfl
      rw [receiptOf, hport]
      rcases hopen with hhost | hup
      · rw [hhost]; simp
      · rw [hup]; simp
  · exact congrArg LetterKey.port hkey
  · exact congrArg LetterKey.id hkey
  · rw [receiptOf, hn]
    exact hmember

end

/-- What the ends of other letters leave: no letter comes back, and no receipt goes. -/
def Settles (s u : State) : Prop :=
  (∀ k, s.letter k = none → u.letter k = none) ∧ ∀ r ∈ s.dev.receipts, r ∈ u.dev.receipts

section
variable {s t u : State}

theorem Settles.of_eq (hletters : u.dev.letters = s.dev.letters) (hreceipts : u.dev.receipts = s.dev.receipts) : Settles s u :=
  ⟨fun _ h => (congrArg _ hletters).trans h, fun _ h => hreceipts.symm ▸ h⟩

theorem Settles.trans (h : Settles s t) (h' : Settles t u) : Settles s u :=
  ⟨fun k hk => h'.1 k (h.1 k hk), fun r hr => h'.2 r (h.2 r hr)⟩

/-- A letter that is over stays over. -/
theorem Finished.settles {l : Letter} {st : BitVec 16} {v : State} (h : Finished l st v s) (hs : Settles s u) : Finished l st v u := by
  obtain ⟨hgone, hreceipt⟩ := h
  refine ⟨hs.1 _ hgone, fun hopen => ?_⟩
  obtain ⟨r, hr, hrest⟩ := hreceipt hopen
  exact ⟨r, hs.2 r hr, hrest⟩

theorem settles_updLetter (k : LetterKey) (f : LetterRec → LetterRec) (hf : ∀ r, (f r).key = r.key) (s : State) :
    Settles s (s.updLetter k f) := by
  refine ⟨fun j hj => ?_, fun _ h => h⟩
  have hsame : (fun r : LetterRec => r.key == j) ∘ (fun r => if r.key = k then f r else r) = fun r => r.key == j := by
    funext r
    by_cases h : r.key = k <;> simp [h, hf]
  unfold State.letter State.updLetter
  rw [State.updDev_dev, List.find?_map, hsame]
  rw [State.letter] at hj
  rw [hj]
  rfl

theorem settles_sendFinal (k : LetterKey) (st : BitVec 16) (rs : List Byte) (ls : List Line) (s : State) :
    Settles s (sendFinal k st rs ls s) := by
  have hsent (x : Receipt) (s : State) : ∀ r ∈ s.dev.receipts, r ∈ (sendReceipt x s).dev.receipts := by
    intro r hr
    unfold sendReceipt
    split
    · exact hr
    · exact List.mem_append_left _ hr
  unfold sendFinal
  split
  · exact .of_eq rfl rfl
  · next r _ =>
    obtain ⟨n, hn⟩ := retryFor_state (finalStatus r st) s
    dsimp only
    rw [hn]
    refine ⟨fun j hj => ?_, fun x hx => hsent _ _ _ hx⟩
    rw [State.letter, State.updDev_dev, sendReceipt_dev]
    simp only [State.updDev_dev, List.find?_eq_none] at hj ⊢
    rw [State.letter, List.find?_eq_none] at hj
    exact fun x hx => hj x (List.mem_of_mem_filter hx)

theorem settles_finishLetter (k : LetterKey) (st : BitVec 16) (rs : List Byte) (ls : List Line) (s : State) :
    Settles s (finishLetter k st rs ls s) := by
  have haudit (r : LetterRec) : Settles s (auditLetter r (finalStatus r st) s) := by
    unfold auditLetter
    split
    · exact Settles.trans (settles_updLetter r.key (fun x => { x with journalWait := true, waitSeq := s.journal.nextSeq }) (fun _ => rfl) s)
        (.of_eq (congrArg Dev.letters (journalAdd_dev _ _ _ _)) (congrArg Dev.receipts (journalAdd_dev _ _ _ _)))
    · exact .of_eq rfl rfl
  unfold finishLetter
  split
  · exact .of_eq rfl rfl
  · split
    · exact .of_eq rfl rfl
    · dsimp only
      split
      · exact (haudit _).trans (settles_updLetter k _ (by intro _; rfl) _)
      · exact (haudit _).trans (settles_sendFinal ..)

end

/-! ### A session through the end of a letter -/

/-- A table whose values are mapped holds the mapped value where that is not the default. -/
theorem Tbl.get_mapV {α : Type} [DecidableEq α] {d : α} {f : α → α} (hd : f d = d) {t : Tbl α} {i : Nat}
    (h : f (Tbl.get d t i) ≠ d) : Tbl.get d (Tbl.mapV d f t) i = f (Tbl.get d t i) := by
  induction t with
  | nil => exact absurd hd h
  | cons e t ih =>
    obtain ⟨k, v⟩ := e
    by_cases hk : i = k
    · have hget : Tbl.get d ((k, v) :: t) i = v := if_pos hk
      rw [hget] at h
      rw [hget, Tbl.mapV, List.map_cons, List.filter_cons_of_pos (by simpa using h)]
      exact if_pos hk
    · have hget : Tbl.get d ((k, v) :: t) i = Tbl.get d t i := if_neg hk
      rw [hget] at h
      rw [hget, ← ih h, Tbl.mapV, List.map_cons, List.filter_cons]
      split
      · exact if_neg hk
      · rfl

/-- The queue of a session without one letter. -/
def Session.without (k : LetterKey) (x : Session) : Session := { x with queue := x.queue.filter (fun q => q != k) }

theorem Session.without_self {k : LetterKey} {x : Session} (h : x.queue = []) : x.without k = x := by
  obtain ⟨⟩ := x
  cases h
  rfl

/-- The end of a letter that is in flight takes it off the queue of a session that is not free. -/
theorem sendFinal_session {k : LetterKey} {r : LetterRec} {s : State} {n : Nat} (hletter : s.letter k = some r)
    (hstate : (s.session n).state ≠ .free) (st : BitVec 16) (rs : List Byte) (ls : List Line) :
    (sendFinal k st rs ls s).session n = (s.session n).without k := by
  obtain ⟨m, hm⟩ := retryFor_state (finalStatus r st) s
  simp only [sendFinal, hletter]
  rw [State.session, State.updDev_dev, sendReceipt_dev, hm]
  exact Tbl.get_mapV (f := Session.without k) rfl (fun hfree => hstate (congrArg Session.state hfree))

/-- The end of a letter changes no more of a session that is not free than its queue. -/
theorem finishLetter_session {s : State} {n : Nat} (hstate : (s.session n).state ≠ .free) (k : LetterKey) (st : BitVec 16)
    (rs : List Byte) (ls : List Line) :
    (finishLetter k st rs ls s).session n = s.session n ∨ (finishLetter k st rs ls s).session n = (s.session n).without k := by
  have haudit (r : LetterRec) : (auditLetter r (finalStatus r st) s).session n = s.session n := by
    rw [State.session, auditLetter_dev]
    rfl
  unfold finishLetter
  split
  · exact .inl rfl
  · next r _ =>
    split
    · exact .inl rfl
    · dsimp only
      split
      · exact .inl (haudit r)
      · cases hletter : (auditLetter r (finalStatus r st) s).letter k with
        | none =>
          simp only [sendFinal, hletter]
          exact .inl (haudit r)
        | some r' =>
          rw [sendFinal_session hletter (by rw [haudit]; exact hstate), haudit]
          exact .inr rfl

/-- With an empty queue nothing of such a session changes. -/
theorem finishLetter_session_empty {s : State} {n : Nat} (hstate : (s.session n).state ≠ .free) (hqueue : (s.session n).queue = [])
    (k : LetterKey) (st : BitVec 16) (rs : List Byte) (ls : List Line) : (finishLetter k st rs ls s).session n = s.session n := by
  rcases finishLetter_session hstate k st rs ls with h | h
  · exact h
  · rw [h, Session.without_self hqueue]

/-! ### What a write to the slabs leaves -/

/-- What storing lines and trails leaves of the device. -/
def Stores (s u : State) : Prop :=
  u.ports = s.ports ∧ u.dev.letters = s.dev.letters ∧ u.dev.receipts = s.dev.receipts ∧ u.dev.member = s.dev.member ∧
    u.dev.sessions = s.dev.sessions

theorem Stores.refl (s : State) : Stores s s := ⟨rfl, rfl, rfl, rfl, rfl⟩

theorem Stores.trans {s t u : State} (h : Stores s t) (h' : Stores t u) : Stores s u := by
  obtain ⟨hports, hletters, hreceipts, hmember, hsessions⟩ := h
  obtain ⟨hports', hletters', hreceipts', hmember', hsessions'⟩ := h'
  exact ⟨hports'.trans hports, hletters'.trans hletters, hreceipts'.trans hreceipts, hmember'.trans hmember, hsessions'.trans hsessions⟩

theorem stores_putTile (s : State) (t : TileId) (x : Tile) : Stores s (s.putTile t x) := ⟨rfl, rfl, rfl, rfl, rfl⟩

theorem stores_fold {α : Type} {f : State → α → State} (hf : ∀ s a, Stores s (f s a)) (l : List α) (s : State) : Stores s (l.foldl f s) := by
  induction l generalizing s with
  | nil => exact .refl s
  | cons a l ih => exact (hf s a).trans (ih _)

theorem stores_firstPage {entry : Word} {ts : List TileId} {s : State} {r : TileId × Nat × State}
    (h : firstPage entry s ts = some r) : Stores s r.2.2 := by
  induction ts with
  | nil => exact absurd h (by simp [firstPage])
  | cons t ts ih =>
    unfold firstPage at h
    split at h
    · cases h
      exact stores_putTile ..
    · exact ih h

theorem stores_takePages {entry : Word} {ts : List TileId} {n : Nat} {s : State} {r : List (TileId × Nat) × State}
    (h : takePages entry ts n s = some r) : Stores s r.2 := by
  induction n generalizing s r with
  | zero =>
    cases h
    exact .refl s
  | succ n ih =>
    unfold takePages at h
    split at h
    · cases h
    · next p hp =>
      obtain ⟨q, hq, rfl⟩ := Option.map_eq_some_iff.1 h
      show Stores s q.2
      exact (stores_firstPage hp).trans (ih hq)

theorem stores_fillPages (ls : List Line) (ps : List (TileId × Nat)) (s : State) : Stores s (fillPages ls ps s) :=
  stores_fold (f := fun (s : State) (e : (TileId × Nat) × List Line) => s.updTile e.1.1 (fun x => x.writeLines memSlab (32 * e.1.2) e.2))
    (fun s e => stores_putTile s e.1.1 _) _ s

theorem stores_journalAdd (kind : BitVec 16) (key : Word) (body : List Byte) (s : State) : Stores s (journalAdd kind key body s) :=
  ⟨journalAdd_ports .., by rw [journalAdd_dev], by rw [journalAdd_dev], by rw [journalAdd_dev], by rw [journalAdd_dev]⟩

theorem stores_sealTag (tenant : BitVec 12) (s : State) : Stores s (sealTag tenant s).2 := by
  unfold sealTag
  dsimp only
  split
  · exact .refl s
  · have hcounted (d : Dev → Tbl TenantKey) : Stores s (s.updDev (fun x => { x with tenantKeys := d x })) := ⟨rfl, rfl, rfl, rfl, rfl⟩
    dsimp only
    split
    · exact (hcounted _).trans (stores_journalAdd ..)
    · exact hcounted _

theorem stores_writeTrail (tenant : BitVec 12) (body : List Line) (r : TrailRec) (s : State) : Stores s (writeTrail tenant body r s).2 := by
  unfold writeTrail
  split
  · exact .refl s
  · exact stores_sealTag tenant s

/-- An adapter that comes to stay changes no more of a session than the adapter and its record. -/
theorem residentAdapter_kept {n : Nat} {s u : State} (h : residentAdapter n s = some u) :
    u.ports = s.ports ∧ u.dev.letters = s.dev.letters ∧ u.dev.member = s.dev.member ∧
      ∃ a r, u.session n = { s.session n with adapter := a, adapterRec := r } := by
  have hself : ∃ a r, s.session n = { s.session n with adapter := a, adapterRec := r } := ⟨_, _, rfl⟩
  unfold residentAdapter at h
  dsimp only at h
  split at h
  · cases h
    exact ⟨rfl, rfl, rfl, hself⟩
  · next a _ =>
    split at h
    · cases h
      exact ⟨rfl, rfl, rfl, hself⟩
    · obtain ⟨r, hr, rfl⟩ := Option.map_eq_some_iff.1 h
      obtain ⟨hports, hletters, _, hmember, hsessions⟩ :=
        ((stores_takePages hr).trans (stores_fillPages _ _ _)).trans (stores_writeTrail (s.session n).tenant _ (s.session n).adapterRec _)
      refine ⟨hports, hletters, hmember, some { a with pages := r.1 }, (writeTrail (s.session n).tenant a.lines
        (s.session n).adapterRec (fillPages a.lines r.1 r.2)).1, ?_⟩
      rw [State.session_updSession, State.session, hsessions]
      rfl

/-! ### OPEN (R303 to R306) -/

theorem leastRecent_mem {es : List (Nat × Session)} {e : Nat × Session} (h : leastRecent es = some e) : e ∈ es := by
  induction es generalizing e with
  | nil => exact absurd h (by simp [leastRecent])
  | cons a es ih =>
    unfold leastRecent at h
    split at h
    · cases h
      exact List.mem_cons_self
    · next f hf =>
      split at h
      · cases h
        exact List.mem_cons_self
      · cases h
        exact List.mem_cons_of_mem _ (ih hf)

theorem session_updSession_other (s : State) {n m : Nat} (f : Session → Session) (h : n ≠ m) :
    (s.updSession m f).session n = s.session n := State.session_putSession_other s _ h

theorem updSession_kept (s : State) (n : Nat) (f : Session → Session) : (s.updSession n f).ports = s.ports ∧
    (s.updSession n f).dev.letters = s.dev.letters ∧ (s.updSession n f).dev.member = s.dev.member := ⟨rfl, rfl, rfl⟩

theorem clearAdapt_session_other {n m : Nat} (h : n ≠ m) (s : State) : (clearAdapt m s).session n = s.session n :=
  session_updSession_other s (fun x => { x with adapt := none }) h

/-- Where a session begins to park, another one that is not free stays, but for a letter of its queue that ends. -/
theorem startPark_session_other {n m : Nat} (h : n ≠ m) {s : State} (hstate : (s.session n).state ≠ .free)
    (hqueue : (s.session n).queue = []) : (startPark m s).session n = s.session n := by
  rw [startPark, session_updSession_other _ _ h, abandonAdapt]
  split
  · rfl
  · rw [finishLetter_session_empty, clearAdapt_session_other h]
    · rwa [clearAdapt_session_other h]
    · rwa [clearAdapt_session_other h]

theorem settles_startPark (m : Nat) (s : State) : Settles s (startPark m s) := by
  have habandon : Settles s (abandonAdapt m s) := by
    unfold abandonAdapt
    split
    · exact .of_eq rfl rfl
    · exact (Settles.of_eq (u := clearAdapt m s) rfl rfl).trans (settles_finishLetter ..)
  exact habandon.trans (.of_eq rfl rfl)

/-- The session that makes room is another one. -/
theorem autoPark_kept {n : Nat} (t : BitVec 12) {s : State} (hstate : (s.session n).state ≠ .free)
    (hqueue : (s.session n).queue = []) : (autoPark n t s).session n = s.session n ∧ Settles s (autoPark n t s) := by
  unfold autoPark
  split
  · exact ⟨rfl, .of_eq rfl rfl⟩
  · next e he =>
    have hother : n ≠ e.1 := by
      have hlisted := (List.mem_filter.1 (leastRecent_mem he)).2
      simp only [Bool.and_eq_true, bne_iff_ne] at hlisted
      exact fun hn => hlisted.1.2 hn.symm
    exact ⟨startPark_session_other hother hstate hqueue, (settles_startPark e.1 s).trans (.of_eq rfl rfl)⟩

/-- OPEN makes its session and ends. -/
theorem open_opens {l : Letter} {s : State} (h : Accepted opOpen l (openRule l s) s) :
    ∃ u, exec (.open l) s = .next u ∧ Finished l 0x0000 s u ∧ ∃ a r, u.session l.session.toNat =
      { newSession l (entered opOpen l (openRule l s) s) with adapter := a, adapterRec := r } := by
  generalize he : entered opOpen l (openRule l s) s = e
  have hway : Unaudited l s (progress (letterKey l) e) := he ▸ (h.unaudited rfl).progress
  let s1 := (progress (letterKey l) e).putSession l.session.toNat (newSession l e)
  have hs1 : Unaudited l s s1 := hway.of_eq rfl rfl rfl
  have hnew : s1.session l.session.toNat = newSession l e := State.session_putSession ..
  obtain ⟨hports, hletters, hmember, a, r, hsession⟩ : ((residentAdapter l.session.toNat s1).getD s1).ports = s1.ports ∧
      ((residentAdapter l.session.toNat s1).getD s1).dev.letters = s1.dev.letters ∧
      ((residentAdapter l.session.toNat s1).getD s1).dev.member = s1.dev.member ∧
      ∃ a r, ((residentAdapter l.session.toNat s1).getD s1).session l.session.toNat =
        { s1.session l.session.toNat with adapter := a, adapterRec := r } := by
    cases hres : residentAdapter l.session.toNat s1 with
    | none => exact ⟨rfl, rfl, rfl, _, _, rfl⟩
    | some u => exact residentAdapter_kept hres
  rw [hnew] at hsession
  have hexec : exec (.open l) s = .next (if residenceFull l.session.toNat (letterTenant l) e then
      autoPark l.session.toNat (letterTenant l) (finishLetter (letterKey l) stDone [] [] ((residentAdapter l.session.toNat s1).getD s1))
      else finishLetter (letterKey l) stDone [] [] ((residentAdapter l.session.toNat s1).getD s1)) := h.runs rfl (by rw [he])
  generalize (residentAdapter l.session.toNat s1).getD s1 = s2 at hports hletters hmember hsession hexec
  have hfinished := (hs1.of_eq hports hletters hmember).finished stDone [] []
  have hstays : (finishLetter (letterKey l) stDone [] [] s2).session l.session.toNat =
      { newSession l e with adapter := a, adapterRec := r } := by
    rw [finishLetter_session_empty, hsession]
    · rw [hsession]
      exact fun hfree => SessState.noConfusion hfree
    · rw [hsession]
      rfl
  obtain ⟨hkept, hsettles⟩ := autoPark_kept (n := l.session.toNat) (letterTenant l) (s := finishLetter (letterKey l) stDone [] [] s2)
    (by rw [hstays]; exact fun hfree => SessState.noConfusion hfree) (by rw [hstays]; rfl)
  refine ⟨_, hexec, ?_⟩
  split
  · exact ⟨hfinished.settles hsettles, a, r, hkept.trans hstays⟩
  · exact ⟨hfinished, a, r, hstays⟩

/-! ### Letters that join their session's queue (R308, R353) -/

/-- The state in which an accepted letter has joined its session's queue. -/
def joined (op : BitVec 16) (l : Letter) (r : LetterRule) (s : State) : State :=
  (entered op l r s).updSession l.session.toNat (fun x => { x with queue := x.queue ++ [letterKey l] })

theorem entered_session (op : BitVec 16) (l : Letter) (r : LetterRule) (s : State) (n : Nat) : (entered op l r s).session n = s.session n := by
  obtain ⟨roles, own, letters, heq⟩ := entered_begun op l r s
  rw [heq]
  rfl

theorem joined_session (op : BitVec 16) (l : Letter) (r : LetterRule) (s : State) :
    (joined op l r s).session l.session.toNat =
      { s.session l.session.toNat with queue := (s.session l.session.toNat).queue ++ [letterKey l] } := by
  rw [joined, State.session_updSession, entered_session]

/-- A letter in flight is listed under its operation. -/
theorem listed_of_letter {s : State} {k : LetterKey} {r : LetterRec} {op : BitVec 16} (h : s.letter k = some r) (hop : r.opcode = op) :
    s.dev.letters.any (fun r => r.key == k && r.opcode == op) = true := by
  rw [List.any_eq_true]
  exact ⟨r, List.mem_of_find?_eq_some h, by simp [letter_key h, hop]⟩

/-- A letter that joins its session's queue. -/
theorem Accepted.joins {op : BitVec 16} {l : Letter} {r : LetterRule} {s : State} {i : Instr} (h : Accepted op l r s)
    (hexec : exec i s = .next (receive op l r (fun k s => queueLetter l k s) s)) :
    ∃ v, exec i s = .next (settle l.session.toNat v) ∧
      (v.session l.session.toNat).queue = (s.session l.session.toNat).queue ++ [letterKey l] ∧
      (v.session l.session.toNat).state = (s.session l.session.toNat).state ∧
      v.dev.letters.any (fun r => r.key == letterKey l && r.opcode == op) = true ∧ v.dev.receipts = s.dev.receipts := by
  obtain ⟨roles, own, letters, heq, _⟩ := h.entered
  refine ⟨joined op l r s, h.runs hexec rfl, by rw [joined_session], by rw [joined_session], listed_of_letter h.letter rfl, ?_⟩
  rw [joined, heq]
  rfl

/-- A GENERATE notes its grammar's image and joins the queue. -/
theorem generate_joins {l : Letter} {s : State} (h : Accepted opGenerate l (generateRule l s) s) :
    ∃ v, exec (.generate l) s = .next (settle l.session.toNat v) ∧
      v.letter (letterKey l) = some { recordOf opGenerate l (audited opGenerate (generateRule l s)) with
        grammarId := grammarImage l (entered opGenerate l (generateRule l s) s) } ∧
      v.session l.session.toNat = { s.session l.session.toNat with queue := (s.session l.session.toNat).queue ++ [letterKey l] } ∧
      v.dev.receipts = s.dev.receipts := by
  obtain ⟨roles, own, letters, heq, _⟩ := h.entered
  have hletter (f : LetterRec → LetterRec) (hf : ∀ r, (f r).key = r.key) :
      ((entered opGenerate l (generateRule l s) s).updLetter (letterKey l) f).letter (letterKey l) = _ :=
    (letter_updLetter _ _ f hf).trans (congrArg (Option.map f) h.letter)
  have hlast (s : State) (f : Session → Session) (n : Nat) (k : LetterKey) : (s.updSession n f).letter k = s.letter k := rfl
  refine ⟨_, h.runs rfl rfl, ?_, ?_, ?_⟩
  · rw [hlast]
    exact hletter _ (by intro _; rfl)
  · exact joined_session opGenerate l (generateRule l s) s
  · rw [heq]
    rfl

/-! ### The head of a queue (R308, R353) -/

/-- A queue without letters runs nothing. -/
theorem runQueue_empty {n : Nat} {s : State} (h : (s.session n).queue = []) (fuel : Nat) : runQueue n fuel s = s := by
  cases fuel with
  | zero => rfl
  | succ fuel =>
    have hhead : (s.session n).head s = none := by rw [Session.head, h]
    simp only [runQueue, hhead]
    split <;> rfl

/-- The head of a settled session's queue runs. -/
theorem runQueue_head {n : Nat} {s : State} {k : LetterKey} {ks : List LetterKey} {r : LetterRec} (hsettled : (s.session n).settled = true)
    (hqueue : (s.session n).queue = k :: ks) (hletter : s.letter k = some r) (fuel : Nat) :
    runQueue n (fuel + 1) s = if (runHead n r s).2 then runQueue n fuel (runHead n r s).1 else (runHead n r s).1 := by
  have hhead : (s.session n).head s = some r := by rw [Session.head, hqueue]; exact hletter
  simp only [runQueue, hsettled, hhead, Bool.not_true, Bool.false_eq_true, if_false]

/-- With no CLOSE, adaption, load or flow stop in the way, a session's queue goes on. -/
theorem settle_runs {n : Nat} {s : State} (hclose : (s.session n).closeKey = none) (hadapt : (s.session n).adapt = none)
    (hload : s.dev.loadFor = none) (hflow : s.coolant.flowStop = false) : settle n s = runQueue n 17 s := by
  simp [settle, hclose, hadapt, hload, hflow]

/-- What stands where nothing keeps the queue of a letter's session from going on. -/
structure Idle (l : Letter) (s : State) : Prop where
  queue : (s.session l.session.toNat).queue = []
  closeKey : (s.session l.session.toNat).closeKey = none
  adapt : (s.session l.session.toNat).adapt = none
  load : s.dev.loadFor = none
  flow : s.coolant.flowStop = false

section
variable {op : BitVec 16} {l : Letter} {r : LetterRule} {s : State} {i : Instr}

theorem Accepted.joined_unaudited (h : Accepted op l r s) (haudit : audited op r = false) : Unaudited l s (joined op l r s) :=
  (h.unaudited haudit).of_eq rfl rfl rfl

theorem Accepted.joined_letter (h : Accepted op l r s) :
    (joined op l r s).letter (letterKey l) = some (recordOf op l (audited op r)) := h.letter

/-- A letter that joins an empty queue is the head that runs. -/
theorem Accepted.heads (h : Accepted op l r s) (hidle : Idle l s) (hsettled : (s.session l.session.toNat).settled = true)
    (hexec : exec i s = .next (receive op l r (fun k s => queueLetter l k s) s)) :
    exec i s = .next (if (runHead l.session.toNat (recordOf op l (audited op r)) (joined op l r s)).2 then
      runQueue l.session.toNat 16 (runHead l.session.toNat (recordOf op l (audited op r)) (joined op l r s)).1
      else (runHead l.session.toNat (recordOf op l (audited op r)) (joined op l r s)).1) := by
  obtain ⟨hqueue, hclose, hadapt, hload, hflow⟩ := hidle
  obtain ⟨roles, own, letters, heq, _⟩ := h.entered
  have hsession := joined_session op l r s
  have hruns : settle l.session.toNat (joined op l r s) = runQueue l.session.toNat 17 (joined op l r s) := by
    refine settle_runs (by rw [hsession]; exact hclose) (by rw [hsession]; exact hadapt) ?_ ?_
    · rw [joined, heq]
      exact hload
    · rw [joined, heq]
      exact hflow
  rw [← runQueue_head (k := letterKey l) (ks := []) (by rw [hsession]; exact hsettled) (by rw [hsession, hqueue]; rfl) h.joined_letter,
    ← hruns]
  exact h.runs hexec rfl

/-- The head whose letter ends at once leaves an empty queue, and the queue is done. -/
theorem Accepted.headEnds (h : Accepted op l r s) (haudit : audited op r = false) {t : State}
    (hstate : (t.session l.session.toNat).state ≠ .free) (hqueue : (t.session l.session.toNat).queue = [letterKey l])
    (ht : t.ports = (progress (letterKey l) (joined op l r s)).ports ∧
      t.dev.letters = (progress (letterKey l) (joined op l r s)).dev.letters ∧
      t.dev.member = (progress (letterKey l) (joined op l r s)).dev.member) (rs : List Byte) (ls : List Line) :
    Finished l 0x0000 s (runQueue l.session.toNat 16 (finishLetter (letterKey l) stDone rs ls t)) ∧
      (runQueue l.session.toNat 16 (finishLetter (letterKey l) stDone rs ls t)).session l.session.toNat =
        { t.session l.session.toNat with queue := [] } := by
  obtain ⟨hports, hletters, hmember⟩ := ht
  have hway : Unaudited l s t := (h.joined_unaudited haudit).progress.of_eq hports hletters hmember
  have hfinished := hway.finished stDone rs ls
  have hends : (finishLetter (letterKey l) stDone rs ls t).session l.session.toNat = { t.session l.session.toNat with queue := [] } := by
    obtain ⟨_, _, rec, hletter, _⟩ := id hway
    rw [hway.sends, sendFinal_session hletter hstate, Session.without, hqueue]
    simp
  rw [runQueue_empty (by rw [hends])]
  exact ⟨hfinished, hends⟩

end

theorem runHead_park_resident {n : Nat} {r : LetterRec} {s : State} (hop : r.opcode = opPark) (h : (s.session n).state = .resident) :
    runHead n r s = (startPark n (progress r.key s), false) := by
  simp [runHead, hop, h]

theorem runHead_park_parked {n : Nat} {r : LetterRec} {s : State} (hop : r.opcode = opPark) (h : (s.session n).state = .parked) :
    runHead n r s = (finishLetter r.key stDone [] [] (progress r.key s), true) := by
  simp [runHead, hop, h]

theorem runHead_resume_parked {n : Nat} {r : LetterRec} {s : State} (hop : r.opcode = opResume) (h : (s.session n).state = .parked) :
    runHead n r s = (startResume n s, false) := by
  have hother : opResume ≠ opPark := by decide
  simp [runHead, hop, h, hother]

theorem runHead_trim {n : Nat} {r : LetterRec} {s t : State} (hop : r.opcode = opTrim) (h : trimNow n r (progress r.key s) = some t) :
    runHead n r s = (t, true) := by
  have hpark : opTrim ≠ opPark := by decide
  have hresume : opTrim ≠ opResume := by decide
  simp [runHead, hop, hpark, hresume, h]

/-- The operation and the operand of a TRIM are those of its rule. -/
theorem trim_params {l : Letter} {s : State} {op : Nat} {ok : Bool} (h : Accepted opTrim l (trimRule l op ok s) s) :
    leAt l.params 0 1 = op := by
  have hparams := h.params
  simp only [trimRule, Bool.and_eq_true, decide_eq_true_eq] at hparams
  exact hparams.1.1

section
variable {l : Letter} {s : State} (hidle : Idle l s)
include hidle

/-- A TRIM that changes its session alone ends at once on a resident session. -/
theorem trim_ends {op : Nat} {ok : Bool} {i : Instr} (h : Accepted opTrim l (trimRule l op ok s) s)
    (hresident : (s.session l.session.toNat).state = .resident)
    (hexec : exec i s = .next (receive opTrim l (trimRule l op ok s) (fun k s => queueLetter l k s) s)) (f : Session → Session)
    (hf : ∀ x, (f x).state = x.state ∧ (f x).queue = x.queue)
    (hnow : ∀ t, trimNow l.session.toNat (recordOf opTrim l (audited opTrim (trimRule l op ok s))) t =
      some (finishLetter (letterKey l) stDone (countBytes 0) [] (t.updSession l.session.toNat f))) :
    ∃ u, exec i s = .next u ∧ Finished l 0x0000 s u ∧
      u.session l.session.toNat = { f (joined opTrim l (trimRule l op ok s) s |>.session l.session.toNat) with queue := [] } := by
  have hruns := h.heads hidle (by simp [Session.settled, hresident]) hexec
  rw [runHead_trim rfl (hnow _), if_pos rfl] at hruns
  have hchanged (t : State) : ((progress (letterKey l) t).updSession l.session.toNat f).session l.session.toNat =
      f (t.session l.session.toNat) := State.session_updSession ..
  obtain ⟨hfinished, hsession⟩ := h.headEnds rfl
    (t := (progress (letterKey l) (joined opTrim l (trimRule l op ok s) s)).updSession l.session.toNat f)
    (by rw [hchanged, (hf _).1, joined_session, hresident]; exact fun hfree => SessState.noConfusion hfree)
    (by rw [hchanged, (hf _).2, joined_session, hidle.queue]; rfl) (updSession_kept ..) (countBytes 0) []
  rw [hchanged] at hsession
  exact ⟨_, hruns, hfinished, hsession⟩

theorem park_begins (h : Accepted opPark l (plainRule l s) s) (hresident : (s.session l.session.toNat).state = .resident) :
    ∃ u, exec (.park l) s = .next u ∧ (u.session l.session.toNat).state = .parking := by
  have hruns := h.heads hidle (by simp [Session.settled, hresident]) (i := .park l) rfl
  rw [runHead_park_resident rfl (by rw [joined_session]; exact hresident), if_neg Bool.false_ne_true] at hruns
  exact ⟨_, hruns, by rw [startPark, State.session_updSession]⟩

theorem park_ends (h : Accepted opPark l (plainRule l s) s) (hparked : (s.session l.session.toNat).state = .parked) :
    ∃ u, exec (.park l) s = .next u ∧ Finished l 0x0000 s u ∧ (u.session l.session.toNat).state = .parked := by
  have hruns := h.heads hidle (by simp [Session.settled, hparked]) (i := .park l) rfl
  rw [runHead_park_parked rfl (by rw [joined_session]; exact hparked), if_pos rfl] at hruns
  have hsame : (progress (letterKey l) (joined opPark l (plainRule l s) s)).session l.session.toNat =
      (joined opPark l (plainRule l s) s).session l.session.toNat := rfl
  obtain ⟨hfinished, hsession⟩ := h.headEnds rfl (t := progress (letterKey l) (joined opPark l (plainRule l s) s))
    (by rw [hsame, joined_session, hparked]; exact fun hfree => SessState.noConfusion hfree)
    (by rw [hsame, joined_session, hidle.queue]; rfl) ⟨rfl, rfl, rfl⟩ [] []
  refine ⟨_, hruns, hfinished, ?_⟩
  have hstate := congrArg Session.state hsession
  rw [hsame, joined_session] at hstate
  exact hstate.trans hparked

theorem resume_begins (h : Accepted opResume l (plainRule l s) s) (hparked : (s.session l.session.toNat).state = .parked) :
    ∃ u, exec (.resume l) s = .next u ∧ (u.session l.session.toNat).state = .resuming := by
  have hruns := h.heads hidle (by simp [Session.settled, hparked]) (i := .resume l) rfl
  rw [runHead_resume_parked rfl (by rw [joined_session]; exact hparked), if_neg Bool.false_ne_true] at hruns
  exact ⟨_, hruns, by rw [startResume, State.session_updSession]⟩

end

/-- Settles O30: OPEN, the letters that queue, and the heads that need no wave. -/
theorem sessionLettersQueueAndRun : Obligations.SessionLettersQueueAndRun := by
  refine ⟨fun l s h => ?opens, fun l s => ?queues, fun l s => ?heads⟩
  case opens =>
    obtain ⟨u, hexec, hfinished, a, r, hsession⟩ := open_opens h
    refine ⟨u, hexec, hfinished, ?_⟩
    rw [hsession]
    exact ⟨rfl, rfl, rfl, rfl, rfl, rfl⟩
  case queues =>
    refine ⟨fun h => h.joins rfl, fun h => ?generate, fun h => h.joins rfl, fun h => h.joins rfl, fun h => h.joins rfl,
      fun h => h.joins rfl, fun h => h.joins rfl, fun h => h.joins rfl, fun h => h.joins rfl, fun h => ?close, fun h => ?adapt⟩
    case generate =>
      obtain ⟨v, hexec, hletter, hsession, hreceipts⟩ := generate_joins h
      refine ⟨v, hexec, ?_, ?_, listed_of_letter hletter rfl, hreceipts⟩
      · rw [hsession]
      · rw [hsession]
    case close =>
      refine ⟨_, h.runs rfl rfl, ?_, ?_⟩
      · rw [State.session_updSession]
      · rw [State.session_updSession, entered_session]
    case adapt =>
      obtain ⟨roles, own, letters, heq, _⟩ := h.entered
      refine ⟨_, h.runs rfl rfl, ?_, ?_, ?_⟩
      · rw [State.session_updSession, heq]
        rfl
      · rw [heq]
        rfl
      · rw [State.session_updSession, heq]
        rfl
  case heads =>
    intro n x hqueue hclose hadapt hload hflow
    have hidle : Idle l s := ⟨hqueue, hclose, hadapt, hload, hflow⟩
    refine ⟨park_begins hidle, park_ends hidle, resume_begins hidle, fun h hresident => ?budget, fun h hresident => ?deadLetter⟩
    case budget =>
      obtain ⟨u, hexec, hfinished, hsession⟩ := trim_ends hidle h hresident (i := .trimSetBudget l) rfl
        (fun x => { x with budget := letterNum l 4 4 }) (fun _ => ⟨rfl, rfl⟩)
        (fun t => if_pos (trim_params h))
      exact ⟨u, hexec, hfinished, by rw [hsession]⟩
    case deadLetter =>
      have hop := trim_params h
      obtain ⟨u, hexec, hfinished, hsession⟩ := trim_ends hidle h hresident (i := .trimSetDeadLetter l) rfl
        (fun x => { x with deadOpt := decide (letterNum l 4 4 = 1) }) (fun _ => ⟨rfl, rfl⟩)
        (fun t => (if_neg (fun hone => absurd (hop.symm.trans hone) (by decide))).trans (if_pos hop))
      exact ⟨u, hexec, hfinished, by rw [hsession]⟩

end Sys2Proof.Machine

/-! SUPPORT. An arrival at a free session of a table that is not canonical. -/

namespace Sys2Proof.Machine
open State

/-- A MIGRATE_IN letter of session 1 from a peer, with its CRC. -/
def arrivalLetter : Letter :=
  let l : Letter := { port := 47, id := 1, session := 1, paramLen := 8, crc := 0, params := [1, 0, 0, 0, 0, 0, 0, 0] }
  { l with crc := letterCrc opMigrateIn l }

/-- A device that serves without a placement. Its table of sessions lists session 1 twice: first as it is after reset, then
RESIDENT. Reading takes the first entry, and the end of a letter drops it, for it is the default. -/
def doublySeated : State :=
  { bring := { step := 9 }
    dev := { deviceState := 2, profile := 2, expressTenant := 1, sessions := [(1, {}), (1, { state := .resident })] } }

theorem arrival_refused : AcceptedBut 0x0304 opMigrateIn arrivalLetter
    (migrateInRule arrivalLetter 1 (letterNum arrivalLetter 1 1 == 0) doublySeated) doublySeated := by
  unfold AcceptedBut
  decide +kernel

theorem doublySeated_session : (doublySeated.session 1).state = .free := rfl

/-- After the refusal session 1 reads RESIDENT. -/
theorem arrival_changes_session : ∃ u, exec (.migrateInPeer arrivalLetter) doublySeated = .next u ∧ (u.session 1).state = .resident := by
  refine ⟨_, rfl, ?_⟩
  decide +kernel

/-- Refutes O31: a MIGRATE_IN that ends with 0x0304 leaves its session as it was only in a canonical table. Where the table lists
a free session twice, the final receipt drops the first entry and the second one shows. -/
theorem not_sessionsMoveAndEnd : ¬ Obligations.SessionsMoveAndEnd := by
  intro h
  obtain ⟨hmigrate, _⟩ := h
  obtain ⟨_, hrefused⟩ := hmigrate arrivalLetter doublySeated (.migrateInPeer arrivalLetter) false _ (.inl ⟨rfl, rfl, rfl⟩) arrival_refused
  obtain ⟨u, hexec, _, hstate, _⟩ := hrefused fun hplaced => Bool.false_ne_true hplaced.1
  obtain ⟨v, hexec', hresident⟩ := arrival_changes_session
  have hsame : u = v := Host.Outcome.next.inj (hexec.symm.trans hexec')
  rw [hsame] at hstate
  have hseat : (v.session 1).state = .free := hstate.trans doublySeated_session
  rw [hresident] at hseat
  exact SessState.noConfusion hseat

end Sys2Proof.Machine

/-! SUPPORT. Lodging of experts. -/

namespace Sys2Proof.Machine
open State

theorem stk_putStk (s : State) (n : Nat) (x : Stack) : (s.putStk n x).stk n = x := Tbl.get_set_same ..

theorem stage_putStage (x : Stack) (i : Nat) (g : LodgeStage) : (x.putStage i g).stage i = g := Tbl.get_set_same ..

theorem countExpert_stk (expert : BitVec 16) (f : ExpertCount → ExpertCount) (s : State) (n : Nat) :
    (countExpert expert f s).stk n = s.stk n := rfl

theorem countExpert_experts (expert : BitVec 16) (f : ExpertCount → ExpertCount) (s : State) :
    Tbl.get {} (countExpert expert f s).dev.experts expert.toNat = f (Tbl.get {} s.dev.experts expert.toNat) := Tbl.get_set_same ..

theorem streamExtent_stk (e : LodgeEntry) (i : Nat) (s : State) (n : Nat) : (streamExtent e i s).stk n = s.stk n := by
  unfold streamExtent
  split
  · rfl
  · exact foldl_kept (fun s : State => s.stk n) (fun _ _ => by rfl) _ s

/-- The entry that a note names is of its stack. -/
theorem lodgeEntry_home {s : State} {home : Nat} {expert : BitVec 16} {e : LodgeEntry} (h : s.lodgeEntry home expert = some e) :
    e.home = home := by
  unfold State.lodgeEntry at h
  split at h
  · cases h
  · have hfound := List.find?_some h
    simp only [Bool.and_eq_true, beq_iff_eq] at hfound
    exact hfound.2

section
variable {e : LodgeEntry} {token : Word} {came : BitVec 64} {s : State} {i : Nat}

theorem dispatch_lodged (h : holder (s.stk e.home) .lodged e.expert = some i) : dispatch e token came s =
    some (countExpert e.expert (fun c => { c with waitUs := satAdd c.waitUs (waited s.dev.time [(token, came)]) })
      (s.putStk e.home { (s.stk e.home).putStage i { (s.stk e.home).stage i with
        pending := ((s.stk e.home).stage i).pending + 1, lastUse := (s.stk e.home).uses } with uses := (s.stk e.home).uses + 1 })) := by
  simp only [dispatch, h]

theorem dispatch_lodging (hlodged : holder (s.stk e.home) .lodged e.expert = none)
    (h : holder (s.stk e.home) .lodging e.expert = some i) : dispatch e token came s =
    some (s.putStk e.home ((s.stk e.home).putStage i { (s.stk e.home).stage i with
      waiting := ((s.stk e.home).stage i).waiting ++ [(token, came)] })) := by
  simp only [dispatch, hlodged, h]

theorem dispatch_begins (hlodged : holder (s.stk e.home) .lodged e.expert = none)
    (hlodging : holder (s.stk e.home) .lodging e.expert = none) (hmaster : s.mastered = true)
    (h : freeStage (s.stk e.home) (s.mayTake e) = some i) : dispatch e token came s =
    some (countExpert e.expert (fun c => { c with lodgings := c.lodgings + 1 }) (s.putStk e.home ((s.stk e.home).putStage i
      { st := .lodging, expert := e.expert, waiting := [(token, came)], pinned := s.expertPinned e }))) := by
  simp only [dispatch, hlodged, hlodging, hmaster, if_true, h]

end

/-- A note whose token a stage takes. -/
theorem exec_dispatchNote {stack : Fin 24} {note : Line} {token : Word} {e : LodgeEntry} {s u : State}
    (he : s.lodgeEntry stack.val (noteExpert note) = some e) (h : dispatch e token s.dev.time s = some u) :
    exec (.dispatchNote stack note token) s = .next u := by
  simp only [exec, execDispatchNote, he, h]

/-- A note whose token no stage takes waits in the queue while that has room. -/
theorem exec_dispatchNote_queues {stack : Fin 24} {note : Line} {token : Word} {e : LodgeEntry} {s : State}
    (he : s.lodgeEntry stack.val (noteExpert note) = some e) (h : dispatch e token s.dev.time s = none)
    (hroom : (s.stk stack.val).queue.length < 256) : exec (.dispatchNote stack note token) s =
      .next (s.putStk stack.val { s.stk stack.val with queue := (s.stk stack.val).queue ++ [(e.expert, token, s.dev.time)] }) := by
  simp only [exec, execDispatchNote, he, h]
  exact if_neg (by omega)

/-- Settles O34: each outcome of a note, and the end of a lodging. -/
theorem lodgingServesExperts : Obligations.LodgingServesExperts := by
  intro stack stage note token e i s x count
  refine ⟨fun he h => ?lodged, fun he hlodged h => ?lodging, fun he hlodged hlodging hmaster h => ?begins,
    fun he h hroom => ⟨_, exec_dispatchNote_queues he h hroom, congrArg Stack.queue (stk_putStk ..)⟩,
    fun hst hmaster => ?complete, fun hst hqueue => ?retry⟩
  case lodged =>
    have hhome := lodgeEntry_home he
    refine ⟨_, exec_dispatchNote he (dispatch_lodged (by rw [hhome]; exact h)), ?_⟩
    rw [countExpert_stk, hhome, stk_putStk]
    have hstage := stage_putStage x i { x.stage i with pending := (x.stage i).pending + 1, lastUse := x.uses }
    exact ⟨congrArg LodgeStage.pending hstage, congrArg LodgeStage.lastUse hstage⟩
  case lodging =>
    have hhome := lodgeEntry_home he
    refine ⟨_, exec_dispatchNote he (dispatch_lodging (by rw [hhome]; exact hlodged) (by rw [hhome]; exact h)), ?_⟩
    rw [hhome, stk_putStk, stage_putStage]
  case begins =>
    have hhome := lodgeEntry_home he
    refine ⟨_, exec_dispatchNote he (dispatch_begins (by rw [hhome]; exact hlodged) (by rw [hhome]; exact hlodging) hmaster
      (by rw [hhome]; exact h)), ?_⟩
    rw [countExpert_stk, hhome, stk_putStk, stage_putStage]
    exact ⟨rfl, rfl, rfl, congrArg ExpertCount.lodgings (countExpert_experts ..)⟩
  case complete =>
    let g' : LodgeStage := { x.stage stage.val with
      st := .lodged, pending := (x.stage stage.val).waiting.length, waiting := [], lastUse := x.uses }
    let s1 := countExpert (x.stage stage.val).expert (fun c => { c with waitUs := satAdd c.waitUs (waited s.dev.time (x.stage stage.val).waiting) })
      (s.putStk stack.val { x.putStage stage.val g' with uses := x.uses + 1 })
    have hstage : (s1.stk stack.val).stage stage.val = g' := by
      rw [countExpert_stk, stk_putStk]
      exact stage_putStage x stage.val g'
    have hexec : exec (.lodgingComplete stack stage) s = .next (match s.lodgeEntry stack.val (x.stage stage.val).expert with
        | some e => streamExtent e stage.val s1
        | none => s1) := by
      refine if_neg ?_
      rw [hst, hmaster]
      simp
    refine ⟨_, hexec, ?_⟩
    split
    · rw [streamExtent_stk, hstage]
      exact ⟨rfl, rfl, rfl⟩
    · rw [hstage]
      exact ⟨rfl, rfl, rfl⟩
  case retry =>
    let u := s.putStk stack.val (x.putStage stage.val { x.stage stage.val with pending := 0 })
    have hstack : u.stk stack.val = x.putStage stage.val { x.stage stage.val with pending := 0 } := stk_putStk ..
    have hidle : retryQueue stack.val 256 u = u := by
      have hempty : (u.stk stack.val).queue = [] := by rw [hstack]; exact hqueue
      rw [retryQueue]
      simp only [hempty]
    refine ⟨u, ?_, ?_⟩
    · have hexec : exec (.lodgingRetry stack stage) s = .next (retryQueue stack.val 256 (if (x.stage stage.val).st = .lodged then u else s)) := rfl
      rw [hexec, if_pos hst, hidle]
    · rw [hstack, stage_putStage]
      exact ⟨rfl, hst⟩

end Sys2Proof.Machine

/-! SUPPORT. Frames, seals, scrubbing and trails. -/

namespace Sys2Proof.Machine
open State

/-! ### Owners of pages (R308) -/

section
variable (x : Tile) (p n : Nat) (f : Nat → Word)

theorem owner_setOwners_other {q : Nat} (h : ∀ i, i < n → q ≠ p + i) : (x.setOwners p n f).owner q = x.owner q := by
  have hfold : ∀ m, m ≤ n → Tbl.get 0 ((List.range m).foldl (fun o i => Tbl.set (0 : Word) o (p + i) (f i)) x.owners) q = x.owner q := by
    intro m hm
    induction m with
    | zero => rfl
    | succ m ih =>
      rw [List.range_succ, List.foldl_append, List.foldl_cons, List.foldl_nil, Tbl.get_set_other _ _ _ (h m (by omega)), ih (by omega)]
  exact hfold n le_rfl

theorem owner_setOwners {i : Nat} (h : i < n) : (x.setOwners p n f).owner (p + i) = f i := by
  have hfold : ∀ m, i < m → Tbl.get 0 ((List.range m).foldl (fun o i => Tbl.set (0 : Word) o (p + i) (f i)) x.owners) (p + i) = f i := by
    intro m hm
    induction m with
    | zero => omega
    | succ m ih =>
      rw [List.range_succ, List.foldl_append, List.foldl_cons, List.foldl_nil]
      by_cases him : i = m
      · rw [him, Tbl.get_set_same]
      · rw [Tbl.get_set_other _ _ _ (by omega), ih (by omega)]
  exact hfold n h

end

/-! ### A new frame (R308, R309) -/

theorem openFrame_opens {n : Nat} {g : Stage} {s s0 : State} {c : TileId × Nat} (hroom : s.stackRoom (openPages g * 32) = true)
    (hquota : residenceFull n (s.session n).tenant s = false) (hadapter : residentAdapter n s = some s0)
    (hplace : chooseFrame s0 (s.session n) g (openPages g) 0 none = some c) :
    openFrame n g s = (placeBody c.1 c.2 1 (s.session n).tenant (BitVec.ofNat 16 n) (frameLines g.cacheFmt
      (newFrame g (BitVec.ofNat 16 n) (s.session n).tenant (nextSeqNo (s.session n) g.layer))) s0).updSession n (fun y => { y with
        folios := y.folios ++ [{ layer := g.layer, seqNo := nextSeqNo (s.session n) g.layer, tile := some c.1, page := c.2, pages := openPages g }] }) := by
  simp only [openFrame, hroom, hquota, hadapter, hplace, Bool.not_true, Bool.false_eq_true, if_false]
  rfl

theorem placeBody_session (t : TileId) (p head : Nat) (tenant : BitVec 12) (entry : BitVec 16) (ls : List Line) (s : State) (n : Nat) :
    (placeBody t p head tenant entry ls s).session n = s.session n := rfl

/-- A body that is placed owns its pages. -/
theorem placeBody_owner (t : TileId) (p head : Nat) (tenant : BitVec 12) (entry : BitVec 16) (ls : List Line) (s : State) {i : Nat}
    (h : i < (ls.length + 31) / 32) : ((placeBody t p head tenant entry ls s).tile t).owner (p + i) = headBody head tenant entry i := by
  rw [placeBody, State.tile_updTile, owner_setOwners _ _ _ _ h]

/-! ### The record of a frame (R310 to R314) -/

theorem supersede_session (n : Nat) (f : FolioRef) (s : State) :
    ∃ sup, (supersede n f s).session n = { s.session n with superseded := sup } := by
  unfold supersede
  split
  · exact ⟨_, rfl⟩
  · exact ⟨_, State.session_updSession ..⟩

theorem sealTag_session (tenant : BitVec 12) (s : State) (n : Nat) : (sealTag tenant s).2.session n = s.session n := by
  obtain ⟨_, _, _, _, hsessions⟩ := stores_sealTag tenant s
  rw [State.session, hsessions]
  rfl

/-- Writing a frame's record leaves what the frame is and where it stands, and of its session all but what it supersedes. -/
theorem writeRecord_kept (n : Nat) (tenant : BitVec 12) (body : List Line) (upto : Nat) (f : FolioRef) (s : State) :
    (∃ trail pos gen counter streamed, (writeRecord n tenant body upto f s).1 =
      { f with trail := trail, trailPos := pos, gen := gen, counter := counter, streamed := streamed }) ∧
    ∃ sup, (writeRecord n tenant body upto f s).2.session n = { s.session n with superseded := sup } := by
  unfold writeRecord
  split
  · exact ⟨⟨_, _, _, _, _, rfl⟩, _, rfl⟩
  · refine ⟨⟨_, _, _, _, _, rfl⟩, ?_⟩
    dsimp only
    rw [sealTag_session]
    split
    · exact supersede_session n f s
    · exact ⟨_, rfl⟩

/-- A frame that replaces one that is listed is listed. -/
theorem mem_putFolioRef {old f : FolioRef} {fs : List FolioRef} (h : old ∈ fs) : f ∈ putFolioRef old f fs := by
  rw [putFolioRef, if_pos (by simpa using h)]
  exact List.mem_map.2 ⟨old, h, if_pos rfl⟩

/-- A kept frame is listed with its stage's layer, its place and the seal of what it holds. -/
theorem keepFolio_lists {n : Nat} (g : Stage) {old : FolioRef} (f : FolioRef) (k : Frame) {s : State}
    (h : old ∈ (s.session n).folios) : (∃ e ∈ ((keepFolio n g old f k s).session n).folios, e.layer = f.layer ∧ e.seqNo = k.seqNo ∧
      e.sealed = k.isSealed ∧ e.tile = f.tile ∧ e.page = f.page ∧ e.pages = f.pages) ∧
    ((keepFolio n g old f k s).session n).sealing = (s.session n).sealing := by
  obtain ⟨⟨trail, pos, gen, counter, streamed, href⟩, sup, hsession⟩ := writeRecord_kept n (s.session n).tenant (recordBody g k)
    ((s.session n).top + 1).toNat { f with sealed := k.isSealed, seqNo := k.seqNo } s
  unfold keepFolio
  dsimp only
  rw [State.session_updSession, hsession]
  exact ⟨⟨_, mem_putFolioRef h, by rw [href]; exact ⟨rfl, rfl, rfl, rfl, rfl, rfl⟩⟩, rfl⟩

theorem sealFrame_seqNo (g : Stage) (k : Frame) : (sealFrame g k).seqNo = k.seqNo ∧ (sealFrame g k).isSealed = true := by
  unfold sealFrame
  dsimp only
  split
  · exact ⟨rfl, rfl⟩
  · exact ⟨rfl, rfl⟩

theorem layerStage_layer {s : State} {layer : BitVec 16} {g : Stage} (h : s.layerStage layer = some g) : g.layer = layer := by
  unfold State.layerStage at h
  split at h
  · cases h
  · have hfound := List.find?_some h
    simp only [Bool.and_eq_true, beq_iff_eq] at hfound
    exact hfound.2

theorem maySeal_of {s : State} {n : Nat} {k : Frame} (hstands : s.standing n = true) (hbetween : s.betweenWaves n = true)
    (hopen : k.isSealed = false) (hfull : k.full = true) (hcommitted : ∀ p ∈ k.positions, (p : Int) ≤ (s.session n).top) :
    s.maySeal n k = true := by
  simpa [State.maySeal, hstands, hbetween, hopen, hfull] using hcommitted

theorem releaseFolio_session (m : Nat) (f : FolioRef) (s : State) (n : Nat) : (releaseFolio m f s).session n = s.session n := by
  unfold releaseFolio
  split
  · rfl
  · split <;> rfl

/-! ### Scrubbing (R327) -/

theorem writeLines_slab_kept (ls : List Line) (l : Nat) (x : Tile) : (x.writeLines memSlab l ls).wb = x.wb ∧
    (x.writeLines memSlab l ls).ws = x.ws ∧ (x.writeLines memSlab l ls).owners = x.owners := by
  induction ls generalizing l x with
  | nil => exact ⟨rfl, rfl, rfl⟩
  | cons v vs ih => exact ih (l + 1) (x.writeLine memSlab l v)

theorem slab_writeLines (ls : List Line) (l : Nat) (x : Tile) : (x.writeLines memSlab l ls).slab = Mem.writeLines x.slab l ls := by
  induction ls generalizing l x with
  | nil => rfl
  | cons v vs ih => exact ih (l + 1) (x.writeLine memSlab l v)

theorem readByte_writeLines_outside (xs : List Line) (l : Nat) (m : Mem) (a : Nat) (h : a < 72 * l ∨ 72 * (l + xs.length) ≤ a) :
    Mem.readByte (Mem.writeLines m l xs) a = Mem.readByte m a := by
  induction xs generalizing l m with
  | nil => rfl
  | cons x xs ih =>
    rw [List.length_cons] at h
    rw [Mem.writeLines, ih _ _ (by omega), Mem.readByte_writeLine_outside _ _ _ _ (by rw [lineAddr]; omega)]

/-- The bytes of a line of zeros. -/
theorem bytesOf_zero {w : Nat} (n : Nat) : bytesOf n (0 : BitVec w) = List.replicate n 0 := by
  have hbytes : ∀ m, leBytes m 0 = List.replicate m 0 := by
    intro m
    induction m with
    | zero => rfl
    | succ m ih =>
      rw [leBytes, Nat.zero_div, ih]
      rfl
  rw [bytesOf, show (0 : BitVec w).toNat = 0 from BitVec.toNat_zero .., hbytes]

/-- Lines of zeros read 0 in each byte. -/
theorem readByte_writeLines_zero (n l : Nat) (m : Mem) (a : Nat) (hlow : 72 * l ≤ a) (hhigh : a < 72 * (l + n)) :
    Mem.readByte (Mem.writeLines m l (List.replicate n (0 : Line))) a = 0 := by
  induction n generalizing l m with
  | zero => omega
  | succ n ih =>
    rw [List.replicate_succ, Mem.writeLines]
    by_cases h : a < 72 * (l + 1)
    · rw [readByte_writeLines_outside _ _ _ _ (.inl h)]
      obtain ⟨k, rfl⟩ : ∃ k, a = lineAddr l + k := ⟨a - 72 * l, by rw [lineAddr]; omega⟩
      have hk : k < (bytesOf 72 (0 : Line)).length := by
        rw [bytesOf_zero, List.length_replicate]
        rw [lineAddr] at h
        omega
      rw [Mem.writeLine, Mem.readByte_writeBytes_inside _ _ _ _ hk]
      simp only [bytesOf_zero, List.getElem_replicate]
    · exact ih (l + 1) _ (by omega) (by omega)

/-- A page whose 32 lines are zeroed and that joins the pool. -/
theorem pooled_page {x y : Tile} {p : Nat} (hwb : y.wb = x.wb) (hws : y.ws = x.ws) (howners : y.owners = x.owners)
    (hslab : y.slab = Mem.writeLines x.slab (32 * p) (List.replicate 32 0)) :
    ownState ((y.setOwners p 1 (fun _ => ownWord 7 0 0)).owner p) = 7 ∧
      (∀ a, 2304 * p ≤ a → a < 2304 * p + 2304 → Mem.readByte (y.setOwners p 1 (fun _ => ownWord 7 0 0)).slab a = 0) ∧
      (∀ a, (a < 2304 * p ∨ 2304 * p + 2304 ≤ a) →
        Mem.readByte (y.setOwners p 1 (fun _ => ownWord 7 0 0)).slab a = Mem.readByte x.slab a) ∧
      (y.setOwners p 1 (fun _ => ownWord 7 0 0)).wb = x.wb ∧ (y.setOwners p 1 (fun _ => ownWord 7 0 0)).ws = x.ws ∧
      ∀ q, q ≠ p → (y.setOwners p 1 (fun _ => ownWord 7 0 0)).owner q = x.owner q := by
  have hkept (f : Nat → Word) : (y.setOwners p 1 f).slab = y.slab := rfl
  refine ⟨?_, fun a hlow hhigh => ?_, fun a hout => ?_, hwb, hws, fun q hq => ?_⟩
  · have hown := owner_setOwners y p 1 (fun _ => ownWord 7 0 0) Nat.zero_lt_one
    rw [Nat.add_zero] at hown
    rw [hown]
    decide
  · rw [hkept, hslab]
    exact readByte_writeLines_zero 32 (32 * p) x.slab a (by omega) (by omega)
  · rw [hkept, hslab]
    exact readByte_writeLines_outside _ (32 * p) x.slab a (by rw [List.length_replicate]; omega)
  · rw [owner_setOwners_other _ _ _ _ (by intro i hi; omega), Tile.owner, howners]
    rfl

/-- A page that waits for scrubbing is zeroed and joins the pool. -/
theorem scrubPage_scrubs {x : Tile} {p : Nat} (h : ownState (x.owner p) = 8) :
    ownState ((scrubPage p x).owner p) = 7 ∧
      (∀ a, 2304 * p ≤ a → a < 2304 * p + 2304 → Mem.readByte (scrubPage p x).slab a = 0) ∧
      (∀ a, (a < 2304 * p ∨ 2304 * p + 2304 ≤ a) → Mem.readByte (scrubPage p x).slab a = Mem.readByte x.slab a) ∧
      (scrubPage p x).wb = x.wb ∧ (scrubPage p x).ws = x.ws ∧ ∀ q, q ≠ p → (scrubPage p x).owner q = x.owner q := by
  obtain ⟨hwb, hws, howners⟩ := writeLines_slab_kept (List.replicate 32 0) (32 * p) x
  rw [scrubPage, if_pos h]
  exact pooled_page hwb hws howners (slab_writeLines _ _ x)

/-! ### The trail (R310, R314, R321) -/

theorem writeTrail_session (tenant : BitVec 12) (body : List Line) (r : TrailRec) (s : State) (n : Nat) :
    (writeTrail tenant body r s).2.session n = s.session n := by
  obtain ⟨_, _, _, _, hsessions⟩ := stores_writeTrail tenant body r s
  rw [State.session, hsessions]
  rfl

theorem sealTag_trailLooks (tenant : BitVec 12) (s : State) : (sealTag tenant s).2.dev.trailLooks = s.dev.trailLooks := by
  unfold sealTag
  dsimp only
  split
  · rfl
  · dsimp only
    split
    · rw [journalAdd_dev]
      rfl
    · rfl

theorem writeTrail_trailLooks (tenant : BitVec 12) (body : List Line) (r : TrailRec) (s : State) :
    (writeTrail tenant body r s).2.dev.trailLooks = s.dev.trailLooks := by
  unfold writeTrail
  split
  · rfl
  · exact sealTag_trailLooks tenant s

theorem writeRecord_trailLooks (n : Nat) (tenant : BitVec 12) (body : List Line) (upto : Nat) (f : FolioRef) (s : State) :
    (writeRecord n tenant body upto f s).2.dev.trailLooks = s.dev.trailLooks := by
  have hsup : (supersede n f s).dev.trailLooks = s.dev.trailLooks := by
    unfold supersede
    split <;> rfl
  unfold writeRecord
  split
  · rfl
  · dsimp only
    rw [sealTag_trailLooks]
    split
    · exact hsup
    · rfl

/-- One step of the write of a session's frames. -/
def flushStep (n : Nat) (tenant : BitVec 12) (last : Int) (a : List FolioRef × State) (f : FolioRef) : List FolioRef × State :=
  let w := writeRecord n tenant (trailBody a.2 f last) (last + 1).toNat f a.2
  (a.1 ++ [w.1], w.2)

theorem flushFolios_kept (n : Nat) (tenant : BitVec 12) (last : Int) (fs : List FolioRef) (a : List FolioRef × State) :
    (fs.foldl (flushStep n tenant last) a).1.length = a.1.length + fs.length ∧
      ((fs.foldl (flushStep n tenant last) a).2.session n).tokens = (a.2.session n).tokens ∧
      (fs.foldl (flushStep n tenant last) a).2.dev.trailLooks = a.2.dev.trailLooks := by
  induction fs generalizing a with
  | nil => exact ⟨rfl, rfl, rfl⟩
  | cons f fs ih =>
    obtain ⟨hlength, htokens, hlooks⟩ := ih (flushStep n tenant last a f)
    obtain ⟨_, sup, hsession⟩ := writeRecord_kept n tenant (trailBody a.2 f last) (last + 1).toNat f a.2
    have hsame := congrArg Session.tokens hsession
    refine ⟨?_, htokens.trans hsame, hlooks.trans (writeRecord_trailLooks ..)⟩
    rw [List.foldl_cons, hlength, flushStep]
    simp only [List.length_append, List.length_cons, List.length_nil]
    omega

/-- Writing a session's trail leaves its tokens, its number of frames and the count of looks. -/
theorem flushTrail_kept (n : Nat) (last : Int) (s : State) : ((flushTrail n last s).session n).tokens = (s.session n).tokens ∧
    ((flushTrail n last s).session n).folios.length = (s.session n).folios.length ∧
    (flushTrail n last s).dev.trailLooks = s.dev.trailLooks := by
  obtain ⟨hlength, htokens, hlooks⟩ := flushFolios_kept n (s.session n).tenant last (s.session n).folios ([], s)
  have hlast (u : State) (f : Session → Session) : (u.updSession n f).dev.trailLooks = u.dev.trailLooks := rfl
  unfold flushTrail
  dsimp only
  rw [State.session_updSession, hlast, writeTrail_session, writeTrail_session, writeTrail_session, writeTrail_trailLooks,
    writeTrail_trailLooks, writeTrail_trailLooks]
  exact ⟨htokens, hlength.trans (Nat.zero_add _), hlooks⟩

/-! ### Key generations (R321) -/

/-- Sealing counts a key on and keeps the key. -/
theorem sealTag_key (tenant : BitVec 12) (s : State) (t : Nat) :
    (Tbl.get {} (sealTag tenant s).2.dev.tenantKeys t).key = (Tbl.get {} s.dev.tenantKeys t).key := by
  have hcounted (d : Dev) (c : BitVec 64) : (Tbl.get {} (Tbl.set {} d.tenantKeys tenant.toNat
      { Tbl.get {} d.tenantKeys tenant.toNat with counter := c }) t).key = (Tbl.get {} d.tenantKeys t).key := by
    by_cases h : t = tenant.toNat
    · rw [h, Tbl.get_set_same]
    · rw [Tbl.get_set_other _ _ _ h]
  unfold sealTag
  dsimp only
  split
  · rfl
  · dsimp only
    split
    · rw [journalAdd_dev]
      exact hcounted ..
    · exact hcounted ..

theorem resealSession_key (tenant : BitVec 12) (old n : Nat) (s : State) (t : Nat) :
    (Tbl.get {} (resealSession tenant old n s).dev.tenantKeys t).key = (Tbl.get {} s.dev.tenantKeys t).key := by
  have hfolio (f : FolioRef) (s : State) : (Tbl.get {} (resealFolio tenant old f s).2.dev.tenantKeys t).key =
      (Tbl.get {} s.dev.tenantKeys t).key := by
    unfold resealFolio
    split
    · exact sealTag_key ..
    · rfl
  have hdead (d : DeadLetter) (s : State) : (Tbl.get {} (resealDead tenant old d s).2.dev.tenantKeys t).key =
      (Tbl.get {} s.dev.tenantKeys t).key := by
    unfold resealDead
    split
    · exact sealTag_key ..
    · rfl
  have htrail (r : TrailRec) (s : State) : (Tbl.get {} (resealTrail tenant old r s).2.dev.tenantKeys t).key =
      (Tbl.get {} s.dev.tenantKeys t).key := by
    unfold resealTrail
    split
    · exact sealTag_key ..
    · rfl
  have hall {α : Type} (f : α → State → α × State) (hf : ∀ a s, (Tbl.get {} (f a s).2.dev.tenantKeys t).key =
      (Tbl.get {} s.dev.tenantKeys t).key) (l : List α) (s : State) :
      (Tbl.get {} (mapState f l s).2.dev.tenantKeys t).key = (Tbl.get {} s.dev.tenantKeys t).key := by
    induction l generalizing s with
    | nil => rfl
    | cons a l ih => exact (ih _).trans (hf a s)
  have hlast (u : State) (m : Nat) (f : Session → Session) : (u.updSession m f).dev.tenantKeys = u.dev.tenantKeys := rfl
  unfold resealSession
  dsimp only
  split
  · rfl
  · rw [hlast, htrail, htrail, htrail, hall _ hdead, hall _ hfolio]

/-- A frame that may be sealed at a layer of its own. -/
theorem exec_folioSealing {t : TileId} {frame : BitVec 16} {g : Stage} {f : FolioRef} {k : Frame} {s : State}
    (hf : (s.session (ownEntry ((s.tile t).owner (frame.toNat / 32))).toNat).folios.find?
      (fun f => f.tile == some t && 32 * f.page == frame.toNat && !f.shared) = some f)
    (hg : s.layerStage f.layer = some g)
    (hk : folioFrame s (ownEntry ((s.tile t).owner (frame.toNat / 32))).toNat g f = some k)
    (hmay : s.maySeal (ownEntry ((s.tile t).owner (frame.toNat / 32))).toNat k = true) :
    exec (.folioSealing t frame) s =
      if g.cacheFmt = fmtKV8 then .next (sealHere (ownEntry ((s.tile t).owner (frame.toNat / 32))).toNat g t f k s)
      else match (s.session (ownEntry ((s.tile t).owner (frame.toNat / 32))).toNat).sealing.find? (fun c => c.1 == f.layer) with
        | some c => .next (sealFolio (ownEntry ((s.tile t).owner (frame.toNat / 32))).toNat g f k c.2 s)
        | none => .next s := by
  simp only [exec, execFolioSealing, hf, hg, hk, hmay, Bool.not_true, Bool.false_eq_true, if_false] <;> rfl

/-- Sealing into the reserved frame uses the reservation up. -/
theorem sealFolio_seals {n : Nat} {g : Stage} {f : FolioRef} {k : Frame} (c : TileId × Nat × Nat) {s : State}
    (hlisted : f ∈ (s.session n).folios) (hlayer : g.layer = f.layer) :
    (∀ e ∈ ((sealFolio n g f k c s).session n).sealing, e.1 ≠ f.layer) ∧
      ∃ h ∈ ((sealFolio n g f k c s).session n).folios, h.layer = f.layer ∧ h.seqNo = k.seqNo ∧ h.sealed = true ∧
        h.tile = some c.1 ∧ h.page = c.2.1 ∧ h.pages = c.2.2 := by
  unfold sealFolio
  dsimp only
  generalize hs1 : (releaseFolio n f (placeBody c.1 c.2.1 1 (s.session n).tenant (BitVec.ofNat 16 n) (recordBody g (sealFrame g k)) s)).updSession n
    (fun y => { y with sealing := y.sealing.filter (fun e => e.1 != g.layer) }) = s1
  have hsession : s1.session n = { s.session n with sealing := (s.session n).sealing.filter (fun e => e.1 != g.layer) } := by
    rw [← hs1, State.session_updSession, releaseFolio_session, placeBody_session]
  obtain ⟨hlist, hsealing⟩ := keepFolio_lists (n := n) g (old := f) { f with tile := some c.1, page := c.2.1, pages := c.2.2 } (sealFrame g k)
    (s := s1) (by rw [hsession]; exact hlisted)
  obtain ⟨hseq, hsealed⟩ := sealFrame_seqNo g k
  rw [hseq, hsealed] at hlist
  refine ⟨fun e he => ?_, hlist⟩
  rw [hsealing, hsession] at he
  have hkept := (List.mem_filter.1 he).2
  rw [← hlayer]
  simpa using hkept

/-- Sealing where the frame stands. -/
theorem sealHere_seals {n : Nat} {g : Stage} {f : FolioRef} {k : Frame} {t : TileId} {s : State}
    (hlisted : f ∈ (s.session n).folios) (htile : f.tile = some t) :
    ∃ h ∈ ((sealHere n g t f k s).session n).folios, h.layer = f.layer ∧ h.seqNo = k.seqNo ∧ h.sealed = true ∧ h.tile = some t ∧
      h.page = f.page ∧ h.pages = f.pages := by
  obtain ⟨hlist, _⟩ := keepFolio_lists (n := n) g (old := f) f (sealFrame g k)
    (s := s.updTile t (fun x => x.writeFrame (32 * f.page) g.cacheFmt (sealFrame g k))) hlisted
  obtain ⟨hseq, hsealed⟩ := sealFrame_seqNo g k
  rw [hseq, hsealed, htile] at hlist
  exact hlist

/-- The session that KEEPER_STREAM leaves, and the keeper's copy. -/
def streamedTo (id : BitVec 16) (y : Session) (rs : List (BitVec 16 × List Line)) (s : State) : State :=
  (s.putSession id.toNat y).updDev (fun d => { d with
    keeperOut := d.keeperOut ++ rs
    keeperStore := Tbl.set none d.keeperStore id.toNat (some (keptSession y)), keeperLagMs := 0, keeperLagAlarm := false })

theorem streamedTo_kept (id : BitVec 16) (y : Session) (rs : List (BitVec 16 × List Line)) (s : State) :
    (streamedTo id y rs s).session id.toNat = y ∧
      Tbl.get none (streamedTo id y rs s).dev.keeperStore id.toNat = some (keptSession y) ∧ (streamedTo id y rs s).dev.keeperLagMs = 0 := by
  refine ⟨State.session_putSession .., ?_, rfl⟩
  rw [streamedTo, State.updDev_dev]
  simp only [Tbl.get_set_same]

/-- KEEPER_STREAM leaves every sealed frame streamed, and the keeper with the session. -/
theorem keeperStream_streams {id : BitVec 16} {s : State} (hto : s.dev.keeperTo ≠ 0xFF) (hlive : (s.session id.toNat).state ≠ .free) :
    ∃ v, exec (.keeperStream id) s = .next (proceed v) ∧ v.session id.toNat = streamedSession (s.session id.toNat) ∧
      Tbl.get none v.dev.keeperStore id.toNat = some (keptSession (streamedSession (s.session id.toNat))) ∧ v.dev.keeperLagMs = 0 :=
  ⟨streamedTo id (streamedSession (s.session id.toNat)) _ _, if_neg (not_or.2 ⟨hto, hlive⟩), streamedTo_kept ..⟩

/-- Settles O33: frames, seals, compaction, scrubbing, trails and keys. -/
theorem framesAndTrails : Obligations.FramesAndTrails := by
  refine ⟨fun id layer g c s0 s => ?frame, fun t frame g f c k s => ?sealing, fun id layer g s hg => ?compaction,
    fun t p s hasleep => ?asleep, fun t p s hawake hwaits => ?scrub, fun id tenant s => ⟨fun hholds => ?trail, fun hto hlive => ?stream,
      fun hto => ?alarm, fun hold => ?reseal⟩⟩
  case frame =>
    intro x k hg hstands hdue hroom hquota hadapter hplace
    obtain ⟨_, _, _, a, r, hsession⟩ := residentAdapter_kept hadapter
    have hexec : exec (.frameAllocation id layer false) s = .next (openFrame id.toNat g s) := by
      simp only [exec, execFrameAllocation, hg, hstands, hdue, Bool.not_true, Bool.false_eq_true, if_false, if_true]
    rw [openFrame_opens hroom hquota hadapter hplace, BitVec.ofNat_toNat, BitVec.setWidth_eq] at hexec
    refine ⟨_, { layer := g.layer, seqNo := nextSeqNo x g.layer, tile := some c.1, page := c.2, pages := openPages g }, hexec,
      ?_, rfl, rfl, rfl, rfl, rfl, rfl, rfl, fun i hi => ?_⟩
    · rw [State.session_updSession, placeBody_session, hsession]
    · exact placeBody_owner c.1 c.2 1 x.tenant id (frameLines g.cacheFmt k) s0 hi
  case sealing =>
    intro n x hf hg hk hstands hbetween hopen hfull hcommitted
    have hexec := exec_folioSealing hf hg hk (maySeal_of hstands hbetween hopen hfull hcommitted)
    have hlisted : f ∈ x.folios := List.mem_of_find?_eq_some hf
    have htile : f.tile = some t := by
      have hfound := List.find?_some hf
      simp only [Bool.and_eq_true, beq_iff_eq] at hfound
      exact hfound.1.1
    refine ⟨fun hfmt => ⟨_, hexec.trans (if_pos hfmt), sealHere_seals hlisted htile⟩, fun hfmt hc => ?_, fun hfmt hc => ?_⟩
    · rw [if_neg hfmt, hc] at hexec
      exact ⟨_, hexec, sealFolio_seals c.2 hlisted (layerStage_layer hg)⟩
    · rw [if_neg hfmt, hc] at hexec
      exact hexec
  case compaction =>
    intro due
    have hexec : exec (.compactionStep id layer) s = if s.standing id.toNat && s.betweenWaves id.toNat &&
        compactionDue (s.session id.toNat).budget (s.session id.toNat).adapt (layerFolios s id.toNat g) then
        (match compactLayer id.toNat g s with
          | some s' => .next s'
          | none => .next (autoPark id.toNat (s.session id.toNat).tenant s))
        else .next s := by
      simp only [exec, execCompactionStep, hg] <;> rfl
    have hdue : due ↔ (s.standing id.toNat && s.betweenWaves id.toNat &&
        compactionDue (s.session id.toNat).budget (s.session id.toNat).adapt (layerFolios s id.toNat g)) = true := by
      simp only [due, Bool.and_eq_true, and_assoc]
    refine ⟨fun u h hu => ?_, fun h hu => ?_, fun h => ?_⟩
    · rw [hexec, if_pos (hdue.1 h), hu]
    · rw [hexec, if_pos (hdue.1 h), hu]
    · rw [hexec, if_neg (fun h' => h (hdue.2 h'))]
  case asleep =>
    simp only [exec, execPageScrub, onTile, hasleep, Bool.false_eq_true, if_false]
  case scrub =>
    refine ⟨askWake (tileBlock t) (s.updTile t (scrubPage p.val)), ?_, ?_⟩
    · simp only [exec, execPageScrub, onTile, hawake, if_true]
    · have htile : (askWake (tileBlock t) (s.updTile t (scrubPage p.val))).tile t = scrubPage p.val (s.tile t) := by
        rw [State.tile, askWake_tiles]
        exact State.tile_updTile ..
      rw [htile]
      exact scrubPage_scrubs hwaits
  case trail =>
    obtain ⟨htokens, hlength, hlooks⟩ := flushTrail_kept id.toNat ((s.session id.toNat).top - (Config.trailLag s.dev.trailLooks % 256 : Nat)) s
    exact ⟨_, if_pos hholds, congrArg (· + 1) hlooks, htokens, hlength⟩
  case stream =>
    obtain ⟨v, hexec, hsession, hstore, hlag⟩ := keeperStream_streams hto hlive
    refine ⟨v, hexec, by rw [hsession]; rfl, fun f hf hsealed => ?_, hstore, hlag⟩
    rw [hsession] at hf
    obtain ⟨e, _, rfl⟩ := List.mem_map.1 hf
    exact (congrArg (e.streamed || ·) hsealed).trans (Bool.or_true _)
  case alarm =>
    refine ⟨_, if_neg hto, rfl, ?_⟩
    show 1000 < (if (Config.measured s.dev.measures).toNat > 1000 then Config.measured s.dev.measures else 1001).toNat
    split
    · assumption
    · decide
  case reseal =>
    obtain ⟨o, ho⟩ := Option.isSome_iff_exists.1 hold
    have hkeys := foldl_kept (fun u : State => (Tbl.get {} u.dev.tenantKeys tenant.toNat).key)
      (fun u m => resealSession_key tenant o.1 m u tenant.toNat) (s.dev.sessions.map Prod.fst) s
    have hexec : exec (.tenantReseal tenant) s = .next (((s.dev.sessions.map Prod.fst).foldl (fun s n => resealSession tenant o.1 n s) s).updDev
        (fun d => { d with tenantKeys := Tbl.upd {} d.tenantKeys tenant.toNat (fun k => { k with older := none }) })) := by
      simp only [exec, execTenantReseal, ho]
    refine ⟨_, hexec, ?_, ?_⟩
    · rw [State.updDev_dev]
      exact congrArg TenantKey.older (Tbl.get_set_same ..)
    · rw [State.updDev_dev]
      exact (congrArg TenantKey.key (Tbl.get_set_same ..)).trans hkeys

end Sys2Proof.Machine

/-! SUPPORT. Tiles, fields and stacks that are retired by events. -/

namespace Sys2Proof.Machine
open State

/-! ### The substitution of a tile (R462, R463) -/

theorem SessionWork.orderWave (w : Byte) (o : BitVec 4) (s : State) : SessionWork s (Machine.orderWave w o s) := rfl

theorem SessionWork.touchLetter (k : LetterKey) (st : BitVec 16) (s : State) : SessionWork s (Machine.touchLetter k st s) := rfl

theorem SessionWork.republish (s : State) : SessionWork s (Machine.republish s) := rfl

theorem SessionWork.journalMap (f : Nat) (s : State) : SessionWork s (Machine.journalMap f s) := SessionWork.journalAdd _ _ _ s

theorem SessionWork.touchWaves (s : State) : SessionWork s (Machine.touchWaves s) := by
  refine SessionWork.foldl (fun s e => ?_) _ s
  split
  · split
    · exact SessionWork.touchLetter _ _ s
    · exact SessionWork.refl s
  · exact SessionWork.refl s

theorem SessionWork.discardSome (ws : List Byte) (s : State) : SessionWork s (Machine.discardSome ws s) := by
  refine SessionWork.foldl (fun s w => ?_) ws s
  split
  · exact (SessionWork.orderWave w orderDiscard s).trans (SessionWork.updDev _ _)
  · exact SessionWork.refl s

theorem SessionWork.holdForRepair (ts : List TileId) (s : State) : SessionWork s (Machine.holdForRepair ts s) := by
  unfold Machine.holdForRepair
  split
  · exact (SessionWork.touchWaves s).trans ((SessionWork.foldl (fun s e => SessionWork.orderWave _ _ s) _ _).trans
      (SessionWork.discardSome _ _))
  · exact SessionWork.refl s

theorem SessionWork.streamExtent (e : LodgeEntry) (i : Nat) (s : State) : SessionWork s (Machine.streamExtent e i s) := by
  unfold Machine.streamExtent
  split
  · exact SessionWork.refl s
  · exact SessionWork.foldl (fun s t => SessionWork.updTile _ _ s) _ s

theorem SessionWork.relodge (ts : List TileId) (s : State) : SessionWork s (Machine.relodge ts s) := by
  unfold Machine.relodge
  split
  · exact SessionWork.refl s
  · refine SessionWork.foldl (fun s e => SessionWork.foldl (fun s i => ?_) _ s) _ s
    dsimp only
    split
    · exact SessionWork.streamExtent e i s
    · exact SessionWork.refl s

theorem SessionWork.rewriteFrames (t : TileId) (s : State) : SessionWork s (Machine.rewriteFrames t s) := by
  refine SessionWork.foldl (fun s e => SessionWork.foldl (fun s f => ?_) _ s) _ s
  split
  · exact SessionWork.updTile _ _ s
  · exact SessionWork.refl s

theorem SessionWork.rebuildTile (t : TileId) (s : State) : SessionWork s (Machine.rebuildTile t s) := by
  have hrewritten := SessionWork.rewriteFrames t s
  unfold Machine.rebuildTile
  dsimp only
  split
  · exact hrewritten
  · split
    · exact hrewritten
    · split
      · exact hrewritten.trans ((SessionWork.updTile _ _ _).trans (SessionWork.relodge _ _))
      · exact hrewritten.trans ((SessionWork.updDev _ _).trans (SessionWork.updDev _ _))

theorem SessionWork.takePages {entry : Word} {ts : List TileId} {n : Nat} {s : State} {r : List (TileId × Nat) × State}
    (h : Machine.takePages entry ts n s = some r) : SessionWork s r.2 := by
  have hfirst {ts : List TileId} {s : State} {r : TileId × Nat × State} (h : firstPage entry s ts = some r) : SessionWork s r.2.2 := by
    induction ts with
    | nil => exact absurd h (by simp [firstPage])
    | cons t ts ih =>
      unfold firstPage at h
      split at h
      · cases h
        rfl
      · exact ih h
  induction n generalizing s r with
  | zero =>
    cases h
    exact SessionWork.refl s
  | succ n ih =>
    unfold Machine.takePages at h
    split at h
    · cases h
    · next p hp =>
      obtain ⟨q, hq, rfl⟩ := Option.map_eq_some_iff.1 h
      show SessionWork s q.2
      exact (hfirst hp).trans (ih hq)

theorem SessionWork.writeTrail (tenant : BitVec 12) (body : List Line) (r : TrailRec) (s : State) :
    SessionWork s (Machine.writeTrail tenant body r s).2 := by
  have hseal : SessionWork s (sealTag tenant s).2 := by
    unfold sealTag
    dsimp only
    split
    · exact SessionWork.refl s
    · dsimp only
      split
      · exact (SessionWork.updDev _ s).trans (SessionWork.journalAdd ..)
      · exact SessionWork.updDev _ s
  unfold Machine.writeTrail
  split
  · exact SessionWork.refl s
  · exact hseal

theorem SessionWork.residentAdapter {n : Nat} {s u : State} (h : Machine.residentAdapter n s = some u) : SessionWork s u := by
  unfold Machine.residentAdapter at h
  dsimp only at h
  split at h
  · cases h
    exact SessionWork.refl s
  · split at h
    · cases h
      exact SessionWork.refl s
    · obtain ⟨r, hr, rfl⟩ := Option.map_eq_some_iff.1 h
      have hfilled (ls : List Line) (ps : List (TileId × Nat)) (s : State) : SessionWork s (fillPages ls ps s) :=
        SessionWork.foldl (f := fun (s : State) (e : (TileId × Nat) × List Line) =>
          s.updTile e.1.1 (fun x => x.writeLines memSlab (32 * e.1.2) e.2)) (fun s e => SessionWork.updTile _ _ s) _ s
      exact (SessionWork.takePages hr).trans ((hfilled _ _ _).trans ((SessionWork.writeTrail ..).trans (SessionWork.updSession _ _ _)))

theorem SessionWork.restoreOwn (s : State) : SessionWork s (Machine.restoreOwn s) := by
  refine SessionWork.foldl (fun s e => ?_) _ s
  split
  · cases h : Machine.residentAdapter e.1 s with
    | none => exact SessionWork.refl s
    | some u => exact SessionWork.residentAdapter h
  · exact SessionWork.refl s

theorem SessionWork.resumeHeld (s : State) : SessionWork s (Machine.resumeHeld s) := by
  refine SessionWork.foldl (fun s e => ?_) _ s
  split
  · split
    · exact SessionWork.refl s
    · exact SessionWork.orderWave _ _ s
  · exact SessionWork.refl s

/-- The map of a field whose spare takes a tile's place. -/
def substituted (t : TileId) (moved : List TileId) (x : FieldCtl) : FieldCtl :=
  { x with
    notes := x.notes.filter (fun n => !moved.contains (fieldAt (Card.payload n.2) 0 16))
    spareMap := Tbl.set (0xF : BitVec 4) x.spareMap (spareIndex t) (BitVec.ofNat 4 (tileXIn t % 8)) }

/-- A substitution is work before the entry in the spare map, the entry, and work after it. -/
theorem substitute_work (t : TileId) (s : State) : ∃ v, substitute t s = proceed v ∧ ∃ moved u, SessionWork s u ∧
    SessionWork (u.updField (tileField t) (substituted t moved)) v := by
  have hbefore : SessionWork s (loseFrames (fun u _ _ => u == t) (loseOwn (fun u _ _ => u == t) (holdForRepair (rowGroup t) s))) :=
    (SessionWork.holdForRepair _ s).trans ((SessionWork.loseOwn _ _).trans (SessionWork.updDev _ _))
  have hmoved (f : State → TileId → Tile → Tile) (ts : List TileId) (s : State) : SessionWork s (ts.foldl (fun s u => s.updTile u (f s u)) s) :=
    SessionWork.foldl (fun s u => SessionWork.updTile _ _ s) ts s
  have hrebuilt (c : Prop) [Decidable c] (s : State) : SessionWork s (if c then rewriteFrames t s else rebuildTile t s) := by
    split
    · exact SessionWork.rewriteFrames t s
    · exact SessionWork.rebuildTile t s
  refine ⟨_, rfl, (rowGroup t).filter (fun u => decide (t.toNat ≤ u.toNat)), _, hbefore, ?_⟩
  refine SessionWork.trans ?_ (SessionWork.resumeHeld _)
  refine SessionWork.trans ?_ (SessionWork.republish _)
  refine SessionWork.trans ?_ (SessionWork.journalAdd _ _ _ _)
  refine SessionWork.trans ?_ (SessionWork.restoreOwn _)
  refine SessionWork.trans ?_ (hrebuilt _ _)
  refine SessionWork.trans ?_ (hmoved (fun s' u => movedIn (s.block (tileBlock t)).pstate s'.dev.placement (s'.usedTiles.contains u) u s'.dev.time) _ _)
  refine SessionWork.trans ?_ (SessionWork.journalAdd _ _ _ _)
  exact SessionWork.journalMap _ _

theorem askWake_field (b : Nat) (s : State) (f : Nat) : (askWake b s).field f = s.field f := by
  unfold askWake
  split <;> rfl

/-- A substitution names the tile's site in its row group's entry and leaves every other entry. -/
theorem substitute_spares (t : TileId) (s : State) : ∃ v, substitute t s = proceed v ∧
    spareCode (v.field (tileField t)).spareMap (spareIndex t) = BitVec.ofNat 4 (tileXIn t % 8) ∧
    ∀ k, k ≠ spareIndex t → spareCode (v.field (tileField t)).spareMap k = spareCode (s.field (tileField t)).spareMap k := by
  obtain ⟨v, hv, moved, u, hbefore, hafter⟩ := substitute_work t s
  have hmap : (v.field (tileField t)).spareMap = Tbl.set 0xF (s.field (tileField t)).spareMap (spareIndex t) (BitVec.ofNat 4 (tileXIn t % 8)) := by
    rw [hafter.field, State.field_updField, ← hbefore.field]
    rfl
  refine ⟨v, hv, ?_, fun k hk => ?_⟩
  · rw [hmap, spareCode, Tbl.get_set_same]
  · rw [hmap, spareCode, Tbl.get_set_other _ _ _ hk, spareCode]

/-! ### The retirement of a tile and of a link (R462, R466) -/

section
variable {t : TileId} {s : State} (hlive : (s.field (tileField t)).lost = false)
include hlive

theorem retireTile_spare (hruns : (s.field (tileField t)).restarting = false)
    (hspare : spareCode (s.field (tileField t)).spareMap (spareIndex t) = 0xF) :
    retireTile t s = substitute t (askWake (tileBlock t) s) := by
  simp [retireTile, hlive, hruns, hspare]

theorem retireTile_noSpare (hruns : (s.field (tileField t)).restarting = false)
    (hspare : spareCode (s.field (tileField t)).spareMap (spareIndex t) ≠ 0xF) : retireTile t s = loseField (tileField t) true s := by
  simp only [retireTile, hlive, hruns, Bool.false_eq_true, if_false]
  exact if_neg hspare

theorem retireTile_waits (hrestarts : (s.field (tileField t)).restarting = true) :
    retireTile t s = s.putField (tileField t) { s.field (tileField t) with repairs := (s.field (tileField t)).repairs ++ [t] } := by
  simp [retireTile, hlive, hrestarts]

end

theorem retireTile_lost {t : TileId} {s : State} (h : (s.field (tileField t)).lost = true) : retireTile t s = s := by
  simp [retireTile, h]

theorem noteCause_field (cause : Byte) (t : TileId) (s : State) (f : Nat) : (noteCause cause t s).field f = s.field f := by
  rw [State.field, noteCause, journalAdd_fieldCtls]
  rfl

/-- A lost field that is to be retired is. -/
theorem loseField_retires {f : Nat} {s : State} (h : (s.field f).lost = false) :
    ((loseField f true s).field f).lost = true ∧ ((loseField f true s).field f).retired = true ∧
      ((loseField f true s).field f).railOn = false := by
  obtain ⟨hlost, hrail, hretired, _⟩ := loseField_field true h
  exact ⟨hlost, hretired.trans (Bool.or_true _), hrail⟩

/-! ### Field losses, restarts and stacks (R295, R464, R465) -/

theorem retireLost_field (f : Nat) (s : State) : (retireLost f s).field f = { s.field f with retired := true } ∧
    (retireLost f s).dev.distGen = s.dev.distGen + 1 := by
  have hpublished (u : State) : (republish u).fieldCtls = u.fieldCtls := rfl
  constructor
  · rw [retireLost, State.field, hpublished, journalAdd_fieldCtls]
    exact State.field_updField ..
  · simp only [retireLost, republish, State.updDev_dev]
    rw [journalAdd_dev]
    rfl

/-- A lost field without a placement is retired, and the distances have a new generation. -/
theorem fieldLoss_unplaced {f : Nat} {s : State} (hlost : (s.field f).lost = true) (hnew : (s.field f).lossDone = false)
    (hplace : s.dev.placement = none) : fieldLoss f s = retireLost f (s.updField f (fun y => { y with lossDone := true })) := by
  simp [fieldLoss, hlost, hnew, hplace]

/-- A disagreement of a field's controllers is recorded with its time. -/
def disagreed (f : Nat) (s : State) : State :=
  journalAdd kindFault (BitVec.ofNat 32 f) [0xFE, BitVec.ofNat 8 f]
    (s.putField f { s.field f with lockstepTimes := s.dev.time :: inWindow s.dev.time dayUs (s.field f).lockstepTimes })

theorem disagreed_field (f : Nat) (s : State) : (disagreed f s).field f =
    { s.field f with lockstepTimes := s.dev.time :: inWindow s.dev.time dayUs (s.field f).lockstepTimes } := by
  rw [State.field, disagreed, journalAdd_fieldCtls]
  exact Tbl.get_set_same ..

theorem exec_lockstepDisagreement {f : Fin 64} {s : State} (hlive : (s.field f.val).lost = false)
    (hruns : (s.field f.val).restarting = false) : exec (.lockstepDisagreement f) s =
      if inWindow s.dev.time dayUs (s.field f.val).lockstepTimes = [] then
        .next ((disagreed f.val s).updField f.val (fun y => { y with restarting := true }))
      else .next (loseField f.val true (disagreed f.val s)) := by
  refine if_neg ?_
  rw [hlive, hruns]
  exact Bool.false_ne_true

/-- Settles O41: retirements of tiles, links, fields and stacks. -/
theorem tilesFieldsAndStacksAreRetired : Obligations.TilesFieldsAndStacksAreRetired := by
  refine ⟨fun t s => ⟨fun hdue hlinks => ?due, fun hlinks => ?links, fun hdue => ?none, fun hactive hsilent => if_pos ⟨hactive, hsilent⟩, rfl⟩,
    fun t ps s => ⟨fun hlive hruns hspare => ?spare, fun hlive hruns hspare => ?noSpare, retireTile_waits, retireTile_lost,
      fun hlive hruns hbad => ?link⟩,
    fun f n s => ⟨fun hlost hnew hplace => ?loss, fun hlive hruns hnear => ?first, fun hlive hruns hnear => ?second,
      fun hrepairs => congrArg Host.Outcome.next (resumeRepairs_none hrepairs), fun hstack hfits => ?auto, fun hstack => ?unreadable,
      fun hstack => ?copied⟩⟩
  case due => simp [exec, execTileRetirement, hdue, hlinks]
  case links =>
    have hdue : s.retireDue t = true := by
      rw [State.retireDue, Bool.or_eq_true]
      exact .inr (by simpa using hlinks)
    simp [exec, execTileRetirement, hdue, hlinks]
  case none => simp [exec, execTileRetirement, hdue]
  case spare =>
    obtain ⟨v, hv, hentry, hothers⟩ := substitute_spares t (askWake (tileBlock t) s)
    rw [askWake_field] at hothers
    exact ⟨v, (retireTile_spare hlive hruns hspare).trans hv, hentry, hothers⟩
  case noSpare =>
    obtain ⟨hlost, hretired, hrail⟩ := loseField_retires hlive
    rw [retireTile_noSpare hlive hruns hspare]
    exact ⟨hlost, hretired, hrail, fun i hi => loseField_dark true hlive hi⟩
  case link =>
    have hnoted := noteCause_field 7 t s (tileField t)
    have hlink : retireLink t ps s = loseField (tileField t) true (noteCause 7 t s) :=
      (if_pos hbad).trans (if_neg (fun hrestarts => Bool.false_ne_true (hruns.symm.trans hrestarts)))
    obtain ⟨hlost, hretired, _⟩ := loseField_retires (f := tileField t) (s := noteCause 7 t s) (by rw [hnoted]; exact hlive)
    rw [hlink]
    exact ⟨hlost, hretired⟩
  case loss =>
    obtain ⟨hfield, hgen⟩ := retireLost_field f.val (s.updField f.val (fun y => { y with lossDone := true }))
    refine ⟨_, congrArg Host.Outcome.next (fieldLoss_unplaced hlost hnew hplace), ?_, ?_, hgen⟩
    · rw [hfield]
    · rw [hfield, State.field_updField]
  case first =>
    refine ⟨_, (exec_lockstepDisagreement hlive hruns).trans (if_pos hnear), ?_⟩
    rw [State.field_updField, disagreed_field]
    exact ⟨rfl, congrArg (s.dev.time :: ·) hnear, hlive⟩
  case second =>
    obtain ⟨hlost, hretired, _⟩ := loseField_retires (f := f.val) (s := disagreed f.val s) (by rw [disagreed_field]; exact hlive)
    exact ⟨_, (exec_lockstepDisagreement hlive hruns).trans (if_neg hnear), hlost, hretired⟩
  case auto =>
    refine ⟨journalAdd kindRetirement (retireKey 4 n.val) (stackBody n.val) (s.updStk n.val (fun x => { x with st := 3 })), ?_, ?_⟩
    · have hexec : exec (.stackRetirementAuto n) s = (match retireStackNow n.val s with
          | some s1 => .next (proceed (journalAdd kindRetirement (retireKey 4 n.val) (stackBody n.val) s1))
          | none => .next s) := if_neg (fun hne => hne hstack)
      rw [hexec, retireStackNow_fits n.val hfits]
    · rw [journalAdd_stk, State.stk_updStk]
  case unreadable =>
    have hpublished (u : State) (m : Nat) : (republish u).stk m = u.stk m := rfl
    refine ⟨_, if_neg ?_, ?_⟩
    · rintro ⟨hrest, hcopies⟩
      exact hstack.elim hrest hcopies
    · rw [hpublished, journalAdd_stk, State.stk_updStk]
  case copied =>
    let s1 := republish (s.updStk n.val (fun x => { x with st := 4 }))
    have hstate : (s1.stk n.val).st = 4 := congrArg Stack.st (State.stk_updStk s n.val (fun x => { x with st := 4 }))
    have hexec : exec (.stackCopyComplete n) s = .next (match stackLetter n.val s with
        | some r => finishLetter r.key stDone [] [] s1
        | none => s1) := by
      refine if_neg ?_
      rintro ⟨hcopies, hlost⟩
      exact hstack.elim hcopies hlost
    refine ⟨_, hexec, ?_⟩
    split
    · rw [(SessionWork.finishLetter ..).stk, finishLetter_dev]
      exact ⟨hstate, rfl⟩
    · exact ⟨hstate, rfl⟩

end Sys2Proof.Machine

/-! SUPPORT. An idle block, and the state after reset. -/

namespace Sys2Proof.Machine
open State

/-! ### Nothing to send (R520, log entry 131) -/

/-- Every port is as it was. -/
def SamePorts (s u : State) : Prop := ∀ p, u.port p = s.port p

/-- No port holds a slot to send. -/
def NoSlots (s : State) : Prop := ∀ p, (s.port p).txSlots = []

theorem SamePorts.trans {s u v : State} (h : SamePorts s u) (k : SamePorts u v) : SamePorts s v := fun p => (k p).trans (h p)

theorem NoSlots.of_same {s u : State} (h : NoSlots s) (k : SamePorts s u) : NoSlots u := fun p => by
  rw [k p]
  exact h p

/-- Steps that leave the ports while no slot waits leave them together. -/
theorem samePorts_foldl {α : Type} {f : State → α → State} (hf : ∀ s a, NoSlots s → SamePorts s (f s a)) (l : List α) {s : State}
    (h : NoSlots s) : SamePorts s (l.foldl f s) := by
  induction l generalizing s with
  | nil => exact fun _ => rfl
  | cons a l ih =>
    have hstep := hf s a h
    exact hstep.trans (ih (h.of_same hstep))

theorem samePorts_putPort {s : State} {p : Nat} {x : LinkPort} (h : x = s.port p) : SamePorts s (s.putPort p x) := fun q => by
  by_cases hq : q = p
  · rw [hq, h]
    exact Tbl.get_set_same ..
  · exact Tbl.get_set_other _ _ _ hq

/-- A port whose slots to send are none keeps itself when they are set to none. -/
theorem noSlots_eq {x : LinkPort} {q : List (BitVec 4 × BitVec 704)} (h : x.txSlots = []) (hq : q = []) : { x with txSlots := q } = x := by
  rw [hq]
  obtain ⟨⟩ := x
  cases h
  rfl

theorem samePorts_queueSlots {s : State} (h : NoSlots s) {p : Nat} {q : List (BitVec 4 × BitVec 704)} (hq : q = []) :
    SamePorts s (queueSlots p q s) := samePorts_putPort (noSlots_eq (h p) (by rw [h p, hq]; rfl))

theorem samePorts_moveSlots {s : State} (h : NoSlots s) (p : Nat) (parcels : Bool) : SamePorts s (moveSlots p parcels s) := by
  unfold moveSlots
  split
  · exact fun _ => rfl
  · have hput : SamePorts s (s.putPort p { s.port p with txSlots := (s.port p).txSlots.filter (fun e => (e.1 == 1) != parcels) }) :=
      samePorts_putPort (noSlots_eq (h p) (by rw [h p]; rfl))
    exact hput.trans (samePorts_queueSlots (h.of_same hput) (by rw [h p]; rfl))

theorem samePorts_moveFailed {s : State} (h : NoSlots s) (p : Nat) : SamePorts s (moveFailed s p) := by
  unfold moveFailed
  split
  · have hfirst := samePorts_moveSlots h p true
    exact hfirst.trans (samePorts_moveSlots (h.of_same hfirst) p false)
  · exact fun _ => rfl

/-- Chiplets without parcels to send queue none. -/
theorem queueParcels_none (l : List Nat) {s : State} (h : ∀ c ∈ l, (s.chiplet c).outbound = []) :
    (l.foldl (fun s c => queueParcels c s) s).ports = s.ports ∧ (l.foldl (fun s c => queueParcels c s) s).dev = s.dev := by
  induction l generalizing s with
  | nil => exact ⟨rfl, rfl⟩
  | cons c l ih =>
    obtain ⟨hc, hl⟩ := List.forall_mem_cons.1 h
    have hnone : queueParcels c s = s.updChiplet c (fun x => { x with outbound := [] }) := by rw [queueParcels, hc]; rfl
    rw [List.foldl_cons, hnone]
    refine ih fun d hd => ?_
    by_cases hdc : d = c
    · rw [hdc, State.chiplet_updChiplet]
    · exact (congrArg Chiplet.outbound (Tbl.get_set_other _ _ _ hdc)).trans (hl d hd)

/-- With nothing to leave, nothing joins the slots of a port. -/
theorem queueAll_none {s : State} (hparcels : ∀ c, c < 12 → (s.chiplet c).outbound = [])
    (hreceipts : s.dev.receiptsOut = s.dev.receipts.length) (hkeeper : s.dev.keeperSent = s.dev.keeperOut.length) (h : NoSlots s) :
    SamePorts s (queueAll s) := by
  obtain ⟨hports, hdev⟩ := queueParcels_none (List.range 12) (s := s) (fun c hc => hparcels c (List.mem_range.1 hc))
  unfold queueAll
  generalize (List.range 12).foldl (fun s c => queueParcels c s) s = s1 at hports hdev
  have hfirst : SamePorts s s1 := fun p => by rw [State.port, hports]; rfl
  have hout : queueReceipts s1 = s1.updDev (fun d => { d with receiptsOut := d.receipts.length }) := by
    rw [queueReceipts, hdev, hreceipts, List.drop_length]
    rfl
  have hsecond : SamePorts s (queueReceipts s1) := by
    rw [hout]
    exact hfirst
  have hkept : SamePorts (queueReceipts s1) (queueKeeper (queueReceipts s1)) := by
    have hnone : (queueReceipts s1).dev.keeperOut.drop (queueReceipts s1).dev.keeperSent = [] := by
      rw [hout, State.updDev_dev, hdev]
      exact (congrArg (List.drop · _) hkeeper).trans (List.drop_length ..)
    unfold queueKeeper
    split
    · exact fun _ => rfl
    · rw [hnone]
      exact samePorts_queueSlots (h.of_same hsecond) rfl
  have hall := hsecond.trans hkept
  exact hall.trans (samePorts_foldl (fun s p hs => samePorts_moveFailed hs p) _ (h.of_same hall))

theorem sendFrame_dead {s : State} {p : Nat} (h : (s.port p).live = false) : sendFrame s p = s := by
  simp [sendFrame, h]

/-- While no port is live, no frame is sent. -/
theorem sendFrames_dead (l : List Nat) {s : State} (h : ∀ p, (s.port p).live = false) : l.foldl sendFrame s = s := by
  induction l with
  | nil => rfl
  | cons p l ih => rw [List.foldl_cons, sendFrame_dead (h p), ih]

/-- Settles O1: a step runs the front command, an empty queue sends frames, and with nothing to leave no port moves. -/
theorem stepRunsTheFrontCommand : Obligations.StepRunsTheFrontCommand := by
  refine ⟨fun c rest s h => ?_, fun s h => ?_, fun s hparcels hreceipts hkeeper hports p => ?_⟩
  · simp only [step, h]
  · simp only [step, h]
  · have hqueued := queueAll_none hparcels hreceipts hkeeper (fun p => (hports p).1)
    rw [sendFrames, sendFrames_dead _ (fun p => by rw [hqueued p]; exact (hports p).2)]
    exact hqueued p

/-! ### The state after reset (R544 to R548) -/

theorem reset_field (f : Nat) : State.reset.field f = {} := rfl
theorem reset_block (b : Nat) : State.reset.block b = {} := rfl
theorem reset_port (p : Nat) : State.reset.port p = {} := rfl
theorem reset_stk (n : Nat) : State.reset.stk n = {} := rfl
theorem reset_tile (t : TileId) : State.reset.tile t = {} := rfl

/-- The registers of a tile after reset. -/
theorem reset_tileWords (t : TileId) : (∀ o ∈ tsOffsets, tsWord (State.reset.tile t) o 0 = 0) ∧ (State.reset.tile t).seq = .halted ∧
    ∀ k, (State.reset.tile t).slot k = {} := by
  rw [reset_tile]
  exact ⟨by decide +kernel, rfl, fun _ => rfl⟩

/-- The registers of a field controller after reset. -/
theorem reset_fieldWords (f : Nat) : fcWord State.reset f 0x10 = 0 ∧ fcWord State.reset f 0x11 = 0x3E8 ∧ fcWord State.reset f 0x12 = 0 ∧
    fcWord State.reset f 0x13 = 0xA ∧ fcWord State.reset f 0x14 = 0x1F4 ∧ fcWord State.reset f 0x15 = 0x8FC000 ∧
    fcWord State.reset f 0x16 = 0 ∧ ∀ n, n < 16 → fcWord State.reset f (0x20 + n) = 0xFFFFFFFF := by
  have hwords (o : Nat) : fcWord State.reset f o = fcWord State.reset 0 o := rfl
  simp only [hwords]
  decide +kernel

/-- The registers of a block's shutdown controller after reset. -/
theorem reset_blockWords (b : Nat) : bsWord State.reset b 0x10 = 0x40000 ∧ bsWord State.reset b 0x12 = 0x320100 ∧
    bsWord State.reset b 0x13 = 0 ∧ bsWord State.reset b 0x14 = 0x7D00 ∧ bsWord State.reset b 0x15 = 0 := by
  have hwords (o : Nat) : bsWord State.reset b o = bsWord State.reset 0 o := rfl
  simp only [hwords]
  decide +kernel

/-- The registers of a link chiplet after reset. -/
theorem reset_linkWords (c o : Nat) : lkWord State.reset c o = 0 := by
  unfold lkWord
  rw [reset_port]
  dsimp only
  split <;> decide

/-- Settles O5: the state after reset, unit by unit. -/
theorem resetIsAsTheTablesSay : Obligations.ResetIsAsTheTablesSay := by
  have hkeepers : ∀ k, kpWord State.reset k 0x10 = 0x10000 ∧ kpWord State.reset k 0x11 = 0 ∧ kpWord State.reset k 0x12 = 0 ∧
      kpWord State.reset k 0x13 = 0 := by
    intro k
    have hwords (o : Nat) : kpWord State.reset k o = kpWord State.reset 0 o := rfl
    simp only [hwords]
    decide +kernel
  refine ⟨rfl, by decide +kernel, reset_tileWords, reset_fieldWords, reset_blockWords, reset_linkWords, fun n => ?_, hkeepers, fun e => ?_,
    by decide +kernel, by decide +kernel, by decide +kernel, by decide +kernel, by decide +kernel, by decide +kernel, by decide +kernel⟩
  · have hwords (o : Nat) : stWord State.reset n o = stWord State.reset 0 o := rfl
    simp only [hwords]
    decide +kernel
  · have hwords (o : Nat) : mbxWord State.reset e o = mbxWord State.reset (.dev 0 false) o := rfl
    simp only [hwords]
    decide +kernel

end Sys2Proof.Machine

/-! SUPPORT. Links: ports, frames, what they carry, and parcels at the rim. -/

namespace Sys2Proof.Machine
open State

/-! ### A frame and its bytes (R520, R521) -/

theorem leNat_append (a b : List Byte) : leNat (a ++ b) = leNat a + 256 ^ a.length * leNat b := by
  induction a with
  | nil => simp [leNat]
  | cons x a ih =>
    rw [List.cons_append, leNat, leNat, ih, List.length_cons, pow_succ]
    ring

theorem leNat_lt (bs : List Byte) : leNat bs < 256 ^ bs.length := by
  induction bs with
  | nil => exact Nat.one_pos
  | cons b bs ih =>
    have hb := b.isLt
    rw [leNat, List.length_cons, pow_succ]
    omega

theorem pow_bytes (n : Nat) : 256 ^ n = 2 ^ (8 * n) := by
  rw [pow_mul]
  rfl

/-- A word wide enough holds the number of a byte string. -/
theorem toNat_ofNat_leNat {w : Nat} (bs : List Byte) (h : 8 * bs.length ≤ w) : (BitVec.ofNat w (leNat bs)).toNat = leNat bs := by
  rw [BitVec.toNat_ofNat]
  refine Nat.mod_eq_of_lt (Nat.lt_of_lt_of_le (leNat_lt bs) ?_)
  rw [pow_bytes]
  exact Nat.pow_le_pow_right (by decide) h

/-- The bytes of such a word are the string. -/
theorem bytesOf_ofNat_leNat {w : Nat} (bs : List Byte) (h : 8 * bs.length ≤ w) : bytesOf bs.length (BitVec.ofNat w (leNat bs)) = bs := by
  rw [bytesOf, toNat_ofNat_leNat bs h, leBytes_leNat]

/-- A field behind the first part of such a word is the second part. -/
theorem fieldAt_second {w v : Nat} (a b : List Byte) (h : 8 * (a ++ b).length ≤ w) :
    (fieldAt (BitVec.ofNat w (leNat (a ++ b))) (8 * a.length) v : BitVec v) = BitVec.ofNat v (leNat b) := by
  apply BitVec.eq_of_toNat_eq
  have hsmall := leNat_lt a
  rw [pow_bytes] at hsmall
  rw [fieldAt, BitVec.toNat_setWidth, BitVec.toNat_ushiftRight, toNat_ofNat_leNat _ h, Nat.shiftRight_eq_div_pow, leNat_append, pow_bytes,
    Nat.add_mul_div_left _ _ (Nat.two_pow_pos _), Nat.div_eq_of_lt hsmall, Nat.zero_add, BitVec.toNat_ofNat]

/-- A field at the start of such a word is its first part. -/
theorem fieldAt_first {w v : Nat} (a b : List Byte) (h : 8 * (a ++ b).length ≤ w) (hv : v = 8 * a.length) :
    (fieldAt (BitVec.ofNat w (leNat (a ++ b))) 0 v : BitVec v) = BitVec.ofNat v (leNat a) := by
  apply BitVec.eq_of_toNat_eq
  rw [fieldAt, BitVec.toNat_setWidth, BitVec.toNat_ushiftRight, toNat_ofNat_leNat _ h, Nat.shiftRight_zero, leNat_append, pow_bytes,
    ← hv, Nat.add_mul_mod_self_left, BitVec.toNat_ofNat]

theorem leNat_bytesOf {v n : Nat} (x : BitVec v) (h : v ≤ 8 * n) : leNat (bytesOf n x) = x.toNat := by
  refine leNat_leBytes n x.toNat (Nat.lt_of_lt_of_le x.isLt ?_)
  rw [pow_bytes]
  exact Nat.pow_le_pow_right (by decide) h

/-- The bytes of a frame after its sequence number and before its CRC. -/
def frameRest (slots : List (BitVec 4 × BitVec 704)) (words : List (BitVec 64)) : List Byte :=
  leBytes 14 ((List.range 27).map (fun i => (slots.getD i (0, 0)).1.toNat * 16 ^ i)).sum ++
    (List.range 27).flatMap (fun i => bytesOf 88 (slots.getD i (0, 0)).2) ++
    (List.range 21).flatMap (fun i => bytesOf 8 (words.getD i 0)) ++ [0, 0]

theorem frameRest_length (slots : List (BitVec 4 × BitVec 704)) (words : List (BitVec 64)) : (frameRest slots words).length = 2560 := by
  have hflat (n k : Nat) (f : Nat → List Byte) (hf : ∀ i, (f i).length = k) : ((List.range n).flatMap f).length = n * k := by
    simp [List.length_flatMap, hf]
  have hbytes {v : Nat} (k : Nat) (x : BitVec v) : (bytesOf k x).length = k := leBytes_length ..
  rw [frameRest, List.length_append, List.length_append, List.length_append, leBytes_length,
    hflat 27 88 _ (fun i => hbytes ..), hflat 21 8 _ (fun i => hbytes ..)]
  rfl

theorem makeFrame_eq (seq : BitVec 16) (slots : List (BitVec 4 × BitVec 704)) (words : List (BitVec 64)) :
    makeFrame seq slots words = BitVec.ofNat 20560 (leNat ((bytesOf 2 seq ++ frameRest slots words) ++
      bytesOf 8 (crc64 (bytesOf 2 seq ++ frameRest slots words)))) := by
  simp only [makeFrame, frameRest, List.append_assoc]

theorem frameBody_length (seq : BitVec 16) (slots : List (BitVec 4 × BitVec 704)) (words : List (BitVec 64)) :
    (bytesOf 2 seq ++ frameRest slots words).length = 2562 := by
  rw [List.length_append, frameRest_length, bytesOf, leBytes_length]

/-- A frame that is made has its sequence number and a good CRC. -/
theorem makeFrame_good (seq : BitVec 16) (slots : List (BitVec 4 × BitVec 704)) (words : List (BitVec 64)) :
    frameSeq (makeFrame seq slots words) = seq ∧ frameCrcOk (makeFrame seq slots words) = true := by
  rw [makeFrame_eq]
  have hlength := frameBody_length seq slots words
  have hcrc (c : BitVec 64) : (bytesOf 8 c).length = 8 := leBytes_length ..
  constructor
  · rw [frameSeq, List.append_assoc, fieldAt_first _ _ ?_ ?_, leNat_bytesOf _ (by decide), BitVec.ofNat_toNat, BitVec.setWidth_eq]
    · rw [← List.append_assoc, List.length_append, hlength, hcrc]
    · rw [bytesOf, leBytes_length]
  · generalize bytesOf 2 seq ++ frameRest slots words = body at hlength ⊢
    have hfits : 8 * (body ++ bytesOf 8 (crc64 body)).length ≤ 20560 := by rw [List.length_append, hlength, hcrc]
    have hbytes := bytesOf_ofNat_leNat (w := 20560) _ hfits
    rw [List.length_append, hlength, hcrc] at hbytes
    have hfield := fieldAt_second (v := 64) body (bytesOf 8 (crc64 body)) hfits
    rw [hlength, leNat_bytesOf _ (by decide), BitVec.ofNat_toNat, BitVec.setWidth_eq] at hfield
    rw [frameCrcOk, hfield, hbytes, ← hlength, List.take_left]
    exact beq_self_eq_true _

/-! ### Sending (R520, R521) -/

/-- What is picked under credit: no more than the frame holds, nothing lost, and each slot paid for. -/
theorem pickSlots_picks (n : Nat) (credit : Tbl Nat) (q : List (BitVec 4 × BitVec 704)) :
    (pickSlots n credit q).1.length ≤ n ∧ ((pickSlots n credit q).1 ++ (pickSlots n credit q).2.1).Perm q ∧
      ∀ k : BitVec 4, Tbl.get 0 credit k.toNat =
        Tbl.get 0 (pickSlots n credit q).2.2 k.toNat + ((pickSlots n credit q).1.filter (fun a => a.1 == k)).length := by
  induction q generalizing n credit with
  | nil => exact ⟨Nat.zero_le _, List.Perm.refl _, fun _ => rfl⟩
  | cons e q ih =>
    unfold pickSlots
    split
    · next hn => exact ⟨Nat.zero_le _, List.Perm.refl _, fun _ => rfl⟩
    · next hn =>
      split
      · obtain ⟨hlength, hperm, hpaid⟩ := ih n credit
        exact ⟨hlength, (List.perm_middle).trans (hperm.cons e), hpaid⟩
      · next hcredit =>
        obtain ⟨hlength, hperm, hpaid⟩ := ih (n - 1) (Tbl.upd 0 credit e.1.toNat (fun k => k - 1))
        refine ⟨?_, hperm.cons e, fun k => ?_⟩
        · rw [List.length_cons]
          omega
        · have hk := hpaid k
          dsimp only
          by_cases h : k = e.1
          · subst h
            have hspent : Tbl.get 0 (Tbl.upd 0 credit e.1.toNat (fun k => k - 1)) e.1.toNat = Tbl.get 0 credit e.1.toNat - 1 :=
              Tbl.get_set_same ..
            rw [hspent] at hk
            rw [List.filter_cons_of_pos (by simp), List.length_cons]
            omega
          · have hother : Tbl.get 0 (Tbl.upd 0 credit e.1.toNat (fun k => k - 1)) k.toNat = Tbl.get 0 credit k.toNat :=
              Tbl.get_set_other _ _ _ (fun heq => h (BitVec.eq_of_toNat_eq heq))
            rw [hother] at hk
            rw [List.filter_cons_of_neg (by simpa using fun heq => h heq.symm)]
            exact hk

/-- The first slot that is paid for goes first. -/
theorem pickSlots_first {n : Nat} {credit : Tbl Nat} {e : BitVec 4 × BitVec 704} {q : List (BitVec 4 × BitVec 704)} (hn : n ≠ 0)
    (h : 0 < Tbl.get 0 credit e.1.toNat) : ∃ slots, (pickSlots n credit (e :: q)).1 = e :: slots := by
  rw [pickSlots, if_neg hn, if_neg (by omega)]
  exact ⟨_, rfl⟩

theorem port_putPort (s : State) (p : Nat) (x : LinkPort) : (s.putPort p x).port p = x := Tbl.get_set_same ..

theorem live_of_up {x : LinkPort} (h : x.st = .up) : x.live = true := by simp [LinkPort.live, h]

/-- A replay sends the frame of its sequence number and goes on with the next. -/
theorem sendFrame_again {s : State} {p : Nat} {seq : BitVec 16} {f : DenorFrame} {post : List DenorFrame} (hlive : (s.port p).live = true)
    (hfrom : (s.port p).replayFrom = some seq) (hbuf : (s.port p).replayBuf.dropWhile (fun g => frameSeq g != seq) = f :: post) :
    (sendFrame s p).port p = { s.port p with line := some f, replayFrom := post.head?.map frameSeq } := by
  have hsent : sendFrame s p = sendAgain p seq s := by simp [sendFrame, hlive, hfrom]
  rw [hsent, sendAgain, State.port_updPort]
  simp only [hbuf]

theorem sendFrame_new {s : State} {p : Nat} (hlive : (s.port p).live = true) (hfrom : (s.port p).replayFrom = none) :
    sendFrame s p = sendNew p s := by simp [sendFrame, hlive, hfrom]

theorem sendNew_full {s : State} {p : Nat} (h : 64 ≤ (s.port p).replayBuf.length) : sendNew p s = s := by
  simp [sendNew, h]

/-- A port that is UP, has room and something paid for sends a new frame of it. -/
theorem sendNew_sends {s : State} {p : Nat} {e : BitVec 4 × BitVec 704} {slots : List (BitVec 4 × BitVec 704)} (hup : (s.port p).st = .up)
    (hroom : (s.port p).replayBuf.length < 64) (hpick : (pickSlots 27 (s.port p).credit (s.port p).txSlots).1 = e :: slots) :
    (sendNew p s).port p = { s.port p with
      txSeq := (s.port p).txSeq + 1
      replayBuf := (s.port p).replayBuf ++ [makeFrame (s.port p).txSeq (e :: slots) ((frameWords s (s.port p)).take 21)]
      line := some (makeFrame (s.port p).txSeq (e :: slots) ((frameWords s (s.port p)).take 21))
      txSlots := (pickSlots 27 (s.port p).credit (s.port p).txSlots).2.1, credit := (pickSlots 27 (s.port p).credit (s.port p).txSlots).2.2
      acks := (s.port p).acks.drop (if (s.port p).st = .training then 20 else 21) } := by
  have hsends : ¬((s.port p).replayBuf.length ≥ 64 ∨ (e :: slots = [] ∧ frameWords s (s.port p) = [])) := by
    rintro (hfull | ⟨hnone, _⟩)
    · omega
    · exact List.cons_ne_nil _ _ hnone
  unfold sendNew
  dsimp only
  rw [if_pos hup, hpick, if_neg hsends, port_putPort]

theorem sendFrame_other {s : State} {p q : Nat} (h : q ≠ p) : (sendFrame s p).port q = s.port q := by
  obtain ⟨x, hx | hx⟩ := sendFrame_port s p
  · rw [hx]
  · rw [hx]
    exact Tbl.get_set_other _ _ _ h

/-! ### Receiving (R521, R522) -/

theorem onLive_live {s : State} {p : Nat} (f : State → State) (h : (s.port p).live = true) : onLive p f s = f s := if_pos h

theorem onLive_dead {s : State} {p : Nat} (f : State → State) (h : (s.port p).live = false) : onLive p f s = s := by
  simp [onLive, h]

/-- What the control words of a frame leave: the number of the next frame, and the words that wait to leave. -/
def CountsOn (p : Nat) (s u : State) : Prop := (u.port p).rxSeq = (s.port p).rxSeq ∧ (u.port p).acks = (s.port p).acks

theorem CountsOn.trans {p : Nat} {s t u : State} (h : CountsOn p s t) (k : CountsOn p t u) : CountsOn p s u :=
  ⟨k.1.trans h.1, k.2.trans h.2⟩

theorem countsOn_updPort (p : Nat) (f : LinkPort → LinkPort) (hf : ∀ x, (f x).rxSeq = x.rxSeq ∧ (f x).acks = x.acks) (s : State) :
    CountsOn p s (s.updPort p f) := by
  rw [CountsOn, State.port_updPort]
  exact hf _

theorem countsOn_updDev (p : Nat) (f : Dev → Dev) (s : State) : CountsOn p s (s.updDev f) := ⟨rfl, rfl⟩

theorem countsOn_onLive (p : Nat) {f : State → State} {s : State} (h : CountsOn p s (f s)) : CountsOn p s (onLive p f s) := by
  unfold onLive
  split
  · exact h
  · exact ⟨rfl, rfl⟩

theorem countsOn_takeIdent (p : Nat) (member : BitVec 4) (host : Bool) (keyId : BitVec 48) (s : State) :
    CountsOn p s (takeIdent p member host keyId s) := by
  have hnamed (st : PortState) := countsOn_updPort p (fun x => { x with st := st, host := host, peer := member, keyId := keyId })
    (fun _ => ⟨rfl, rfl⟩) s
  have hwaiting (u : State) : CountsOn p u (sendWaiting p u) :=
    (countsOn_updPort p (fun x => { x with heldReceipts := [] }) (fun _ => ⟨rfl, rfl⟩) u).trans (countsOn_updDev p _ _)
  unfold takeIdent
  dsimp only
  split
  · exact hnamed .conflict
  · split
    · exact (hnamed .up).trans (hwaiting _)
    · refine CountsOn.trans ?_ (hwaiting _)
      exact (hnamed .up).trans (countsOn_updDev p _ _)

theorem countsOn_takeControl (p : Nat) (s : State) (w : BitVec 64) : CountsOn p s (takeControl p s w) := by
  unfold takeControl
  split
  · exact ⟨rfl, rfl⟩
  · exact countsOn_onLive p (countsOn_updPort p _ (by intro _; exact ⟨rfl, rfl⟩) s)
  · exact countsOn_onLive p (countsOn_updPort p _ (by intro x; split <;> exact ⟨rfl, rfl⟩) s)
  · refine countsOn_onLive p ?_
    unfold takeCredit
    split
    · exact ⟨rfl, rfl⟩
    · exact countsOn_updPort p _ (by intro _; exact ⟨rfl, rfl⟩) s
  · exact countsOn_onLive p (countsOn_takeIdent ..)
  · exact countsOn_updPort p _ (by intro _; exact ⟨rfl, rfl⟩) s

theorem countsOn_controls (p : Nat) (ws : List (BitVec 64)) (s : State) : CountsOn p s (ws.foldl (takeControl p) s) := by
  induction ws generalizing s with
  | nil => exact ⟨rfl, rfl⟩
  | cons w ws ih => exact (countsOn_takeControl p s w).trans (ih _)

/-- What the receipts of a frame leave: the number of the next frame, the NAK, and the words before those they add. -/
def AcksGrow (p : Nat) (s u : State) : Prop :=
  (u.port p).rxSeq = (s.port p).rxSeq ∧ (u.port p).nakSent = (s.port p).nakSent ∧ ∃ ws, (u.port p).acks = (s.port p).acks ++ ws

theorem AcksGrow.refl (p : Nat) (s : State) : AcksGrow p s s := ⟨rfl, rfl, [], (List.append_nil _).symm⟩

theorem AcksGrow.trans {p : Nat} {s t u : State} (h : AcksGrow p s t) (k : AcksGrow p t u) : AcksGrow p s u := by
  obtain ⟨hseq, hnak, ws, hacks⟩ := h
  obtain ⟨hseq', hnak', vs, hacks'⟩ := k
  exact ⟨hseq'.trans hseq, hnak'.trans hnak, ws ++ vs, by rw [hacks', hacks, List.append_assoc]⟩

theorem acksGrow_sendReceipt (p : Nat) (r : Receipt) (s : State) : AcksGrow p s (sendReceipt r s) := by
  unfold sendReceipt
  split
  · by_cases h : p = r.port.val
    · rw [AcksGrow, h, State.port_updPort]
      exact ⟨rfl, rfl, [], (List.append_nil _).symm⟩
    · rw [AcksGrow, State.port_updPort_other _ _ h]
      exact ⟨rfl, rfl, [], (List.append_nil _).symm⟩
  · exact AcksGrow.refl p s

theorem acksGrow_returnReceipt (p : Nat) (r : Receipt) (s : State) : AcksGrow p s (returnReceipt p r s) := by
  unfold returnReceipt
  split
  · exact AcksGrow.refl p s
  · split
    · exact (AcksGrow.refl p s).trans (acksGrow_sendReceipt p _ (s.updDev _))
    · exact acksGrow_sendReceipt p _ s

theorem acksGrow_takeReceipts (n p : Nat) (s : State) : AcksGrow p s (takeReceipts n p s) := by
  induction n generalizing s with
  | zero => exact AcksGrow.refl p s
  | succ n ih =>
    unfold takeReceipts
    dsimp only
    split
    · exact AcksGrow.refl p s
    · refine AcksGrow.trans (AcksGrow.trans ?_ (acksGrow_returnReceipt ..)) (ih _)
      rw [AcksGrow, port_putPort]
      exact ⟨rfl, rfl, _, rfl⟩

/-- A good frame in order is taken: the next one is due, and its ACK waits to leave. -/
theorem acceptFrame_takes (p : Nat) (f : DenorFrame) (s : State) : ((acceptFrame p f s).port p).rxSeq = (s.port p).rxSeq + 1 ∧
    ((acceptFrame p f s).port p).nakSent = none ∧
    ∃ ws, ((acceptFrame p f s).port p).acks = (s.port p).acks ++ controlWord 1 ((s.port p).rxSeq.setWidth 56) :: ws := by
  obtain ⟨hseq, hacks⟩ := countsOn_controls p ((List.range 21).map (frameControl f)) s
  unfold acceptFrame
  dsimp only
  generalize ((List.range 21).map (frameControl f)).foldl (takeControl p) s = s1 at hseq hacks ⊢
  obtain ⟨hseq', hnak', ws, hacks'⟩ := acksGrow_takeReceipts 27 p (s1.updPort p (fun x => { x with
    rxSeq := x.rxSeq + 1, nakSent := none, nakRun := 0
    acks := x.acks ++ [controlWord 1 (x.rxSeq.setWidth 56)] ++ (if x.st = .up then streamCredit f 4 ++ streamCredit f 5 else [])
    delivered := if x.st = .up then x.delivered ++ (frameSlots f).filter (fun e => decide (e.1.toNat ≤ 3)) else x.delivered }))
  rw [State.port_updPort] at hseq' hnak' hacks'
  refine ⟨hseq'.trans (congrArg (· + 1) hseq), hnak', ?_⟩
  rw [hacks']
  dsimp only
  rw [hacks, hseq, List.append_assoc, List.append_assoc]
  exact ⟨_, rfl⟩

/-- An ACK frees the frames up to the one it names. -/
theorem ackBuffer_frees {seq : BitVec 16} {pre post : List DenorFrame} {f : DenorFrame} (hf : frameSeq f = seq)
    (hpre : ∀ g ∈ pre, frameSeq g ≠ seq) : ackBuffer seq (pre ++ f :: post) = post := by
  have hany : (pre ++ f :: post).any (fun g => frameSeq g == seq) = true := by simp [hf]
  have hidx : (pre ++ f :: post).findIdx (fun g => frameSeq g == seq) = pre.length := by
    rw [List.findIdx_append, if_neg]
    · rw [List.findIdx_cons, hf]
      simp
    · rw [List.findIdx_lt_length]
      rintro ⟨g, hg, hseq⟩
      exact hpre g hg (beq_iff_eq.1 hseq)
  rw [ackBuffer, if_pos hany, hidx]
  simp

/-! ### Ports (R514 to R519, R527) -/

theorem stopPort_stops (st : PortState) (p : Nat) (s : State) :
    (stopPort st p s).port p = { s.port p with st := st, width := 0 } ∧ Tbl.get [] (stopPort st p s).dev.roles p = [] := by
  constructor
  · rw [stopPort, State.port, closeRoles_ports]
    exact State.port_updPort s p (fun x => { x with st := st, width := 0 })
  · rw [stopPort, closeRoles_dev, Tbl.get_set_same, List.filter_eq_nil_iff]
    simp

/-- A port with a width trains. -/
theorem trainPort_trains {good : Byte} (h : laneWidth good ≠ 0) (p : Nat) (s : State) : (trainPort p good s).port p =
    { s.port p with st := .training, width := laneWidth good, lanesGood := good, nakSent := none, nakRun := 0
                    replayFrom := (s.port p).replayBuf.head?.map frameSeq } := by
  rw [trainPort, if_neg h, State.port_updPort]

/-- A port without good lanes fails. -/
theorem trainPort_fails {good : Byte} (h : laneWidth good = 0) (p : Nat) (s : State) : ((trainPort p good s).port p).st = .failed := by
  rw [trainPort, if_pos h, (stopPort_stops ..).1]

theorem exec_portRetrain {port : Fin 48} {lanes : Byte} {s : State}
    (h : (s.port port.val).st = .up ∨ (s.port port.val).st = .training ∨ (s.port port.val).st = .conflict) :
    exec (.portRetrain port lanes) s = .next (retrainPort port.val lanes s) := by
  rcases h with hst | hst | hst <;> simp only [exec, execPortRetrain, hst]

/-- An IDENT that fits brings the port UP, and the receipts held for it leave. -/
theorem takeIdent_fits {p : Nat} {member : BitVec 4} {host : Bool} {keyId : BitVec 48} {s : State}
    (h : s.identBad p member host keyId = false) : (takeIdent p member host keyId s).port p =
      { s.port p with st := .up, host := host, peer := member, keyId := keyId, heldReceipts := [] } ∧
    (takeIdent p member host keyId s).dev.receipts = s.dev.receipts ++ (s.port p).heldReceipts := by
  have hnamed : (s.updPort p (fun x => { x with st := .up, host := host, peer := member, keyId := keyId })).port p = _ :=
    State.port_updPort s p _
  have hsent (u : State) : (sendWaiting p u).port p = { u.port p with heldReceipts := [] } ∧
      (sendWaiting p u).dev.receipts = u.dev.receipts ++ (u.port p).heldReceipts :=
    ⟨State.port_updPort u p (fun x => { x with heldReceipts := [] }), rfl⟩
  have hjoined (u : State) (f : Dev → Dev) : (u.updDev f).port p = u.port p := rfl
  simp only [takeIdent, h, Bool.false_eq_true, if_false]
  split
  · rw [(hsent _).1, (hsent _).2, hnamed]
    exact ⟨rfl, rfl⟩
  · rw [(hsent _).1, (hsent _).2, hjoined, hnamed]
    exact ⟨rfl, rfl⟩

theorem takeIdent_clashes {p : Nat} {member : BitVec 4} {host : Bool} {keyId : BitVec 48} {s : State}
    (h : s.identBad p member host keyId = true) : ((takeIdent p member host keyId s).port p).st = .conflict := by
  simp only [takeIdent, h, if_true, State.port_updPort]

/-- The records of receipts that are discarded leave ports and receipts. -/
theorem discardRecords_kept (p : Nat) (ids : List Word) (s : State) :
    (ids.foldl (fun s i => journalAdd kindFault (BitVec.ofNat 32 p) (bytesOf 4 i) s) s).ports = s.ports ∧
      (ids.foldl (fun s i => journalAdd kindFault (BitVec.ofNat 32 p) (bytesOf 4 i) s) s).dev = s.dev :=
  ⟨foldl_kept State.ports (fun _ _ => journalAdd_ports ..) ids s, foldl_kept State.dev (fun _ _ => journalAdd_dev ..) ids s⟩

section
variable {port : Fin 48} {lanes watts pol : Byte} {rev host : Bool} {member : BitVec 4} {keyId : BitVec 48} {s : State}

theorem cableInsert_trains (hdown : (s.port port.val).st = .down) (hlive : (s.chiplet (portChiplet port.val)).retired = false)
    (hwatts : watts.toNat ≤ 16) (hlanes : laneWidth lanes ≠ 0) :
    ∃ u, exec (.cableInsert port watts lanes rev pol) s = .next u ∧ (u.port port.val).st = .training ∧
      (u.port port.val).width = laneWidth lanes ∧ (u.port port.val).powered = true ∧ (u.port port.val).reversed = rev ∧
      (u.port port.val).polarity = pol := by
  have hexec : exec (.cableInsert port watts lanes rev pol) s = .next (trainPort port.val lanes (s.putPort port.val { s.port port.val with
      powered := true, reversed := rev, polarity := pol, rxSeq := 0, txSeq := 0, replayBuf := [], credit := [], acks := [] })) := by
    have hfree : ¬((s.port port.val).st ≠ .down ∨ (s.chiplet (portChiplet port.val)).retired) := by simp [hdown, hlive]
    have hfits : ¬watts.toNat > 16 := by omega
    simp only [exec, execCableInsert, if_neg hfree, if_neg hfits]
  refine ⟨_, hexec, ?_⟩
  rw [trainPort_trains hlanes, port_putPort]
  exact ⟨rfl, rfl, rfl, rfl, rfl⟩

theorem cableInsert_unpowered (hdown : (s.port port.val).st = .down) (hlive : (s.chiplet (portChiplet port.val)).retired = false)
    (hwatts : 16 < watts.toNat) : ∃ u, exec (.cableInsert port watts lanes rev pol) s = .next u ∧ (u.port port.val).powered = false ∧
      (u.port port.val).st = .down := by
  have hexec : exec (.cableInsert port watts lanes rev pol) s = .next (s.putPort port.val { s.port port.val with powered := false }) := by
    have hfree : ¬((s.port port.val).st ≠ .down ∨ (s.chiplet (portChiplet port.val)).retired) := by simp [hdown, hlive]
    simp only [exec, execCableInsert, if_neg hfree, if_pos (show watts.toNat > 16 from hwatts)]
  refine ⟨_, hexec, ?_⟩
  rw [port_putPort]
  exact ⟨rfl, hdown⟩

theorem ident_ups (hlive : (s.port port.val).live = true) (hfits : s.identBad port.val member host keyId = false) :
    ∃ u, exec (.ident port member host keyId) s = .next u ∧ (u.port port.val).st = .up ∧ (u.port port.val).host = host ∧
      (u.port port.val).peer = member ∧ (u.port port.val).keyId = keyId ∧ (u.port port.val).heldReceipts = [] ∧
      u.dev.receipts = s.dev.receipts ++ (s.port port.val).heldReceipts := by
  obtain ⟨hport, hreceipts⟩ := takeIdent_fits hfits
  refine ⟨takeIdent port.val member host keyId s, congrArg Host.Outcome.next (onLive_live _ hlive), ?_⟩
  rw [hport]
  exact ⟨rfl, rfl, rfl, rfl, rfl, hreceipts⟩

theorem portRetrain_trains (h : (s.port port.val).st = .up ∨ (s.port port.val).st = .training ∨ (s.port port.val).st = .conflict)
    (hlanes : laneWidth lanes ≠ 0) : ∃ u, exec (.portRetrain port lanes) s = .next u ∧ (u.port port.val).st = .training ∧
      (u.port port.val).width = laneWidth lanes ∧ (u.port port.val).retrains = satAdd (s.port port.val).retrains 1 := by
  refine ⟨_, exec_portRetrain h, ?_⟩
  rw [retrainPort, trainPort_trains hlanes, State.port_updPort]
  exact ⟨rfl, rfl, rfl⟩

theorem receiptHoldExpiry_discards (h : (s.port port.val).st ≠ .up) : ∃ u, exec (.receiptHoldExpiry port) s = .next u ∧
    (u.port port.val).heldReceipts = [] ∧ u.dev.receipts = s.dev.receipts := by
  obtain ⟨hports, hdev⟩ := discardRecords_kept port.val (heldIds (s.port port.val))
    (s.putPort port.val { s.port port.val with heldReceipts := [] })
  refine ⟨_, if_neg h, ?_, ?_⟩
  · rw [State.port, hports]
    exact congrArg LinkPort.heldReceipts (port_putPort ..)
  · rw [hdev]
    rfl

/-- Each row of a port. -/
theorem ports_goThroughTheirStates :
    ((s.port port.val).st = .training → ∃ u, exec (.portFail port) s = .next u ∧ (u.port port.val).st = .failed ∧
      (u.port port.val).width = 0) ∧
    (∃ u, exec (.portDown port) s = .next u ∧ (u.port port.val).st = .down ∧ Tbl.get [] u.dev.roles port.val = []) ∧
    (∃ u, exec (.cableRemove port) s = .next u ∧ (u.port port.val).st = .down ∧ (u.port port.val).lanesGood = 0) := by
  obtain ⟨hfailed, _⟩ := stopPort_stops .failed port.val s
  obtain ⟨hdown, hroles⟩ := stopPort_stops .down port.val s
  refine ⟨fun h => ⟨stopPort .failed port.val s, if_pos h, by rw [hfailed], by rw [hfailed]⟩,
    ⟨_, rfl, by rw [hdown], hroles⟩, ⟨_, rfl, ?_⟩⟩
  rw [State.port_updPort, hdown]
  exact ⟨rfl, rfl⟩

end

section
variable {port : Fin 48} {frame : DenorFrame} {fec : Bool} {seq slots : BitVec 16} {kind : BitVec 4} {s : State}

/-- A frame that is good and in order. -/
theorem exec_linkFrameRx_good (hlive : (s.port port.val).live = true) (hfec : fec = false) (hcrc : frameCrcOk frame = true)
    (hkinds : frameKindsOk frame = true) (hseq : frameSeq frame = (s.port port.val).rxSeq) :
    exec (.linkFrameRx port frame fec) s = .next (acceptFrame port.val frame s) := by
  simp only [exec, execLinkFrameRx, hlive, hfec, hcrc, hkinds, hseq, Bool.not_true, Bool.or_self, Bool.false_eq_true, if_false, if_true]

/-- A frame that is not good. -/
theorem exec_linkFrameRx_bad (hlive : (s.port port.val).live = true)
    (hbad : fec = true ∨ frameCrcOk frame = false ∨ frameKindsOk frame = false) :
    exec (.linkFrameRx port frame fec) s = .next (sendNak port.val s) := by
  have hfails : (fec || !frameCrcOk frame || !frameKindsOk frame) = true := by
    rcases hbad with h | h | h <;> simp [h]
  simp only [exec, execLinkFrameRx, hlive, hfails, Bool.not_true, Bool.false_eq_true, if_false, if_true]

theorem exec_linkFrameRx_dead (hdead : (s.port port.val).live = false) : exec (.linkFrameRx port frame fec) s = .next s := by
  simp [exec, execLinkFrameRx, hdead]

theorem ack_frees {pre post : List DenorFrame} {f : DenorFrame} (hlive : (s.port port.val).live = true)
    (hbuf : (s.port port.val).replayBuf = pre ++ f :: post) (hf : frameSeq f = seq) (hpre : ∀ g ∈ pre, frameSeq g ≠ seq) :
    ∃ u, exec (.ack port seq) s = .next u ∧ (u.port port.val).replayBuf = post := by
  refine ⟨takeAck port.val seq s, congrArg Host.Outcome.next (onLive_live _ hlive), ?_⟩
  rw [takeAck, State.port_updPort]
  exact (congrArg (ackBuffer seq) hbuf).trans (ackBuffer_frees hf hpre)

theorem nak_replays (hlive : (s.port port.val).live = true) (hseq : seq ∈ (s.port port.val).replayBuf.map frameSeq) :
    ∃ u, exec (.nak port seq) s = .next u ∧ (u.port port.val).replayFrom = some seq ∧
      (u.port port.val).replayBuf = (s.port port.val).replayBuf := by
  refine ⟨takeNak port.val seq s, congrArg Host.Outcome.next (onLive_live _ hlive), ?_⟩
  have hany : (s.port port.val).replayBuf.any (fun f => frameSeq f == seq) = true := by
    obtain ⟨f, hf, hfseq⟩ := List.mem_map.1 hseq
    exact List.any_eq_true.2 ⟨f, hf, beq_iff_eq.2 hfseq⟩
  rw [takeNak, State.port_updPort, if_pos hany]
  exact ⟨rfl, rfl⟩

theorem credit_adds (hlive : (s.port port.val).live = true) (hkind : kind.toNat ≤ 5) : ∃ u, exec (.credit port kind slots) s = .next u ∧
    Tbl.get 0 (u.port port.val).credit kind.toNat = Tbl.get 0 (s.port port.val).credit kind.toNat + slots.toNat := by
  refine ⟨takeCredit port.val kind slots s, congrArg Host.Outcome.next (onLive_live _ hlive), ?_⟩
  rw [takeCredit, if_neg (by omega), State.port_updPort]
  exact Tbl.get_set_same ..

theorem credit_ofNoKind (hkind : 5 < kind.toNat) : exec (.credit port kind slots) s = .next s := by
  have hnone : takeCredit port.val kind slots s = s := if_pos hkind
  simp only [exec, execCredit, onLive, hnone, ite_self]

end

/-! ### Parcels at the rim (R528 to R530) -/

theorem updChiplet_chiplet (s : State) (c : Nat) (f : Chiplet → Chiplet) : (s.updChiplet c f).chiplet c = f (s.chiplet c) :=
  State.chiplet_updChiplet ..

theorem stayRim_stays (c : Nat) (f : Flit) (s : State) : f ∈ ((stayRim c f s).chiplet c).rimIn ∧
    ((stayRim c f s).chiplet c).notes = (s.chiplet c).notes := by
  rw [stayRim, updChiplet_chiplet]
  refine ⟨?_, rfl⟩
  dsimp only
  split
  · next h => exact List.contains_iff_mem.1 h
  · exact List.mem_append_right _ (List.mem_singleton_self f)

theorem sendFaultNote_chiplets (cause : BitVec 4) (wave : Byte) (t : TileId) (s : State) :
    (sendFaultNote cause wave t s).chiplets = s.chiplets := rfl

theorem holdAtEdge_chiplet (t : TileId) (f : Flit) (s : State) (c : Nat) : (holdAtEdge t f s).chiplet c = s.chiplet c := by
  unfold holdAtEdge takeNetFault
  split
  · rfl
  · unfold takeFaultFor
    dsimp only
    rw [State.chiplet, sendFaultNote_chiplets]
    rfl

section
variable {c : Fin 12} {k : Fin 16} {env : Env} {l : Line} {q : Fin 48} {n : TileId × BitVec 4 × Byte × TileId} {s : State}

theorem linkNote_opens (hkind : envKind env = 0) (hnew : (s.chiplet c.val).notes.find? (fun n => n.1 == envSource env) = none)
    (hok : noteOk l = true) (hpeer : s.peerPorts c.val (notePeer l) ≠ []) (hroom : (s.chiplet c.val).notes.length < 1024) :
    ∃ u, exec (.linkNote c k env l) s = .next u ∧
      (u.chiplet c.val).notes = (s.chiplet c.val).notes ++ [(envSource env, notePeer l, noteQueue l, noteDest l)] := by
  have hgood : ¬((!noteOk l || s.peerPorts c.val (notePeer l) == []) = true) := by simpa [hok] using hpeer
  have hexec : exec (.linkNote c k env l) s = .next ((leaveRim c.val ⟨env, l⟩ s).updChiplet c.val (fun x => { x with
      notes := x.notes ++ [(envSource env, notePeer l, noteQueue l, noteDest l)] })) := by
    simp only [exec, execLinkNote, hkind, ne_eq, not_true_eq_false, if_false, hnew, if_neg hgood]
    exact if_neg (by omega)
  refine ⟨_, hexec, ?_⟩
  rw [updChiplet_chiplet, leaveRim, updChiplet_chiplet]

theorem linkNote_sends (hkind : envKind env = 0) (hopen : (s.chiplet c.val).notes.find? (fun n => n.1 == envSource env) = some n)
    (hport : s.sendPort c.val k.val n.2.1 = some q) : ∃ u, exec (.linkNote c k env l) s = .next u ∧
      (u.chiplet c.val).outbound = (s.chiplet c.val).outbound ++ [(q, ⟨setQueue (setDest env n.2.2.2) n.2.2.1, l⟩)] ∧
      (envLast env = false → (u.chiplet c.val).notes = (s.chiplet c.val).notes) := by
  have hexec : exec (.linkNote c k env l) s = .next (sendUnder c.val k.val n ⟨env, l⟩ s) := by
    simp only [exec, execLinkNote, hkind, ne_eq, not_true_eq_false, if_false, hopen]
  refine ⟨_, hexec, ?_⟩
  simp only [sendUnder, hport]
  rw [updChiplet_chiplet, leaveRim, updChiplet_chiplet]
  exact ⟨rfl, fun hlast => if_neg (by rw [hlast]; exact Bool.false_ne_true)⟩

theorem linkNote_stays (h : envKind env ≠ 0 ∨ ((s.chiplet c.val).notes.find? (fun n => n.1 == envSource env) = none ∧ noteOk l = false)) :
    ∃ u, exec (.linkNote c k env l) s = .next u ∧ (⟨env, l⟩ : Flit) ∈ (u.chiplet c.val).rimIn ∧
      (u.chiplet c.val).notes = (s.chiplet c.val).notes := by
  have hexec : exec (.linkNote c k env l) s = .next (holdAtEdge ((chipletTiles c.val).getD k.val 0) ⟨env, l⟩ (stayRim c.val ⟨env, l⟩ s)) := by
    rcases h with hkind | ⟨hnew, hbad⟩
    · exact if_pos hkind
    · by_cases hkind : envKind env ≠ 0
      · exact if_pos hkind
      · simp only [exec, execLinkNote, if_neg hkind, hnew, hbad, Bool.not_false, Bool.true_or, if_true]
  refine ⟨_, hexec, ?_⟩
  rw [holdAtEdge_chiplet]
  exact stayRim_stays ..

theorem linkParcelDelivery_enters {port : Fin 48} {e d : Nat} (hedge : primaryPort (deliveryTile port.val env) = some (e, d))
    (hrouter : s.routerOn (deliveryTile port.val env) = true) (hruns : (s.field (tileField (deliveryTile port.val env))).genRunning = true)
    (hroom : ((s.tile (deliveryTile port.val env)).buf (edgePort e) (envVc env)).length < 8) :
    ∃ u, exec (.linkParcelDelivery port env l) s = .next u ∧ (u.tile (deliveryTile port.val env)).buf (edgePort e) (envVc env) =
      (s.tile (deliveryTile port.val env)).buf (edgePort e) (envVc env) ++ [⟨env, l⟩] := by
  have henter : enterRim (deliveryTile port.val env) (edgePort e) ⟨env, l⟩ s =
      some (s.putTile (deliveryTile port.val env) ((s.tile (deliveryTile port.val env)).setBuf (edgePort e) (envVc env)
        ((s.tile (deliveryTile port.val env)).buf (edgePort e) (envVc env) ++ [⟨env, l⟩]))) := by
    refine if_neg ?_
    have hfree : ¬((s.tile (deliveryTile port.val env)).buf (edgePort e) (envVc env)).length ≥ 8 := by omega
    simp only [hrouter, hruns, Bool.not_true, Bool.or_self, Bool.false_or, decide_eq_true_eq]
    exact hfree
  have hexec : exec (.linkParcelDelivery port env l) s = .next (freeSlot port.val (1, flitSlot env l)
      (s.putTile (deliveryTile port.val env) ((s.tile (deliveryTile port.val env)).setBuf (edgePort e) (envVc env)
        ((s.tile (deliveryTile port.val env)).buf (edgePort e) (envVc env) ++ [⟨env, l⟩])))) := by
    simp only [exec, execLinkParcelDelivery, hedge, henter]
  have hslot (u : State) (t : TileId) : (freeSlot port.val (1, flitSlot env l) u).tile t = u.tile t := rfl
  refine ⟨_, hexec, ?_⟩
  rw [hslot, State.tile_putTile, Tile.buf_setBuf]

end

/-- Settles O58: ports, frames, sending, and parcels under notes. -/
theorem linksCarryFramesAndParcels : Obligations.LinksCarryFramesAndParcels := by
  refine ⟨fun port lanes watts pol rev host member keyId s => ?ports, fun port frame fec seq slots kind s => ?frames,
    fun p seq f post e q s => ?sends, makeFrame_good, fun c k env l port q n e d s => ⟨linkNote_opens, linkNote_sends, linkNote_stays,
      linkParcelDelivery_enters⟩⟩
  case ports =>
    obtain ⟨hfail, hdown, hremove⟩ := ports_goThroughTheirStates (port := port) (s := s)
    exact ⟨cableInsert_trains, cableInsert_unpowered, ident_ups,
      fun hlive hclash => ⟨_, congrArg Host.Outcome.next (onLive_live _ hlive), takeIdent_clashes hclash⟩, portRetrain_trains,
      fun hst hlanes => ⟨_, exec_portRetrain hst, trainPort_fails hlanes ..⟩, hfail, hdown, hremove, receiptHoldExpiry_discards⟩
  case frames =>
    refine ⟨fun hlive hfec hcrc hkinds hseq => ⟨_, exec_linkFrameRx_good hlive hfec hcrc hkinds hseq, acceptFrame_takes ..⟩,
      fun hlive hbad => ⟨_, exec_linkFrameRx_bad hlive hbad, ?_⟩,
      fun hdead => ⟨exec_linkFrameRx_dead hdead, congrArg Host.Outcome.next (onLive_dead _ hdead)⟩,
      fun pre f post => ack_frees, nak_replays, credit_adds, credit_ofNoKind⟩
    rw [sendNak, State.port_updPort]
    exact ⟨rfl, rfl, rfl, rfl⟩
  case sends =>
    refine ⟨sendFrame_again, fun hlive hfrom hfull => (sendFrame_new hlive hfrom).trans (sendNew_full hfull), sendFrame_dead,
      fun hup hfrom hroom hslots hcredit => ?_, fun p' hp => sendFrame_other hp⟩
    obtain ⟨slots, hpick⟩ := pickSlots_first (n := 27) (q := q) (by decide) hcredit
    rw [← hslots] at hpick
    obtain ⟨hlength, hperm, hpaid⟩ := pickSlots_picks 27 (s.port p).credit (s.port p).txSlots
    have hport := sendNew_sends hup hroom hpick
    rw [← sendFrame_new (live_of_up hup) hfrom] at hport
    rw [hpick] at hlength hperm hpaid
    refine ⟨slots, (frameWords s (s.port p)).take 21, ?_⟩
    rw [hport]
    exact ⟨rfl, rfl, rfl, by simpa using hlength, hperm, hpaid⟩

end Sys2Proof.Machine

/-! SUPPORT. A recompute of an open folio in a table of sessions that is not canonical. -/

namespace Sys2Proof.Machine
open State

/-! ### The drain and the load a device is in, which the queues of its sessions leave as they are -/

/-- Whether the device drains, and the letter whose load it waits for. -/
def holdMark (s : State) : Bool × Option LetterKey := (s.dev.draining, s.dev.loadFor)

theorem holdMark_of_dev {s u : State} (h : u.dev = s.dev) : holdMark u = holdMark s := by rw [holdMark, h]; rfl

@[simp] theorem holdMark_updSession (s : State) (n : Nat) (f : Session → Session) : holdMark (s.updSession n f) = holdMark s := rfl

@[simp] theorem holdMark_putSession (s : State) (n : Nat) (x : Session) : holdMark (s.putSession n x) = holdMark s := rfl

@[simp] theorem holdMark_updTile (s : State) (t : TileId) (f : Tile → Tile) : holdMark (s.updTile t f) = holdMark s := rfl

@[simp] theorem holdMark_progress (k : LetterKey) (s : State) : holdMark (progress k s) = holdMark s := rfl

@[simp] theorem holdMark_clearAdapt (n : Nat) (s : State) : holdMark (clearAdapt n s) = holdMark s := rfl

@[simp] theorem holdMark_startResume (n : Nat) (s : State) : holdMark (startResume n s) = holdMark s := rfl

@[simp] theorem holdMark_finishLetter (k : LetterKey) (st : BitVec 16) (rs : List Byte) (ls : List Line) (s : State) :
    holdMark (finishLetter k st rs ls s) = holdMark s := by
  rw [holdMark, finishLetter_dev]
  rfl

@[simp] theorem holdMark_abandonAdapt (n : Nat) (s : State) : holdMark (abandonAdapt n s) = holdMark s := by
  unfold abandonAdapt
  split <;> simp

@[simp] theorem holdMark_startPark (n : Nat) (s : State) : holdMark (startPark n s) = holdMark s := holdMark_abandonAdapt n s

@[simp] theorem holdMark_autoPark (n : Nat) (t : BitVec 12) (s : State) : holdMark (autoPark n t s) = holdMark s := by
  unfold autoPark
  split
  · rfl
  · exact holdMark_startPark ..

@[simp] theorem holdMark_endSessionLetter (k : LetterKey) (code : Byte) (status : BitVec 16) (s : State) :
    holdMark (endSessionLetter k code status s) = holdMark s := by
  unfold endSessionLetter
  split
  · rfl
  · split <;> exact holdMark_finishLetter ..

@[simp] theorem holdMark_closeNow (n : Nat) (s : State) : holdMark (closeNow n s) = holdMark s := by
  have hbegun : holdMark (abandonAdapt n (match (s.session n).closeKey with | some k => progress k s | none => s)) = holdMark s := by
    rw [holdMark_abandonAdapt]
    split <;> rfl
  unfold closeNow
  dsimp only
  rw [holdMark_updSession]
  split
  · exact hbegun
  · rw [foldl_kept holdMark (fun s k => holdMark_finishLetter ..), holdMark_endSessionLetter]
    exact hbegun

/-! ### Trails, frames and shares leave it -/

@[simp] theorem holdMark_sealTag (tenant : BitVec 12) (s : State) : holdMark (sealTag tenant s).2 = holdMark s := by
  have hjournal (kind : BitVec 16) (key : Word) (body : List Byte) (u : State) : holdMark (journalAdd kind key body u) = holdMark u :=
    holdMark_of_dev (journalAdd_dev ..)
  have hcounted (f : Dev → Tbl TenantKey) : holdMark (s.updDev (fun d => { d with tenantKeys := f d })) = holdMark s := rfl
  unfold sealTag
  dsimp only
  split
  · rfl
  · dsimp only
    split
    · rw [hjournal, hcounted]
    · rfl

@[simp] theorem holdMark_supersede (n : Nat) (f : FolioRef) (s : State) : holdMark (supersede n f s) = holdMark s := by
  unfold supersede
  split <;> rfl

@[simp] theorem holdMark_writeRecord (n : Nat) (tenant : BitVec 12) (body : List Line) (upto : Nat) (f : FolioRef) (s : State) :
    holdMark (writeRecord n tenant body upto f s).2 = holdMark s := by
  unfold writeRecord
  split
  · rfl
  · dsimp only
    split <;> simp

@[simp] theorem holdMark_writeTrail (tenant : BitVec 12) (body : List Line) (r : TrailRec) (s : State) :
    holdMark (writeTrail tenant body r s).2 = holdMark s := by
  unfold writeTrail
  split <;> simp

@[simp] theorem holdMark_flushTrail (n : Nat) (last : Int) (s : State) : holdMark (flushTrail n last s) = holdMark s := by
  have hfolios (f : List FolioRef × State → FolioRef → List FolioRef × State) (hf : ∀ a r, holdMark (f a r).2 = holdMark a.2)
      (fs : List FolioRef) (a : List FolioRef × State) : holdMark (fs.foldl f a).2 = holdMark a.2 :=
    foldl_kept (fun a : List FolioRef × State => holdMark a.2) hf fs a
  simp [flushTrail, hfolios]

@[simp] theorem holdMark_sendRecord (n : Nat) (tenant : BitVec 12) (kind : Byte) (body : List Line) (s : State) :
    holdMark (sendRecord n tenant kind body s).2 = holdMark s := by
  unfold sendRecord
  split <;> simp

@[simp] theorem holdMark_transferLines (s : State) (n : Nat) : holdMark (transferLines s n).2 = holdMark s := by simp [transferLines]

@[simp] theorem holdMark_releaseFolio (n : Nat) (f : FolioRef) (s : State) : holdMark (releaseFolio n f s) = holdMark s := by
  unfold releaseFolio
  split
  · rfl
  · split <;> rfl

@[simp] theorem holdMark_placeBody (t : TileId) (p head : Nat) (tenant : BitVec 12) (entry : BitVec 16) (ls : List Line) (s : State) :
    holdMark (placeBody t p head tenant entry ls s) = holdMark s := rfl

@[simp] theorem holdMark_keepFolio (n : Nat) (g : Stage) (old f : FolioRef) (k : Frame) (s : State) :
    holdMark (keepFolio n g old f k s) = holdMark s := by simp [keepFolio]

theorem holdMark_putFolio {n : Nat} {g : Stage} {f : FolioRef} {k : Frame} {s u : State} (h : putFolio n g f k s = some u) :
    holdMark u = holdMark s := by
  unfold putFolio at h
  dsimp only at h
  split at h
  · cases h
    exact holdMark_keepFolio ..
  · split at h
    · cases h
      exact holdMark_keepFolio ..
    · obtain ⟨c, -, rfl⟩ := Option.map_eq_some_iff.1 h
      rw [holdMark_keepFolio, holdMark_placeBody, holdMark_releaseFolio]

theorem holdMark_putFolios {n : Nat} {g : Stage} {fs : List FolioRef} {ks : List Frame} {s u : State}
    (h : putFolios n g fs ks s = some u) : holdMark u = holdMark s := by
  fun_induction putFolios n g fs ks s with
  | case1 fs s =>
    cases h
    exact foldl_kept holdMark (fun s f => by simp) fs s
  | case2 => cases h
  | case3 _ _ _ _ _ hput ih => exact (ih h).trans (holdMark_putFolio hput)
  | case4 => cases h
  | case5 _ _ _ _ _ _ hput ih => exact (ih h).trans (holdMark_putFolio hput)

theorem holdMark_restoreLayer {n first last : Nat} {g : Stage} {s : State} {r : List Nat × State}
    (h : restoreLayer n first last g s = some r) : holdMark r.2 = holdMark s := by
  have hbump (f : FolioRef) (by_ : Word) (s : State) : holdMark (bumpFrame g f by_ s) = holdMark s := by
    unfold bumpFrame
    split <;> rfl
  have hlooked (s : State) : holdMark (s.updDev (fun d => { d with trailLooks := d.trailLooks + 1 })) = holdMark s := rfl
  unfold restoreLayer at h
  dsimp only at h
  split at h
  · cases h
    rfl
  · obtain ⟨u, hu, rfl⟩ := Option.map_eq_some_iff.1 h
    rw [holdMark_putFolios hu, holdMark_updSession, hlooked, foldl_kept holdMark (fun s (e : FolioRef × Frame) => hbump e.1 _ s)]

theorem holdMark_restoreAll {n first last : Nat} {gs : List Stage} {c : List Nat} {s : State} {r : List Nat × State}
    (h : restoreAll n first last gs c s = some r) : holdMark r.2 = holdMark s := by
  fun_induction restoreAll n first last gs c s with
  | case1 => cases h; rfl
  | case2 => cases h
  | case3 _ _ _ _ _ hlayer ih => exact (ih h).trans (holdMark_restoreLayer hlayer)

theorem holdMark_takePages {entry : Word} {ts : List TileId} {n : Nat} {s : State} {r : List (TileId × Nat) × State}
    (h : takePages entry ts n s = some r) : holdMark r.2 = holdMark s := by
  have hfirst {ts : List TileId} {s : State} {r : TileId × Nat × State} (h : firstPage entry s ts = some r) :
      holdMark r.2.2 = holdMark s := by
    fun_induction firstPage entry s ts with
    | case1 => cases h
    | case2 => cases h; rfl
    | case3 _ _ _ ih => exact ih h
  induction n generalizing s r with
  | zero => cases h; rfl
  | succ n ih =>
    unfold takePages at h
    split at h
    · cases h
    · next hpage =>
      obtain ⟨q, hq, rfl⟩ := Option.map_eq_some_iff.1 h
      exact (ih hq).trans (hfirst hpage)

theorem holdMark_residentAdapter {n : Nat} {s u : State} (h : residentAdapter n s = some u) : holdMark u = holdMark s := by
  have hfill (ls : List Line) (ps : List (TileId × Nat)) (s : State) : holdMark (fillPages ls ps s) = holdMark s :=
    foldl_kept (f := fun (s : State) (e : (TileId × Nat) × List Line) => s.updTile e.1.1 (fun x => x.writeLines memSlab (32 * e.1.2) e.2))
      holdMark (fun s e => holdMark_updTile s e.1.1 _) _ s
  unfold residentAdapter at h
  dsimp only at h
  split at h
  · cases h; rfl
  · split at h
    · cases h; rfl
    · obtain ⟨r, hr, rfl⟩ := Option.map_eq_some_iff.1 h
      rw [holdMark_updSession, holdMark_writeTrail, hfill, holdMark_takePages hr]

/-! ### FORK, TRIM, MIGRATE_OUT and the queues leave it -/

theorem holdMark_copyOpen {parent child : Nat} {tenant : BitVec 12} {f : FolioRef} {s : State} {r : FolioRef × State}
    (h : copyOpen parent child tenant f s = some r) : holdMark r.2 = holdMark s := by
  unfold copyOpen at h
  split at h
  · cases h
  · split at h <;> cases h
    rfl

theorem holdMark_forkFolios {parent child : Nat} {tenant : BitVec 12} {fs : List FolioRef} {s : State} {r : List FolioRef × State}
    (h : forkFolios parent child tenant fs s = some r) : holdMark r.2 = holdMark s := by
  induction fs generalizing s r with
  | nil => cases h; rfl
  | cons f fs ih =>
    unfold forkFolios at h
    split at h
    · split at h
      · cases h
      · next hrest =>
        cases h
        have hr := ih hrest
        exact hr
    · split at h
      · cases h
      · next hopen =>
        split at h
        · cases h
        · next hrest =>
          cases h
          have hr := ih hrest
          exact hr.trans (holdMark_copyOpen hopen)

theorem holdMark_holdScores {n : Nat} {tenant : BitVec 12} {t : TileId} {page : Nat} {ws : List Line} {s u : State}
    (h : holdScores n tenant t page ws s = some u) : holdMark u = holdMark s := by
  obtain ⟨x, -, rfl⟩ := Option.map_eq_some_iff.1 h
  rfl

theorem holdMark_forkScores {parent child : Nat} {tenant : BitVec 12} {fs : List FolioRef} {s u : State}
    (h : forkScores parent child tenant fs s = some u) : holdMark u = holdMark s := by
  have hown {t : TileId} {f : FolioRef} {ws : List Line} {s v : State}
      (hv : (if f.shared then some s else holdScores parent tenant t f.page ws s) = some v) : holdMark v = holdMark s := by
    split at hv
    · exact congrArg holdMark (Option.some.inj hv).symm
    · exact holdMark_holdScores hv
  fun_induction forkScores parent child tenant fs s with
  | case1 => cases h; rfl
  | case2 => cases h
  | case3 _ _ _ _ _ _ _ _ _ hchild ih =>
    obtain ⟨v, hv, hheld⟩ := Option.bind_eq_some_iff.1 hchild
    exact (ih h).trans ((holdMark_holdScores hheld).trans (hown hv))
  | case4 _ _ _ _ ih => exact ih h

theorem holdMark_forkNow {n : Nat} {child : BitVec 16} {seed : BitVec 64} {s u : State} (h : forkNow n child seed s = some u) :
    holdMark u = holdMark s := by
  have hshare (tenant : BitVec 12) (family : BitVec 16) (s : State) (f : FolioRef) :
      holdMark (if f.sealed then shareFolio tenant family f s else s) = holdMark s := by
    unfold shareFolio
    (repeat' split) <;> rfl
  have hfamilies (f : Dev → Tbl (List (BitVec 16))) (s : State) : holdMark (s.updDev (fun d => { d with families := f d })) = holdMark s := rfl
  unfold forkNow at h
  dsimp only at h
  split at h
  · cases h
  · split at h
    · cases h
    · next hfolios =>
      split at h
      · cases h
      · next hscores =>
        rw [holdMark_residentAdapter h, hfamilies, holdMark_putSession, holdMark_updSession, foldl_kept holdMark (hshare _ _),
          holdMark_forkScores hscores, holdMark_forkFolios hfolios]

theorem holdMark_forkLetter {n : Nat} {r : LetterRec} {s u : State} (h : forkLetter n r s = some u) : holdMark u = holdMark s := by
  unfold forkLetter at h
  dsimp only at h
  split at h
  · cases h
    exact holdMark_finishLetter ..
  · split at h
    · cases h
      exact holdMark_finishLetter ..
    · obtain ⟨v, hv, rfl⟩ := Option.map_eq_some_iff.1 h
      rw [holdMark_finishLetter, holdMark_forkNow hv]

theorem holdMark_trimNow {n : Nat} {r : LetterRec} {s u : State} (h : trimNow n r s = some u) : holdMark u = holdMark s := by
  unfold trimNow at h
  dsimp only at h
  split at h
  · cases h
    exact holdMark_finishLetter ..
  · split at h
    · cases h
      exact holdMark_finishLetter ..
    · obtain ⟨q, hq, rfl⟩ := Option.map_eq_some_iff.1 h
      rw [holdMark_finishLetter]
      exact holdMark_restoreAll hq

@[simp] theorem holdMark_sendSession (n : Nat) (peer : BitVec 4) (s : State) : holdMark (sendSession n peer s) = holdMark s := by
  have hsent (q : List (BitVec 4 × BitVec 704)) (u : State) : holdMark (sendToward peer q u) = holdMark u :=
    holdMark_of_dev (sendToward_dev ..)
  have hqueued (u : State) : holdMark (u.updDev (fun d => { d with
      migrateOut := d.migrateOut ++ [(BitVec.ofNat 16 n, peer)]
      ownLetters := d.ownLetters ++ [(peer, opMigrateIn, BitVec.ofNat 16 n)] })) = holdMark u := rfl
  rw [sendSession, hqueued, hsent, holdMark_transferLines, holdMark_flushTrail, holdMark_updSession, holdMark_abandonAdapt]

@[simp] theorem holdMark_startMigrate (n : Nat) (k : LetterKey) (peer : BitVec 4) (s : State) :
    holdMark (startMigrate n k peer s) = holdMark s := by
  fun_cases startMigrate n k peer s <;> simp

theorem holdMark_runHead (n : Nat) (r : LetterRec) (s : State) : holdMark (runHead n r s).1 = holdMark s := by
  unfold runHead
  dsimp only
  (repeat' split) <;> simp
  · next hdone => exact (holdMark_trimNow hdone).trans (holdMark_progress ..)
  · next hdone => exact (holdMark_forkLetter hdone).trans (holdMark_progress ..)

theorem holdMark_runQueue (n fuel : Nat) (s : State) : holdMark (runQueue n fuel s) = holdMark s := by
  induction fuel generalizing s with
  | zero => rfl
  | succ fuel ih =>
    unfold runQueue
    dsimp only
    (repeat' split) <;> simp [ih, holdMark_runHead]

theorem holdMark_settle (n : Nat) (s : State) : holdMark (settle n s) = holdMark s := by
  unfold settle
  dsimp only
  split
  · exact holdMark_closeNow ..
  · split
    · rfl
    · rw [holdMark_runQueue]
      split <;> rfl

theorem holdMark_settleAll (s : State) : holdMark (settleAll s) = holdMark s := by
  refine foldl_kept holdMark (fun s e => ?_) _ _
  split
  · rfl
  · exact holdMark_settle ..

theorem holdMark_drainSession (n : Nat) (s : State) : holdMark (drainSession n s) = holdMark s := by
  fun_cases drainSession n s <;> simp

theorem holdMark_advanceDrain (s : State) : holdMark (advanceDrain s) = holdMark s := by
  have hdrain (es : List (Nat × Session)) (u : State) : holdMark (es.foldl (fun s e => drainSession e.1 s) u) = holdMark u :=
    foldl_kept (f := fun s (e : Nat × Session) => drainSession e.1 s) holdMark (fun s e => holdMark_drainSession e.1 s) es u
  have hstate (v : Byte) (u : State) : holdMark (setDeviceState v u) = holdMark u := by
    rw [holdMark, setDeviceState_dev]
    rfl
  have hleft (x : Nat) (u : State) : holdMark (u.updDev (fun d => { d with drainLeft := x })) = holdMark u := rfl
  unfold advanceDrain
  split
  · dsimp only
    split
    · rw [holdMark_finishLetter, hstate, hleft, hdrain]
    · exact hdrain _ _
  · rfl

/-! ### What can follow where the load still waits and the device does not drain -/

/-- Some session parks or closes. -/
def Restless (s : State) : Prop := ∃ e ∈ s.dev.sessions, e.2.state = .parking ∨ e.2.state = .closing

/-- The state is as before, or a session parks or closes in it. -/
def RestsOrEnds (s u : State) : Prop := u = s ∨ Restless u

theorem RestsOrEnds.refl (s : State) : RestsOrEnds s s := .inl rfl

theorem RestsOrEnds.trans {s t u : State} (h : RestsOrEnds s t) (h' : RestsOrEnds t u) : RestsOrEnds s u := by
  rcases h' with rfl | hends
  · exact h
  · exact .inr hends

theorem RestsOrEnds.foldl {α : Type} {f : State → α → State} (hf : ∀ s a, RestsOrEnds s (f s a)) (l : List α) (s : State) :
    RestsOrEnds s (l.foldl f s) := by
  induction l generalizing s with
  | nil => exact .refl s
  | cons a l ih => exact (hf s a).trans (ih _)

theorem Tbl.mem_insert_self {α : Type} (t : Tbl α) (i : Nat) (v : α) : (i, v) ∈ Tbl.insert t i v := by
  fun_induction Tbl.insert t i v <;> simp_all

theorem mem_updSession {s : State} {n : Nat} {f : Session → Session} (h : (f (s.session n)).state ≠ .free) :
    (n, f (s.session n)) ∈ (s.updSession n f).dev.sessions := by
  have hne : f (s.session n) ≠ {} := fun he => h (by rw [he])
  show (n, f (s.session n)) ∈ Tbl.set {} s.dev.sessions n (f (s.session n))
  rw [Tbl.set, if_neg hne]
  exact Tbl.mem_insert_self ..

theorem startPark_restless (n : Nat) (s : State) : Restless (startPark n s) :=
  ⟨_, mem_updSession (f := fun x => { x with state := .parking }) SessState.noConfusion, .inl rfl⟩

theorem closeNow_restless (n : Nat) (s : State) : Restless (closeNow n s) :=
  ⟨_, mem_updSession (f := fun x => { x with state := .closing, queue := [] }) SessState.noConfusion, .inr rfl⟩

theorem settle_waits {s : State} (h : s.dev.loadFor.isSome = true) (n : Nat) : RestsOrEnds s (settle n s) := by
  unfold settle
  dsimp only
  split
  · exact .inr (closeNow_restless n s)
  · exact .inl (if_pos (by rw [h, Bool.true_or]))

/-- A free session has nothing to settle. -/
theorem settle_free {s : State} {n : Nat} (h : (s.session n).state = .free) : settle n s = s := by
  have hsettled : (s.session n).settled = false := by
    unfold Session.settled
    rw [h]
    rfl
  unfold settle
  dsimp only
  rw [if_neg (by simp [hsettled, h])]
  split
  · rfl
  · rw [if_neg (by simp [h]), runQueue]
    simp [hsettled]

theorem settleAll_waits {s : State} (h : s.dev.loadFor.isSome = true) : RestsOrEnds s (settleAll s) := by
  have hfold (es : List (Nat × Session)) (u : State) (hu : u.dev.loadFor.isSome = true) :
      RestsOrEnds u (es.foldl (fun s e => if e.2.queue = [] ∧ e.2.closeKey = none then s else settle e.1 s) u) := by
    induction es generalizing u with
    | nil => exact .refl u
    | cons e es ih =>
      rw [List.foldl_cons]
      split
      · exact ih u hu
      · have hmark := congrArg (fun m => m.2.isSome) (holdMark_settle e.1 u)
        exact (settle_waits hu e.1).trans (ih _ (hmark.trans hu))
  exact hfold _ s h

theorem advanceLoad_waits {s : State} (h : (advanceLoad s).dev.loadFor.isSome = true) : RestsOrEnds s (advanceLoad s) := by
  have hpark (es : List (Nat × Session)) : RestsOrEnds s (es.foldl (fun s e => startPark e.1 s) s) :=
    .foldl (fun s e => .inr (startPark_restless e.1 s)) es s
  have hreleased (u : State) (hu : u.dev.loadFor = none) : (releaseHold u).dev.loadFor = none := by
    unfold releaseHold
    split
    · exact hu
    · dsimp only
      split
      · rw [State.updDev_dev, journalAdd_dev]
        exact hu
      · exact hu
  unfold advanceLoad at h ⊢
  split
  · exact .refl s
  · next k hload =>
    rw [hload] at h
    dsimp only at h
    split
    · next hgone =>
      rw [hgone] at h
      cases h
    · next r hletter =>
      rw [hletter] at h
      dsimp only at h ⊢
      split
      · exact hpark _
      · next hstill =>
        rw [if_neg hstill] at h
        split
        · exact hpark _
        · next g himage =>
          rw [himage] at h
          dsimp only at h
          split
          · exact hpark _
          · next w hmaster =>
            rw [hmaster] at h
            dsimp only at h
            have hover (u : State) (hu : u.dev.loadFor = none) : (finishLetter k stDone [] [] u).dev.loadFor = none :=
              (congrArg Prod.snd (holdMark_finishLetter ..)).trans hu
            have hcleared (u : State) : (u.updDev (fun d => { d with loadFor := none, reloads := [] })).dev.loadFor = none := rfl
            have hnone := hover _ (hreleased _ (hcleared (installImage g w
              ((s.dev.sessions.filter (loadParks s)).foldl (fun s e => startPark e.1 s) s))))
            exact absurd h (by rw [hnone]; exact Bool.false_ne_true)

theorem advanceStop_rests (s : State) : RestsOrEnds s (advanceStop s) := by
  unfold advanceStop
  split
  · exact .foldl (fun s (e : Nat × Session) => .inr (startPark_restless e.1 s)) _ s
  · exact .refl s

/-- With a load still waiting and no drain after it, what a transition lets go on is nothing, or a session parks or closes. -/
theorem proceed_waits {s : State} (hload : (proceed s).dev.loadFor.isSome = true) (hdrain : (proceed s).dev.draining = false) :
    RestsOrEnds s (proceed s) := by
  have hsettled : settleAll (advanceLoad (advanceStop s)) = proceed s :=
    (advanceDrain_idle ((congrArg Prod.fst (holdMark_advanceDrain _)).symm.trans hdrain)).symm
  have hwaits : (advanceLoad (advanceStop s)).dev.loadFor.isSome = true := by
    rw [← hsettled] at hload
    exact (congrArg (fun m => m.2.isSome) (holdMark_settleAll _)).symm.trans hload
  have hrests := (advanceStop_rests s).trans ((advanceLoad_waits hwaits).trans (settleAll_waits hwaits))
  rwa [hsettled] at hrests

/-! ### The counterexample -/

/-- A RESUME of session 1 from port 47. -/
def seatLetter : LetterRec :=
  { key := ⟨47, 1⟩, opcode := opResume, session := 1, tenant := 0, deadline := 0, role := 0, stream := false }

/-- A load whose image the device does not hold. -/
def imageLetter : LetterRec :=
  { key := ⟨47, 2⟩, opcode := opLoadPlacement, session := 0, tenant := 0, deadline := 0, role := 0, stream := false }

/-- A device that serves and waits for a load. Its table of sessions lists session 1 twice: first REBUILDING from the state after
reset, with a RESUME in its queue, then SUSPENDED. Reading takes the first entry; once that is free again the end of the RESUME
drops it, for it is the default. -/
def doublyHeld : State :=
  { dev := { deviceState := 2, placement := some {}, loadFor := some ⟨47, 2⟩, letters := [seatLetter, imageLetter]
             sessions := [(1, { state := .rebuilding, queue := [⟨47, 1⟩] }), (1, { state := .suspended })] } }

/-- After the recompute session 1 reads SUSPENDED, and the load still waits. -/
theorem recompute_suspends : ∃ u, exec (.openFolioRecompute 1) doublyHeld = .next u ∧ (u.session 1).state = .suspended ∧
    u.dev.loadFor.isSome = true ∧ u.dev.draining = false ∧ ∀ e ∈ u.dev.sessions, e.2.state = .suspended := by
  refine ⟨_, rfl, ?_⟩
  decide +kernel

/-- Refutes O32: a recompute leaves its session in the prior state, before what it lets go on, only in a canonical table. Where
the table lists the session twice, the end of its RESUME drops the free first entry and the SUSPENDED second one shows; no state
with the session free leads there. -/
theorem not_wavesAreIssuedAndCommitted : ¬ Obligations.WavesAreIssuedAndCommitted := by
  intro h
  obtain ⟨_, _, _, _, hrecompute⟩ := h
  obtain ⟨v, hexec, hfree, _⟩ := hrecompute 1 doublyHeld doublyHeld rfl (by decide +kernel) rfl rfl rfl
  obtain ⟨u, hexec', hsuspended, hload, hdrain, hcalm⟩ := recompute_suspends
  have hprior : (v.session 1).state = .free := hfree
  have hsame : proceed (settle 1 v) = u := Host.Outcome.next.inj (hexec.symm.trans hexec')
  rw [settle_free hprior] at hsame
  subst hsame
  rcases proceed_waits hload hdrain with hstays | ⟨e, hmem, hends⟩
  · rw [hstays, hprior] at hsuspended
    exact SessState.noConfusion hsuspended
  · rw [hcalm e hmem] at hends
    exact hends.elim SessState.noConfusion SessState.noConfusion

end Sys2Proof.Machine
